-- ==== Sys2Proof/Word.lean ====
section
/-! DEFINITION. The words the manual calls words, and nothing else (R6, R39). -/

namespace Sys2Proof

/-- A byte of memory. -/
abbrev Byte := BitVec 8

/-- A 32-bit word: an instruction word (R39) or one vector register of one lane (R9). -/
abbrev Word := BitVec 32

/-- A 64-bit word: a uniform register (R10), a pair, a pointer (R94) or a program counter (R47). -/
abbrev Dword := BitVec 64

/-- A 128-bit value: the widest access of one thread (R151). -/
abbrev Qword := BitVec 128

end Sys2Proof
end

