-- ==== Sys2Proof/Syntax.lean ====
section
/-! DEFINITION. The instructions, prefixes and events of the opcode table, as syntax. -/

namespace Sys2Proof

/-- Why an address is translated (R98, R101). -/
inductive AccKind where
  | read | write | fetch | probe
  deriving DecidableEq, Repr

/-- A cache line: its address space and its line number, VA[56:6] (R97). -/
structure LineKey where
  asid : BitVec 16
  line : BitVec 51
  deriving DecidableEq, Repr

/-- What a target module answers a remote access with, beside its data (R150, R155, R261). -/
inductive RemoteErr where
  | none | protection | tagMismatch | fatal | unitAbsent | notResident | alignment
  deriving DecidableEq, Repr

/-- How a request ended at its target: the error, and the target's number of the event (R150, R344). -/
structure RemoteEnd where
  err : RemoteErr
  number : Nat
  deriving DecidableEq, Repr

/-- A request to the prefix directory of a module, or to the holder of a block (R305, R307 to R309). The manual
gives the messages no layout (log 18). -/
inductive PrefixMsg where
  | query (hash : Dword)
  | publish (hash : Dword) (holder pool page : Nat)
  | unpublish (hash : Dword) (holder : Nat)
  /-- the rows of a held block: the rows' images at its layer, head and part, under a lease that a command of a module
  holds -/
  | fetch (hash : Dword) (layer head part : Nat) (module command : Nat)
  /-- the lease of a command ends -/
  | release (hash : Dword) (module command : Nat)
  /-- the partial attention of query rows over a held block -/
  | attend (hash : Dword) (layer head : Nat) (scale : Word) (rows : List (List Word))
  deriving DecidableEq, Repr

/-- The operation of an access that another module makes here (R95, R222). -/
inductive RemoteOp where
  | read (bytes : Nat)
  /-- a code line (R45, R98) -/
  | fetch
  | write (bytes : Nat) (data : Qword)
  | atomic (wide : Bool) (member : Nat) (b : Dword)
  | cas (bytes : Nat) (old new : Qword)
  | patom (routine : Nat) (b : Dword)
  | probe (bytes : Nat)
  /-- PGREQ of a page (R159) -/
  | page
  /-- TAGSET and TAGGET (R162) -/
  | tagset (granules : Nat)
  | tagget
  | prefixDir (m : PrefixMsg)
  /-- a decrement that RSIG sends: its target and operand (R352) -/
  | signal (target operand : Dword)
  deriving DecidableEq, Repr

/-- A request that arrives from another module (R95, R261). -/
structure RemoteMsg where
  src : Nat
  asid : BitVec 16
  va : BitVec 47
  tag : BitVec 4
  op : RemoteOp
  /-- another module has redirected it (R260) -/
  redirected : Bool
  /-- its event sequence number, by which the target knows a duplicate (R343) -/
  seq : Nat := 0
  deriving DecidableEq, Repr

/-- A fabric packet as the router sees it (R341, R342). -/
structure Packet where
  src : Nat
  /-- the core whose packet it is: those of one core are kept in their order (R343) -/
  core : Nat := 0
  dst : Nat
  hops : Nat
  vc : Nat
  /-- NH and the links of the hops, which the requester's router writes -/
  path : BitVec 17
  payload : List Byte
  deriving DecidableEq, Repr

/-- What one rank of a group brings to a collective (R348, R350). -/
structure CollBlock where
  rank : Nat
  op : Nat
  ty : Nat
  count : Nat
  data : List Byte
  /-- the rank ended its collective without its data: the other ranks have lost it (R350) -/
  lost : Bool := false
  deriving DecidableEq, Repr

/-- A remote signal that arrives here (R352). -/
structure RsigMsg where
  kind : Nat
  asid : BitVec 16
  target : Dword
  operand : Dword
  /-- the module that sends it, and its event sequence number (R343) -/
  src : Nat := 0
  seq : Nat := 0
  deriving DecidableEq, Repr

/-- Where an uncorrectable error is found (R371). -/
inductive PoisonPlace where
  | line (pa : BitVec 52)
  /-- a register of a thread, or of a group -/
  | vreg (core place lane n : Nat)
  | sreg (core place n : Nat)
  /-- a line of a core's scratchpad, by an offset in it -/
  | spad (core off : Nat)
  /-- a row of a slot or of a tile of a core, as the core numbers them -/
  | slotRow (core slot row : Nat)
  | tileRow (core tile row : Nat)
  /-- what an engine operation in flight reads -/
  | engine (id : Nat)
  deriving DecidableEq, Repr

/-- An entry of the model table as firmware loads it (R360). -/
structure ModelRow where
  valid : Bool
  vocab : Dword
  template : Nat
  pool : Nat
  inBase : Dword
  inSlots : Nat
  inCap : Nat
  asid : BitVec 16
  deriving DecidableEq, Repr

/-- A message that reaches a port: one that is sent to be received, or an access to remote memory, which the port's
profile does not support (R355). -/
inductive UeMsg where
  | send (bytes : List (BitVec 8))
  | read | write | atomic
  deriving DecidableEq, Repr

/-- What a write of the host or of firmware reaches: a register of the module control block (R317, R379), or a table
that firmware loads and for which the manual gives no register (log 17). -/
inductive RegTarget where
  /-- a register or table of BAR 0, written by the host -/
  | bar0 (offset : Nat) (val : Dword)
  /-- POOL_END, which firmware writes (R379) -/
  | poolEnd (val : Dword)
  /-- firmware has taken the message of MBX_IN (R379) -/
  | mailboxTaken
  /-- a KV pool descriptor (R284) -/
  | pool (i : Nat) (bytes : List Byte)
  /-- the root table of an address space (R99) -/
  | asidRoot (asid : BitVec 16) (root : Option Nat)
  /-- a HAC routine (R223) -/
  | hac (f : Nat) (code : Option (List Word))
  /-- the frame of a replicated page on the die that is not its home (R253) -/
  | replica (asid : BitVec 16) (page : BitVec 41) (frame : Nat)
  /-- an entry of the model table (R360) -/
  | model (i : Nat) (row : ModelRow)
  /-- an entry of the prefix map (R307) -/
  | prefixMap (i target : Nat)
  /-- the module's logical number (R340) -/
  | dev (n : Nat)
  /-- a Jetos image for the next check of the boot ROM (R369) -/
  | flash (bytes : List Byte) (version : Nat) (signed : Bool)
  /-- Jetos raises the fused counter on a request of the host, whose signature verifies or does not (R369) -/
  | rollback (n : Nat) (signed : Bool)
  deriving DecidableEq, Repr


/-- One constructor per row of the opcode table. `c` is the chain bit (R39); the other arguments of an
instruction are the fields of its word, in the order of their places, high to low (R58). The events that the
table lists have no encoding: their arguments say at which agent they happen and carry the data that the
outside world supplies (log 18). -/
inductive Instr where
  -- events
  | reset
  | codeLineFetch (core : Nat) (asid : BitVec 16) (line : BitVec 64)
  | issueStarvationPriority (core part : Nat)
  | activeSetExchange (core part : Nat)
  | forcedExchange (core part : Nat)
  | yieldExpiry (core place lane : Nat)
  | diesetChange (task : Nat) (add : Bool)
  | loadDataArrival (core id : Nat)
  | storeQueueDrain (core place : Nat)
  | l2MissTranslation (die : Nat) (asid : BitVec 16) (va : BitVec 57) (acc : AccKind)
  | windowWrite (pa : BitVec 52) (size : Nat) (val : BitVec 128)
  | carveoutApply (core setting : Nat)
  | gets (line : LineKey) (core : Nat)
  | getx (line : LineKey) (core : Nat)
  | upg (line : LineKey) (core : Nat)
  | putm (line : LineKey) (core : Nat)
  | puto (line : LineKey) (core : Nat)
  | pute (line : LineKey) (core : Nat)
  | fwdGets (line : LineKey) (core : Nat)
  | fwdGetx (line : LineKey) (core : Nat)
  | inv (line : LineKey) (core : Nat)
  | data (line : LineKey) (core : Nat)
  | dataEx (line : LineKey) (core : Nat)
  | upgAck (line : LineKey) (core : Nat)
  | invAck (line : LineKey) (core : Nat)
  | putAck (line : LineKey) (core : Nat)
  | putAckStale (line : LineKey) (core : Nat)
  | unblock (line : LineKey) (core : Nat)
  | homeAgentAccess (pa : BitVec 52) (write : Bool)
  | replicaCollapse (asid : BitVec 16) (page : BitVec 41) (writerDie : Nat)
  | faultWindowClose (die : Nat)
  | remoteRequest (r : RemoteMsg)
  | keepWaitingNotice (id : Nat)
  | keepWaitingReceipt (id : Nat)
  | remoteReply (id : Nat) (data : List (BitVec 8)) (redirected : Bool) (ending : RemoteEnd)
  | remoteTimeout (id : Nat)
  | numericWindowRestart (core cls : Nat)
  | numericThresholdTrap (core place lane : Nat)
  | numEvtClear (core : Nat) (val : BitVec 64)
  | mmaStart (core : Nat)
  | mmaComplete (core : Nat)
  | copyComplete (core id : Nat)
  | badgerCommandArrival (id : Nat)
  | ttComplete (id : Nat)
  | pageFree (pool page : Nat)
  | smplComplete (core id : Nat)
  | hacRoutine (core place : Nat)
  | pollReread (core place lane : Nat)
  | regionCommit (core place lane : Nat)
  | abortTargetResume (core place lane : Nat)
  | regionIrrevocable (core place lane : Nat)
  | regionWatchdog (core place lane : Nat)
  | dflushComplete (task : Nat)
  | segmentStart (task wave : Nat)
  | segmentWatchdog (task wave : Nat)
  | pgreqComplete (id : Nat)
  | taskDecrement (task : Nat) (amount : BitVec 32) (err : Bool)
  | counterWindowWrite (task nbytes : Nat) (val : BitVec 64)
  | agingTick (task : Nat)
  | launchHeaderCheck (task : Nat)
  | workgroupDispatch (task core base : Nat)
  | preemptDecision (task core : Nat)
  | preemptReq (core place lane : Nat)
  | forcedSave (task wg : Nat)
  | contextRestore (task core : Nat)
  | launchWatchdog (task : Nat)
  | launchEnd (task : Nat)
  | taskCompletion (task : Nat)
  | packetForward (p : Packet)
  /-- a link fails: the last of a path of links from this module (R343) -/
  | linkFailure (links : List Nat)
  | moduleFailure (failed spare : Nat)
  | collComplete (group : Nat) (ranks : List CollBlock)
  | rsigArrival (r : RsigMsg)
  | hostMemoryWrite (pa : BitVec 52) (data : List (BitVec 8))
  | hostMemoryRead (pa : BitVec 52) (n : Nat)
  | mailboxInDoorbell (msg : List (BitVec 8))
  | mailboxOutPost (msg : List (BitVec 8))
  | mailboxOutAck (val : BitVec 64)
  | numiStatClear (val : BitVec 64)
  | debugRequest (core : Nat)
  | breakpointRelease (core place lane : Nat)
  | ueMessageReceive (port : Nat) (conn : BitVec 32) (msg : UeMsg)
  | ueRingEnable (port : Nat) (val : BitVec 64)
  | ueConnectionSetup (port : Nat) (conn : BitVec 32) (reliableOrdered : Bool)
  | tkeRecord (port : Nat)
  | tkeLogWrite (port : Nat) (val : BitVec 64)
  | dkePost (port : Nat)
  | dkeChunkTimeout (port slot : Nat)
  | eccCorrection (unit : BitVec 32) (loc synd : BitVec 64)
  | journalAppend
  | uncorrectableError (place : PoisonPlace)
  | powerFail
  | clockThrottle (mhz : Nat)
  | attestationRequest (nonce : List (BitVec 8))
  | haltQuiesceComplete (core : Nat)
  | haltQuiesceTimeout (core : Nat)
  | asidDestroy (asid : BitVec 16)
  | registerWrite (r : RegTarget)
  -- prefix words (R54)
  | ximm (i : BitVec 21)
  | guard (n : BitVec 1) (p : BitVec 3)
  | cpol (e : BitVec 1) (q : BitVec 2) (o : BitVec 2) (s : BitVec 3)
  | probe (p : BitVec 3)
  | round (r : BitVec 3)
  | sat
  -- CTL (R121)
  | nop (c : Bool)
  | exit (c : Bool)
  | trap (c : Bool) (k : BitVec 14)
  | yield (c : Bool)
  | step (c : Bool)
  | brk (c : Bool)
  | tret (c : Bool)
  | ydone (c : Bool)
  | snap (c : Bool) (k : BitVec 14)
  -- BR (R125)
  | bra (c : Bool) (d : BitVec 18)
  | brt (c : Bool) (p : BitVec 3) (d : BitVec 18)
  | brf (c : Bool) (p : BitVec 3) (d : BitVec 18)
  | call (c : Bool) (d : BitVec 18)
  | brany (c : Bool) (p : BitVec 3) (d : BitVec 18)
  | brall (c : Bool) (p : BitVec 3) (d : BitVec 18)
  -- BRX (R126)
  | bri (c : Bool) (a : BitVec 7)
  | calli (c : Bool) (d : BitVec 7) (a : BitVec 7)
  | ret (c : Bool) (a : BitVec 7)
  -- CONV (R127)
  | join (c : Bool) (m : BitVec 4)
  | leave (c : Bool) (m : BitVec 4)
  | waitm (c : Bool) (m : BitVec 4)
  | mrd (c : Bool) (s : BitVec 5) (m : BitVec 4)
  | mwr (c : Bool) (s : BitVec 5) (m : BitVec 4)
  | mact (c : Bool) (s : BitVec 5)
  | bar (c : Bool)
  | barl (c : Bool) (l : BitVec 3)
  -- IALU.vv (R129)
  | addVv (c : Bool) (d : BitVec 7) (a : BitVec 7) (b : BitVec 7)
  | subVv (c : Bool) (d : BitVec 7) (a : BitVec 7) (b : BitVec 7)
  | mulVv (c : Bool) (d : BitVec 7) (a : BitVec 7) (b : BitVec 7)
  | mulhiVv (c : Bool) (d : BitVec 7) (a : BitVec 7) (b : BitVec 7)
  | mulhiNVv (c : Bool) (d : BitVec 7) (a : BitVec 7) (b : BitVec 7)
  | minVv (c : Bool) (d : BitVec 7) (a : BitVec 7) (b : BitVec 7)
  | maxVv (c : Bool) (d : BitVec 7) (a : BitVec 7) (b : BitVec 7)
  | minNVv (c : Bool) (d : BitVec 7) (a : BitVec 7) (b : BitVec 7)
  | maxNVv (c : Bool) (d : BitVec 7) (a : BitVec 7) (b : BitVec 7)
  | andVv (c : Bool) (d : BitVec 7) (a : BitVec 7) (b : BitVec 7)
  | orVv (c : Bool) (d : BitVec 7) (a : BitVec 7) (b : BitVec 7)
  | xorVv (c : Bool) (d : BitVec 7) (a : BitVec 7) (b : BitVec 7)
  | shlVv (c : Bool) (d : BitVec 7) (a : BitVec 7) (b : BitVec 7)
  | shrVv (c : Bool) (d : BitVec 7) (a : BitVec 7) (b : BitVec 7)
  | sarVv (c : Bool) (d : BitVec 7) (a : BitVec 7) (b : BitVec 7)
  | rolVv (c : Bool) (d : BitVec 7) (a : BitVec 7) (b : BitVec 7)
  -- IALU.vs (R129)
  | addVs (c : Bool) (d : BitVec 7) (a : BitVec 7) (b : BitVec 5)
  | subVs (c : Bool) (d : BitVec 7) (a : BitVec 7) (b : BitVec 5)
  | mulVs (c : Bool) (d : BitVec 7) (a : BitVec 7) (b : BitVec 5)
  | mulhiVs (c : Bool) (d : BitVec 7) (a : BitVec 7) (b : BitVec 5)
  | mulhiNVs (c : Bool) (d : BitVec 7) (a : BitVec 7) (b : BitVec 5)
  | minVs (c : Bool) (d : BitVec 7) (a : BitVec 7) (b : BitVec 5)
  | maxVs (c : Bool) (d : BitVec 7) (a : BitVec 7) (b : BitVec 5)
  | minNVs (c : Bool) (d : BitVec 7) (a : BitVec 7) (b : BitVec 5)
  | maxNVs (c : Bool) (d : BitVec 7) (a : BitVec 7) (b : BitVec 5)
  | andVs (c : Bool) (d : BitVec 7) (a : BitVec 7) (b : BitVec 5)
  | orVs (c : Bool) (d : BitVec 7) (a : BitVec 7) (b : BitVec 5)
  | xorVs (c : Bool) (d : BitVec 7) (a : BitVec 7) (b : BitVec 5)
  | shlVs (c : Bool) (d : BitVec 7) (a : BitVec 7) (b : BitVec 5)
  | shrVs (c : Bool) (d : BitVec 7) (a : BitVec 7) (b : BitVec 5)
  | sarVs (c : Bool) (d : BitVec 7) (a : BitVec 7) (b : BitVec 5)
  | rolVs (c : Bool) (d : BitVec 7) (a : BitVec 7) (b : BitVec 5)
  -- IALU.vi (R129)
  | addVi (c : Bool) (d : BitVec 7) (a : BitVec 7) (i : BitVec 7)
  | subVi (c : Bool) (d : BitVec 7) (a : BitVec 7) (i : BitVec 7)
  | mulVi (c : Bool) (d : BitVec 7) (a : BitVec 7) (i : BitVec 7)
  | mulhiVi (c : Bool) (d : BitVec 7) (a : BitVec 7) (i : BitVec 7)
  | mulhiNVi (c : Bool) (d : BitVec 7) (a : BitVec 7) (i : BitVec 7)
  | minVi (c : Bool) (d : BitVec 7) (a : BitVec 7) (i : BitVec 7)
  | maxVi (c : Bool) (d : BitVec 7) (a : BitVec 7) (i : BitVec 7)
  | minNVi (c : Bool) (d : BitVec 7) (a : BitVec 7) (i : BitVec 7)
  | maxNVi (c : Bool) (d : BitVec 7) (a : BitVec 7) (i : BitVec 7)
  | andVi (c : Bool) (d : BitVec 7) (a : BitVec 7) (i : BitVec 7)
  | orVi (c : Bool) (d : BitVec 7) (a : BitVec 7) (i : BitVec 7)
  | xorVi (c : Bool) (d : BitVec 7) (a : BitVec 7) (i : BitVec 7)
  | shlVi (c : Bool) (d : BitVec 7) (a : BitVec 7) (i : BitVec 7)
  | shrVi (c : Bool) (d : BitVec 7) (a : BitVec 7) (i : BitVec 7)
  | sarVi (c : Bool) (d : BitVec 7) (a : BitVec 7) (i : BitVec 7)
  | rolVi (c : Bool) (d : BitVec 7) (a : BitVec 7) (i : BitVec 7)
  -- IMAD (R130)
  | madS32 (c : Bool) (d : BitVec 7) (a : BitVec 7) (b : BitVec 7)
  | madN32 (c : Bool) (d : BitVec 7) (a : BitVec 7) (b : BitVec 7)
  | madwS (c : Bool) (d : BitVec 7) (a : BitVec 7) (b : BitVec 7)
  | madwN (c : Bool) (d : BitVec 7) (a : BitVec 7) (b : BitVec 7)
  | madhS (c : Bool) (d : BitVec 7) (a : BitVec 7) (b : BitVec 7)
  | madhN (c : Bool) (d : BitVec 7) (a : BitVec 7) (b : BitVec 7)
  -- IUN (R131)
  | negI (c : Bool) (d : BitVec 7) (a : BitVec 7)
  | absI (c : Bool) (d : BitVec 7) (a : BitVec 7)
  | notB (c : Bool) (d : BitVec 7) (a : BitVec 7)
  | popc (c : Bool) (d : BitVec 7) (a : BitVec 7)
  | clz (c : Bool) (d : BitVec 7) (a : BitVec 7)
  | brev (c : Bool) (d : BitVec 7) (a : BitVec 7)
  | bfe (c : Bool) (d : BitVec 7) (a : BitVec 7) (b : BitVec 7)
  | bfi (c : Bool) (d : BitVec 7) (a : BitVec 7) (b : BitVec 7)
  | sext8 (c : Bool) (d : BitVec 7) (a : BitVec 7)
  | sext16 (c : Bool) (d : BitVec 7) (a : BitVec 7)
  | zext8 (c : Bool) (d : BitVec 7) (a : BitVec 7)
  | zext16 (c : Bool) (d : BitVec 7) (a : BitVec 7)
  -- I64 (R132)
  | addB64 (c : Bool) (d : BitVec 7) (a : BitVec 7) (b : BitVec 7)
  | subB64 (c : Bool) (d : BitVec 7) (a : BitVec 7) (b : BitVec 7)
  | mulloB64 (c : Bool) (d : BitVec 7) (a : BitVec 7) (b : BitVec 7)
  | shlB64 (c : Bool) (d : BitVec 7) (a : BitVec 7) (b : BitVec 7)
  | shrB64 (c : Bool) (d : BitVec 7) (a : BitVec 7) (b : BitVec 7)
  | sarB64 (c : Bool) (d : BitVec 7) (a : BitVec 7) (b : BitVec 7)
  | minB64 (c : Bool) (d : BitVec 7) (a : BitVec 7) (b : BitVec 7)
  | maxB64 (c : Bool) (d : BitVec 7) (a : BitVec 7) (b : BitVec 7)
  | minNB64 (c : Bool) (d : BitVec 7) (a : BitVec 7) (b : BitVec 7)
  | maxNB64 (c : Bool) (d : BitVec 7) (a : BitVec 7) (b : BitVec 7)
  | andB64 (c : Bool) (d : BitVec 7) (a : BitVec 7) (b : BitVec 7)
  | orB64 (c : Bool) (d : BitVec 7) (a : BitVec 7) (b : BitVec 7)
  | xorB64 (c : Bool) (d : BitVec 7) (a : BitVec 7) (b : BitVec 7)
  -- ICMP (R133)
  | icmpS32Vv (c : Bool) (k : BitVec 4) (p : BitVec 3) (a : BitVec 7) (b : BitVec 7)
  | icmpS32Vs (c : Bool) (k : BitVec 4) (p : BitVec 3) (a : BitVec 7) (b : BitVec 5)
  | icmpB64Vv (c : Bool) (k : BitVec 4) (p : BitVec 3) (a : BitVec 7) (b : BitVec 7)
  | icmpB64Vs (c : Bool) (k : BitVec 4) (p : BitVec 3) (a : BitVec 7) (b : BitVec 5)
  | icmpAndS32Vv (c : Bool) (k : BitVec 4) (p : BitVec 3) (a : BitVec 7) (b : BitVec 7)
  | icmpAndS32Vs (c : Bool) (k : BitVec 4) (p : BitVec 3) (a : BitVec 7) (b : BitVec 5)
  | icmpAndB64Vv (c : Bool) (k : BitVec 4) (p : BitVec 3) (a : BitVec 7) (b : BitVec 7)
  | icmpAndB64Vs (c : Bool) (k : BitVec 4) (p : BitVec 3) (a : BitVec 7) (b : BitVec 5)
  -- SEL (R134)
  | sel (c : Bool) (d : BitVec 7) (a : BitVec 7) (b : BitVec 7) (n : BitVec 1) (p : BitVec 3)
  -- PLOG (R135)
  | pand (c : Bool) (d : BitVec 3) (a : BitVec 3) (b : BitVec 3)
  | por (c : Bool) (d : BitVec 3) (a : BitVec 3) (b : BitVec 3)
  | pxor (c : Bool) (d : BitVec 3) (a : BitVec 3) (b : BitVec 3)
  | pandn (c : Bool) (d : BitVec 3) (a : BitVec 3) (b : BitVec 3)
  | pmov (c : Bool) (d : BitVec 3) (a : BitVec 3)
  | pnot (c : Bool) (d : BitVec 3) (a : BitVec 3)
  -- F32.vv (R183)
  | addF32Vv (c : Bool) (d : BitVec 7) (a : BitVec 7) (b : BitVec 7)
  | subF32Vv (c : Bool) (d : BitVec 7) (a : BitVec 7) (b : BitVec 7)
  | mulF32Vv (c : Bool) (d : BitVec 7) (a : BitVec 7) (b : BitVec 7)
  | minF32Vv (c : Bool) (d : BitVec 7) (a : BitVec 7) (b : BitVec 7)
  | maxF32Vv (c : Bool) (d : BitVec 7) (a : BitVec 7) (b : BitVec 7)
  | divF32Vv (c : Bool) (d : BitVec 7) (a : BitVec 7) (b : BitVec 7)
  | scaleF32Vv (c : Bool) (d : BitVec 7) (a : BitVec 7) (b : BitVec 7)
  -- F32.vs (R183)
  | addF32Vs (c : Bool) (d : BitVec 7) (a : BitVec 7) (b : BitVec 5)
  | subF32Vs (c : Bool) (d : BitVec 7) (a : BitVec 7) (b : BitVec 5)
  | mulF32Vs (c : Bool) (d : BitVec 7) (a : BitVec 7) (b : BitVec 5)
  | minF32Vs (c : Bool) (d : BitVec 7) (a : BitVec 7) (b : BitVec 5)
  | maxF32Vs (c : Bool) (d : BitVec 7) (a : BitVec 7) (b : BitVec 5)
  | divF32Vs (c : Bool) (d : BitVec 7) (a : BitVec 7) (b : BitVec 5)
  | scaleF32Vs (c : Bool) (d : BitVec 7) (a : BitVec 7) (b : BitVec 5)
  -- FFMA (R184)
  | ffmaF32 (c : Bool) (d : BitVec 7) (a : BitVec 7) (b : BitVec 7)
  | ffmaF32S (c : Bool) (d : BitVec 7) (a : BitVec 7) (b : BitVec 5)
  | ffmaF64 (c : Bool) (d : BitVec 7) (a : BitVec 7) (b : BitVec 7)
  | ffmaF64S (c : Bool) (d : BitVec 7) (a : BitVec 7) (b : BitVec 5)
  | ffmaF16x2 (c : Bool) (d : BitVec 7) (a : BitVec 7) (b : BitVec 7)
  | ffmaBf16x2 (c : Bool) (d : BitVec 7) (a : BitVec 7) (b : BitVec 7)
  | fnmaF32 (c : Bool) (d : BitVec 7) (a : BitVec 7) (b : BitVec 7)
  | fnmaF64 (c : Bool) (d : BitVec 7) (a : BitVec 7) (b : BitVec 7)
  -- F64 (R183)
  | addF64 (c : Bool) (d : BitVec 7) (a : BitVec 7) (b : BitVec 7)
  | subF64 (c : Bool) (d : BitVec 7) (a : BitVec 7) (b : BitVec 7)
  | mulF64 (c : Bool) (d : BitVec 7) (a : BitVec 7) (b : BitVec 7)
  | minF64 (c : Bool) (d : BitVec 7) (a : BitVec 7) (b : BitVec 7)
  | maxF64 (c : Bool) (d : BitVec 7) (a : BitVec 7) (b : BitVec 7)
  | divF64 (c : Bool) (d : BitVec 7) (a : BitVec 7) (b : BitVec 7)
  | scaleF64 (c : Bool) (d : BitVec 7) (a : BitVec 7) (b : BitVec 7)
  -- FH (R185)
  | addF16x2 (c : Bool) (d : BitVec 7) (a : BitVec 7) (b : BitVec 7)
  | mulF16x2 (c : Bool) (d : BitVec 7) (a : BitVec 7) (b : BitVec 7)
  | minF16x2 (c : Bool) (d : BitVec 7) (a : BitVec 7) (b : BitVec 7)
  | maxF16x2 (c : Bool) (d : BitVec 7) (a : BitVec 7) (b : BitVec 7)
  | addBf16x2 (c : Bool) (d : BitVec 7) (a : BitVec 7) (b : BitVec 7)
  | mulBf16x2 (c : Bool) (d : BitVec 7) (a : BitVec 7) (b : BitVec 7)
  | minBf16x2 (c : Bool) (d : BitVec 7) (a : BitVec 7) (b : BitVec 7)
  | maxBf16x2 (c : Bool) (d : BitVec 7) (a : BitVec 7) (b : BitVec 7)
  -- FUN (R186)
  | rcp (c : Bool) (d : BitVec 7) (a : BitVec 7) (p : BitVec 1)
  | rsq (c : Bool) (d : BitVec 7) (a : BitVec 7) (p : BitVec 1)
  | sqrt (c : Bool) (d : BitVec 7) (a : BitVec 7) (p : BitVec 1)
  | exp2 (c : Bool) (d : BitVec 7) (a : BitVec 7)
  | log2 (c : Bool) (d : BitVec 7) (a : BitVec 7)
  | sinpi (c : Bool) (d : BitVec 7) (a : BitVec 7)
  | cospi (c : Bool) (d : BitVec 7) (a : BitVec 7)
  | absFloat (c : Bool) (d : BitVec 7) (a : BitVec 7) (p : BitVec 1)
  | negFloat (c : Bool) (d : BitVec 7) (a : BitVec 7) (p : BitVec 1)
  | rnd (c : Bool) (d : BitVec 7) (a : BitVec 7) (p : BitVec 1)
  | classF (c : Bool) (d : BitVec 7) (a : BitVec 7) (p : BitVec 1)
  | fract (c : Bool) (d : BitVec 7) (a : BitVec 7) (p : BitVec 1)
  -- FCMP (R188)
  | fcmpF32 (c : Bool) (k : BitVec 4) (p : BitVec 3) (a : BitVec 7) (b : BitVec 7)
  | fcmpF64 (c : Bool) (k : BitVec 4) (p : BitVec 3) (a : BitVec 7) (b : BitVec 7)
  | fcmpF32S (c : Bool) (k : BitVec 4) (p : BitVec 3) (a : BitVec 7) (b : BitVec 5)
  -- CVT (R189)
  | cvt (c : Bool) (d : BitVec 7) (a : BitVec 7) (t : BitVec 4) (r : BitVec 3) (s : BitVec 4)
  -- MOVI (R136)
  | movi (c : Bool) (d : BitVec 7) (i : BitVec 18)
  -- MOVX (R137)
  | mov (c : Bool) (d : BitVec 7) (b : BitVec 7)
  | movb (c : Bool) (d : BitVec 7) (h : BitVec 1) (b : BitVec 5)
  | mov64 (c : Bool) (d : BitVec 7) (b : BitVec 7)
  | vrfl (c : Bool) (d : BitVec 5) (a : BitVec 7) (w : BitVec 1)
  | vrln (c : Bool) (d : BitVec 5) (a : BitVec 7) (w : BitVec 1) (n : BitVec 5)
  | vwln (c : Bool) (d : BitVec 7) (a : BitVec 5) (w : BitVec 1) (n : BitVec 5)
  | widf (c : Bool) (d : BitVec 7) (w : BitVec 1) (k : BitVec 3)
  | srd (c : Bool) (d : BitVec 7) (w : BitVec 1) (n : BitVec 7)
  | swr (c : Bool) (w : BitVec 1) (a : BitVec 7) (n : BitVec 7)
  | ptov (c : Bool) (d : BitVec 7)
  | vtop (c : Bool) (a : BitVec 7)
  | qwr (c : Bool) (d : BitVec 3) (b : BitVec 5)
  | qrd (c : Bool) (d : BitVec 5) (a : BitVec 3)
  -- SHFL (R142)
  | shflIdx (c : Bool) (d : BitVec 7) (a : BitVec 7) (b : BitVec 7)
  | shflUp (c : Bool) (d : BitVec 7) (a : BitVec 7) (n : BitVec 5)
  | shflDown (c : Bool) (d : BitVec 7) (a : BitVec 7) (n : BitVec 5)
  | shflXor (c : Bool) (d : BitVec 7) (a : BitVec 7) (n : BitVec 5)
  -- VOTE (R143)
  | voteAny (c : Bool) (d : BitVec 3) (a : BitVec 3)
  | voteAll (c : Bool) (d : BitVec 3) (a : BitVec 3)
  | voteBallot (c : Bool) (d : BitVec 5) (a : BitVec 3)
  | voteRedaddS32 (c : Bool) (d : BitVec 5) (a : BitVec 7)
  | voteRedminS32 (c : Bool) (d : BitVec 5) (a : BitVec 7)
  | voteRedmaxS32 (c : Bool) (d : BitVec 5) (a : BitVec 7)
  | voteRedaddF32 (c : Bool) (d : BitVec 5) (a : BitVec 7)
  | voteScanS32 (c : Bool) (d : BitVec 7) (a : BitVec 7)
  -- SALU.ss (R144)
  | addSs (c : Bool) (d : BitVec 5) (a : BitVec 5) (b : BitVec 7)
  | subSs (c : Bool) (d : BitVec 5) (a : BitVec 5) (b : BitVec 7)
  | mulSs (c : Bool) (d : BitVec 5) (a : BitVec 5) (b : BitVec 7)
  | mulhiSs (c : Bool) (d : BitVec 5) (a : BitVec 5) (b : BitVec 7)
  | mulhiNSs (c : Bool) (d : BitVec 5) (a : BitVec 5) (b : BitVec 7)
  | minSs (c : Bool) (d : BitVec 5) (a : BitVec 5) (b : BitVec 7)
  | maxSs (c : Bool) (d : BitVec 5) (a : BitVec 5) (b : BitVec 7)
  | minNSs (c : Bool) (d : BitVec 5) (a : BitVec 5) (b : BitVec 7)
  | maxNSs (c : Bool) (d : BitVec 5) (a : BitVec 5) (b : BitVec 7)
  | andSs (c : Bool) (d : BitVec 5) (a : BitVec 5) (b : BitVec 7)
  | orSs (c : Bool) (d : BitVec 5) (a : BitVec 5) (b : BitVec 7)
  | xorSs (c : Bool) (d : BitVec 5) (a : BitVec 5) (b : BitVec 7)
  | shlSs (c : Bool) (d : BitVec 5) (a : BitVec 5) (b : BitVec 7)
  | shrSs (c : Bool) (d : BitVec 5) (a : BitVec 5) (b : BitVec 7)
  | sarSs (c : Bool) (d : BitVec 5) (a : BitVec 5) (b : BitVec 7)
  | rolSs (c : Bool) (d : BitVec 5) (a : BitVec 5) (b : BitVec 7)
  -- SALU.si (R144)
  | addSi (c : Bool) (d : BitVec 5) (a : BitVec 5) (i : BitVec 7)
  | subSi (c : Bool) (d : BitVec 5) (a : BitVec 5) (i : BitVec 7)
  | mulSi (c : Bool) (d : BitVec 5) (a : BitVec 5) (i : BitVec 7)
  | mulhiSi (c : Bool) (d : BitVec 5) (a : BitVec 5) (i : BitVec 7)
  | mulhiNSi (c : Bool) (d : BitVec 5) (a : BitVec 5) (i : BitVec 7)
  | minSi (c : Bool) (d : BitVec 5) (a : BitVec 5) (i : BitVec 7)
  | maxSi (c : Bool) (d : BitVec 5) (a : BitVec 5) (i : BitVec 7)
  | minNSi (c : Bool) (d : BitVec 5) (a : BitVec 5) (i : BitVec 7)
  | maxNSi (c : Bool) (d : BitVec 5) (a : BitVec 5) (i : BitVec 7)
  | andSi (c : Bool) (d : BitVec 5) (a : BitVec 5) (i : BitVec 7)
  | orSi (c : Bool) (d : BitVec 5) (a : BitVec 5) (i : BitVec 7)
  | xorSi (c : Bool) (d : BitVec 5) (a : BitVec 5) (i : BitVec 7)
  | shlSi (c : Bool) (d : BitVec 5) (a : BitVec 5) (i : BitVec 7)
  | shrSi (c : Bool) (d : BitVec 5) (a : BitVec 5) (i : BitVec 7)
  | sarSi (c : Bool) (d : BitVec 5) (a : BitVec 5) (i : BitVec 7)
  | rolSi (c : Bool) (d : BitVec 5) (a : BitVec 5) (i : BitVec 7)
  -- SMOVI (R145)
  | smovi (c : Bool) (d : BitVec 5) (i : BitVec 18)
  -- SCMP (R146)
  | scmp (c : Bool) (k : BitVec 4) (p : BitVec 3) (a : BitVec 5) (b : BitVec 5)
  -- SMAD (R147)
  | smadMad (c : Bool) (d : BitVec 5) (a : BitVec 5) (b : BitVec 5)
  | smadMadhS (c : Bool) (d : BitVec 5) (a : BitVec 5) (b : BitVec 5)
  | smadMadhN (c : Bool) (d : BitVec 5) (a : BitVec 5) (b : BitVec 5)
  -- LD (R148)
  | ld (c : Bool) (d : BitVec 7) (a : BitVec 7) (s : BitVec 4) (z : BitVec 3) (m : BitVec 2) (r : BitVec 2)
  -- ST (R148)
  | st (c : Bool) (d : BitVec 7) (a : BitVec 7) (s : BitVec 4) (z : BitVec 3) (m : BitVec 2) (r : BitVec 2)
  -- LDS (R148)
  | lds (c : Bool) (d : BitVec 7) (a : BitVec 7) (s : BitVec 4) (z : BitVec 3) (m : BitVec 2)
  -- STS (R148)
  | sts (c : Bool) (d : BitVec 7) (a : BitVec 7) (s : BitVec 4) (z : BitVec 3) (m : BitVec 2)
  -- LDFE (R154)
  | ldfe (c : Bool) (d : BitVec 7) (a : BitVec 7) (s : BitVec 4) (z : BitVec 3) (m : BitVec 2) (l : BitVec 1)
  -- SLD (R153)
  | sld (c : Bool) (d : BitVec 5) (a : BitVec 5) (s : BitVec 4) (z : BitVec 3) (m : BitVec 2) (r : BitVec 2)
  -- SST (R153)
  | sst (c : Bool) (d : BitVec 5) (a : BitVec 5) (s : BitVec 4) (z : BitVec 3) (m : BitVec 2) (r : BitVec 2)
  -- ATOM (R215)
  | atomAdd (c : Bool) (d : BitVec 7) (a : BitVec 7) (b : BitVec 7)
  | atomMin (c : Bool) (d : BitVec 7) (a : BitVec 7) (b : BitVec 7)
  | atomMax (c : Bool) (d : BitVec 7) (a : BitVec 7) (b : BitVec 7)
  | atomMinN (c : Bool) (d : BitVec 7) (a : BitVec 7) (b : BitVec 7)
  | atomMaxN (c : Bool) (d : BitVec 7) (a : BitVec 7) (b : BitVec 7)
  | atomAnd (c : Bool) (d : BitVec 7) (a : BitVec 7) (b : BitVec 7)
  | atomOr (c : Bool) (d : BitVec 7) (a : BitVec 7) (b : BitVec 7)
  | atomXor (c : Bool) (d : BitVec 7) (a : BitVec 7) (b : BitVec 7)
  | atomExch (c : Bool) (d : BitVec 7) (a : BitVec 7) (b : BitVec 7)
  | atomIncw (c : Bool) (d : BitVec 7) (a : BitVec 7) (b : BitVec 7)
  | atomDecw (c : Bool) (d : BitVec 7) (a : BitVec 7) (b : BitVec 7)
  | atomFaddF32 (c : Bool) (d : BitVec 7) (a : BitVec 7) (b : BitVec 7)
  | atomFminF32 (c : Bool) (d : BitVec 7) (a : BitVec 7) (b : BitVec 7)
  | atomFmaxF32 (c : Bool) (d : BitVec 7) (a : BitVec 7) (b : BitVec 7)
  | atomFaddBf16x2 (c : Bool) (d : BitVec 7) (a : BitVec 7) (b : BitVec 7)
  -- ATOM64 (R215)
  | atom64Add (c : Bool) (d : BitVec 7) (a : BitVec 7) (b : BitVec 7)
  | atom64Min (c : Bool) (d : BitVec 7) (a : BitVec 7) (b : BitVec 7)
  | atom64Max (c : Bool) (d : BitVec 7) (a : BitVec 7) (b : BitVec 7)
  | atom64MinN (c : Bool) (d : BitVec 7) (a : BitVec 7) (b : BitVec 7)
  | atom64MaxN (c : Bool) (d : BitVec 7) (a : BitVec 7) (b : BitVec 7)
  | atom64And (c : Bool) (d : BitVec 7) (a : BitVec 7) (b : BitVec 7)
  | atom64Or (c : Bool) (d : BitVec 7) (a : BitVec 7) (b : BitVec 7)
  | atom64Xor (c : Bool) (d : BitVec 7) (a : BitVec 7) (b : BitVec 7)
  | atom64Exch (c : Bool) (d : BitVec 7) (a : BitVec 7) (b : BitVec 7)
  | atom64Incw (c : Bool) (d : BitVec 7) (a : BitVec 7) (b : BitVec 7)
  | atom64Decw (c : Bool) (d : BitVec 7) (a : BitVec 7) (b : BitVec 7)
  | atom64FaddF64 (c : Bool) (d : BitVec 7) (a : BitVec 7) (b : BitVec 7)
  | atom64FminF64 (c : Bool) (d : BitVec 7) (a : BitVec 7) (b : BitVec 7)
  | atom64FmaxF64 (c : Bool) (d : BitVec 7) (a : BitVec 7) (b : BitVec 7)
  -- RED (R215)
  | redAdd (c : Bool) (w : BitVec 1) (a : BitVec 7) (b : BitVec 7)
  | redMin (c : Bool) (w : BitVec 1) (a : BitVec 7) (b : BitVec 7)
  | redMax (c : Bool) (w : BitVec 1) (a : BitVec 7) (b : BitVec 7)
  | redMinN (c : Bool) (w : BitVec 1) (a : BitVec 7) (b : BitVec 7)
  | redMaxN (c : Bool) (w : BitVec 1) (a : BitVec 7) (b : BitVec 7)
  | redAnd (c : Bool) (w : BitVec 1) (a : BitVec 7) (b : BitVec 7)
  | redOr (c : Bool) (w : BitVec 1) (a : BitVec 7) (b : BitVec 7)
  | redXor (c : Bool) (w : BitVec 1) (a : BitVec 7) (b : BitVec 7)
  | redExch (c : Bool) (w : BitVec 1) (a : BitVec 7) (b : BitVec 7)
  | redIncw (c : Bool) (w : BitVec 1) (a : BitVec 7) (b : BitVec 7)
  | redDecw (c : Bool) (w : BitVec 1) (a : BitVec 7) (b : BitVec 7)
  | redFadd (c : Bool) (w : BitVec 1) (a : BitVec 7) (b : BitVec 7)
  | redFmin (c : Bool) (w : BitVec 1) (a : BitVec 7) (b : BitVec 7)
  | redFmax (c : Bool) (w : BitVec 1) (a : BitVec 7) (b : BitVec 7)
  | redFaddBf16x2 (c : Bool) (a : BitVec 7) (b : BitVec 7)
  -- CAS (R218)
  | casB32 (c : Bool) (d : BitVec 7) (a : BitVec 7) (b : BitVec 7)
  | casB64 (c : Bool) (d : BitVec 7) (a : BitVec 7) (b : BitVec 7)
  | casB128 (c : Bool) (d : BitVec 7) (a : BitVec 7) (b : BitVec 7)
  -- PATOM (R223)
  | patom (c : Bool) (d : BitVec 7) (a : BitVec 6) (b : BitVec 7) (f : BitVec 4)
  -- SYNC (R157, R225, R227)
  | fence (c : Bool) (o : BitVec 2) (s : BitVec 3)
  | poll (c : Bool) (a : BitVec 7) (b : BitVec 7) (x : BitVec 1) (w : BitVec 1) (k : BitVec 2)
  | farb (c : Bool) (t : BitVec 14) (s : BitVec 1)
  | fare (c : Bool) (p : BitVec 3)
  | farx (c : Bool)
  | fars (c : Bool) (a : BitVec 7)
  | dflush (c : Bool)
  | pgreq (c : Bool) (a : BitVec 7) (b : BitVec 5)
  | pref (c : Bool) (a : BitVec 7) (l : BitVec 1) (p : BitVec 2)
  | cinv (c : Bool) (a : BitVec 5) (b : BitVec 5)
  | cwb (c : Bool) (a : BitVec 5) (b : BitVec 5)
  | tagset (c : Bool) (a : BitVec 7) (b : BitVec 7)
  | tagget (c : Bool) (a : BitVec 7) (b : BitVec 7)
  | mfop (c : Bool)
  | feset (c : Bool) (a : BitVec 7) (b : BitVec 7)
  | feclr (c : Bool) (a : BitVec 7) (b : BitVec 7)
  | seqr (c : Bool) (a : BitVec 5)
  -- CPY (R168)
  | cpy (c : Bool) (d : BitVec 5) (a : BitVec 7) (b : BitVec 7) (k : BitVec 2) (z : BitVec 2)
  -- CPYT (R170)
  | tile (c : Bool) (a : BitVec 5) (b : BitVec 5)
  | unpk (c : Bool) (a : BitVec 5) (b : BitVec 5)
  | pack (c : Bool) (a : BitVec 5) (b : BitVec 5)
  | gath (c : Bool) (a : BitVec 5) (b : BitVec 5)
  | scat (c : Bool) (a : BitVec 5) (b : BitVec 5)
  | kvcp (c : Bool) (a : BitVec 5) (b : BitVec 5)
  | cpw (c : Bool) (t : BitVec 4) (p : BitVec 3)
  | cps (c : Bool) (a : BitVec 5) (t : BitVec 4)
  -- MX (R269)
  | osclm (c : Bool) (n : BitVec 6) (f : BitVec 4)
  | osrel (c : Bool) (n : BitVec 6)
  | osst (c : Bool) (a : BitVec 7) (b : BitVec 5)
  | osld (c : Bool) (a : BitVec 7) (b : BitVec 5)
  | acz (c : Bool) (n : BitVec 5)
  | acld (c : Bool) (a : BitVec 7) (b : BitVec 5)
  | acst (c : Bool) (a : BitVec 7) (b : BitVec 5)
  | mma (c : Bool) (a : BitVec 5)
  | mwait (c : Bool) (t : BitVec 4) (p : BitVec 3)
  | mstat (c : Bool) (a : BitVec 5) (t : BitVec 4)
  -- TT (R289)
  | seqnew (c : Bool) (a : BitVec 5) (b : BitVec 5)
  | seqfree (c : Bool) (a : BitVec 5) (b : BitVec 5)
  | tfork (c : Bool) (a : BitVec 5) (b : BitVec 5)
  | tapp (c : Bool) (a : BitVec 5) (b : BitVec 5)
  | kvwr (c : Bool) (a : BitVec 5) (b : BitVec 5)
  | tprune (c : Bool) (a : BitVec 5) (b : BitVec 5)
  | tcommit (c : Bool) (a : BitVec 5) (b : BitVec 5)
  | tqry (c : Bool) (a : BitVec 5) (b : BitVec 5)
  | twalk (c : Bool) (a : BitVec 5) (b : BitVec 5)
  | kvgath (c : Bool) (a : BitVec 5) (b : BitVec 5)
  | tmask (c : Bool) (a : BitVec 5) (b : BitVec 5)
  | pfxq (c : Bool) (a : BitVec 5) (b : BitVec 5)
  | pfxpub (c : Bool) (a : BitVec 5) (b : BitVec 5)
  | pfxatt (c : Bool) (a : BitVec 5) (b : BitVec 5)
  | kvresc (c : Bool) (a : BitVec 5) (b : BitVec 5)
  -- ROPE (R313)
  | rope (c : Bool) (d : BitVec 7) (a : BitVec 7) (b : BitVec 7)
  -- SMPL (R314)
  | sample (c : Bool) (a : BitVec 5) (b : BitVec 5)
  | rng (c : Bool) (a : BitVec 5) (b : BitVec 5)
  | rngf (c : Bool) (a : BitVec 5) (b : BitVec 5)
  | argmax (c : Bool) (a : BitVec 5) (b : BitVec 5)
  -- SVC (R336, R347, R365)
  | coll (c : Bool) (a : BitVec 5) (b : BitVec 5)
  | collw (c : Bool) (t : BitVec 3) (p : BitVec 3)
  | rsig (c : Bool) (a : BitVec 5) (b : BitVec 5)
  | taskdec (c : Bool) (a : BitVec 5) (b : BitVec 5)
  | tasknew (c : Bool) (a : BitVec 5) (b : BitVec 5)
  | taskq (c : Bool) (a : BitVec 5) (b : BitVec 5)
  | tkrcv (c : Bool) (a : BitVec 5) (b : BitVec 5)
  | tkpost (c : Bool) (a : BitVec 5) (b : BitVec 5)
  -- SYS (R377)
  | ctxsv (c : Bool) (a : BitVec 5) (b : BitVec 5)
  | ctxld (c : Bool) (a : BitVec 5) (b : BitVec 5)
  | tlbi (c : Bool) (a : BitVec 5) (b : BitVec 5)
  | fltcan (c : Bool) (a : BitVec 5) (b : BitVec 5)
  | fltrpl (c : Bool) (a : BitVec 5) (b : BitVec 5)
  | haltqNow (c : Bool) (a : BitVec 5) (p : BitVec 3)
  | haltqQuiesce (c : Bool) (a : BitVec 5) (p : BitVec 3)
  | haltqRelease (c : Bool) (a : BitVec 5) (p : BitVec 3)
  | snaparm (c : Bool) (a : BitVec 5)
  -- events
  | engineWrite (core id : Nat)
  | longLatencyLoad (core id : Nat)
  | prefixDirectoryRequest (r : PrefixMsg)
  | modelEnable (model : Nat)
  deriving DecidableEq, Repr

end Sys2Proof
end

