-- ==== Sys2Proof/WellFormed.lean ====
section
/-! DEFINITION. The registers each instruction names, and the checks a well-formed instruction passes
(R59, R63, and the field limits of each instruction's own description). -/

namespace Sys2Proof

/-- A register an instruction names, by the kinds of R59; `sp` is a special register (R140). -/
inductive Opnd where
  | v (n : Nat) | pair (n : Nat) | quad (n : Nat) | s (n : Nat) | p (n : Nat)
  | m (n : Nat) | q (n : Nat) | os (n : Nat) | ac (n : Nat) | sp (n : Nat)
  deriving DecidableEq, Repr

/-- How an instruction uses a field: it reads or writes a register, or the field must pass a check. -/
inductive Use where
  | rd (o : Opnd) | wr (o : Opnd) | chk (ok : Bool)
  deriving DecidableEq, Repr

namespace Use

/-- A B operand that the immediate of an XIMM prefix replaces (R57). -/
def rdb (ximm : Bool) (o : Opnd) : Use := if ximm then chk true else rd o

end Use

/-- A pair where `b` holds, else a single register (the width fields of R137). -/
def wide (b : Bool) (n : Nat) : Opnd := if b then .pair n else .v n

/-- The register, pair or quad that holds an access of size code `z` (R148). -/
def sized (z : BitVec 3) (n : Nat) : Opnd :=
  if z = 6#3 then .quad n else if z = 5#3 then .pair n else .v n

/-- The 64-bit types of R60. -/
def type64 (t : BitVec 4) : Bool := t = 3#4 || t = 7#4 || t = 11#4

/-- The address register of an atomic: A[0] is the space bit, A[6:1] selects v(2·A[6:1]) (R215). -/
def atomBase (a : BitVec 7) : Opnd :=
  if a.getLsbD 0 then .v (a.toNat - 1) else .pair a.toNat

/-- The address operands of an M-format access to vector registers; S = 0 names no base (R115, R148, R110). -/
def maddr (m : BitVec 2) (s a : Nat) : List Use :=
  if m = 3#2 then [.rd (.q (s % 8)), .rd (.v a), .wr (.v a)]
  else (if s = 0 then [] else [.rd (.s s)]) ++ [.rd (if m = 0#2 then .pair a else .v a)]

/-- Everything an instruction names. `x` says that an XIMM prefix replaces its B field. -/
def Instr.uses (x : Bool) : Instr → List Use

  | .reset => []
  | .codeLineFetch core _ _ => [.chk (core < 144)]
  | .issueStarvationPriority core part => [.chk (core < 144), .chk (part < 8)]
  | .activeSetExchange core part => [.chk (core < 144), .chk (part < 8)]
  | .forcedExchange core part => [.chk (core < 144), .chk (part < 8)]
  | .yieldExpiry core place lane => [.chk (core < 144), .chk (place < 192), .chk (lane < 32)]
  | .diesetChange task _ => [.chk (task < 262144)]
  | .loadDataArrival core _ => [.chk (core < 144)]
  | .storeQueueDrain core place => [.chk (core < 144), .chk (place < 192)]
  | .l2MissTranslation die _ _ _ => [.chk (die < 2)]
  | .windowWrite _ _ _ => []
  | .carveoutApply core setting => [.chk (core < 144), .chk (setting < 5)]
  | .gets _ core => [.chk (core < 144)]
  | .getx _ core => [.chk (core < 144)]
  | .upg _ core => [.chk (core < 144)]
  | .putm _ core => [.chk (core < 144)]
  | .puto _ core => [.chk (core < 144)]
  | .pute _ core => [.chk (core < 144)]
  | .fwdGets _ core => [.chk (core < 144)]
  | .fwdGetx _ core => [.chk (core < 144)]
  | .inv _ core => [.chk (core < 144)]
  | .data _ core => [.chk (core < 144)]
  | .dataEx _ core => [.chk (core < 144)]
  | .upgAck _ core => [.chk (core < 144)]
  | .invAck _ core => [.chk (core < 144)]
  | .putAck _ core => [.chk (core < 144)]
  | .putAckStale _ core => [.chk (core < 144)]
  | .unblock _ core => [.chk (core < 144)]
  | .homeAgentAccess _ _ => []
  | .replicaCollapse _ _ _ => []
  | .faultWindowClose die => [.chk (die < 2)]
  | .remoteRequest _ => []
  | .keepWaitingNotice _ => []
  | .keepWaitingReceipt _ => []
  | .remoteReply _ _ _ _ => []
  | .remoteTimeout _ => []
  | .numericWindowRestart core cls => [.chk (core < 144), .chk (cls < 8)]
  | .numericThresholdTrap core place lane => [.chk (core < 144), .chk (place < 192), .chk (lane < 32)]
  | .numEvtClear core _ => [.chk (core < 144)]
  | .mmaStart core => [.chk (core < 144)]
  | .mmaComplete core => [.chk (core < 144)]
  | .copyComplete core _ => [.chk (core < 144)]
  | .badgerCommandArrival _ => []
  | .ttComplete _ => []
  | .pageFree _ _ => []
  | .smplComplete core _ => [.chk (core < 144)]
  | .hacRoutine core place => [.chk (core < 144), .chk (place < 192)]
  | .pollReread core place lane => [.chk (core < 144), .chk (place < 192), .chk (lane < 32)]
  | .regionCommit core place lane => [.chk (core < 144), .chk (place < 192), .chk (lane < 32)]
  | .abortTargetResume core place lane => [.chk (core < 144), .chk (place < 192), .chk (lane < 32)]
  | .regionIrrevocable core place lane => [.chk (core < 144), .chk (place < 192), .chk (lane < 32)]
  | .regionWatchdog core place lane => [.chk (core < 144), .chk (place < 192), .chk (lane < 32)]
  | .dflushComplete task => [.chk (task < 262144)]
  | .segmentStart task _ => [.chk (task < 262144)]
  | .segmentWatchdog task _ => [.chk (task < 262144)]
  | .pgreqComplete _ => []
  | .taskDecrement task _ _ => [.chk (task < 262144)]
  | .counterWindowWrite task nbytes _ => [.chk (task < 262144), .chk (nbytes == 4 || nbytes == 8)]
  | .agingTick task => [.chk (task < 262144)]
  | .launchHeaderCheck task => [.chk (task < 262144)]
  | .workgroupDispatch task core _ => [.chk (core < 144), .chk (task < 262144)]
  | .preemptDecision task core => [.chk (core < 144), .chk (task < 262144)]
  | .preemptReq core place lane => [.chk (core < 144), .chk (place < 192), .chk (lane < 32)]
  | .forcedSave task _ => [.chk (task < 262144)]
  | .contextRestore task core => [.chk (core < 144), .chk (task < 262144)]
  | .launchWatchdog task => [.chk (task < 262144)]
  | .launchEnd task => [.chk (task < 262144)]
  | .taskCompletion task => [.chk (task < 262144)]
  | .packetForward _ => []
  | .linkFailure links => [.chk (1 ≤ links.length ∧ links.length ≤ 3 ∧ links.all (· < 32))]
  | .moduleFailure _ _ => []
  | .collComplete group _ => [.chk (group < 256)]
  | .rsigArrival _ => []
  | .hostMemoryWrite _ _ => []
  | .hostMemoryRead _ _ => []
  | .mailboxInDoorbell _ => []
  | .mailboxOutPost _ => []
  | .mailboxOutAck _ => []
  | .numiStatClear _ => []
  | .debugRequest core => [.chk (core < 144)]
  | .breakpointRelease core place lane => [.chk (core < 144), .chk (place < 192), .chk (lane < 32)]
  | .ueMessageReceive port _ _ => [.chk (port < 4)]
  | .ueRingEnable port _ => [.chk (port < 4)]
  | .ueConnectionSetup port _ _ => [.chk (port < 4)]
  | .tkeRecord port => [.chk (port < 4)]
  | .tkeLogWrite port _ => [.chk (port < 4)]
  | .dkePost port => [.chk (port < 4)]
  | .dkeChunkTimeout port _ => [.chk (port < 4)]
  | .eccCorrection _ _ _ => []
  | .journalAppend => []
  | .uncorrectableError _ => []
  | .powerFail => []
  | .clockThrottle _ => []
  | .attestationRequest _ => []
  | .haltQuiesceComplete core => [.chk (core < 144)]
  | .haltQuiesceTimeout core => [.chk (core < 144)]
  | .asidDestroy _ => []
  | .registerWrite _ => []
  | .ximm _ => []
  | .guard _ p => [.rd (.p p.toNat)]
  | .cpol e q _ s => [.chk (s != 7#3), .chk (e != 0#1 || q == 0#2)]
  | .probe p => [.wr (.p p.toNat)]
  | .round r => [.chk (r.toNat < 5)]
  | .sat => []
  | .nop _ => []
  | .exit _ => []
  | .trap _ _ => []
  | .yield _ => []
  | .step _ => []
  | .brk _ => []
  | .tret _ => []
  | .ydone _ => []
  | .snap _ _ => []
  | .bra _ _ => []
  | .brt _ p _ => [.rd (.p p.toNat)]
  | .brf _ p _ => [.rd (.p p.toNat)]
  | .call _ _ => [.wr (.v 126)]
  | .brany _ p _ => [.rd (.p p.toNat)]
  | .brall _ p _ => [.rd (.p p.toNat)]
  | .bri _ a => [.rd (.v a.toNat)]
  | .calli _ d a => [.rd (.v a.toNat), .wr (.v d.toNat)]
  | .ret _ a => [.rd (.v a.toNat)]
  | .join _ m => [.wr (.m m.toNat)]
  | .leave _ m => [.wr (.m m.toNat)]
  | .waitm _ m => [.rd (.m m.toNat)]
  | .mrd _ s m => [.rd (.m m.toNat), .wr (.s s.toNat)]
  | .mwr _ s m => [.rd (.s s.toNat), .wr (.m m.toNat)]
  | .mact _ s => [.wr (.s s.toNat)]
  | .bar _ => []
  | .barl _ l => [.chk (l.toNat < 6)]
  | .addVv _ d a b => [.rd (.v a.toNat), .rdb x (.v b.toNat), .wr (.v d.toNat)]
  | .subVv _ d a b => [.rd (.v a.toNat), .rdb x (.v b.toNat), .wr (.v d.toNat)]
  | .mulVv _ d a b => [.rd (.v a.toNat), .rdb x (.v b.toNat), .wr (.v d.toNat)]
  | .mulhiVv _ d a b => [.rd (.v a.toNat), .rdb x (.v b.toNat), .wr (.v d.toNat)]
  | .mulhiNVv _ d a b => [.rd (.v a.toNat), .rdb x (.v b.toNat), .wr (.v d.toNat)]
  | .minVv _ d a b => [.rd (.v a.toNat), .rdb x (.v b.toNat), .wr (.v d.toNat)]
  | .maxVv _ d a b => [.rd (.v a.toNat), .rdb x (.v b.toNat), .wr (.v d.toNat)]
  | .minNVv _ d a b => [.rd (.v a.toNat), .rdb x (.v b.toNat), .wr (.v d.toNat)]
  | .maxNVv _ d a b => [.rd (.v a.toNat), .rdb x (.v b.toNat), .wr (.v d.toNat)]
  | .andVv _ d a b => [.rd (.v a.toNat), .rdb x (.v b.toNat), .wr (.v d.toNat)]
  | .orVv _ d a b => [.rd (.v a.toNat), .rdb x (.v b.toNat), .wr (.v d.toNat)]
  | .xorVv _ d a b => [.rd (.v a.toNat), .rdb x (.v b.toNat), .wr (.v d.toNat)]
  | .shlVv _ d a b => [.rd (.v a.toNat), .rdb x (.v b.toNat), .wr (.v d.toNat)]
  | .shrVv _ d a b => [.rd (.v a.toNat), .rdb x (.v b.toNat), .wr (.v d.toNat)]
  | .sarVv _ d a b => [.rd (.v a.toNat), .rdb x (.v b.toNat), .wr (.v d.toNat)]
  | .rolVv _ d a b => [.rd (.v a.toNat), .rdb x (.v b.toNat), .wr (.v d.toNat)]
  | .addVs _ d a b => [.rd (.v a.toNat), .rd (.s b.toNat), .wr (.v d.toNat)]
  | .subVs _ d a b => [.rd (.v a.toNat), .rd (.s b.toNat), .wr (.v d.toNat)]
  | .mulVs _ d a b => [.rd (.v a.toNat), .rd (.s b.toNat), .wr (.v d.toNat)]
  | .mulhiVs _ d a b => [.rd (.v a.toNat), .rd (.s b.toNat), .wr (.v d.toNat)]
  | .mulhiNVs _ d a b => [.rd (.v a.toNat), .rd (.s b.toNat), .wr (.v d.toNat)]
  | .minVs _ d a b => [.rd (.v a.toNat), .rd (.s b.toNat), .wr (.v d.toNat)]
  | .maxVs _ d a b => [.rd (.v a.toNat), .rd (.s b.toNat), .wr (.v d.toNat)]
  | .minNVs _ d a b => [.rd (.v a.toNat), .rd (.s b.toNat), .wr (.v d.toNat)]
  | .maxNVs _ d a b => [.rd (.v a.toNat), .rd (.s b.toNat), .wr (.v d.toNat)]
  | .andVs _ d a b => [.rd (.v a.toNat), .rd (.s b.toNat), .wr (.v d.toNat)]
  | .orVs _ d a b => [.rd (.v a.toNat), .rd (.s b.toNat), .wr (.v d.toNat)]
  | .xorVs _ d a b => [.rd (.v a.toNat), .rd (.s b.toNat), .wr (.v d.toNat)]
  | .shlVs _ d a b => [.rd (.v a.toNat), .rd (.s b.toNat), .wr (.v d.toNat)]
  | .shrVs _ d a b => [.rd (.v a.toNat), .rd (.s b.toNat), .wr (.v d.toNat)]
  | .sarVs _ d a b => [.rd (.v a.toNat), .rd (.s b.toNat), .wr (.v d.toNat)]
  | .rolVs _ d a b => [.rd (.v a.toNat), .rd (.s b.toNat), .wr (.v d.toNat)]
  | .addVi _ d a _ => [.rd (.v a.toNat), .wr (.v d.toNat)]
  | .subVi _ d a _ => [.rd (.v a.toNat), .wr (.v d.toNat)]
  | .mulVi _ d a _ => [.rd (.v a.toNat), .wr (.v d.toNat)]
  | .mulhiVi _ d a _ => [.rd (.v a.toNat), .wr (.v d.toNat)]
  | .mulhiNVi _ d a _ => [.rd (.v a.toNat), .wr (.v d.toNat)]
  | .minVi _ d a _ => [.rd (.v a.toNat), .wr (.v d.toNat)]
  | .maxVi _ d a _ => [.rd (.v a.toNat), .wr (.v d.toNat)]
  | .minNVi _ d a _ => [.rd (.v a.toNat), .wr (.v d.toNat)]
  | .maxNVi _ d a _ => [.rd (.v a.toNat), .wr (.v d.toNat)]
  | .andVi _ d a _ => [.rd (.v a.toNat), .wr (.v d.toNat)]
  | .orVi _ d a _ => [.rd (.v a.toNat), .wr (.v d.toNat)]
  | .xorVi _ d a _ => [.rd (.v a.toNat), .wr (.v d.toNat)]
  | .shlVi _ d a _ => [.rd (.v a.toNat), .wr (.v d.toNat)]
  | .shrVi _ d a _ => [.rd (.v a.toNat), .wr (.v d.toNat)]
  | .sarVi _ d a _ => [.rd (.v a.toNat), .wr (.v d.toNat)]
  | .rolVi _ d a _ => [.rd (.v a.toNat), .wr (.v d.toNat)]
  | .madS32 _ d a b => [.rd (.v a.toNat), .rdb x (.v b.toNat), .rd (.v d.toNat), .wr (.v d.toNat)]
  | .madN32 _ d a b => [.rd (.v a.toNat), .rdb x (.v b.toNat), .rd (.v d.toNat), .wr (.v d.toNat)]
  | .madwS _ d a b => [.rd (.v a.toNat), .rdb x (.v b.toNat), .rd (.pair d.toNat), .wr (.pair d.toNat)]
  | .madwN _ d a b => [.rd (.v a.toNat), .rdb x (.v b.toNat), .rd (.pair d.toNat), .wr (.pair d.toNat)]
  | .madhS _ d a b => [.rd (.v a.toNat), .rdb x (.v b.toNat), .rd (.v d.toNat), .wr (.v d.toNat)]
  | .madhN _ d a b => [.rd (.v a.toNat), .rdb x (.v b.toNat), .rd (.v d.toNat), .wr (.v d.toNat)]
  | .negI _ d a => [.rd (.v a.toNat), .wr (.v d.toNat)]
  | .absI _ d a => [.rd (.v a.toNat), .wr (.v d.toNat)]
  | .notB _ d a => [.rd (.v a.toNat), .wr (.v d.toNat)]
  | .popc _ d a => [.rd (.v a.toNat), .wr (.v d.toNat)]
  | .clz _ d a => [.rd (.v a.toNat), .wr (.v d.toNat)]
  | .brev _ d a => [.rd (.v a.toNat), .wr (.v d.toNat)]
  | .bfe _ d a b => [.rd (.v a.toNat), .rd (.v b.toNat), .wr (.v d.toNat)]
  | .bfi _ d a b => [.rd (.v a.toNat), .rd (.v b.toNat), .rd (.v d.toNat), .wr (.v d.toNat)]
  | .sext8 _ d a => [.rd (.v a.toNat), .wr (.v d.toNat)]
  | .sext16 _ d a => [.rd (.v a.toNat), .wr (.v d.toNat)]
  | .zext8 _ d a => [.rd (.v a.toNat), .wr (.v d.toNat)]
  | .zext16 _ d a => [.rd (.v a.toNat), .wr (.v d.toNat)]
  | .addB64 _ d a b => [.rd (.pair a.toNat), .rdb x (.pair b.toNat), .wr (.pair d.toNat)]
  | .subB64 _ d a b => [.rd (.pair a.toNat), .rdb x (.pair b.toNat), .wr (.pair d.toNat)]
  | .mulloB64 _ d a b => [.rd (.pair a.toNat), .rdb x (.pair b.toNat), .wr (.pair d.toNat)]
  | .shlB64 _ d a b => [.rd (.pair a.toNat), .rdb x (.pair b.toNat), .wr (.pair d.toNat)]
  | .shrB64 _ d a b => [.rd (.pair a.toNat), .rdb x (.pair b.toNat), .wr (.pair d.toNat)]
  | .sarB64 _ d a b => [.rd (.pair a.toNat), .rdb x (.pair b.toNat), .wr (.pair d.toNat)]
  | .minB64 _ d a b => [.rd (.pair a.toNat), .rdb x (.pair b.toNat), .wr (.pair d.toNat)]
  | .maxB64 _ d a b => [.rd (.pair a.toNat), .rdb x (.pair b.toNat), .wr (.pair d.toNat)]
  | .minNB64 _ d a b => [.rd (.pair a.toNat), .rdb x (.pair b.toNat), .wr (.pair d.toNat)]
  | .maxNB64 _ d a b => [.rd (.pair a.toNat), .rdb x (.pair b.toNat), .wr (.pair d.toNat)]
  | .andB64 _ d a b => [.rd (.pair a.toNat), .rdb x (.pair b.toNat), .wr (.pair d.toNat)]
  | .orB64 _ d a b => [.rd (.pair a.toNat), .rdb x (.pair b.toNat), .wr (.pair d.toNat)]
  | .xorB64 _ d a b => [.rd (.pair a.toNat), .rdb x (.pair b.toNat), .wr (.pair d.toNat)]
  | .icmpS32Vv _ k p a b => [.chk (k.toNat < 10), .rd (.v a.toNat), .rdb x (.v b.toNat), .wr (.p p.toNat)]
  | .icmpS32Vs _ k p a b => [.chk (k.toNat < 10), .rd (.v a.toNat), .rd (.s b.toNat), .wr (.p p.toNat)]
  | .icmpB64Vv _ k p a b => [.chk (k.toNat < 10), .rd (.pair a.toNat), .rdb x (.pair b.toNat), .wr (.p p.toNat)]
  | .icmpB64Vs _ k p a b => [.chk (k.toNat < 10), .rd (.pair a.toNat), .rd (.s b.toNat), .wr (.p p.toNat)]
  | .icmpAndS32Vv _ k p a b => [.chk (k.toNat < 10), .rd (.v a.toNat), .rdb x (.v b.toNat), .rd (.p p.toNat), .wr (.p p.toNat)]
  | .icmpAndS32Vs _ k p a b => [.chk (k.toNat < 10), .rd (.v a.toNat), .rd (.s b.toNat), .rd (.p p.toNat), .wr (.p p.toNat)]
  | .icmpAndB64Vv _ k p a b => [.chk (k.toNat < 10), .rd (.pair a.toNat), .rdb x (.pair b.toNat), .rd (.p p.toNat), .wr (.p p.toNat)]
  | .icmpAndB64Vs _ k p a b => [.chk (k.toNat < 10), .rd (.pair a.toNat), .rd (.s b.toNat), .rd (.p p.toNat), .wr (.p p.toNat)]
  | .sel _ d a b _ p => [.rd (.p p.toNat), .rd (.v a.toNat), .rdb x (.v b.toNat), .wr (.v d.toNat)]
  | .pand _ d a b => [.rd (.p a.toNat), .rd (.p b.toNat), .wr (.p d.toNat)]
  | .por _ d a b => [.rd (.p a.toNat), .rd (.p b.toNat), .wr (.p d.toNat)]
  | .pxor _ d a b => [.rd (.p a.toNat), .rd (.p b.toNat), .wr (.p d.toNat)]
  | .pandn _ d a b => [.rd (.p a.toNat), .rd (.p b.toNat), .wr (.p d.toNat)]
  | .pmov _ d a => [.rd (.p a.toNat), .wr (.p d.toNat)]
  | .pnot _ d a => [.rd (.p a.toNat), .wr (.p d.toNat)]
  | .addF32Vv _ d a b => [.rd (.v a.toNat), .rdb x (.v b.toNat), .wr (.v d.toNat)]
  | .subF32Vv _ d a b => [.rd (.v a.toNat), .rdb x (.v b.toNat), .wr (.v d.toNat)]
  | .mulF32Vv _ d a b => [.rd (.v a.toNat), .rdb x (.v b.toNat), .wr (.v d.toNat)]
  | .minF32Vv _ d a b => [.rd (.v a.toNat), .rdb x (.v b.toNat), .wr (.v d.toNat)]
  | .maxF32Vv _ d a b => [.rd (.v a.toNat), .rdb x (.v b.toNat), .wr (.v d.toNat)]
  | .divF32Vv _ d a b => [.rd (.v a.toNat), .rdb x (.v b.toNat), .wr (.v d.toNat)]
  | .scaleF32Vv _ d a b => [.rd (.v a.toNat), .rdb x (.v b.toNat), .wr (.v d.toNat)]
  | .addF32Vs _ d a b => [.rd (.v a.toNat), .rd (.s b.toNat), .wr (.v d.toNat)]
  | .subF32Vs _ d a b => [.rd (.v a.toNat), .rd (.s b.toNat), .wr (.v d.toNat)]
  | .mulF32Vs _ d a b => [.rd (.v a.toNat), .rd (.s b.toNat), .wr (.v d.toNat)]
  | .minF32Vs _ d a b => [.rd (.v a.toNat), .rd (.s b.toNat), .wr (.v d.toNat)]
  | .maxF32Vs _ d a b => [.rd (.v a.toNat), .rd (.s b.toNat), .wr (.v d.toNat)]
  | .divF32Vs _ d a b => [.rd (.v a.toNat), .rd (.s b.toNat), .wr (.v d.toNat)]
  | .scaleF32Vs _ d a b => [.rd (.v a.toNat), .rd (.s b.toNat), .wr (.v d.toNat)]
  | .ffmaF32 _ d a b => [.rd (.v a.toNat), .rdb x (.v b.toNat), .rd (.v d.toNat), .wr (.v d.toNat)]
  | .ffmaF32S _ d a b => [.rd (.v a.toNat), .rd (.s b.toNat), .rd (.v d.toNat), .wr (.v d.toNat)]
  | .ffmaF64 _ d a b => [.rd (.pair a.toNat), .rd (.pair b.toNat), .rd (.pair d.toNat), .wr (.pair d.toNat)]
  | .ffmaF64S _ d a b => [.rd (.pair a.toNat), .rd (.s b.toNat), .rd (.pair d.toNat), .wr (.pair d.toNat)]
  | .ffmaF16x2 _ d a b => [.rd (.v a.toNat), .rd (.v b.toNat), .rd (.v d.toNat), .wr (.v d.toNat)]
  | .ffmaBf16x2 _ d a b => [.rd (.v a.toNat), .rd (.v b.toNat), .rd (.v d.toNat), .wr (.v d.toNat)]
  | .fnmaF32 _ d a b => [.rd (.v a.toNat), .rdb x (.v b.toNat), .rd (.v d.toNat), .wr (.v d.toNat)]
  | .fnmaF64 _ d a b => [.rd (.pair a.toNat), .rd (.pair b.toNat), .rd (.pair d.toNat), .wr (.pair d.toNat)]
  | .addF64 _ d a b => [.rd (.pair a.toNat), .rd (.pair b.toNat), .wr (.pair d.toNat)]
  | .subF64 _ d a b => [.rd (.pair a.toNat), .rd (.pair b.toNat), .wr (.pair d.toNat)]
  | .mulF64 _ d a b => [.rd (.pair a.toNat), .rd (.pair b.toNat), .wr (.pair d.toNat)]
  | .minF64 _ d a b => [.rd (.pair a.toNat), .rd (.pair b.toNat), .wr (.pair d.toNat)]
  | .maxF64 _ d a b => [.rd (.pair a.toNat), .rd (.pair b.toNat), .wr (.pair d.toNat)]
  | .divF64 _ d a b => [.rd (.pair a.toNat), .rd (.pair b.toNat), .wr (.pair d.toNat)]
  | .scaleF64 _ d a b => [.rd (.pair a.toNat), .rd (.v b.toNat), .wr (.pair d.toNat)]
  | .addF16x2 _ d a b => [.rd (.v a.toNat), .rd (.v b.toNat), .wr (.v d.toNat)]
  | .mulF16x2 _ d a b => [.rd (.v a.toNat), .rd (.v b.toNat), .wr (.v d.toNat)]
  | .minF16x2 _ d a b => [.rd (.v a.toNat), .rd (.v b.toNat), .wr (.v d.toNat)]
  | .maxF16x2 _ d a b => [.rd (.v a.toNat), .rd (.v b.toNat), .wr (.v d.toNat)]
  | .addBf16x2 _ d a b => [.rd (.v a.toNat), .rd (.v b.toNat), .wr (.v d.toNat)]
  | .mulBf16x2 _ d a b => [.rd (.v a.toNat), .rd (.v b.toNat), .wr (.v d.toNat)]
  | .minBf16x2 _ d a b => [.rd (.v a.toNat), .rd (.v b.toNat), .wr (.v d.toNat)]
  | .maxBf16x2 _ d a b => [.rd (.v a.toNat), .rd (.v b.toNat), .wr (.v d.toNat)]
  | .rcp _ d a p => [.rd ((wide (p != 0#1) a.toNat)), .wr ((wide (p != 0#1) d.toNat))]
  | .rsq _ d a p => [.rd ((wide (p != 0#1) a.toNat)), .wr ((wide (p != 0#1) d.toNat))]
  | .sqrt _ d a p => [.rd ((wide (p != 0#1) a.toNat)), .wr ((wide (p != 0#1) d.toNat))]
  | .exp2 _ d a => [.rd (.v a.toNat), .wr (.v d.toNat)]
  | .log2 _ d a => [.rd (.v a.toNat), .wr (.v d.toNat)]
  | .sinpi _ d a => [.rd (.v a.toNat), .wr (.v d.toNat)]
  | .cospi _ d a => [.rd (.v a.toNat), .wr (.v d.toNat)]
  | .absFloat _ d a p => [.rd ((wide (p != 0#1) a.toNat)), .wr ((wide (p != 0#1) d.toNat))]
  | .negFloat _ d a p => [.rd ((wide (p != 0#1) a.toNat)), .wr ((wide (p != 0#1) d.toNat))]
  | .rnd _ d a p => [.rd ((wide (p != 0#1) a.toNat)), .wr ((wide (p != 0#1) d.toNat))]
  | .classF _ d a p => [.rd ((wide (p != 0#1) a.toNat)), .wr (.v d.toNat)]
  | .fract _ d a p => [.rd ((wide (p != 0#1) a.toNat)), .wr ((wide (p != 0#1) d.toNat))]
  | .fcmpF32 _ k p a b => [.chk (k.toNat < 8), .rd (.v a.toNat), .rdb x (.v b.toNat), .wr (.p p.toNat)]
  | .fcmpF64 _ k p a b => [.chk (k.toNat < 8), .rd (.pair a.toNat), .rd (.pair b.toNat), .wr (.p p.toNat)]
  | .fcmpF32S _ k p a b => [.chk (k.toNat < 8), .rd (.v a.toNat), .rd (.s b.toNat), .wr (.p p.toNat)]
  | .cvt _ d a t r s => [.chk (s.toNat < 14), .chk (t.toNat < 14), .chk (r.toNat < 5), .rd (wide (type64 s) a.toNat), .wr (wide (type64 t) d.toNat)]
  | .movi _ d _ => [.wr (.v d.toNat)]
  | .mov _ d b => [.rdb x (.v b.toNat), .wr (.v d.toNat)]
  | .movb _ d _ b => [.rd (.s b.toNat), .wr (.v d.toNat)]
  | .mov64 _ d b => [.rd (.pair b.toNat), .wr (.pair d.toNat)]
  | .vrfl _ d a w => [.rd ((wide (w != 0#1) a.toNat)), .wr (.s d.toNat)]
  | .vrln _ d a w _ => [.rd ((wide (w != 0#1) a.toNat)), .wr (.s d.toNat)]
  | .vwln _ d a w _ => [.rd (.s a.toNat), .wr ((wide (w != 0#1) d.toNat))]
  | .widf _ d w k => [.chk (k.toNat < 6), .wr ((wide (w != 0#1) d.toNat))]
  | .srd _ d w n => [.rd (.sp n.toNat), .wr ((wide (w != 0#1) d.toNat))]
  | .swr _ w a n => [.rd ((wide (w != 0#1) a.toNat)), .wr (.sp n.toNat)]
  | .ptov _ d => [.rd (.p 1), .rd (.p 2), .rd (.p 3), .rd (.p 4), .rd (.p 5), .rd (.p 6), .rd (.p 7), .wr (.v d.toNat)]
  | .vtop _ a => [.rd (.v a.toNat), .wr (.p 1), .wr (.p 2), .wr (.p 3), .wr (.p 4), .wr (.p 5), .wr (.p 6), .wr (.p 7)]
  | .qwr _ d b => [.rd (.s b.toNat), .wr (.q d.toNat)]
  | .qrd _ d a => [.rd (.q a.toNat), .wr (.s d.toNat)]
  | .shflIdx _ d a b => [.rd (.v a.toNat), .rd (.v b.toNat), .wr (.v d.toNat)]
  | .shflUp _ d a _ => [.rd (.v a.toNat), .wr (.v d.toNat)]
  | .shflDown _ d a _ => [.rd (.v a.toNat), .wr (.v d.toNat)]
  | .shflXor _ d a _ => [.rd (.v a.toNat), .wr (.v d.toNat)]
  | .voteAny _ d a => [.rd (.p a.toNat), .wr (.p d.toNat)]
  | .voteAll _ d a => [.rd (.p a.toNat), .wr (.p d.toNat)]
  | .voteBallot _ d a => [.rd (.p a.toNat), .wr (.s d.toNat)]
  | .voteRedaddS32 _ d a => [.rd (.v a.toNat), .wr (.s d.toNat)]
  | .voteRedminS32 _ d a => [.rd (.v a.toNat), .wr (.s d.toNat)]
  | .voteRedmaxS32 _ d a => [.rd (.v a.toNat), .wr (.s d.toNat)]
  | .voteRedaddF32 _ d a => [.rd (.v a.toNat), .wr (.s d.toNat)]
  | .voteScanS32 _ d a => [.rd (.v a.toNat), .wr (.v d.toNat)]
  | .addSs _ d a b => [.rd (.s a.toNat), .rdb x (.s b.toNat), .wr (.s d.toNat)]
  | .subSs _ d a b => [.rd (.s a.toNat), .rdb x (.s b.toNat), .wr (.s d.toNat)]
  | .mulSs _ d a b => [.rd (.s a.toNat), .rdb x (.s b.toNat), .wr (.s d.toNat)]
  | .mulhiSs _ d a b => [.rd (.s a.toNat), .rdb x (.s b.toNat), .wr (.s d.toNat)]
  | .mulhiNSs _ d a b => [.rd (.s a.toNat), .rdb x (.s b.toNat), .wr (.s d.toNat)]
  | .minSs _ d a b => [.rd (.s a.toNat), .rdb x (.s b.toNat), .wr (.s d.toNat)]
  | .maxSs _ d a b => [.rd (.s a.toNat), .rdb x (.s b.toNat), .wr (.s d.toNat)]
  | .minNSs _ d a b => [.rd (.s a.toNat), .rdb x (.s b.toNat), .wr (.s d.toNat)]
  | .maxNSs _ d a b => [.rd (.s a.toNat), .rdb x (.s b.toNat), .wr (.s d.toNat)]
  | .andSs _ d a b => [.rd (.s a.toNat), .rdb x (.s b.toNat), .wr (.s d.toNat)]
  | .orSs _ d a b => [.rd (.s a.toNat), .rdb x (.s b.toNat), .wr (.s d.toNat)]
  | .xorSs _ d a b => [.rd (.s a.toNat), .rdb x (.s b.toNat), .wr (.s d.toNat)]
  | .shlSs _ d a b => [.rd (.s a.toNat), .rdb x (.s b.toNat), .wr (.s d.toNat)]
  | .shrSs _ d a b => [.rd (.s a.toNat), .rdb x (.s b.toNat), .wr (.s d.toNat)]
  | .sarSs _ d a b => [.rd (.s a.toNat), .rdb x (.s b.toNat), .wr (.s d.toNat)]
  | .rolSs _ d a b => [.rd (.s a.toNat), .rdb x (.s b.toNat), .wr (.s d.toNat)]
  | .addSi _ d a _ => [.rd (.s a.toNat), .wr (.s d.toNat)]
  | .subSi _ d a _ => [.rd (.s a.toNat), .wr (.s d.toNat)]
  | .mulSi _ d a _ => [.rd (.s a.toNat), .wr (.s d.toNat)]
  | .mulhiSi _ d a _ => [.rd (.s a.toNat), .wr (.s d.toNat)]
  | .mulhiNSi _ d a _ => [.rd (.s a.toNat), .wr (.s d.toNat)]
  | .minSi _ d a _ => [.rd (.s a.toNat), .wr (.s d.toNat)]
  | .maxSi _ d a _ => [.rd (.s a.toNat), .wr (.s d.toNat)]
  | .minNSi _ d a _ => [.rd (.s a.toNat), .wr (.s d.toNat)]
  | .maxNSi _ d a _ => [.rd (.s a.toNat), .wr (.s d.toNat)]
  | .andSi _ d a _ => [.rd (.s a.toNat), .wr (.s d.toNat)]
  | .orSi _ d a _ => [.rd (.s a.toNat), .wr (.s d.toNat)]
  | .xorSi _ d a _ => [.rd (.s a.toNat), .wr (.s d.toNat)]
  | .shlSi _ d a _ => [.rd (.s a.toNat), .wr (.s d.toNat)]
  | .shrSi _ d a _ => [.rd (.s a.toNat), .wr (.s d.toNat)]
  | .sarSi _ d a _ => [.rd (.s a.toNat), .wr (.s d.toNat)]
  | .rolSi _ d a _ => [.rd (.s a.toNat), .wr (.s d.toNat)]
  | .smovi _ d _ => [.wr (.s d.toNat)]
  | .scmp _ k p a b => [.chk (k.toNat < 10), .rd (.s a.toNat), .rd (.s b.toNat), .wr (.p p.toNat)]
  | .smadMad _ d a b => [.rd (.s a.toNat), .rd (.s b.toNat), .rd (.s d.toNat), .wr (.s d.toNat)]
  | .smadMadhS _ d a b => [.rd (.s a.toNat), .rd (.s b.toNat), .rd (.s d.toNat), .wr (.s d.toNat)]
  | .smadMadhN _ d a b => [.rd (.s a.toNat), .rd (.s b.toNat), .rd (.s d.toNat), .wr (.s d.toNat)]
  | .ld _ d a s z m _ => [.chk (z.toNat < 7), .chk (m != 3#2)] ++ maddr m s.toNat a.toNat ++ [.wr ((sized z d.toNat))]
  | .st _ d a s z m _ => [.chk (z.toNat < 7), .chk (z != 1#3 && z != 3#3), .chk (m != 3#2)] ++ maddr m s.toNat a.toNat ++ [.rd ((sized z d.toNat))]
  | .lds _ d a s z m => [.chk (z.toNat < 7), .chk (m != 3#2 || s.toNat < 8)] ++ maddr m s.toNat a.toNat ++ [.wr ((sized z d.toNat))]
  | .sts _ d a s z m => [.chk (z.toNat < 7), .chk (z != 1#3 && z != 3#3), .chk (m != 3#2 || s.toNat < 8)] ++ maddr m s.toNat a.toNat ++ [.rd ((sized z d.toNat))]
  | .ldfe _ d a s z m _ => [.chk (z.toNat < 7), .chk (m != 3#2 || s.toNat < 8)] ++ maddr m s.toNat a.toNat ++ [.wr ((sized z d.toNat))]
  | .sld _ d a s z m _ => [.chk (z.toNat < 6), .chk (m == 0#2 || m == 2#2), .rd (.s s.toNat), .rd (.s a.toNat), .wr (.s d.toNat)]
  | .sst _ d a s z m _ => [.chk (z.toNat < 6), .chk (m == 0#2 || m == 2#2), .chk (z != 1#3 && z != 3#3), .rd (.s s.toNat), .rd (.s a.toNat), .rd (.s d.toNat)]
  | .atomAdd _ d a b => [.rd (atomBase a), .rd (.v b.toNat), .wr (.v d.toNat)]
  | .atomMin _ d a b => [.rd (atomBase a), .rd (.v b.toNat), .wr (.v d.toNat)]
  | .atomMax _ d a b => [.rd (atomBase a), .rd (.v b.toNat), .wr (.v d.toNat)]
  | .atomMinN _ d a b => [.rd (atomBase a), .rd (.v b.toNat), .wr (.v d.toNat)]
  | .atomMaxN _ d a b => [.rd (atomBase a), .rd (.v b.toNat), .wr (.v d.toNat)]
  | .atomAnd _ d a b => [.rd (atomBase a), .rd (.v b.toNat), .wr (.v d.toNat)]
  | .atomOr _ d a b => [.rd (atomBase a), .rd (.v b.toNat), .wr (.v d.toNat)]
  | .atomXor _ d a b => [.rd (atomBase a), .rd (.v b.toNat), .wr (.v d.toNat)]
  | .atomExch _ d a b => [.rd (atomBase a), .rd (.v b.toNat), .wr (.v d.toNat)]
  | .atomIncw _ d a b => [.rd (atomBase a), .rd (.v b.toNat), .wr (.v d.toNat)]
  | .atomDecw _ d a b => [.rd (atomBase a), .rd (.v b.toNat), .wr (.v d.toNat)]
  | .atomFaddF32 _ d a b => [.rd (atomBase a), .rd (.v b.toNat), .wr (.v d.toNat)]
  | .atomFminF32 _ d a b => [.rd (atomBase a), .rd (.v b.toNat), .wr (.v d.toNat)]
  | .atomFmaxF32 _ d a b => [.rd (atomBase a), .rd (.v b.toNat), .wr (.v d.toNat)]
  | .atomFaddBf16x2 _ d a b => [.rd (atomBase a), .rd (.v b.toNat), .wr (.v d.toNat)]
  | .atom64Add _ d a b => [.rd (atomBase a), .rd (.pair b.toNat), .wr (.pair d.toNat)]
  | .atom64Min _ d a b => [.rd (atomBase a), .rd (.pair b.toNat), .wr (.pair d.toNat)]
  | .atom64Max _ d a b => [.rd (atomBase a), .rd (.pair b.toNat), .wr (.pair d.toNat)]
  | .atom64MinN _ d a b => [.rd (atomBase a), .rd (.pair b.toNat), .wr (.pair d.toNat)]
  | .atom64MaxN _ d a b => [.rd (atomBase a), .rd (.pair b.toNat), .wr (.pair d.toNat)]
  | .atom64And _ d a b => [.rd (atomBase a), .rd (.pair b.toNat), .wr (.pair d.toNat)]
  | .atom64Or _ d a b => [.rd (atomBase a), .rd (.pair b.toNat), .wr (.pair d.toNat)]
  | .atom64Xor _ d a b => [.rd (atomBase a), .rd (.pair b.toNat), .wr (.pair d.toNat)]
  | .atom64Exch _ d a b => [.rd (atomBase a), .rd (.pair b.toNat), .wr (.pair d.toNat)]
  | .atom64Incw _ d a b => [.rd (atomBase a), .rd (.pair b.toNat), .wr (.pair d.toNat)]
  | .atom64Decw _ d a b => [.rd (atomBase a), .rd (.pair b.toNat), .wr (.pair d.toNat)]
  | .atom64FaddF64 _ d a b => [.rd (atomBase a), .rd (.pair b.toNat), .wr (.pair d.toNat)]
  | .atom64FminF64 _ d a b => [.rd (atomBase a), .rd (.pair b.toNat), .wr (.pair d.toNat)]
  | .atom64FmaxF64 _ d a b => [.rd (atomBase a), .rd (.pair b.toNat), .wr (.pair d.toNat)]
  | .redAdd _ w a b => [.rd (atomBase a), .rd ((wide (w != 0#1) b.toNat))]
  | .redMin _ w a b => [.rd (atomBase a), .rd ((wide (w != 0#1) b.toNat))]
  | .redMax _ w a b => [.rd (atomBase a), .rd ((wide (w != 0#1) b.toNat))]
  | .redMinN _ w a b => [.rd (atomBase a), .rd ((wide (w != 0#1) b.toNat))]
  | .redMaxN _ w a b => [.rd (atomBase a), .rd ((wide (w != 0#1) b.toNat))]
  | .redAnd _ w a b => [.rd (atomBase a), .rd ((wide (w != 0#1) b.toNat))]
  | .redOr _ w a b => [.rd (atomBase a), .rd ((wide (w != 0#1) b.toNat))]
  | .redXor _ w a b => [.rd (atomBase a), .rd ((wide (w != 0#1) b.toNat))]
  | .redExch _ w a b => [.rd (atomBase a), .rd ((wide (w != 0#1) b.toNat))]
  | .redIncw _ w a b => [.rd (atomBase a), .rd ((wide (w != 0#1) b.toNat))]
  | .redDecw _ w a b => [.rd (atomBase a), .rd ((wide (w != 0#1) b.toNat))]
  | .redFadd _ w a b => [.rd (atomBase a), .rd ((wide (w != 0#1) b.toNat))]
  | .redFmin _ w a b => [.rd (atomBase a), .rd ((wide (w != 0#1) b.toNat))]
  | .redFmax _ w a b => [.rd (atomBase a), .rd ((wide (w != 0#1) b.toNat))]
  | .redFaddBf16x2 _ a b => [.rd (atomBase a), .rd (.v b.toNat)]
  | .casB32 _ d a b => [.rd (atomBase a), .rd (.v b.toNat), .rd (.v d.toNat), .wr (.v d.toNat)]
  | .casB64 _ d a b => [.rd (atomBase a), .rd (.pair b.toNat), .rd (.pair d.toNat), .wr (.pair d.toNat)]
  | .casB128 _ d a b => [.rd (atomBase a), .rd (.quad b.toNat), .rd (.quad d.toNat), .wr (.quad d.toNat)]
  | .patom _ d a b _ => [.rd (.pair (2 * a.toNat)), .rd (.pair b.toNat), .wr (.pair d.toNat)]
  | .fence _ o s => [.chk (o != 0#2), .chk (s != 0#3 && s != 7#3)]
  | .poll _ a b x w _ => [.rd ((wide ((~~~x) != 0#1) a.toNat)), .rd ((wide (w != 0#1) b.toNat))]
  | .farb _ _ _ => []
  | .fare _ p => [.wr (.p p.toNat)]
  | .farx _ => []
  | .fars _ a => [.wr (.pair a.toNat)]
  | .dflush _ => []
  | .pgreq _ a b => [.rd (.pair a.toNat), .rd (.s b.toNat)]
  | .pref _ a _ _ => [.rd (.pair a.toNat)]
  | .cinv _ a b => [.rd (.s a.toNat), .rd (.s b.toNat)]
  | .cwb _ a b => [.rd (.s a.toNat), .rd (.s b.toNat)]
  | .tagset _ a b => [.rd (.pair a.toNat), .rd (.v b.toNat)]
  | .tagget _ a b => [.rd (.pair a.toNat), .wr (.v b.toNat)]
  | .mfop _ => []
  | .feset _ a b => [.rd (.v a.toNat), .rd (.v b.toNat)]
  | .feclr _ a b => [.rd (.v a.toNat), .rd (.v b.toNat)]
  | .seqr _ a => [.wr (.s a.toNat)]
  | .cpy _ d a b _ z => [.chk (z != 3#2), .rd (.pair a.toNat), .rd (.pair b.toNat), .rd (.s d.toNat)]
  | .tile _ a b => [.rd (.s a.toNat), .rd (.s b.toNat)]
  | .unpk _ a b => [.rd (.s a.toNat), .rd (.s b.toNat)]
  | .pack _ a b => [.rd (.s a.toNat), .rd (.s b.toNat)]
  | .gath _ a b => [.rd (.s a.toNat), .rd (.s b.toNat)]
  | .scat _ a b => [.rd (.s a.toNat), .rd (.s b.toNat)]
  | .kvcp _ a b => [.rd (.s a.toNat), .rd (.s b.toNat)]
  | .cpw _ _ p => [.wr (.p p.toNat)]
  | .cps _ a _ => [.wr (.s a.toNat)]
  | .osclm _ n f => [.rd (.os n.toNat), .chk (f.toNat < 7)]
  | .osrel _ n => [.rd (.os n.toNat)]
  | .osst _ a b => [.rd (.v a.toNat), .rd (.s b.toNat)]
  | .osld _ a b => [.rd (.s b.toNat), .wr (.v a.toNat)]
  | .acz _ n => [.wr (.ac n.toNat)]
  | .acld _ a b => [.rd (.pair a.toNat), .rd (.s b.toNat)]
  | .acst _ a b => [.rd (.s b.toNat), .wr (.pair a.toNat)]
  | .mma _ a => [.rd (.s a.toNat)]
  | .mwait _ _ p => [.wr (.p p.toNat)]
  | .mstat _ a _ => [.wr (.s a.toNat)]
  | .seqnew _ a b => [.rd (.s a.toNat), .rd (.s b.toNat)]
  | .seqfree _ a b => [.rd (.s a.toNat), .rd (.s b.toNat)]
  | .tfork _ a b => [.rd (.s a.toNat), .rd (.s b.toNat)]
  | .tapp _ a b => [.rd (.s a.toNat), .rd (.s b.toNat)]
  | .kvwr _ a b => [.rd (.s a.toNat), .rd (.s b.toNat)]
  | .tprune _ a b => [.rd (.s a.toNat), .rd (.s b.toNat)]
  | .tcommit _ a b => [.rd (.s a.toNat), .rd (.s b.toNat)]
  | .tqry _ a b => [.rd (.s a.toNat), .rd (.s b.toNat)]
  | .twalk _ a b => [.rd (.s a.toNat), .rd (.s b.toNat)]
  | .kvgath _ a b => [.rd (.s a.toNat), .rd (.s b.toNat)]
  | .tmask _ a b => [.rd (.s a.toNat), .rd (.s b.toNat)]
  | .pfxq _ a b => [.rd (.s a.toNat), .rd (.s b.toNat)]
  | .pfxpub _ a b => [.rd (.s a.toNat), .rd (.s b.toNat)]
  | .pfxatt _ a b => [.rd (.s a.toNat), .rd (.s b.toNat)]
  | .kvresc _ a b => [.rd (.s a.toNat), .rd (.s b.toNat)]
  | .rope _ d a b => [.rd (.pair a.toNat), .rd (.quad b.toNat), .rd (.sp 25), .wr (.pair d.toNat)]
  | .sample _ a b => [.rd (.s a.toNat), .wr (.s b.toNat)]
  | .rng _ a b => [.rd (.s a.toNat), .wr (.s b.toNat)]
  | .rngf _ a b => [.rd (.s a.toNat), .wr (.s b.toNat)]
  | .argmax _ a b => [.rd (.s a.toNat), .wr (.s b.toNat)]
  | .coll _ a b => [.rd (.s a.toNat), .rd (.s b.toNat)]
  | .collw _ _ p => [.wr (.p p.toNat)]
  | .rsig _ a b => [.rd (.s a.toNat), .rd (.s b.toNat)]
  | .taskdec _ a b => [.rd (.s a.toNat), .rd (.s b.toNat)]
  | .tasknew _ a b => [.rd (.s b.toNat), .wr (.s a.toNat)]
  | .taskq _ a b => [.rd (.s b.toNat), .wr (.s a.toNat)]
  | .tkrcv _ a b => [.chk (a.toNat != 0 && a.toNat < 28), .rd (.s b.toNat), .wr (.s (a.toNat + 0)), .wr (.s (a.toNat + 1)), .wr (.s (a.toNat + 2)), .wr (.s (a.toNat + 3)), .wr (.s (a.toNat + 4))]
  | .tkpost _ a b => [.rd (.s a.toNat), .rd (.s b.toNat)]
  | .ctxsv _ a b => [.rd (.s a.toNat), .rd (.s b.toNat)]
  | .ctxld _ a b => [.rd (.s a.toNat), .rd (.s b.toNat)]
  | .tlbi _ a b => [.rd (.s a.toNat), .rd (.s b.toNat)]
  | .fltcan _ a b => [.rd (.s a.toNat), .rd (.s b.toNat)]
  | .fltrpl _ a b => [.rd (.s a.toNat), .rd (.s b.toNat)]
  | .haltqNow _ a p => [.rd (.s a.toNat), .wr (.p p.toNat)]
  | .haltqQuiesce _ a p => [.rd (.s a.toNat), .wr (.p p.toNat)]
  | .haltqRelease _ a p => [.rd (.s a.toNat), .wr (.p p.toNat)]
  | .snaparm _ a => [.rd (.s a.toNat)]
  | .engineWrite core _ => [.chk (core < 144)]
  | .longLatencyLoad core _ => [.chk (core < 144)]
  | .prefixDirectoryRequest _ => []
  | .modelEnable _ => []

/-- The numbers of the special register table (R140). -/
def specialNumber (n : Nat) : Bool :=
  n < 15 || (16 ≤ n && n < 22) || n = 24 || n = 25 || (28 ≤ n && n < 31)

/-- A named register exists in a launch of `vregs` vector registers (R59). -/
def Opnd.legal (vregs : Nat) : Opnd → Bool
  | .v n => n < vregs
  | .pair n => n % 2 = 0 && n + 1 < vregs
  | .quad n => n % 4 = 0 && n + 3 < vregs
  | .s n => n < 32
  | .p n => n < 8
  | .m n => n < 12
  | .q n => n < 8
  | .os n => n < 64
  | .ac n => n < 32
  | .sp n => specialNumber n

/-- A use passes the checks of R59 and R63. -/
def Use.legal (vregs : Nat) : Use → Bool
  | .rd o => o.legal vregs
  | .wr o => o.legal vregs
  | .chk ok => ok

/-- The instruction is legal in a launch of `vregs` vector registers, with or without XIMM. -/
def Instr.legal (vregs : Nat) (ximm : Bool) (i : Instr) : Bool :=
  (i.uses ximm).all (Use.legal vregs)

/-- Well-formed: legal, with or without an XIMM prefix, where all 128 vector registers exist (R59). -/
def Instr.wf (i : Instr) : Bool := i.legal 128 false || i.legal 128 true

/-- The single registers that a named register covers (R51). -/
def Opnd.covers : Opnd → List Opnd
  | .pair n => [.v n, .v (n + 1)]
  | .quad n => [.v n, .v (n + 1), .v (n + 2), .v (n + 3)]
  | o => [o]

/-- The registers an instruction writes, each once per register covered; p0 and s0 hold no state (R51, R115). -/
def Instr.writes (ximm : Bool) (i : Instr) : List Opnd :=
  ((i.uses ximm).flatMap fun u => match u with
    | .wr o => o.covers
    | _ => []).filter fun o => o ≠ .p 0 && o ≠ .s 0

/-- The registers an instruction reads. -/
def Instr.reads (ximm : Bool) (i : Instr) : List Opnd :=
  (i.uses ximm).flatMap fun u => match u with
    | .rd o => o.covers
    | _ => []

end Sys2Proof
end

