-- ==== Sys2Proof/Decode.lean ====
section
/-! DEFINITION. The decoder and the encoder of instruction words (R39, R54, R58, R61, R63), and the words of
a code line (R42 to R45). -/

namespace Sys2Proof

/-- Why a word is no instruction (R63). `illegalEncoding` names the member whose unused bits are not zero, read without
them; `haltqMode` is HALTQ with F[1:0] = 3, which raises FORMAT (R377), read as if F were 0. -/
inductive Reject where
  | illegalPrefix | reservedOpcode
  | illegalEncoding (i : Instr)
  | haltqMode (i : Instr)
  deriving DecidableEq, Repr

/-- Bits `lo + n - 1` down to `lo` of a word. -/
def fld {n : Nat} (w : Word) (lo : Nat) : BitVec n := w.extractLsb' lo n

/-- Bits `lo + n - 1` down to `lo` of a word, as a number. -/
def fldNat (w : Word) (lo n : Nat) : Nat := w.toNat / 2 ^ lo % 2 ^ n

/-- The chain bit C (R39). -/
def chainBit (w : Word) : Bool := w.getLsbD 31

/-- A row of the map: an instruction, if the bits it does not use are zero (R63). -/
def row (w : Word) (zero : List (Nat × Nat)) (i : Instr) : Except Reject Instr :=
  if zero.all fun z => fldNat w z.1 z.2 = 0 then .ok i else .error (.illegalEncoding i)


/-- The members of major 0x00, CTL (R121). -/
def decode00 (w : Word) : Except Reject Instr :=
  match fldNat w 18 7 with
  | 0 => row w [(0, 18)] (.nop (chainBit w))
  | 1 => row w [(0, 18)] (.exit (chainBit w))
  | 2 => row w [(0, 4)] (.trap (chainBit w) (fld w 4))
  | 3 => row w [(0, 18)] (.yield (chainBit w))
  | 4 => row w [(0, 18)] (.step (chainBit w))
  | 5 => row w [(0, 18)] (.brk (chainBit w))
  | 6 => row w [(0, 18)] (.tret (chainBit w))
  | 7 => row w [(0, 18)] (.ydone (chainBit w))
  | 8 => row w [(0, 4)] (.snap (chainBit w) (fld w 4))
  | _ => .error .reservedOpcode

/-- The members of major 0x01, BR (R125). -/
def decode01 (w : Word) : Except Reject Instr :=
  match fldNat w 21 4 with
  | 0 => row w [(18, 3)] (.bra (chainBit w) (fld w 0))
  | 1 => row w [] (.brt (chainBit w) (fld w 18) (fld w 0))
  | 2 => row w [] (.brf (chainBit w) (fld w 18) (fld w 0))
  | 3 => row w [(18, 3)] (.call (chainBit w) (fld w 0))
  | 4 => row w [] (.brany (chainBit w) (fld w 18) (fld w 0))
  | 5 => row w [] (.brall (chainBit w) (fld w 18) (fld w 0))
  | _ => .error .reservedOpcode

/-- The members of major 0x02, BRX (R126). -/
def decode02 (w : Word) : Except Reject Instr :=
  match fldNat w 0 4 with
  | 0 => row w [(4, 7), (18, 7)] (.bri (chainBit w) (fld w 11))
  | 1 => row w [(4, 7)] (.calli (chainBit w) (fld w 18) (fld w 11))
  | 2 => row w [(4, 7), (18, 7)] (.ret (chainBit w) (fld w 11))
  | _ => .error .reservedOpcode

/-- The members of major 0x03, CONV (R127). -/
def decode03 (w : Word) : Except Reject Instr :=
  match fldNat w 18 7 with
  | 0 => row w [(0, 11), (15, 3)] (.join (chainBit w) (fld w 11))
  | 1 => row w [(0, 11), (15, 3)] (.leave (chainBit w) (fld w 11))
  | 2 => row w [(0, 11), (15, 3)] (.waitm (chainBit w) (fld w 11))
  | 3 => row w [(0, 4), (8, 3), (16, 2)] (.mrd (chainBit w) (fld w 11) (fld w 4))
  | 4 => row w [(0, 4), (8, 3), (16, 2)] (.mwr (chainBit w) (fld w 11) (fld w 4))
  | 5 => row w [(0, 11), (16, 2)] (.mact (chainBit w) (fld w 11))
  | 6 => row w [(0, 18)] (.bar (chainBit w))
  | 7 => row w [(0, 11), (14, 4)] (.barl (chainBit w) (fld w 11))
  | _ => .error .reservedOpcode

/-- The members of major 0x04, IALU.vv (R129). -/
def decode04 (w : Word) : Except Reject Instr :=
  match fldNat w 0 4 with
  | 0 => row w [] (.addVv (chainBit w) (fld w 18) (fld w 11) (fld w 4))
  | 1 => row w [] (.subVv (chainBit w) (fld w 18) (fld w 11) (fld w 4))
  | 2 => row w [] (.mulVv (chainBit w) (fld w 18) (fld w 11) (fld w 4))
  | 3 => row w [] (.mulhiVv (chainBit w) (fld w 18) (fld w 11) (fld w 4))
  | 4 => row w [] (.mulhiNVv (chainBit w) (fld w 18) (fld w 11) (fld w 4))
  | 5 => row w [] (.minVv (chainBit w) (fld w 18) (fld w 11) (fld w 4))
  | 6 => row w [] (.maxVv (chainBit w) (fld w 18) (fld w 11) (fld w 4))
  | 7 => row w [] (.minNVv (chainBit w) (fld w 18) (fld w 11) (fld w 4))
  | 8 => row w [] (.maxNVv (chainBit w) (fld w 18) (fld w 11) (fld w 4))
  | 9 => row w [] (.andVv (chainBit w) (fld w 18) (fld w 11) (fld w 4))
  | 10 => row w [] (.orVv (chainBit w) (fld w 18) (fld w 11) (fld w 4))
  | 11 => row w [] (.xorVv (chainBit w) (fld w 18) (fld w 11) (fld w 4))
  | 12 => row w [] (.shlVv (chainBit w) (fld w 18) (fld w 11) (fld w 4))
  | 13 => row w [] (.shrVv (chainBit w) (fld w 18) (fld w 11) (fld w 4))
  | 14 => row w [] (.sarVv (chainBit w) (fld w 18) (fld w 11) (fld w 4))
  | 15 => row w [] (.rolVv (chainBit w) (fld w 18) (fld w 11) (fld w 4))
  | _ => .error .reservedOpcode

/-- The members of major 0x05, IALU.vs (R129). -/
def decode05 (w : Word) : Except Reject Instr :=
  match fldNat w 0 4 with
  | 0 => row w [(9, 2)] (.addVs (chainBit w) (fld w 18) (fld w 11) (fld w 4))
  | 1 => row w [(9, 2)] (.subVs (chainBit w) (fld w 18) (fld w 11) (fld w 4))
  | 2 => row w [(9, 2)] (.mulVs (chainBit w) (fld w 18) (fld w 11) (fld w 4))
  | 3 => row w [(9, 2)] (.mulhiVs (chainBit w) (fld w 18) (fld w 11) (fld w 4))
  | 4 => row w [(9, 2)] (.mulhiNVs (chainBit w) (fld w 18) (fld w 11) (fld w 4))
  | 5 => row w [(9, 2)] (.minVs (chainBit w) (fld w 18) (fld w 11) (fld w 4))
  | 6 => row w [(9, 2)] (.maxVs (chainBit w) (fld w 18) (fld w 11) (fld w 4))
  | 7 => row w [(9, 2)] (.minNVs (chainBit w) (fld w 18) (fld w 11) (fld w 4))
  | 8 => row w [(9, 2)] (.maxNVs (chainBit w) (fld w 18) (fld w 11) (fld w 4))
  | 9 => row w [(9, 2)] (.andVs (chainBit w) (fld w 18) (fld w 11) (fld w 4))
  | 10 => row w [(9, 2)] (.orVs (chainBit w) (fld w 18) (fld w 11) (fld w 4))
  | 11 => row w [(9, 2)] (.xorVs (chainBit w) (fld w 18) (fld w 11) (fld w 4))
  | 12 => row w [(9, 2)] (.shlVs (chainBit w) (fld w 18) (fld w 11) (fld w 4))
  | 13 => row w [(9, 2)] (.shrVs (chainBit w) (fld w 18) (fld w 11) (fld w 4))
  | 14 => row w [(9, 2)] (.sarVs (chainBit w) (fld w 18) (fld w 11) (fld w 4))
  | 15 => row w [(9, 2)] (.rolVs (chainBit w) (fld w 18) (fld w 11) (fld w 4))
  | _ => .error .reservedOpcode

/-- The members of major 0x06, IALU.vi (R129). -/
def decode06 (w : Word) : Except Reject Instr :=
  match fldNat w 7 4 with
  | 0 => row w [] (.addVi (chainBit w) (fld w 18) (fld w 11) (fld w 0))
  | 1 => row w [] (.subVi (chainBit w) (fld w 18) (fld w 11) (fld w 0))
  | 2 => row w [] (.mulVi (chainBit w) (fld w 18) (fld w 11) (fld w 0))
  | 3 => row w [] (.mulhiVi (chainBit w) (fld w 18) (fld w 11) (fld w 0))
  | 4 => row w [] (.mulhiNVi (chainBit w) (fld w 18) (fld w 11) (fld w 0))
  | 5 => row w [] (.minVi (chainBit w) (fld w 18) (fld w 11) (fld w 0))
  | 6 => row w [] (.maxVi (chainBit w) (fld w 18) (fld w 11) (fld w 0))
  | 7 => row w [] (.minNVi (chainBit w) (fld w 18) (fld w 11) (fld w 0))
  | 8 => row w [] (.maxNVi (chainBit w) (fld w 18) (fld w 11) (fld w 0))
  | 9 => row w [] (.andVi (chainBit w) (fld w 18) (fld w 11) (fld w 0))
  | 10 => row w [] (.orVi (chainBit w) (fld w 18) (fld w 11) (fld w 0))
  | 11 => row w [] (.xorVi (chainBit w) (fld w 18) (fld w 11) (fld w 0))
  | 12 => row w [] (.shlVi (chainBit w) (fld w 18) (fld w 11) (fld w 0))
  | 13 => row w [] (.shrVi (chainBit w) (fld w 18) (fld w 11) (fld w 0))
  | 14 => row w [] (.sarVi (chainBit w) (fld w 18) (fld w 11) (fld w 0))
  | 15 => row w [] (.rolVi (chainBit w) (fld w 18) (fld w 11) (fld w 0))
  | _ => .error .reservedOpcode

/-- The members of major 0x07, IMAD (R130). -/
def decode07 (w : Word) : Except Reject Instr :=
  match fldNat w 0 4 with
  | 0 => row w [] (.madS32 (chainBit w) (fld w 18) (fld w 11) (fld w 4))
  | 1 => row w [] (.madN32 (chainBit w) (fld w 18) (fld w 11) (fld w 4))
  | 2 => row w [] (.madwS (chainBit w) (fld w 18) (fld w 11) (fld w 4))
  | 3 => row w [] (.madwN (chainBit w) (fld w 18) (fld w 11) (fld w 4))
  | 4 => row w [] (.madhS (chainBit w) (fld w 18) (fld w 11) (fld w 4))
  | 5 => row w [] (.madhN (chainBit w) (fld w 18) (fld w 11) (fld w 4))
  | _ => .error .reservedOpcode

/-- The members of major 0x08, IUN (R131). -/
def decode08 (w : Word) : Except Reject Instr :=
  match fldNat w 0 4 with
  | 0 => row w [(4, 7)] (.negI (chainBit w) (fld w 18) (fld w 11))
  | 1 => row w [(4, 7)] (.absI (chainBit w) (fld w 18) (fld w 11))
  | 2 => row w [(4, 7)] (.notB (chainBit w) (fld w 18) (fld w 11))
  | 3 => row w [(4, 7)] (.popc (chainBit w) (fld w 18) (fld w 11))
  | 4 => row w [(4, 7)] (.clz (chainBit w) (fld w 18) (fld w 11))
  | 5 => row w [(4, 7)] (.brev (chainBit w) (fld w 18) (fld w 11))
  | 6 => row w [] (.bfe (chainBit w) (fld w 18) (fld w 11) (fld w 4))
  | 7 => row w [] (.bfi (chainBit w) (fld w 18) (fld w 11) (fld w 4))
  | 8 => row w [(4, 7)] (.sext8 (chainBit w) (fld w 18) (fld w 11))
  | 9 => row w [(4, 7)] (.sext16 (chainBit w) (fld w 18) (fld w 11))
  | 10 => row w [(4, 7)] (.zext8 (chainBit w) (fld w 18) (fld w 11))
  | 11 => row w [(4, 7)] (.zext16 (chainBit w) (fld w 18) (fld w 11))
  | _ => .error .reservedOpcode

/-- The members of major 0x09, I64 (R132). -/
def decode09 (w : Word) : Except Reject Instr :=
  match fldNat w 0 4 with
  | 0 => row w [] (.addB64 (chainBit w) (fld w 18) (fld w 11) (fld w 4))
  | 1 => row w [] (.subB64 (chainBit w) (fld w 18) (fld w 11) (fld w 4))
  | 2 => row w [] (.mulloB64 (chainBit w) (fld w 18) (fld w 11) (fld w 4))
  | 3 => row w [] (.shlB64 (chainBit w) (fld w 18) (fld w 11) (fld w 4))
  | 4 => row w [] (.shrB64 (chainBit w) (fld w 18) (fld w 11) (fld w 4))
  | 5 => row w [] (.sarB64 (chainBit w) (fld w 18) (fld w 11) (fld w 4))
  | 6 => row w [] (.minB64 (chainBit w) (fld w 18) (fld w 11) (fld w 4))
  | 7 => row w [] (.maxB64 (chainBit w) (fld w 18) (fld w 11) (fld w 4))
  | 8 => row w [] (.minNB64 (chainBit w) (fld w 18) (fld w 11) (fld w 4))
  | 9 => row w [] (.maxNB64 (chainBit w) (fld w 18) (fld w 11) (fld w 4))
  | 10 => row w [] (.andB64 (chainBit w) (fld w 18) (fld w 11) (fld w 4))
  | 11 => row w [] (.orB64 (chainBit w) (fld w 18) (fld w 11) (fld w 4))
  | 12 => row w [] (.xorB64 (chainBit w) (fld w 18) (fld w 11) (fld w 4))
  | _ => .error .reservedOpcode

/-- The members of major 0x0A, ICMP (R133). -/
def decode0A (w : Word) : Except Reject Instr :=
  if 10 ≤ fldNat w 21 4 then .error .reservedOpcode else
  match fldNat w 0 4 with
  | 0 => row w [] (.icmpS32Vv (chainBit w) (fld w 21) (fld w 18) (fld w 11) (fld w 4))
  | 1 => row w [(9, 2)] (.icmpS32Vs (chainBit w) (fld w 21) (fld w 18) (fld w 11) (fld w 4))
  | 2 => row w [] (.icmpB64Vv (chainBit w) (fld w 21) (fld w 18) (fld w 11) (fld w 4))
  | 3 => row w [(9, 2)] (.icmpB64Vs (chainBit w) (fld w 21) (fld w 18) (fld w 11) (fld w 4))
  | 4 => row w [] (.icmpAndS32Vv (chainBit w) (fld w 21) (fld w 18) (fld w 11) (fld w 4))
  | 5 => row w [(9, 2)] (.icmpAndS32Vs (chainBit w) (fld w 21) (fld w 18) (fld w 11) (fld w 4))
  | 6 => row w [] (.icmpAndB64Vv (chainBit w) (fld w 21) (fld w 18) (fld w 11) (fld w 4))
  | 7 => row w [(9, 2)] (.icmpAndB64Vs (chainBit w) (fld w 21) (fld w 18) (fld w 11) (fld w 4))
  | _ => .error .reservedOpcode

/-- The members of major 0x0B, SEL (R134). -/
def decode0B (w : Word) : Except Reject Instr := row w [] (.sel (chainBit w) (fld w 18) (fld w 11) (fld w 4) (fld w 3) (fld w 0))

/-- The members of major 0x0C, PLOG (R135). -/
def decode0C (w : Word) : Except Reject Instr :=
  match fldNat w 0 4 with
  | 0 => row w [(7, 4), (14, 4), (21, 4)] (.pand (chainBit w) (fld w 18) (fld w 11) (fld w 4))
  | 1 => row w [(7, 4), (14, 4), (21, 4)] (.por (chainBit w) (fld w 18) (fld w 11) (fld w 4))
  | 2 => row w [(7, 4), (14, 4), (21, 4)] (.pxor (chainBit w) (fld w 18) (fld w 11) (fld w 4))
  | 3 => row w [(7, 4), (14, 4), (21, 4)] (.pandn (chainBit w) (fld w 18) (fld w 11) (fld w 4))
  | 4 => row w [(4, 7), (14, 4), (21, 4)] (.pmov (chainBit w) (fld w 18) (fld w 11))
  | 5 => row w [(4, 7), (14, 4), (21, 4)] (.pnot (chainBit w) (fld w 18) (fld w 11))
  | _ => .error .reservedOpcode

/-- The members of major 0x0D, F32.vv (R183). -/
def decode0D (w : Word) : Except Reject Instr :=
  match fldNat w 0 4 with
  | 0 => row w [] (.addF32Vv (chainBit w) (fld w 18) (fld w 11) (fld w 4))
  | 1 => row w [] (.subF32Vv (chainBit w) (fld w 18) (fld w 11) (fld w 4))
  | 2 => row w [] (.mulF32Vv (chainBit w) (fld w 18) (fld w 11) (fld w 4))
  | 3 => row w [] (.minF32Vv (chainBit w) (fld w 18) (fld w 11) (fld w 4))
  | 4 => row w [] (.maxF32Vv (chainBit w) (fld w 18) (fld w 11) (fld w 4))
  | 5 => row w [] (.divF32Vv (chainBit w) (fld w 18) (fld w 11) (fld w 4))
  | 6 => row w [] (.scaleF32Vv (chainBit w) (fld w 18) (fld w 11) (fld w 4))
  | _ => .error .reservedOpcode

/-- The members of major 0x0E, F32.vs (R183). -/
def decode0E (w : Word) : Except Reject Instr :=
  match fldNat w 0 4 with
  | 0 => row w [(9, 2)] (.addF32Vs (chainBit w) (fld w 18) (fld w 11) (fld w 4))
  | 1 => row w [(9, 2)] (.subF32Vs (chainBit w) (fld w 18) (fld w 11) (fld w 4))
  | 2 => row w [(9, 2)] (.mulF32Vs (chainBit w) (fld w 18) (fld w 11) (fld w 4))
  | 3 => row w [(9, 2)] (.minF32Vs (chainBit w) (fld w 18) (fld w 11) (fld w 4))
  | 4 => row w [(9, 2)] (.maxF32Vs (chainBit w) (fld w 18) (fld w 11) (fld w 4))
  | 5 => row w [(9, 2)] (.divF32Vs (chainBit w) (fld w 18) (fld w 11) (fld w 4))
  | 6 => row w [(9, 2)] (.scaleF32Vs (chainBit w) (fld w 18) (fld w 11) (fld w 4))
  | _ => .error .reservedOpcode

/-- The members of major 0x0F, FFMA (R184). -/
noncomputable def decode0F (w : Word) : Except Reject Instr :=
  match fldNat w 0 4 with
  | 0 => row w [] (.ffmaF32 (chainBit w) (fld w 18) (fld w 11) (fld w 4))
  | 1 => row w [(9, 2)] (.ffmaF32S (chainBit w) (fld w 18) (fld w 11) (fld w 4))
  | 2 => row w [] (.ffmaF64 (chainBit w) (fld w 18) (fld w 11) (fld w 4))
  | 3 => row w [(9, 2)] (.ffmaF64S (chainBit w) (fld w 18) (fld w 11) (fld w 4))
  | 4 => row w [] (.ffmaF16x2 (chainBit w) (fld w 18) (fld w 11) (fld w 4))
  | 5 => row w [] (.ffmaBf16x2 (chainBit w) (fld w 18) (fld w 11) (fld w 4))
  | 6 => row w [] (.fnmaF32 (chainBit w) (fld w 18) (fld w 11) (fld w 4))
  | 7 => row w [] (.fnmaF64 (chainBit w) (fld w 18) (fld w 11) (fld w 4))
  | _ => .error .reservedOpcode

/-- The members of major 0x10, F64 (R183). -/
noncomputable def decode10 (w : Word) : Except Reject Instr :=
  match fldNat w 0 4 with
  | 0 => row w [] (.addF64 (chainBit w) (fld w 18) (fld w 11) (fld w 4))
  | 1 => row w [] (.subF64 (chainBit w) (fld w 18) (fld w 11) (fld w 4))
  | 2 => row w [] (.mulF64 (chainBit w) (fld w 18) (fld w 11) (fld w 4))
  | 3 => row w [] (.minF64 (chainBit w) (fld w 18) (fld w 11) (fld w 4))
  | 4 => row w [] (.maxF64 (chainBit w) (fld w 18) (fld w 11) (fld w 4))
  | 5 => row w [] (.divF64 (chainBit w) (fld w 18) (fld w 11) (fld w 4))
  | 6 => row w [] (.scaleF64 (chainBit w) (fld w 18) (fld w 11) (fld w 4))
  | _ => .error .reservedOpcode

/-- The members of major 0x11, FH (R185). -/
noncomputable def decode11 (w : Word) : Except Reject Instr :=
  match fldNat w 0 4 with
  | 0 => row w [] (.addF16x2 (chainBit w) (fld w 18) (fld w 11) (fld w 4))
  | 1 => row w [] (.mulF16x2 (chainBit w) (fld w 18) (fld w 11) (fld w 4))
  | 2 => row w [] (.minF16x2 (chainBit w) (fld w 18) (fld w 11) (fld w 4))
  | 3 => row w [] (.maxF16x2 (chainBit w) (fld w 18) (fld w 11) (fld w 4))
  | 4 => row w [] (.addBf16x2 (chainBit w) (fld w 18) (fld w 11) (fld w 4))
  | 5 => row w [] (.mulBf16x2 (chainBit w) (fld w 18) (fld w 11) (fld w 4))
  | 6 => row w [] (.minBf16x2 (chainBit w) (fld w 18) (fld w 11) (fld w 4))
  | 7 => row w [] (.maxBf16x2 (chainBit w) (fld w 18) (fld w 11) (fld w 4))
  | _ => .error .reservedOpcode

/-- The members of major 0x12, FUN (R186). -/
noncomputable def decode12 (w : Word) : Except Reject Instr :=
  match fldNat w 0 4 with
  | 0 => row w [(5, 6)] (.rcp (chainBit w) (fld w 18) (fld w 11) (fld w 4))
  | 1 => row w [(5, 6)] (.rsq (chainBit w) (fld w 18) (fld w 11) (fld w 4))
  | 2 => row w [(5, 6)] (.sqrt (chainBit w) (fld w 18) (fld w 11) (fld w 4))
  | 3 => if fldNat w 4 1 = 1 then .error .reservedOpcode else row w [(4, 7)] (.exp2 (chainBit w) (fld w 18) (fld w 11))
  | 4 => if fldNat w 4 1 = 1 then .error .reservedOpcode else row w [(4, 7)] (.log2 (chainBit w) (fld w 18) (fld w 11))
  | 5 => if fldNat w 4 1 = 1 then .error .reservedOpcode else row w [(4, 7)] (.sinpi (chainBit w) (fld w 18) (fld w 11))
  | 6 => if fldNat w 4 1 = 1 then .error .reservedOpcode else row w [(4, 7)] (.cospi (chainBit w) (fld w 18) (fld w 11))
  | 7 => row w [(5, 6)] (.absFloat (chainBit w) (fld w 18) (fld w 11) (fld w 4))
  | 8 => row w [(5, 6)] (.negFloat (chainBit w) (fld w 18) (fld w 11) (fld w 4))
  | 9 => row w [(5, 6)] (.rnd (chainBit w) (fld w 18) (fld w 11) (fld w 4))
  | 10 => row w [(5, 6)] (.classF (chainBit w) (fld w 18) (fld w 11) (fld w 4))
  | 11 => row w [(5, 6)] (.fract (chainBit w) (fld w 18) (fld w 11) (fld w 4))
  | _ => .error .reservedOpcode

/-- The members of major 0x13, FCMP (R188). -/
noncomputable def decode13 (w : Word) : Except Reject Instr :=
  if 8 ≤ fldNat w 21 4 then .error .reservedOpcode else
  match fldNat w 0 4 with
  | 0 => row w [] (.fcmpF32 (chainBit w) (fld w 21) (fld w 18) (fld w 11) (fld w 4))
  | 1 => row w [] (.fcmpF64 (chainBit w) (fld w 21) (fld w 18) (fld w 11) (fld w 4))
  | 2 => row w [(9, 2)] (.fcmpF32S (chainBit w) (fld w 21) (fld w 18) (fld w 11) (fld w 4))
  | _ => .error .reservedOpcode

/-- The members of major 0x14, CVT (R189). -/
noncomputable def decode14 (w : Word) : Except Reject Instr :=
  if 14 ≤ fldNat w 0 4 then .error .reservedOpcode else row w [] (.cvt (chainBit w) (fld w 18) (fld w 11) (fld w 7) (fld w 4) (fld w 0))

/-- The members of major 0x15, MOVI (R136). -/
noncomputable def decode15 (w : Word) : Except Reject Instr := row w [] (.movi (chainBit w) (fld w 18) (fld w 0))

/-- The members of major 0x16, MOVX (R137). -/
noncomputable def decode16 (w : Word) : Except Reject Instr :=
  match fldNat w 0 4 with
  | 0 => row w [(11, 7)] (.mov (chainBit w) (fld w 18) (fld w 4))
  | 1 => row w [(9, 2), (12, 6)] (.movb (chainBit w) (fld w 18) (fld w 11) (fld w 4))
  | 2 => row w [(11, 7)] (.mov64 (chainBit w) (fld w 18) (fld w 4))
  | 3 => row w [(5, 6), (23, 2)] (.vrfl (chainBit w) (fld w 18) (fld w 11) (fld w 4))
  | 4 => row w [(10, 1), (23, 2)] (.vrln (chainBit w) (fld w 18) (fld w 11) (fld w 9) (fld w 4))
  | 5 => row w [(10, 1), (16, 2)] (.vwln (chainBit w) (fld w 18) (fld w 11) (fld w 9) (fld w 4))
  | 6 => row w [(8, 10)] (.widf (chainBit w) (fld w 18) (fld w 7) (fld w 4))
  | 7 => row w [(12, 6)] (.srd (chainBit w) (fld w 18) (fld w 11) (fld w 4))
  | 8 => row w [(19, 6)] (.swr (chainBit w) (fld w 18) (fld w 11) (fld w 4))
  | 9 => row w [(4, 14)] (.ptov (chainBit w) (fld w 18))
  | 10 => row w [(4, 7), (18, 7)] (.vtop (chainBit w) (fld w 11))
  | 11 => row w [(9, 9), (21, 4)] (.qwr (chainBit w) (fld w 18) (fld w 4))
  | 12 => row w [(4, 7), (14, 4), (23, 2)] (.qrd (chainBit w) (fld w 18) (fld w 11))
  | _ => .error .reservedOpcode

/-- The members of major 0x17, SHFL (R142). -/
noncomputable def decode17 (w : Word) : Except Reject Instr :=
  match fldNat w 0 4 with
  | 0 => row w [] (.shflIdx (chainBit w) (fld w 18) (fld w 11) (fld w 4))
  | 1 => row w [(9, 2)] (.shflUp (chainBit w) (fld w 18) (fld w 11) (fld w 4))
  | 2 => row w [(9, 2)] (.shflDown (chainBit w) (fld w 18) (fld w 11) (fld w 4))
  | 3 => row w [(9, 2)] (.shflXor (chainBit w) (fld w 18) (fld w 11) (fld w 4))
  | _ => .error .reservedOpcode

/-- The members of major 0x18, VOTE (R143). -/
noncomputable def decode18 (w : Word) : Except Reject Instr :=
  match fldNat w 0 4 with
  | 0 => row w [(4, 7), (14, 4), (21, 4)] (.voteAny (chainBit w) (fld w 18) (fld w 11))
  | 1 => row w [(4, 7), (14, 4), (21, 4)] (.voteAll (chainBit w) (fld w 18) (fld w 11))
  | 2 => row w [(4, 7), (14, 4), (23, 2)] (.voteBallot (chainBit w) (fld w 18) (fld w 11))
  | 3 => row w [(4, 7), (23, 2)] (.voteRedaddS32 (chainBit w) (fld w 18) (fld w 11))
  | 4 => row w [(4, 7), (23, 2)] (.voteRedminS32 (chainBit w) (fld w 18) (fld w 11))
  | 5 => row w [(4, 7), (23, 2)] (.voteRedmaxS32 (chainBit w) (fld w 18) (fld w 11))
  | 6 => row w [(4, 7), (23, 2)] (.voteRedaddF32 (chainBit w) (fld w 18) (fld w 11))
  | 7 => row w [(4, 7)] (.voteScanS32 (chainBit w) (fld w 18) (fld w 11))
  | _ => .error .reservedOpcode

/-- The members of major 0x19, SALU.ss (R144). -/
noncomputable def decode19 (w : Word) : Except Reject Instr :=
  match fldNat w 0 4 with
  | 0 => row w [(16, 2), (23, 2)] (.addSs (chainBit w) (fld w 18) (fld w 11) (fld w 4))
  | 1 => row w [(16, 2), (23, 2)] (.subSs (chainBit w) (fld w 18) (fld w 11) (fld w 4))
  | 2 => row w [(16, 2), (23, 2)] (.mulSs (chainBit w) (fld w 18) (fld w 11) (fld w 4))
  | 3 => row w [(16, 2), (23, 2)] (.mulhiSs (chainBit w) (fld w 18) (fld w 11) (fld w 4))
  | 4 => row w [(16, 2), (23, 2)] (.mulhiNSs (chainBit w) (fld w 18) (fld w 11) (fld w 4))
  | 5 => row w [(16, 2), (23, 2)] (.minSs (chainBit w) (fld w 18) (fld w 11) (fld w 4))
  | 6 => row w [(16, 2), (23, 2)] (.maxSs (chainBit w) (fld w 18) (fld w 11) (fld w 4))
  | 7 => row w [(16, 2), (23, 2)] (.minNSs (chainBit w) (fld w 18) (fld w 11) (fld w 4))
  | 8 => row w [(16, 2), (23, 2)] (.maxNSs (chainBit w) (fld w 18) (fld w 11) (fld w 4))
  | 9 => row w [(16, 2), (23, 2)] (.andSs (chainBit w) (fld w 18) (fld w 11) (fld w 4))
  | 10 => row w [(16, 2), (23, 2)] (.orSs (chainBit w) (fld w 18) (fld w 11) (fld w 4))
  | 11 => row w [(16, 2), (23, 2)] (.xorSs (chainBit w) (fld w 18) (fld w 11) (fld w 4))
  | 12 => row w [(16, 2), (23, 2)] (.shlSs (chainBit w) (fld w 18) (fld w 11) (fld w 4))
  | 13 => row w [(16, 2), (23, 2)] (.shrSs (chainBit w) (fld w 18) (fld w 11) (fld w 4))
  | 14 => row w [(16, 2), (23, 2)] (.sarSs (chainBit w) (fld w 18) (fld w 11) (fld w 4))
  | 15 => row w [(16, 2), (23, 2)] (.rolSs (chainBit w) (fld w 18) (fld w 11) (fld w 4))
  | _ => .error .reservedOpcode

/-- The members of major 0x1A, SALU.si (R144). -/
noncomputable def decode1A (w : Word) : Except Reject Instr :=
  match fldNat w 7 4 with
  | 0 => row w [(16, 2), (23, 2)] (.addSi (chainBit w) (fld w 18) (fld w 11) (fld w 0))
  | 1 => row w [(16, 2), (23, 2)] (.subSi (chainBit w) (fld w 18) (fld w 11) (fld w 0))
  | 2 => row w [(16, 2), (23, 2)] (.mulSi (chainBit w) (fld w 18) (fld w 11) (fld w 0))
  | 3 => row w [(16, 2), (23, 2)] (.mulhiSi (chainBit w) (fld w 18) (fld w 11) (fld w 0))
  | 4 => row w [(16, 2), (23, 2)] (.mulhiNSi (chainBit w) (fld w 18) (fld w 11) (fld w 0))
  | 5 => row w [(16, 2), (23, 2)] (.minSi (chainBit w) (fld w 18) (fld w 11) (fld w 0))
  | 6 => row w [(16, 2), (23, 2)] (.maxSi (chainBit w) (fld w 18) (fld w 11) (fld w 0))
  | 7 => row w [(16, 2), (23, 2)] (.minNSi (chainBit w) (fld w 18) (fld w 11) (fld w 0))
  | 8 => row w [(16, 2), (23, 2)] (.maxNSi (chainBit w) (fld w 18) (fld w 11) (fld w 0))
  | 9 => row w [(16, 2), (23, 2)] (.andSi (chainBit w) (fld w 18) (fld w 11) (fld w 0))
  | 10 => row w [(16, 2), (23, 2)] (.orSi (chainBit w) (fld w 18) (fld w 11) (fld w 0))
  | 11 => row w [(16, 2), (23, 2)] (.xorSi (chainBit w) (fld w 18) (fld w 11) (fld w 0))
  | 12 => row w [(16, 2), (23, 2)] (.shlSi (chainBit w) (fld w 18) (fld w 11) (fld w 0))
  | 13 => row w [(16, 2), (23, 2)] (.shrSi (chainBit w) (fld w 18) (fld w 11) (fld w 0))
  | 14 => row w [(16, 2), (23, 2)] (.sarSi (chainBit w) (fld w 18) (fld w 11) (fld w 0))
  | 15 => row w [(16, 2), (23, 2)] (.rolSi (chainBit w) (fld w 18) (fld w 11) (fld w 0))
  | _ => .error .reservedOpcode

/-- The members of major 0x1B, SMOVI (R145). -/
noncomputable def decode1B (w : Word) : Except Reject Instr := row w [(23, 2)] (.smovi (chainBit w) (fld w 18) (fld w 0))

/-- The members of major 0x1C, SCMP (R146). -/
noncomputable def decode1C (w : Word) : Except Reject Instr :=
  if 10 ≤ fldNat w 21 4 then .error .reservedOpcode else
  match fldNat w 0 4 with
  | 0 => row w [(9, 2), (16, 2)] (.scmp (chainBit w) (fld w 21) (fld w 18) (fld w 11) (fld w 4))
  | _ => .error .reservedOpcode

/-- The members of major 0x1D, SMAD (R147). -/
noncomputable def decode1D (w : Word) : Except Reject Instr :=
  match fldNat w 0 4 with
  | 0 => row w [(9, 2), (16, 2), (23, 2)] (.smadMad (chainBit w) (fld w 18) (fld w 11) (fld w 4))
  | 1 => row w [(9, 2), (16, 2), (23, 2)] (.smadMadhS (chainBit w) (fld w 18) (fld w 11) (fld w 4))
  | 2 => row w [(9, 2), (16, 2), (23, 2)] (.smadMadhN (chainBit w) (fld w 18) (fld w 11) (fld w 4))
  | _ => .error .reservedOpcode

/-- The members of major 0x1E, LD (R148). -/
noncomputable def decode1E (w : Word) : Except Reject Instr := row w [] (.ld (chainBit w) (fld w 18) (fld w 11) (fld w 7) (fld w 4) (fld w 2) (fld w 0))

/-- The members of major 0x1F, ST (R148). -/
noncomputable def decode1F (w : Word) : Except Reject Instr := row w [] (.st (chainBit w) (fld w 18) (fld w 11) (fld w 7) (fld w 4) (fld w 2) (fld w 0))

/-- The members of major 0x20, LDS (R148). -/
noncomputable def decode20 (w : Word) : Except Reject Instr := row w [(0, 2)] (.lds (chainBit w) (fld w 18) (fld w 11) (fld w 7) (fld w 4) (fld w 2))

/-- The members of major 0x21, STS (R148). -/
noncomputable def decode21 (w : Word) : Except Reject Instr := row w [(0, 2)] (.sts (chainBit w) (fld w 18) (fld w 11) (fld w 7) (fld w 4) (fld w 2))

/-- The members of major 0x22, LDFE (R154). -/
noncomputable def decode22 (w : Word) : Except Reject Instr := row w [(1, 1)] (.ldfe (chainBit w) (fld w 18) (fld w 11) (fld w 7) (fld w 4) (fld w 2) (fld w 0))

/-- The members of major 0x23, SLD (R153). -/
noncomputable def decode23 (w : Word) : Except Reject Instr := row w [(16, 2), (23, 2)] (.sld (chainBit w) (fld w 18) (fld w 11) (fld w 7) (fld w 4) (fld w 2) (fld w 0))

/-- The members of major 0x24, SST (R153). -/
noncomputable def decode24 (w : Word) : Except Reject Instr := row w [(16, 2), (23, 2)] (.sst (chainBit w) (fld w 18) (fld w 11) (fld w 7) (fld w 4) (fld w 2) (fld w 0))

/-- The members of major 0x25, ATOM (R215). -/
noncomputable def decode25 (w : Word) : Except Reject Instr :=
  match fldNat w 0 4 with
  | 0 => row w [] (.atomAdd (chainBit w) (fld w 18) (fld w 11) (fld w 4))
  | 1 => row w [] (.atomMin (chainBit w) (fld w 18) (fld w 11) (fld w 4))
  | 2 => row w [] (.atomMax (chainBit w) (fld w 18) (fld w 11) (fld w 4))
  | 3 => row w [] (.atomMinN (chainBit w) (fld w 18) (fld w 11) (fld w 4))
  | 4 => row w [] (.atomMaxN (chainBit w) (fld w 18) (fld w 11) (fld w 4))
  | 5 => row w [] (.atomAnd (chainBit w) (fld w 18) (fld w 11) (fld w 4))
  | 6 => row w [] (.atomOr (chainBit w) (fld w 18) (fld w 11) (fld w 4))
  | 7 => row w [] (.atomXor (chainBit w) (fld w 18) (fld w 11) (fld w 4))
  | 8 => row w [] (.atomExch (chainBit w) (fld w 18) (fld w 11) (fld w 4))
  | 9 => row w [] (.atomIncw (chainBit w) (fld w 18) (fld w 11) (fld w 4))
  | 10 => row w [] (.atomDecw (chainBit w) (fld w 18) (fld w 11) (fld w 4))
  | 11 => row w [] (.atomFaddF32 (chainBit w) (fld w 18) (fld w 11) (fld w 4))
  | 12 => row w [] (.atomFminF32 (chainBit w) (fld w 18) (fld w 11) (fld w 4))
  | 13 => row w [] (.atomFmaxF32 (chainBit w) (fld w 18) (fld w 11) (fld w 4))
  | 14 => row w [] (.atomFaddBf16x2 (chainBit w) (fld w 18) (fld w 11) (fld w 4))
  | _ => .error .reservedOpcode

/-- The members of major 0x26, ATOM64 (R215). -/
noncomputable def decode26 (w : Word) : Except Reject Instr :=
  match fldNat w 0 4 with
  | 0 => row w [] (.atom64Add (chainBit w) (fld w 18) (fld w 11) (fld w 4))
  | 1 => row w [] (.atom64Min (chainBit w) (fld w 18) (fld w 11) (fld w 4))
  | 2 => row w [] (.atom64Max (chainBit w) (fld w 18) (fld w 11) (fld w 4))
  | 3 => row w [] (.atom64MinN (chainBit w) (fld w 18) (fld w 11) (fld w 4))
  | 4 => row w [] (.atom64MaxN (chainBit w) (fld w 18) (fld w 11) (fld w 4))
  | 5 => row w [] (.atom64And (chainBit w) (fld w 18) (fld w 11) (fld w 4))
  | 6 => row w [] (.atom64Or (chainBit w) (fld w 18) (fld w 11) (fld w 4))
  | 7 => row w [] (.atom64Xor (chainBit w) (fld w 18) (fld w 11) (fld w 4))
  | 8 => row w [] (.atom64Exch (chainBit w) (fld w 18) (fld w 11) (fld w 4))
  | 9 => row w [] (.atom64Incw (chainBit w) (fld w 18) (fld w 11) (fld w 4))
  | 10 => row w [] (.atom64Decw (chainBit w) (fld w 18) (fld w 11) (fld w 4))
  | 11 => row w [] (.atom64FaddF64 (chainBit w) (fld w 18) (fld w 11) (fld w 4))
  | 12 => row w [] (.atom64FminF64 (chainBit w) (fld w 18) (fld w 11) (fld w 4))
  | 13 => row w [] (.atom64FmaxF64 (chainBit w) (fld w 18) (fld w 11) (fld w 4))
  | _ => .error .reservedOpcode

/-- The members of major 0x27, RED (R215). -/
noncomputable def decode27 (w : Word) : Except Reject Instr :=
  match fldNat w 0 4 with
  | 0 => row w [(19, 6)] (.redAdd (chainBit w) (fld w 18) (fld w 11) (fld w 4))
  | 1 => row w [(19, 6)] (.redMin (chainBit w) (fld w 18) (fld w 11) (fld w 4))
  | 2 => row w [(19, 6)] (.redMax (chainBit w) (fld w 18) (fld w 11) (fld w 4))
  | 3 => row w [(19, 6)] (.redMinN (chainBit w) (fld w 18) (fld w 11) (fld w 4))
  | 4 => row w [(19, 6)] (.redMaxN (chainBit w) (fld w 18) (fld w 11) (fld w 4))
  | 5 => row w [(19, 6)] (.redAnd (chainBit w) (fld w 18) (fld w 11) (fld w 4))
  | 6 => row w [(19, 6)] (.redOr (chainBit w) (fld w 18) (fld w 11) (fld w 4))
  | 7 => row w [(19, 6)] (.redXor (chainBit w) (fld w 18) (fld w 11) (fld w 4))
  | 8 => row w [(19, 6)] (.redExch (chainBit w) (fld w 18) (fld w 11) (fld w 4))
  | 9 => row w [(19, 6)] (.redIncw (chainBit w) (fld w 18) (fld w 11) (fld w 4))
  | 10 => row w [(19, 6)] (.redDecw (chainBit w) (fld w 18) (fld w 11) (fld w 4))
  | 11 => row w [(19, 6)] (.redFadd (chainBit w) (fld w 18) (fld w 11) (fld w 4))
  | 12 => row w [(19, 6)] (.redFmin (chainBit w) (fld w 18) (fld w 11) (fld w 4))
  | 13 => row w [(19, 6)] (.redFmax (chainBit w) (fld w 18) (fld w 11) (fld w 4))
  | 14 => if fldNat w 18 1 = 1 then .error .reservedOpcode else row w [(18, 7)] (.redFaddBf16x2 (chainBit w) (fld w 11) (fld w 4))
  | _ => .error .reservedOpcode

/-- The members of major 0x28, CAS (R218). -/
noncomputable def decode28 (w : Word) : Except Reject Instr :=
  match fldNat w 0 4 with
  | 0 => row w [] (.casB32 (chainBit w) (fld w 18) (fld w 11) (fld w 4))
  | 1 => row w [] (.casB64 (chainBit w) (fld w 18) (fld w 11) (fld w 4))
  | 2 => row w [] (.casB128 (chainBit w) (fld w 18) (fld w 11) (fld w 4))
  | _ => .error .reservedOpcode

/-- The members of major 0x29, PATOM (R223). -/
noncomputable def decode29 (w : Word) : Except Reject Instr := row w [(11, 1)] (.patom (chainBit w) (fld w 18) (fld w 12) (fld w 4) (fld w 0))

/-- The members of major 0x2A, SYNC (R157, R225, R227). -/
noncomputable def decode2A (w : Word) : Except Reject Instr :=
  match fldNat w 18 7 with
  | 0 => row w [(0, 4), (9, 9)] (.fence (chainBit w) (fld w 7) (fld w 4))
  | 1 => row w [] (.poll (chainBit w) (fld w 11) (fld w 4) (fld w 3) (fld w 2) (fld w 0))
  | 2 => row w [(1, 3)] (.farb (chainBit w) (fld w 4) (fld w 0))
  | 3 => row w [(0, 4), (7, 11)] (.fare (chainBit w) (fld w 4))
  | 4 => row w [(0, 18)] (.farx (chainBit w))
  | 5 => row w [(0, 11)] (.fars (chainBit w) (fld w 11))
  | 6 => row w [(0, 18)] (.dflush (chainBit w))
  | 7 => row w [(0, 4), (9, 2)] (.pgreq (chainBit w) (fld w 11) (fld w 4))
  | 8 => row w [(3, 8)] (.pref (chainBit w) (fld w 11) (fld w 2) (fld w 0))
  | 9 => row w [(0, 4), (9, 2), (16, 2)] (.cinv (chainBit w) (fld w 11) (fld w 4))
  | 10 => row w [(0, 4), (9, 2), (16, 2)] (.cwb (chainBit w) (fld w 11) (fld w 4))
  | 11 => row w [(0, 4)] (.tagset (chainBit w) (fld w 11) (fld w 4))
  | 12 => row w [(0, 4)] (.tagget (chainBit w) (fld w 11) (fld w 4))
  | 13 => row w [(0, 18)] (.mfop (chainBit w))
  | 14 => row w [(0, 4)] (.feset (chainBit w) (fld w 11) (fld w 4))
  | 15 => row w [(0, 4)] (.feclr (chainBit w) (fld w 11) (fld w 4))
  | 16 => row w [(0, 11), (16, 2)] (.seqr (chainBit w) (fld w 11))
  | _ => .error .reservedOpcode

/-- The members of major 0x2B, CPY (R168). -/
noncomputable def decode2B (w : Word) : Except Reject Instr :=
  if fldNat w 0 2 = 3 then .error .reservedOpcode else row w [(23, 2)] (.cpy (chainBit w) (fld w 18) (fld w 11) (fld w 4) (fld w 2) (fld w 0))

/-- The members of major 0x2C, CPYT (R170). -/
noncomputable def decode2C (w : Word) : Except Reject Instr :=
  match fldNat w 18 7 with
  | 0 => row w [(0, 4), (9, 2), (16, 2)] (.tile (chainBit w) (fld w 11) (fld w 4))
  | 1 => row w [(0, 4), (9, 2), (16, 2)] (.unpk (chainBit w) (fld w 11) (fld w 4))
  | 2 => row w [(0, 4), (9, 2), (16, 2)] (.pack (chainBit w) (fld w 11) (fld w 4))
  | 3 => row w [(0, 4), (9, 2), (16, 2)] (.gath (chainBit w) (fld w 11) (fld w 4))
  | 4 => row w [(0, 4), (9, 2), (16, 2)] (.scat (chainBit w) (fld w 11) (fld w 4))
  | 5 => row w [(0, 4), (9, 2), (16, 2)] (.kvcp (chainBit w) (fld w 11) (fld w 4))
  | 6 => row w [(0, 4), (7, 4), (15, 3)] (.cpw (chainBit w) (fld w 11) (fld w 4))
  | 7 => row w [(0, 4), (8, 3), (16, 2)] (.cps (chainBit w) (fld w 11) (fld w 4))
  | _ => .error .reservedOpcode

/-- The members of major 0x2D, MX (R269). -/
noncomputable def decode2D (w : Word) : Except Reject Instr :=
  match fldNat w 18 7 with
  | 0 => row w [(4, 7), (17, 1)] (.osclm (chainBit w) (fld w 11) (fld w 0))
  | 1 => row w [(0, 11), (17, 1)] (.osrel (chainBit w) (fld w 11))
  | 2 => row w [(0, 4), (9, 2)] (.osst (chainBit w) (fld w 11) (fld w 4))
  | 3 => row w [(0, 4), (9, 2)] (.osld (chainBit w) (fld w 11) (fld w 4))
  | 4 => row w [(0, 11), (16, 2)] (.acz (chainBit w) (fld w 11))
  | 5 => row w [(0, 4), (9, 2)] (.acld (chainBit w) (fld w 11) (fld w 4))
  | 6 => row w [(0, 4), (9, 2)] (.acst (chainBit w) (fld w 11) (fld w 4))
  | 7 => row w [(0, 11), (16, 2)] (.mma (chainBit w) (fld w 11))
  | 8 => row w [(0, 4), (7, 4), (15, 3)] (.mwait (chainBit w) (fld w 11) (fld w 4))
  | 9 => row w [(0, 4), (8, 3), (16, 2)] (.mstat (chainBit w) (fld w 11) (fld w 4))
  | _ => .error .reservedOpcode

/-- The members of major 0x2E, TT (R289). -/
noncomputable def decode2E (w : Word) : Except Reject Instr :=
  match fldNat w 18 7 with
  | 0 => row w [(0, 4), (9, 2), (16, 2)] (.seqnew (chainBit w) (fld w 11) (fld w 4))
  | 1 => row w [(0, 4), (9, 2), (16, 2)] (.seqfree (chainBit w) (fld w 11) (fld w 4))
  | 2 => row w [(0, 4), (9, 2), (16, 2)] (.tfork (chainBit w) (fld w 11) (fld w 4))
  | 3 => row w [(0, 4), (9, 2), (16, 2)] (.tapp (chainBit w) (fld w 11) (fld w 4))
  | 4 => row w [(0, 4), (9, 2), (16, 2)] (.kvwr (chainBit w) (fld w 11) (fld w 4))
  | 5 => row w [(0, 4), (9, 2), (16, 2)] (.tprune (chainBit w) (fld w 11) (fld w 4))
  | 6 => row w [(0, 4), (9, 2), (16, 2)] (.tcommit (chainBit w) (fld w 11) (fld w 4))
  | 7 => row w [(0, 4), (9, 2), (16, 2)] (.tqry (chainBit w) (fld w 11) (fld w 4))
  | 8 => row w [(0, 4), (9, 2), (16, 2)] (.twalk (chainBit w) (fld w 11) (fld w 4))
  | 9 => row w [(0, 4), (9, 2), (16, 2)] (.kvgath (chainBit w) (fld w 11) (fld w 4))
  | 10 => row w [(0, 4), (9, 2), (16, 2)] (.tmask (chainBit w) (fld w 11) (fld w 4))
  | 11 => row w [(0, 4), (9, 2), (16, 2)] (.pfxq (chainBit w) (fld w 11) (fld w 4))
  | 12 => row w [(0, 4), (9, 2), (16, 2)] (.pfxpub (chainBit w) (fld w 11) (fld w 4))
  | 13 => row w [(0, 4), (9, 2), (16, 2)] (.pfxatt (chainBit w) (fld w 11) (fld w 4))
  | 14 => row w [(0, 4), (9, 2), (16, 2)] (.kvresc (chainBit w) (fld w 11) (fld w 4))
  | _ => .error .reservedOpcode

/-- The members of major 0x2F, ROPE (R313). -/
noncomputable def decode2F (w : Word) : Except Reject Instr :=
  match fldNat w 0 4 with
  | 0 => row w [] (.rope (chainBit w) (fld w 18) (fld w 11) (fld w 4))
  | _ => .error .reservedOpcode

/-- The members of major 0x30, SMPL (R314). -/
noncomputable def decode30 (w : Word) : Except Reject Instr :=
  match fldNat w 18 7 with
  | 0 => row w [(0, 4), (9, 2), (16, 2)] (.sample (chainBit w) (fld w 11) (fld w 4))
  | 1 => row w [(0, 4), (9, 2), (16, 2)] (.rng (chainBit w) (fld w 11) (fld w 4))
  | 2 => row w [(0, 4), (9, 2), (16, 2)] (.rngf (chainBit w) (fld w 11) (fld w 4))
  | 3 => row w [(0, 4), (9, 2), (16, 2)] (.argmax (chainBit w) (fld w 11) (fld w 4))
  | _ => .error .reservedOpcode

/-- The members of major 0x31, SVC (R336, R347, R365). -/
noncomputable def decode31 (w : Word) : Except Reject Instr :=
  match fldNat w 18 7 with
  | 0 => row w [(0, 4), (9, 2), (16, 2)] (.coll (chainBit w) (fld w 11) (fld w 4))
  | 1 => row w [(0, 4), (7, 4), (14, 4)] (.collw (chainBit w) (fld w 11) (fld w 4))
  | 2 => row w [(0, 4), (9, 2), (16, 2)] (.rsig (chainBit w) (fld w 11) (fld w 4))
  | 3 => row w [(0, 4), (9, 2), (16, 2)] (.taskdec (chainBit w) (fld w 11) (fld w 4))
  | 4 => row w [(0, 4), (9, 2), (16, 2)] (.tasknew (chainBit w) (fld w 11) (fld w 4))
  | 5 => row w [(0, 4), (9, 2), (16, 2)] (.taskq (chainBit w) (fld w 11) (fld w 4))
  | 6 => row w [(0, 4), (9, 2), (16, 2)] (.tkrcv (chainBit w) (fld w 11) (fld w 4))
  | 7 => row w [(0, 4), (9, 2), (16, 2)] (.tkpost (chainBit w) (fld w 11) (fld w 4))
  | _ => .error .reservedOpcode

/-- The members of major 0x32, SYS (R377). -/
noncomputable def decode32 (w : Word) : Except Reject Instr :=
  match fldNat w 18 7 with
  | 0 => row w [(0, 4), (9, 2), (16, 2)] (.ctxsv (chainBit w) (fld w 11) (fld w 4))
  | 1 => row w [(0, 4), (9, 2), (16, 2)] (.ctxld (chainBit w) (fld w 11) (fld w 4))
  | 2 => row w [(0, 4), (9, 2), (16, 2)] (.tlbi (chainBit w) (fld w 11) (fld w 4))
  | 3 => row w [(0, 4), (9, 2), (16, 2)] (.fltcan (chainBit w) (fld w 11) (fld w 4))
  | 4 => row w [(0, 4), (9, 2), (16, 2)] (.fltrpl (chainBit w) (fld w 11) (fld w 4))
  | 5 => match fldNat w 0 2 with
    | 0 => row w [(2, 2), (7, 4), (16, 2)] (.haltqNow (chainBit w) (fld w 11) (fld w 4))
    | 1 => row w [(2, 2), (7, 4), (16, 2)] (.haltqQuiesce (chainBit w) (fld w 11) (fld w 4))
    | 2 => row w [(2, 2), (7, 4), (16, 2)] (.haltqRelease (chainBit w) (fld w 11) (fld w 4))
    | _ => match row w [(2, 2), (7, 4), (16, 2)] (.haltqNow (chainBit w) (fld w 11) (fld w 4)) with
      | .ok i => .error (.haltqMode i)
      | .error r => .error r
  | 6 => row w [(0, 11), (16, 2)] (.snaparm (chainBit w) (fld w 11))
  | _ => .error .reservedOpcode

/-- The members of major 0x3F, prefix words (R54). -/
def decode3F (w : Word) : Except Reject Instr :=
  if chainBit w then .error .illegalPrefix else
  match fldNat w 21 4 with
  | 0 => row w [] (.ximm (fld w 0))
  | 1 => row w [(4, 17)] (.guard (fld w 3) (fld w 0))
  | 2 => row w [(8, 13)] (.cpol (fld w 7) (fld w 5) (fld w 3) (fld w 0))
  | 3 => row w [(3, 18)] (.probe (fld w 0))
  | 4 => row w [(3, 18)] (.round (fld w 0))
  | 5 => row w [(0, 21)] (.sat)
  | _ => .error .illegalPrefix

/-- The instruction a word is, or the first reason for which it is none (R61, R63). -/
noncomputable def decode (w : Word) : Except Reject Instr :=
  match fldNat w 25 6 with
  | 0x00 => decode00 w
  | 0x01 => decode01 w
  | 0x02 => decode02 w
  | 0x03 => decode03 w
  | 0x04 => decode04 w
  | 0x05 => decode05 w
  | 0x06 => decode06 w
  | 0x07 => decode07 w
  | 0x08 => decode08 w
  | 0x09 => decode09 w
  | 0x0A => decode0A w
  | 0x0B => decode0B w
  | 0x0C => decode0C w
  | 0x0D => decode0D w
  | 0x0E => decode0E w
  | 0x0F => decode0F w
  | 0x10 => decode10 w
  | 0x11 => decode11 w
  | 0x12 => decode12 w
  | 0x13 => decode13 w
  | 0x14 => decode14 w
  | 0x15 => decode15 w
  | 0x16 => decode16 w
  | 0x17 => decode17 w
  | 0x18 => decode18 w
  | 0x19 => decode19 w
  | 0x1A => decode1A w
  | 0x1B => decode1B w
  | 0x1C => decode1C w
  | 0x1D => decode1D w
  | 0x1E => decode1E w
  | 0x1F => decode1F w
  | 0x20 => decode20 w
  | 0x21 => decode21 w
  | 0x22 => decode22 w
  | 0x23 => decode23 w
  | 0x24 => decode24 w
  | 0x25 => decode25 w
  | 0x26 => decode26 w
  | 0x27 => decode27 w
  | 0x28 => decode28 w
  | 0x29 => decode29 w
  | 0x2A => decode2A w
  | 0x2B => decode2B w
  | 0x2C => decode2C w
  | 0x2D => decode2D w
  | 0x2E => decode2E w
  | 0x2F => decode2F w
  | 0x30 => decode30 w
  | 0x31 => decode31 w
  | 0x32 => decode32 w
  | 0x3F => decode3F w
  | _ => .error .reservedOpcode

/-- A word from its fixed bits, its chain bit and its fields, each with its lowest bit (R58). -/
def word (base : Nat) (c : Bool) (fields : List (Nat × Nat)) : Word :=
  BitVec.ofNat 32 (base + c.toNat * 2 ^ 31 + (fields.map fun f => f.2 * 2 ^ f.1).sum)

/-- The word of an instruction; an event has none. -/
def encode : Instr → Option Word

  | .ximm i => some (word 0x7E000000 false [(0, i.toNat)])
  | .guard n p => some (word 0x7E200000 false [(3, n.toNat), (0, p.toNat)])
  | .cpol e q o s => some (word 0x7E400000 false [(7, e.toNat), (5, q.toNat), (3, o.toNat), (0, s.toNat)])
  | .probe p => some (word 0x7E600000 false [(0, p.toNat)])
  | .round r => some (word 0x7E800000 false [(0, r.toNat)])
  | .sat => some (word 0x7EA00000 false [])
  | .nop c => some (word 0x00000000 c [])
  | .exit c => some (word 0x00040000 c [])
  | .trap c k => some (word 0x00080000 c [(4, k.toNat)])
  | .yield c => some (word 0x000C0000 c [])
  | .step c => some (word 0x00100000 c [])
  | .brk c => some (word 0x00140000 c [])
  | .tret c => some (word 0x00180000 c [])
  | .ydone c => some (word 0x001C0000 c [])
  | .snap c k => some (word 0x00200000 c [(4, k.toNat)])
  | .bra c d => some (word 0x02000000 c [(0, d.toNat)])
  | .brt c p d => some (word 0x02200000 c [(18, p.toNat), (0, d.toNat)])
  | .brf c p d => some (word 0x02400000 c [(18, p.toNat), (0, d.toNat)])
  | .call c d => some (word 0x02600000 c [(0, d.toNat)])
  | .brany c p d => some (word 0x02800000 c [(18, p.toNat), (0, d.toNat)])
  | .brall c p d => some (word 0x02A00000 c [(18, p.toNat), (0, d.toNat)])
  | .bri c a => some (word 0x04000000 c [(11, a.toNat)])
  | .calli c d a => some (word 0x04000001 c [(18, d.toNat), (11, a.toNat)])
  | .ret c a => some (word 0x04000002 c [(11, a.toNat)])
  | .join c m => some (word 0x06000000 c [(11, m.toNat)])
  | .leave c m => some (word 0x06040000 c [(11, m.toNat)])
  | .waitm c m => some (word 0x06080000 c [(11, m.toNat)])
  | .mrd c s m => some (word 0x060C0000 c [(11, s.toNat), (4, m.toNat)])
  | .mwr c s m => some (word 0x06100000 c [(11, s.toNat), (4, m.toNat)])
  | .mact c s => some (word 0x06140000 c [(11, s.toNat)])
  | .bar c => some (word 0x06180000 c [])
  | .barl c l => some (word 0x061C0000 c [(11, l.toNat)])
  | .addVv c d a b => some (word 0x08000000 c [(18, d.toNat), (11, a.toNat), (4, b.toNat)])
  | .subVv c d a b => some (word 0x08000001 c [(18, d.toNat), (11, a.toNat), (4, b.toNat)])
  | .mulVv c d a b => some (word 0x08000002 c [(18, d.toNat), (11, a.toNat), (4, b.toNat)])
  | .mulhiVv c d a b => some (word 0x08000003 c [(18, d.toNat), (11, a.toNat), (4, b.toNat)])
  | .mulhiNVv c d a b => some (word 0x08000004 c [(18, d.toNat), (11, a.toNat), (4, b.toNat)])
  | .minVv c d a b => some (word 0x08000005 c [(18, d.toNat), (11, a.toNat), (4, b.toNat)])
  | .maxVv c d a b => some (word 0x08000006 c [(18, d.toNat), (11, a.toNat), (4, b.toNat)])
  | .minNVv c d a b => some (word 0x08000007 c [(18, d.toNat), (11, a.toNat), (4, b.toNat)])
  | .maxNVv c d a b => some (word 0x08000008 c [(18, d.toNat), (11, a.toNat), (4, b.toNat)])
  | .andVv c d a b => some (word 0x08000009 c [(18, d.toNat), (11, a.toNat), (4, b.toNat)])
  | .orVv c d a b => some (word 0x0800000A c [(18, d.toNat), (11, a.toNat), (4, b.toNat)])
  | .xorVv c d a b => some (word 0x0800000B c [(18, d.toNat), (11, a.toNat), (4, b.toNat)])
  | .shlVv c d a b => some (word 0x0800000C c [(18, d.toNat), (11, a.toNat), (4, b.toNat)])
  | .shrVv c d a b => some (word 0x0800000D c [(18, d.toNat), (11, a.toNat), (4, b.toNat)])
  | .sarVv c d a b => some (word 0x0800000E c [(18, d.toNat), (11, a.toNat), (4, b.toNat)])
  | .rolVv c d a b => some (word 0x0800000F c [(18, d.toNat), (11, a.toNat), (4, b.toNat)])
  | .addVs c d a b => some (word 0x0A000000 c [(18, d.toNat), (11, a.toNat), (4, b.toNat)])
  | .subVs c d a b => some (word 0x0A000001 c [(18, d.toNat), (11, a.toNat), (4, b.toNat)])
  | .mulVs c d a b => some (word 0x0A000002 c [(18, d.toNat), (11, a.toNat), (4, b.toNat)])
  | .mulhiVs c d a b => some (word 0x0A000003 c [(18, d.toNat), (11, a.toNat), (4, b.toNat)])
  | .mulhiNVs c d a b => some (word 0x0A000004 c [(18, d.toNat), (11, a.toNat), (4, b.toNat)])
  | .minVs c d a b => some (word 0x0A000005 c [(18, d.toNat), (11, a.toNat), (4, b.toNat)])
  | .maxVs c d a b => some (word 0x0A000006 c [(18, d.toNat), (11, a.toNat), (4, b.toNat)])
  | .minNVs c d a b => some (word 0x0A000007 c [(18, d.toNat), (11, a.toNat), (4, b.toNat)])
  | .maxNVs c d a b => some (word 0x0A000008 c [(18, d.toNat), (11, a.toNat), (4, b.toNat)])
  | .andVs c d a b => some (word 0x0A000009 c [(18, d.toNat), (11, a.toNat), (4, b.toNat)])
  | .orVs c d a b => some (word 0x0A00000A c [(18, d.toNat), (11, a.toNat), (4, b.toNat)])
  | .xorVs c d a b => some (word 0x0A00000B c [(18, d.toNat), (11, a.toNat), (4, b.toNat)])
  | .shlVs c d a b => some (word 0x0A00000C c [(18, d.toNat), (11, a.toNat), (4, b.toNat)])
  | .shrVs c d a b => some (word 0x0A00000D c [(18, d.toNat), (11, a.toNat), (4, b.toNat)])
  | .sarVs c d a b => some (word 0x0A00000E c [(18, d.toNat), (11, a.toNat), (4, b.toNat)])
  | .rolVs c d a b => some (word 0x0A00000F c [(18, d.toNat), (11, a.toNat), (4, b.toNat)])
  | .addVi c d a i => some (word 0x0C000000 c [(18, d.toNat), (11, a.toNat), (0, i.toNat)])
  | .subVi c d a i => some (word 0x0C000080 c [(18, d.toNat), (11, a.toNat), (0, i.toNat)])
  | .mulVi c d a i => some (word 0x0C000100 c [(18, d.toNat), (11, a.toNat), (0, i.toNat)])
  | .mulhiVi c d a i => some (word 0x0C000180 c [(18, d.toNat), (11, a.toNat), (0, i.toNat)])
  | .mulhiNVi c d a i => some (word 0x0C000200 c [(18, d.toNat), (11, a.toNat), (0, i.toNat)])
  | .minVi c d a i => some (word 0x0C000280 c [(18, d.toNat), (11, a.toNat), (0, i.toNat)])
  | .maxVi c d a i => some (word 0x0C000300 c [(18, d.toNat), (11, a.toNat), (0, i.toNat)])
  | .minNVi c d a i => some (word 0x0C000380 c [(18, d.toNat), (11, a.toNat), (0, i.toNat)])
  | .maxNVi c d a i => some (word 0x0C000400 c [(18, d.toNat), (11, a.toNat), (0, i.toNat)])
  | .andVi c d a i => some (word 0x0C000480 c [(18, d.toNat), (11, a.toNat), (0, i.toNat)])
  | .orVi c d a i => some (word 0x0C000500 c [(18, d.toNat), (11, a.toNat), (0, i.toNat)])
  | .xorVi c d a i => some (word 0x0C000580 c [(18, d.toNat), (11, a.toNat), (0, i.toNat)])
  | .shlVi c d a i => some (word 0x0C000600 c [(18, d.toNat), (11, a.toNat), (0, i.toNat)])
  | .shrVi c d a i => some (word 0x0C000680 c [(18, d.toNat), (11, a.toNat), (0, i.toNat)])
  | .sarVi c d a i => some (word 0x0C000700 c [(18, d.toNat), (11, a.toNat), (0, i.toNat)])
  | .rolVi c d a i => some (word 0x0C000780 c [(18, d.toNat), (11, a.toNat), (0, i.toNat)])
  | .madS32 c d a b => some (word 0x0E000000 c [(18, d.toNat), (11, a.toNat), (4, b.toNat)])
  | .madN32 c d a b => some (word 0x0E000001 c [(18, d.toNat), (11, a.toNat), (4, b.toNat)])
  | .madwS c d a b => some (word 0x0E000002 c [(18, d.toNat), (11, a.toNat), (4, b.toNat)])
  | .madwN c d a b => some (word 0x0E000003 c [(18, d.toNat), (11, a.toNat), (4, b.toNat)])
  | .madhS c d a b => some (word 0x0E000004 c [(18, d.toNat), (11, a.toNat), (4, b.toNat)])
  | .madhN c d a b => some (word 0x0E000005 c [(18, d.toNat), (11, a.toNat), (4, b.toNat)])
  | .negI c d a => some (word 0x10000000 c [(18, d.toNat), (11, a.toNat)])
  | .absI c d a => some (word 0x10000001 c [(18, d.toNat), (11, a.toNat)])
  | .notB c d a => some (word 0x10000002 c [(18, d.toNat), (11, a.toNat)])
  | .popc c d a => some (word 0x10000003 c [(18, d.toNat), (11, a.toNat)])
  | .clz c d a => some (word 0x10000004 c [(18, d.toNat), (11, a.toNat)])
  | .brev c d a => some (word 0x10000005 c [(18, d.toNat), (11, a.toNat)])
  | .bfe c d a b => some (word 0x10000006 c [(18, d.toNat), (11, a.toNat), (4, b.toNat)])
  | .bfi c d a b => some (word 0x10000007 c [(18, d.toNat), (11, a.toNat), (4, b.toNat)])
  | .sext8 c d a => some (word 0x10000008 c [(18, d.toNat), (11, a.toNat)])
  | .sext16 c d a => some (word 0x10000009 c [(18, d.toNat), (11, a.toNat)])
  | .zext8 c d a => some (word 0x1000000A c [(18, d.toNat), (11, a.toNat)])
  | .zext16 c d a => some (word 0x1000000B c [(18, d.toNat), (11, a.toNat)])
  | .addB64 c d a b => some (word 0x12000000 c [(18, d.toNat), (11, a.toNat), (4, b.toNat)])
  | .subB64 c d a b => some (word 0x12000001 c [(18, d.toNat), (11, a.toNat), (4, b.toNat)])
  | .mulloB64 c d a b => some (word 0x12000002 c [(18, d.toNat), (11, a.toNat), (4, b.toNat)])
  | .shlB64 c d a b => some (word 0x12000003 c [(18, d.toNat), (11, a.toNat), (4, b.toNat)])
  | .shrB64 c d a b => some (word 0x12000004 c [(18, d.toNat), (11, a.toNat), (4, b.toNat)])
  | .sarB64 c d a b => some (word 0x12000005 c [(18, d.toNat), (11, a.toNat), (4, b.toNat)])
  | .minB64 c d a b => some (word 0x12000006 c [(18, d.toNat), (11, a.toNat), (4, b.toNat)])
  | .maxB64 c d a b => some (word 0x12000007 c [(18, d.toNat), (11, a.toNat), (4, b.toNat)])
  | .minNB64 c d a b => some (word 0x12000008 c [(18, d.toNat), (11, a.toNat), (4, b.toNat)])
  | .maxNB64 c d a b => some (word 0x12000009 c [(18, d.toNat), (11, a.toNat), (4, b.toNat)])
  | .andB64 c d a b => some (word 0x1200000A c [(18, d.toNat), (11, a.toNat), (4, b.toNat)])
  | .orB64 c d a b => some (word 0x1200000B c [(18, d.toNat), (11, a.toNat), (4, b.toNat)])
  | .xorB64 c d a b => some (word 0x1200000C c [(18, d.toNat), (11, a.toNat), (4, b.toNat)])
  | .icmpS32Vv c k p a b => some (word 0x14000000 c [(21, k.toNat), (18, p.toNat), (11, a.toNat), (4, b.toNat)])
  | .icmpS32Vs c k p a b => some (word 0x14000001 c [(21, k.toNat), (18, p.toNat), (11, a.toNat), (4, b.toNat)])
  | .icmpB64Vv c k p a b => some (word 0x14000002 c [(21, k.toNat), (18, p.toNat), (11, a.toNat), (4, b.toNat)])
  | .icmpB64Vs c k p a b => some (word 0x14000003 c [(21, k.toNat), (18, p.toNat), (11, a.toNat), (4, b.toNat)])
  | .icmpAndS32Vv c k p a b => some (word 0x14000004 c [(21, k.toNat), (18, p.toNat), (11, a.toNat), (4, b.toNat)])
  | .icmpAndS32Vs c k p a b => some (word 0x14000005 c [(21, k.toNat), (18, p.toNat), (11, a.toNat), (4, b.toNat)])
  | .icmpAndB64Vv c k p a b => some (word 0x14000006 c [(21, k.toNat), (18, p.toNat), (11, a.toNat), (4, b.toNat)])
  | .icmpAndB64Vs c k p a b => some (word 0x14000007 c [(21, k.toNat), (18, p.toNat), (11, a.toNat), (4, b.toNat)])
  | .sel c d a b n p => some (word 0x16000000 c [(18, d.toNat), (11, a.toNat), (4, b.toNat), (3, n.toNat), (0, p.toNat)])
  | .pand c d a b => some (word 0x18000000 c [(18, d.toNat), (11, a.toNat), (4, b.toNat)])
  | .por c d a b => some (word 0x18000001 c [(18, d.toNat), (11, a.toNat), (4, b.toNat)])
  | .pxor c d a b => some (word 0x18000002 c [(18, d.toNat), (11, a.toNat), (4, b.toNat)])
  | .pandn c d a b => some (word 0x18000003 c [(18, d.toNat), (11, a.toNat), (4, b.toNat)])
  | .pmov c d a => some (word 0x18000004 c [(18, d.toNat), (11, a.toNat)])
  | .pnot c d a => some (word 0x18000005 c [(18, d.toNat), (11, a.toNat)])
  | .addF32Vv c d a b => some (word 0x1A000000 c [(18, d.toNat), (11, a.toNat), (4, b.toNat)])
  | .subF32Vv c d a b => some (word 0x1A000001 c [(18, d.toNat), (11, a.toNat), (4, b.toNat)])
  | .mulF32Vv c d a b => some (word 0x1A000002 c [(18, d.toNat), (11, a.toNat), (4, b.toNat)])
  | .minF32Vv c d a b => some (word 0x1A000003 c [(18, d.toNat), (11, a.toNat), (4, b.toNat)])
  | .maxF32Vv c d a b => some (word 0x1A000004 c [(18, d.toNat), (11, a.toNat), (4, b.toNat)])
  | .divF32Vv c d a b => some (word 0x1A000005 c [(18, d.toNat), (11, a.toNat), (4, b.toNat)])
  | .scaleF32Vv c d a b => some (word 0x1A000006 c [(18, d.toNat), (11, a.toNat), (4, b.toNat)])
  | .addF32Vs c d a b => some (word 0x1C000000 c [(18, d.toNat), (11, a.toNat), (4, b.toNat)])
  | .subF32Vs c d a b => some (word 0x1C000001 c [(18, d.toNat), (11, a.toNat), (4, b.toNat)])
  | .mulF32Vs c d a b => some (word 0x1C000002 c [(18, d.toNat), (11, a.toNat), (4, b.toNat)])
  | .minF32Vs c d a b => some (word 0x1C000003 c [(18, d.toNat), (11, a.toNat), (4, b.toNat)])
  | .maxF32Vs c d a b => some (word 0x1C000004 c [(18, d.toNat), (11, a.toNat), (4, b.toNat)])
  | .divF32Vs c d a b => some (word 0x1C000005 c [(18, d.toNat), (11, a.toNat), (4, b.toNat)])
  | .scaleF32Vs c d a b => some (word 0x1C000006 c [(18, d.toNat), (11, a.toNat), (4, b.toNat)])
  | .ffmaF32 c d a b => some (word 0x1E000000 c [(18, d.toNat), (11, a.toNat), (4, b.toNat)])
  | .ffmaF32S c d a b => some (word 0x1E000001 c [(18, d.toNat), (11, a.toNat), (4, b.toNat)])
  | .ffmaF64 c d a b => some (word 0x1E000002 c [(18, d.toNat), (11, a.toNat), (4, b.toNat)])
  | .ffmaF64S c d a b => some (word 0x1E000003 c [(18, d.toNat), (11, a.toNat), (4, b.toNat)])
  | .ffmaF16x2 c d a b => some (word 0x1E000004 c [(18, d.toNat), (11, a.toNat), (4, b.toNat)])
  | .ffmaBf16x2 c d a b => some (word 0x1E000005 c [(18, d.toNat), (11, a.toNat), (4, b.toNat)])
  | .fnmaF32 c d a b => some (word 0x1E000006 c [(18, d.toNat), (11, a.toNat), (4, b.toNat)])
  | .fnmaF64 c d a b => some (word 0x1E000007 c [(18, d.toNat), (11, a.toNat), (4, b.toNat)])
  | .addF64 c d a b => some (word 0x20000000 c [(18, d.toNat), (11, a.toNat), (4, b.toNat)])
  | .subF64 c d a b => some (word 0x20000001 c [(18, d.toNat), (11, a.toNat), (4, b.toNat)])
  | .mulF64 c d a b => some (word 0x20000002 c [(18, d.toNat), (11, a.toNat), (4, b.toNat)])
  | .minF64 c d a b => some (word 0x20000003 c [(18, d.toNat), (11, a.toNat), (4, b.toNat)])
  | .maxF64 c d a b => some (word 0x20000004 c [(18, d.toNat), (11, a.toNat), (4, b.toNat)])
  | .divF64 c d a b => some (word 0x20000005 c [(18, d.toNat), (11, a.toNat), (4, b.toNat)])
  | .scaleF64 c d a b => some (word 0x20000006 c [(18, d.toNat), (11, a.toNat), (4, b.toNat)])
  | .addF16x2 c d a b => some (word 0x22000000 c [(18, d.toNat), (11, a.toNat), (4, b.toNat)])
  | .mulF16x2 c d a b => some (word 0x22000001 c [(18, d.toNat), (11, a.toNat), (4, b.toNat)])
  | .minF16x2 c d a b => some (word 0x22000002 c [(18, d.toNat), (11, a.toNat), (4, b.toNat)])
  | .maxF16x2 c d a b => some (word 0x22000003 c [(18, d.toNat), (11, a.toNat), (4, b.toNat)])
  | .addBf16x2 c d a b => some (word 0x22000004 c [(18, d.toNat), (11, a.toNat), (4, b.toNat)])
  | .mulBf16x2 c d a b => some (word 0x22000005 c [(18, d.toNat), (11, a.toNat), (4, b.toNat)])
  | .minBf16x2 c d a b => some (word 0x22000006 c [(18, d.toNat), (11, a.toNat), (4, b.toNat)])
  | .maxBf16x2 c d a b => some (word 0x22000007 c [(18, d.toNat), (11, a.toNat), (4, b.toNat)])
  | .rcp c d a p => some (word 0x24000000 c [(18, d.toNat), (11, a.toNat), (4, p.toNat)])
  | .rsq c d a p => some (word 0x24000001 c [(18, d.toNat), (11, a.toNat), (4, p.toNat)])
  | .sqrt c d a p => some (word 0x24000002 c [(18, d.toNat), (11, a.toNat), (4, p.toNat)])
  | .exp2 c d a => some (word 0x24000003 c [(18, d.toNat), (11, a.toNat)])
  | .log2 c d a => some (word 0x24000004 c [(18, d.toNat), (11, a.toNat)])
  | .sinpi c d a => some (word 0x24000005 c [(18, d.toNat), (11, a.toNat)])
  | .cospi c d a => some (word 0x24000006 c [(18, d.toNat), (11, a.toNat)])
  | .absFloat c d a p => some (word 0x24000007 c [(18, d.toNat), (11, a.toNat), (4, p.toNat)])
  | .negFloat c d a p => some (word 0x24000008 c [(18, d.toNat), (11, a.toNat), (4, p.toNat)])
  | .rnd c d a p => some (word 0x24000009 c [(18, d.toNat), (11, a.toNat), (4, p.toNat)])
  | .classF c d a p => some (word 0x2400000A c [(18, d.toNat), (11, a.toNat), (4, p.toNat)])
  | .fract c d a p => some (word 0x2400000B c [(18, d.toNat), (11, a.toNat), (4, p.toNat)])
  | .fcmpF32 c k p a b => some (word 0x26000000 c [(21, k.toNat), (18, p.toNat), (11, a.toNat), (4, b.toNat)])
  | .fcmpF64 c k p a b => some (word 0x26000001 c [(21, k.toNat), (18, p.toNat), (11, a.toNat), (4, b.toNat)])
  | .fcmpF32S c k p a b => some (word 0x26000002 c [(21, k.toNat), (18, p.toNat), (11, a.toNat), (4, b.toNat)])
  | .cvt c d a t r s => some (word 0x28000000 c [(18, d.toNat), (11, a.toNat), (7, t.toNat), (4, r.toNat), (0, s.toNat)])
  | .movi c d i => some (word 0x2A000000 c [(18, d.toNat), (0, i.toNat)])
  | .mov c d b => some (word 0x2C000000 c [(18, d.toNat), (4, b.toNat)])
  | .movb c d h b => some (word 0x2C000001 c [(18, d.toNat), (11, h.toNat), (4, b.toNat)])
  | .mov64 c d b => some (word 0x2C000002 c [(18, d.toNat), (4, b.toNat)])
  | .vrfl c d a w => some (word 0x2C000003 c [(18, d.toNat), (11, a.toNat), (4, w.toNat)])
  | .vrln c d a w n => some (word 0x2C000004 c [(18, d.toNat), (11, a.toNat), (9, w.toNat), (4, n.toNat)])
  | .vwln c d a w n => some (word 0x2C000005 c [(18, d.toNat), (11, a.toNat), (9, w.toNat), (4, n.toNat)])
  | .widf c d w k => some (word 0x2C000006 c [(18, d.toNat), (7, w.toNat), (4, k.toNat)])
  | .srd c d w n => some (word 0x2C000007 c [(18, d.toNat), (11, w.toNat), (4, n.toNat)])
  | .swr c w a n => some (word 0x2C000008 c [(18, w.toNat), (11, a.toNat), (4, n.toNat)])
  | .ptov c d => some (word 0x2C000009 c [(18, d.toNat)])
  | .vtop c a => some (word 0x2C00000A c [(11, a.toNat)])
  | .qwr c d b => some (word 0x2C00000B c [(18, d.toNat), (4, b.toNat)])
  | .qrd c d a => some (word 0x2C00000C c [(18, d.toNat), (11, a.toNat)])
  | .shflIdx c d a b => some (word 0x2E000000 c [(18, d.toNat), (11, a.toNat), (4, b.toNat)])
  | .shflUp c d a n => some (word 0x2E000001 c [(18, d.toNat), (11, a.toNat), (4, n.toNat)])
  | .shflDown c d a n => some (word 0x2E000002 c [(18, d.toNat), (11, a.toNat), (4, n.toNat)])
  | .shflXor c d a n => some (word 0x2E000003 c [(18, d.toNat), (11, a.toNat), (4, n.toNat)])
  | .voteAny c d a => some (word 0x30000000 c [(18, d.toNat), (11, a.toNat)])
  | .voteAll c d a => some (word 0x30000001 c [(18, d.toNat), (11, a.toNat)])
  | .voteBallot c d a => some (word 0x30000002 c [(18, d.toNat), (11, a.toNat)])
  | .voteRedaddS32 c d a => some (word 0x30000003 c [(18, d.toNat), (11, a.toNat)])
  | .voteRedminS32 c d a => some (word 0x30000004 c [(18, d.toNat), (11, a.toNat)])
  | .voteRedmaxS32 c d a => some (word 0x30000005 c [(18, d.toNat), (11, a.toNat)])
  | .voteRedaddF32 c d a => some (word 0x30000006 c [(18, d.toNat), (11, a.toNat)])
  | .voteScanS32 c d a => some (word 0x30000007 c [(18, d.toNat), (11, a.toNat)])
  | .addSs c d a b => some (word 0x32000000 c [(18, d.toNat), (11, a.toNat), (4, b.toNat)])
  | .subSs c d a b => some (word 0x32000001 c [(18, d.toNat), (11, a.toNat), (4, b.toNat)])
  | .mulSs c d a b => some (word 0x32000002 c [(18, d.toNat), (11, a.toNat), (4, b.toNat)])
  | .mulhiSs c d a b => some (word 0x32000003 c [(18, d.toNat), (11, a.toNat), (4, b.toNat)])
  | .mulhiNSs c d a b => some (word 0x32000004 c [(18, d.toNat), (11, a.toNat), (4, b.toNat)])
  | .minSs c d a b => some (word 0x32000005 c [(18, d.toNat), (11, a.toNat), (4, b.toNat)])
  | .maxSs c d a b => some (word 0x32000006 c [(18, d.toNat), (11, a.toNat), (4, b.toNat)])
  | .minNSs c d a b => some (word 0x32000007 c [(18, d.toNat), (11, a.toNat), (4, b.toNat)])
  | .maxNSs c d a b => some (word 0x32000008 c [(18, d.toNat), (11, a.toNat), (4, b.toNat)])
  | .andSs c d a b => some (word 0x32000009 c [(18, d.toNat), (11, a.toNat), (4, b.toNat)])
  | .orSs c d a b => some (word 0x3200000A c [(18, d.toNat), (11, a.toNat), (4, b.toNat)])
  | .xorSs c d a b => some (word 0x3200000B c [(18, d.toNat), (11, a.toNat), (4, b.toNat)])
  | .shlSs c d a b => some (word 0x3200000C c [(18, d.toNat), (11, a.toNat), (4, b.toNat)])
  | .shrSs c d a b => some (word 0x3200000D c [(18, d.toNat), (11, a.toNat), (4, b.toNat)])
  | .sarSs c d a b => some (word 0x3200000E c [(18, d.toNat), (11, a.toNat), (4, b.toNat)])
  | .rolSs c d a b => some (word 0x3200000F c [(18, d.toNat), (11, a.toNat), (4, b.toNat)])
  | .addSi c d a i => some (word 0x34000000 c [(18, d.toNat), (11, a.toNat), (0, i.toNat)])
  | .subSi c d a i => some (word 0x34000080 c [(18, d.toNat), (11, a.toNat), (0, i.toNat)])
  | .mulSi c d a i => some (word 0x34000100 c [(18, d.toNat), (11, a.toNat), (0, i.toNat)])
  | .mulhiSi c d a i => some (word 0x34000180 c [(18, d.toNat), (11, a.toNat), (0, i.toNat)])
  | .mulhiNSi c d a i => some (word 0x34000200 c [(18, d.toNat), (11, a.toNat), (0, i.toNat)])
  | .minSi c d a i => some (word 0x34000280 c [(18, d.toNat), (11, a.toNat), (0, i.toNat)])
  | .maxSi c d a i => some (word 0x34000300 c [(18, d.toNat), (11, a.toNat), (0, i.toNat)])
  | .minNSi c d a i => some (word 0x34000380 c [(18, d.toNat), (11, a.toNat), (0, i.toNat)])
  | .maxNSi c d a i => some (word 0x34000400 c [(18, d.toNat), (11, a.toNat), (0, i.toNat)])
  | .andSi c d a i => some (word 0x34000480 c [(18, d.toNat), (11, a.toNat), (0, i.toNat)])
  | .orSi c d a i => some (word 0x34000500 c [(18, d.toNat), (11, a.toNat), (0, i.toNat)])
  | .xorSi c d a i => some (word 0x34000580 c [(18, d.toNat), (11, a.toNat), (0, i.toNat)])
  | .shlSi c d a i => some (word 0x34000600 c [(18, d.toNat), (11, a.toNat), (0, i.toNat)])
  | .shrSi c d a i => some (word 0x34000680 c [(18, d.toNat), (11, a.toNat), (0, i.toNat)])
  | .sarSi c d a i => some (word 0x34000700 c [(18, d.toNat), (11, a.toNat), (0, i.toNat)])
  | .rolSi c d a i => some (word 0x34000780 c [(18, d.toNat), (11, a.toNat), (0, i.toNat)])
  | .smovi c d i => some (word 0x36000000 c [(18, d.toNat), (0, i.toNat)])
  | .scmp c k p a b => some (word 0x38000000 c [(21, k.toNat), (18, p.toNat), (11, a.toNat), (4, b.toNat)])
  | .smadMad c d a b => some (word 0x3A000000 c [(18, d.toNat), (11, a.toNat), (4, b.toNat)])
  | .smadMadhS c d a b => some (word 0x3A000001 c [(18, d.toNat), (11, a.toNat), (4, b.toNat)])
  | .smadMadhN c d a b => some (word 0x3A000002 c [(18, d.toNat), (11, a.toNat), (4, b.toNat)])
  | .ld c d a s z m r => some (word 0x3C000000 c [(18, d.toNat), (11, a.toNat), (7, s.toNat), (4, z.toNat), (2, m.toNat), (0, r.toNat)])
  | .st c d a s z m r => some (word 0x3E000000 c [(18, d.toNat), (11, a.toNat), (7, s.toNat), (4, z.toNat), (2, m.toNat), (0, r.toNat)])
  | .lds c d a s z m => some (word 0x40000000 c [(18, d.toNat), (11, a.toNat), (7, s.toNat), (4, z.toNat), (2, m.toNat)])
  | .sts c d a s z m => some (word 0x42000000 c [(18, d.toNat), (11, a.toNat), (7, s.toNat), (4, z.toNat), (2, m.toNat)])
  | .ldfe c d a s z m l => some (word 0x44000000 c [(18, d.toNat), (11, a.toNat), (7, s.toNat), (4, z.toNat), (2, m.toNat), (0, l.toNat)])
  | .sld c d a s z m r => some (word 0x46000000 c [(18, d.toNat), (11, a.toNat), (7, s.toNat), (4, z.toNat), (2, m.toNat), (0, r.toNat)])
  | .sst c d a s z m r => some (word 0x48000000 c [(18, d.toNat), (11, a.toNat), (7, s.toNat), (4, z.toNat), (2, m.toNat), (0, r.toNat)])
  | .atomAdd c d a b => some (word 0x4A000000 c [(18, d.toNat), (11, a.toNat), (4, b.toNat)])
  | .atomMin c d a b => some (word 0x4A000001 c [(18, d.toNat), (11, a.toNat), (4, b.toNat)])
  | .atomMax c d a b => some (word 0x4A000002 c [(18, d.toNat), (11, a.toNat), (4, b.toNat)])
  | .atomMinN c d a b => some (word 0x4A000003 c [(18, d.toNat), (11, a.toNat), (4, b.toNat)])
  | .atomMaxN c d a b => some (word 0x4A000004 c [(18, d.toNat), (11, a.toNat), (4, b.toNat)])
  | .atomAnd c d a b => some (word 0x4A000005 c [(18, d.toNat), (11, a.toNat), (4, b.toNat)])
  | .atomOr c d a b => some (word 0x4A000006 c [(18, d.toNat), (11, a.toNat), (4, b.toNat)])
  | .atomXor c d a b => some (word 0x4A000007 c [(18, d.toNat), (11, a.toNat), (4, b.toNat)])
  | .atomExch c d a b => some (word 0x4A000008 c [(18, d.toNat), (11, a.toNat), (4, b.toNat)])
  | .atomIncw c d a b => some (word 0x4A000009 c [(18, d.toNat), (11, a.toNat), (4, b.toNat)])
  | .atomDecw c d a b => some (word 0x4A00000A c [(18, d.toNat), (11, a.toNat), (4, b.toNat)])
  | .atomFaddF32 c d a b => some (word 0x4A00000B c [(18, d.toNat), (11, a.toNat), (4, b.toNat)])
  | .atomFminF32 c d a b => some (word 0x4A00000C c [(18, d.toNat), (11, a.toNat), (4, b.toNat)])
  | .atomFmaxF32 c d a b => some (word 0x4A00000D c [(18, d.toNat), (11, a.toNat), (4, b.toNat)])
  | .atomFaddBf16x2 c d a b => some (word 0x4A00000E c [(18, d.toNat), (11, a.toNat), (4, b.toNat)])
  | .atom64Add c d a b => some (word 0x4C000000 c [(18, d.toNat), (11, a.toNat), (4, b.toNat)])
  | .atom64Min c d a b => some (word 0x4C000001 c [(18, d.toNat), (11, a.toNat), (4, b.toNat)])
  | .atom64Max c d a b => some (word 0x4C000002 c [(18, d.toNat), (11, a.toNat), (4, b.toNat)])
  | .atom64MinN c d a b => some (word 0x4C000003 c [(18, d.toNat), (11, a.toNat), (4, b.toNat)])
  | .atom64MaxN c d a b => some (word 0x4C000004 c [(18, d.toNat), (11, a.toNat), (4, b.toNat)])
  | .atom64And c d a b => some (word 0x4C000005 c [(18, d.toNat), (11, a.toNat), (4, b.toNat)])
  | .atom64Or c d a b => some (word 0x4C000006 c [(18, d.toNat), (11, a.toNat), (4, b.toNat)])
  | .atom64Xor c d a b => some (word 0x4C000007 c [(18, d.toNat), (11, a.toNat), (4, b.toNat)])
  | .atom64Exch c d a b => some (word 0x4C000008 c [(18, d.toNat), (11, a.toNat), (4, b.toNat)])
  | .atom64Incw c d a b => some (word 0x4C000009 c [(18, d.toNat), (11, a.toNat), (4, b.toNat)])
  | .atom64Decw c d a b => some (word 0x4C00000A c [(18, d.toNat), (11, a.toNat), (4, b.toNat)])
  | .atom64FaddF64 c d a b => some (word 0x4C00000B c [(18, d.toNat), (11, a.toNat), (4, b.toNat)])
  | .atom64FminF64 c d a b => some (word 0x4C00000C c [(18, d.toNat), (11, a.toNat), (4, b.toNat)])
  | .atom64FmaxF64 c d a b => some (word 0x4C00000D c [(18, d.toNat), (11, a.toNat), (4, b.toNat)])
  | .redAdd c w a b => some (word 0x4E000000 c [(18, w.toNat), (11, a.toNat), (4, b.toNat)])
  | .redMin c w a b => some (word 0x4E000001 c [(18, w.toNat), (11, a.toNat), (4, b.toNat)])
  | .redMax c w a b => some (word 0x4E000002 c [(18, w.toNat), (11, a.toNat), (4, b.toNat)])
  | .redMinN c w a b => some (word 0x4E000003 c [(18, w.toNat), (11, a.toNat), (4, b.toNat)])
  | .redMaxN c w a b => some (word 0x4E000004 c [(18, w.toNat), (11, a.toNat), (4, b.toNat)])
  | .redAnd c w a b => some (word 0x4E000005 c [(18, w.toNat), (11, a.toNat), (4, b.toNat)])
  | .redOr c w a b => some (word 0x4E000006 c [(18, w.toNat), (11, a.toNat), (4, b.toNat)])
  | .redXor c w a b => some (word 0x4E000007 c [(18, w.toNat), (11, a.toNat), (4, b.toNat)])
  | .redExch c w a b => some (word 0x4E000008 c [(18, w.toNat), (11, a.toNat), (4, b.toNat)])
  | .redIncw c w a b => some (word 0x4E000009 c [(18, w.toNat), (11, a.toNat), (4, b.toNat)])
  | .redDecw c w a b => some (word 0x4E00000A c [(18, w.toNat), (11, a.toNat), (4, b.toNat)])
  | .redFadd c w a b => some (word 0x4E00000B c [(18, w.toNat), (11, a.toNat), (4, b.toNat)])
  | .redFmin c w a b => some (word 0x4E00000C c [(18, w.toNat), (11, a.toNat), (4, b.toNat)])
  | .redFmax c w a b => some (word 0x4E00000D c [(18, w.toNat), (11, a.toNat), (4, b.toNat)])
  | .redFaddBf16x2 c a b => some (word 0x4E00000E c [(11, a.toNat), (4, b.toNat)])
  | .casB32 c d a b => some (word 0x50000000 c [(18, d.toNat), (11, a.toNat), (4, b.toNat)])
  | .casB64 c d a b => some (word 0x50000001 c [(18, d.toNat), (11, a.toNat), (4, b.toNat)])
  | .casB128 c d a b => some (word 0x50000002 c [(18, d.toNat), (11, a.toNat), (4, b.toNat)])
  | .patom c d a b f => some (word 0x52000000 c [(18, d.toNat), (12, a.toNat), (4, b.toNat), (0, f.toNat)])
  | .fence c o s => some (word 0x54000000 c [(7, o.toNat), (4, s.toNat)])
  | .poll c a b x w k => some (word 0x54040000 c [(11, a.toNat), (4, b.toNat), (3, x.toNat), (2, w.toNat), (0, k.toNat)])
  | .farb c t s => some (word 0x54080000 c [(4, t.toNat), (0, s.toNat)])
  | .fare c p => some (word 0x540C0000 c [(4, p.toNat)])
  | .farx c => some (word 0x54100000 c [])
  | .fars c a => some (word 0x54140000 c [(11, a.toNat)])
  | .dflush c => some (word 0x54180000 c [])
  | .pgreq c a b => some (word 0x541C0000 c [(11, a.toNat), (4, b.toNat)])
  | .pref c a l p => some (word 0x54200000 c [(11, a.toNat), (2, l.toNat), (0, p.toNat)])
  | .cinv c a b => some (word 0x54240000 c [(11, a.toNat), (4, b.toNat)])
  | .cwb c a b => some (word 0x54280000 c [(11, a.toNat), (4, b.toNat)])
  | .tagset c a b => some (word 0x542C0000 c [(11, a.toNat), (4, b.toNat)])
  | .tagget c a b => some (word 0x54300000 c [(11, a.toNat), (4, b.toNat)])
  | .mfop c => some (word 0x54340000 c [])
  | .feset c a b => some (word 0x54380000 c [(11, a.toNat), (4, b.toNat)])
  | .feclr c a b => some (word 0x543C0000 c [(11, a.toNat), (4, b.toNat)])
  | .seqr c a => some (word 0x54400000 c [(11, a.toNat)])
  | .cpy c d a b k z => some (word 0x56000000 c [(18, d.toNat), (11, a.toNat), (4, b.toNat), (2, k.toNat), (0, z.toNat)])
  | .tile c a b => some (word 0x58000000 c [(11, a.toNat), (4, b.toNat)])
  | .unpk c a b => some (word 0x58040000 c [(11, a.toNat), (4, b.toNat)])
  | .pack c a b => some (word 0x58080000 c [(11, a.toNat), (4, b.toNat)])
  | .gath c a b => some (word 0x580C0000 c [(11, a.toNat), (4, b.toNat)])
  | .scat c a b => some (word 0x58100000 c [(11, a.toNat), (4, b.toNat)])
  | .kvcp c a b => some (word 0x58140000 c [(11, a.toNat), (4, b.toNat)])
  | .cpw c t p => some (word 0x58180000 c [(11, t.toNat), (4, p.toNat)])
  | .cps c a t => some (word 0x581C0000 c [(11, a.toNat), (4, t.toNat)])
  | .osclm c n f => some (word 0x5A000000 c [(11, n.toNat), (0, f.toNat)])
  | .osrel c n => some (word 0x5A040000 c [(11, n.toNat)])
  | .osst c a b => some (word 0x5A080000 c [(11, a.toNat), (4, b.toNat)])
  | .osld c a b => some (word 0x5A0C0000 c [(11, a.toNat), (4, b.toNat)])
  | .acz c n => some (word 0x5A100000 c [(11, n.toNat)])
  | .acld c a b => some (word 0x5A140000 c [(11, a.toNat), (4, b.toNat)])
  | .acst c a b => some (word 0x5A180000 c [(11, a.toNat), (4, b.toNat)])
  | .mma c a => some (word 0x5A1C0000 c [(11, a.toNat)])
  | .mwait c t p => some (word 0x5A200000 c [(11, t.toNat), (4, p.toNat)])
  | .mstat c a t => some (word 0x5A240000 c [(11, a.toNat), (4, t.toNat)])
  | .seqnew c a b => some (word 0x5C000000 c [(11, a.toNat), (4, b.toNat)])
  | .seqfree c a b => some (word 0x5C040000 c [(11, a.toNat), (4, b.toNat)])
  | .tfork c a b => some (word 0x5C080000 c [(11, a.toNat), (4, b.toNat)])
  | .tapp c a b => some (word 0x5C0C0000 c [(11, a.toNat), (4, b.toNat)])
  | .kvwr c a b => some (word 0x5C100000 c [(11, a.toNat), (4, b.toNat)])
  | .tprune c a b => some (word 0x5C140000 c [(11, a.toNat), (4, b.toNat)])
  | .tcommit c a b => some (word 0x5C180000 c [(11, a.toNat), (4, b.toNat)])
  | .tqry c a b => some (word 0x5C1C0000 c [(11, a.toNat), (4, b.toNat)])
  | .twalk c a b => some (word 0x5C200000 c [(11, a.toNat), (4, b.toNat)])
  | .kvgath c a b => some (word 0x5C240000 c [(11, a.toNat), (4, b.toNat)])
  | .tmask c a b => some (word 0x5C280000 c [(11, a.toNat), (4, b.toNat)])
  | .pfxq c a b => some (word 0x5C2C0000 c [(11, a.toNat), (4, b.toNat)])
  | .pfxpub c a b => some (word 0x5C300000 c [(11, a.toNat), (4, b.toNat)])
  | .pfxatt c a b => some (word 0x5C340000 c [(11, a.toNat), (4, b.toNat)])
  | .kvresc c a b => some (word 0x5C380000 c [(11, a.toNat), (4, b.toNat)])
  | .rope c d a b => some (word 0x5E000000 c [(18, d.toNat), (11, a.toNat), (4, b.toNat)])
  | .sample c a b => some (word 0x60000000 c [(11, a.toNat), (4, b.toNat)])
  | .rng c a b => some (word 0x60040000 c [(11, a.toNat), (4, b.toNat)])
  | .rngf c a b => some (word 0x60080000 c [(11, a.toNat), (4, b.toNat)])
  | .argmax c a b => some (word 0x600C0000 c [(11, a.toNat), (4, b.toNat)])
  | .coll c a b => some (word 0x62000000 c [(11, a.toNat), (4, b.toNat)])
  | .collw c t p => some (word 0x62040000 c [(11, t.toNat), (4, p.toNat)])
  | .rsig c a b => some (word 0x62080000 c [(11, a.toNat), (4, b.toNat)])
  | .taskdec c a b => some (word 0x620C0000 c [(11, a.toNat), (4, b.toNat)])
  | .tasknew c a b => some (word 0x62100000 c [(11, a.toNat), (4, b.toNat)])
  | .taskq c a b => some (word 0x62140000 c [(11, a.toNat), (4, b.toNat)])
  | .tkrcv c a b => some (word 0x62180000 c [(11, a.toNat), (4, b.toNat)])
  | .tkpost c a b => some (word 0x621C0000 c [(11, a.toNat), (4, b.toNat)])
  | .ctxsv c a b => some (word 0x64000000 c [(11, a.toNat), (4, b.toNat)])
  | .ctxld c a b => some (word 0x64040000 c [(11, a.toNat), (4, b.toNat)])
  | .tlbi c a b => some (word 0x64080000 c [(11, a.toNat), (4, b.toNat)])
  | .fltcan c a b => some (word 0x640C0000 c [(11, a.toNat), (4, b.toNat)])
  | .fltrpl c a b => some (word 0x64100000 c [(11, a.toNat), (4, b.toNat)])
  | .haltqNow c a p => some (word 0x64140000 c [(11, a.toNat), (4, p.toNat)])
  | .haltqQuiesce c a p => some (word 0x64140001 c [(11, a.toNat), (4, p.toNat)])
  | .haltqRelease c a p => some (word 0x64140002 c [(11, a.toNat), (4, p.toNat)])
  | .snaparm c a => some (word 0x64180000 c [(11, a.toNat)])
  | .reset => none
  | .codeLineFetch _ _ _ => none
  | .issueStarvationPriority _ _ => none
  | .activeSetExchange _ _ => none
  | .forcedExchange _ _ => none
  | .yieldExpiry _ _ _ => none
  | .diesetChange _ _ => none
  | .loadDataArrival _ _ => none
  | .storeQueueDrain _ _ => none
  | .l2MissTranslation _ _ _ _ => none
  | .windowWrite _ _ _ => none
  | .carveoutApply _ _ => none
  | .gets _ _ => none
  | .getx _ _ => none
  | .upg _ _ => none
  | .putm _ _ => none
  | .puto _ _ => none
  | .pute _ _ => none
  | .fwdGets _ _ => none
  | .fwdGetx _ _ => none
  | .inv _ _ => none
  | .data _ _ => none
  | .dataEx _ _ => none
  | .upgAck _ _ => none
  | .invAck _ _ => none
  | .putAck _ _ => none
  | .putAckStale _ _ => none
  | .unblock _ _ => none
  | .homeAgentAccess _ _ => none
  | .replicaCollapse _ _ _ => none
  | .faultWindowClose _ => none
  | .remoteRequest _ => none
  | .keepWaitingNotice _ => none
  | .keepWaitingReceipt _ => none
  | .remoteReply _ _ _ _ => none
  | .remoteTimeout _ => none
  | .numericWindowRestart _ _ => none
  | .numericThresholdTrap _ _ _ => none
  | .numEvtClear _ _ => none
  | .mmaStart _ => none
  | .mmaComplete _ => none
  | .copyComplete _ _ => none
  | .badgerCommandArrival _ => none
  | .ttComplete _ => none
  | .pageFree _ _ => none
  | .smplComplete _ _ => none
  | .hacRoutine _ _ => none
  | .pollReread _ _ _ => none
  | .regionCommit _ _ _ => none
  | .abortTargetResume _ _ _ => none
  | .regionIrrevocable _ _ _ => none
  | .regionWatchdog _ _ _ => none
  | .dflushComplete _ => none
  | .segmentStart _ _ => none
  | .segmentWatchdog _ _ => none
  | .pgreqComplete _ => none
  | .taskDecrement _ _ _ => none
  | .counterWindowWrite _ _ _ => none
  | .agingTick _ => none
  | .launchHeaderCheck _ => none
  | .workgroupDispatch _ _ _ => none
  | .preemptDecision _ _ => none
  | .preemptReq _ _ _ => none
  | .forcedSave _ _ => none
  | .contextRestore _ _ => none
  | .launchWatchdog _ => none
  | .launchEnd _ => none
  | .taskCompletion _ => none
  | .packetForward _ => none
  | .linkFailure _ => none
  | .moduleFailure _ _ => none
  | .collComplete _ _ => none
  | .rsigArrival _ => none
  | .hostMemoryWrite _ _ => none
  | .hostMemoryRead _ _ => none
  | .mailboxInDoorbell _ => none
  | .mailboxOutPost _ => none
  | .mailboxOutAck _ => none
  | .numiStatClear _ => none
  | .debugRequest _ => none
  | .breakpointRelease _ _ _ => none
  | .ueMessageReceive _ _ _ => none
  | .ueRingEnable _ _ => none
  | .ueConnectionSetup _ _ _ => none
  | .tkeRecord _ => none
  | .tkeLogWrite _ _ => none
  | .dkePost _ => none
  | .dkeChunkTimeout _ _ => none
  | .eccCorrection _ _ _ => none
  | .journalAppend => none
  | .uncorrectableError _ => none
  | .powerFail => none
  | .clockThrottle _ => none
  | .attestationRequest _ => none
  | .haltQuiesceComplete _ => none
  | .haltQuiesceTimeout _ => none
  | .asidDestroy _ => none
  | .registerWrite _ => none
  | .engineWrite _ _ => none
  | .longLatencyLoad _ _ => none
  | .prefixDirectoryRequest _ => none
  | .modelEnable _ => none

/-- The instruction that the decoder reads from a word numbered as the opcode table numbers it; none where it
refuses. Every word has 32 bits (R39). -/
noncomputable def decodeTableWord (nbits w : Nat) : Option Instr :=
  match decode (BitVec.ofNat 32 (w % 2 ^ nbits)) with
  | .ok i => some i
  | .error _ => none

end Sys2Proof
end

