-- ==== Sys2Proof/Machine/Tab.lean ====
section
/-! DEFINITION. Sparse tables: plain data keyed by number, with a value for the keys that are not listed. -/

namespace Sys2Proof.Machine

/-- A sparse table. A key that is not listed reads as the default its reader gives. -/
abbrev Tab (α : Type) := List (Nat × α)

namespace Tab

/-- The value listed for a key, if any. -/
def find? {α : Type} (t : Tab α) (k : Nat) : Option α :=
  match t with
  | [] => none
  | (k', v) :: t => if k = k' then some v else find? t k

/-- The value for a key, `d` when it is not listed. -/
def get {α : Type} (t : Tab α) (d : α) (k : Nat) : α := (t.find? k).getD d

/-- The table with a key's value replaced. -/
def set {α : Type} (t : Tab α) (k : Nat) (v : α) : Tab α :=
  match t with
  | [] => [(k, v)]
  | (k', v') :: t => if k = k' then (k, v) :: t else (k', v') :: set t k v

/-- The table without a key. -/
def erase {α : Type} (t : Tab α) (k : Nat) : Tab α := t.filter fun x => x.1 ≠ k

/-- The keys listed. -/
def keys {α : Type} (t : Tab α) : List Nat := t.map Prod.fst

/-- Every listed value changed by a function of its key. -/
def mapVals {α β : Type} (t : Tab α) (f : Nat → α → β) : Tab β := t.map fun x => (x.1, f x.1 x.2)

end Tab

end Sys2Proof.Machine
end

