-- ==== Sys2Proof/Machine/Bits.lean ====
section
/-! DEFINITION. Bit-field, byte-order and integer helpers that the meanings share. -/

namespace Sys2Proof.Machine

/-- Sign extension of a field (R129). -/
def sext {n : Nat} (m : Nat) (x : BitVec n) : BitVec m := x.signExtend m

/-- Zero extension, or the low bits (R129). -/
def zext {n : Nat} (m : Nat) (x : BitVec n) : BitVec m := x.setWidth m

/-- Bits hi:lo of a value, as a number. -/
def bitsNat {n : Nat} (x : BitVec n) (hi lo : Nat) : Nat := x.toNat / 2 ^ lo % 2 ^ (hi + 1 - lo)

/-- The value with bits hi:lo replaced. -/
def putBits {n : Nat} (x : BitVec n) (hi lo : Nat) (v : Nat) : BitVec n :=
  let m := (2 ^ (hi + 1 - lo) - 1) * 2 ^ lo
  (x &&& ~~~ BitVec.ofNat n m) ||| (BitVec.ofNat n (v * 2 ^ lo) &&& BitVec.ofNat n m)

/-- The low `n` bytes of a number, lowest address first: little-endian (R6). -/
def leBytes (n v : Nat) : List Byte := (List.range n).map fun i => BitVec.ofNat 8 (v / 2 ^ (8 * i))

/-- The number that bytes hold, lowest address first (R6). -/
def leNat : List Byte → Nat
  | [] => 0
  | b :: bs => b.toNat + 256 * leNat bs

/-- `n` bytes of a block from offset `o`, as a number; bytes beyond the block are zero. -/
def blkNat (b : List Byte) (o n : Nat) : Nat := leNat ((b.drop o).take n)

/-- Signed reading of an `n`-byte field of a block. -/
def blkInt (b : List Byte) (o n : Nat) : Int :=
  let v := blkNat b o n
  if v < 2 ^ (8 * n - 1) then v else (v : Int) - 2 ^ (8 * n)

/-- All bytes of a part of a block are zero (R7). -/
def blkZero (b : List Byte) (o n : Nat) : Bool := blkNat b o n = 0

/-- Bytes of a block replaced from offset `o`. -/
def putBytes (b : List Byte) (o : Nat) (v : List Byte) : List Byte :=
  b.take o ++ v ++ b.drop (o + v.length)

/-- The number of set bits (R131). -/
def popCount (v : Nat) : Nat → Nat
  | 0 => 0
  | n + 1 => v / 2 ^ n % 2 + popCount v n

/-- The bits below bit `n` in reverse order (R131). -/
def bitRev (v : Nat) : Nat → Nat
  | 0 => 0
  | n + 1 => bitRev v n * 2 + v / 2 ^ n % 2

/-- The least element at or above `k` that is not listed, searching `fuel` numbers. -/
def leastFree (used : List Nat) (k : Nat) : Nat → Option Nat
  | 0 => none
  | f + 1 => if used.contains k then leastFree used (k + 1) f else some k

/-- Insertion into a list sorted by a key. -/
def insertBy {α : Type} (key : α → Nat) (x : α) : List α → List α
  | [] => [x]
  | y :: ys => if key x < key y then x :: y :: ys else y :: insertBy key x ys

/-- A list sorted by a key, equal keys in their order. -/
def sortBy {α : Type} (key : α → Nat) (l : List α) : List α :=
  l.foldl (fun acc x => insertBy key x acc) []

/-- Clamp of an exact integer to a range; the flag says that the value changed (R72). -/
def clampInt (lo hi r : Int) : Int × Bool :=
  if r < lo then (lo, true) else if hi < r then (hi, true) else (r, false)

/-- Clamp to the signed range of `w` bits (R129). -/
def clampS (w : Nat) (r : Int) : Int × Bool := clampInt (-(2 ^ (w - 1) : Int)) (2 ^ (w - 1) - 1) r

/-- Clamp to the unsigned range of `w` bits (R130). -/
def clampN (w : Nat) (r : Int) : Int × Bool := clampInt 0 (2 ^ w - 1) r

/-- Integer square root by bits: the largest root with root² ≤ v, for v < 4^fuel. -/
def isqrtGo (v root : Nat) : Nat → Nat
  | 0 => root
  | k + 1 =>
    let r := root + 2 ^ k
    isqrtGo v (if r * r ≤ v then r else root) k

/-- The integer square root. -/
def isqrt (v : Nat) : Nat := isqrtGo v 0 (v.log2 / 2 + 1)

end Sys2Proof.Machine
end

