-- ==== Sys2Proof/Config.lean ====
section
/-! DEFINITION. What one machine fixes, and the values the manual leaves open. A free value has no body:
nothing can be proved of it, so a claim that holds, holds for every value of it (log 5). -/

namespace Sys2Proof.Config

/-- The n-th undefined value, as a word (R8: any bit pattern, with no other effect). -/
opaque freeWord : Nat → Word

/-- The n-th undefined value, as a 64-bit word (R8). -/
opaque freeDword : Nat → Dword

/-- The n-th undefined value, as a byte (R8). -/
opaque freeByte : Nat → Byte

/-- The signature of a message by the module's identity key (R370, R373). The key is generated inside the
module and never leaves it, so the value is free (log 15). -/
opaque identitySignature : List Byte → Nat → Byte

/-- The bytes of the boot ROM, whose digest an attestation report holds (R370); the manual gives none of
them (log 15). -/
opaque romDigest : Nat → Byte

/-- MAG of a NaN, which R87 does not define (log 64). -/
opaque nanMag : Nat

/-- What a word of a register file that no group holds reads as, by clock, core and offset (log 25). -/
opaque unheldWord : Nat → Nat → Nat → Word

/-- The slice of its home die that a line lies in (R243); the manual does not give the hash (log 12). -/
opaque slice : Nat → Nat

/-- Cores of a die (R1). -/
def coresPerDie : Nat := 72

/-- Largest clocks of a region, FAR_MAX_CLOCKS (R236). -/
def farMaxClocks : Nat := 200000

end Sys2Proof.Config
end

