-- ==== Sys2Proof/Machine/State.lean ====
section
/-! DEFINITION. Everything the manual gives the machine, as plain data, and the machine after reset. -/

namespace Sys2Proof.Machine

/-- Why the machine stops. -/
inductive Fault where
  /-- Raised by every step after POWER_FAIL: the module has stopped (R373). Safe: nothing runs without power. -/
  | poweredOff
  deriving DecidableEq, Repr

/-- Why the model gives an instruction no meaning. -/
inductive Refusal where
  /-- Raised by a dispatch arm whose instruction has no meaning yet. Safe: the model stops. -/
  | notModelled (mnemonic : String)
  deriving DecidableEq, Repr

/-! ## One thread -/

/-- A unit of a packet: the packet's address and the index of the unit's first word (R47, R49). -/
structure Pos where
  pc : Dword := 0
  word : Nat := 0
  deriving DecidableEq, Repr

/-- Handler mode (R118, R329, R330). `restore` is a PREEMPT entry with %TRAP_ADDR = 1. -/
inductive Handler where
  | none | trap | preempt | restore
  deriving DecidableEq, Repr

/-- A scratchpad or memory access of one lane that waits (R154, R225). -/
structure WaitAcc where
  ea : Dword := 0
  size : Nat := 0
  sz : BitVec 3 := 0
  dest : Nat := 0
  clear : Bool := false
  spad : Bool := false
  cond : Nat := 0
  operand : Dword := 0
  /-- MODE 3: the address register and its next value (R110) -/
  ring : Option (Nat × Word) := none
  /-- POLL: parked on a page (R256), or sent to another module under this request (R226) -/
  park : Option Nat := none
  remote : Option Nat := none
  /-- POLL: the name of the read that has been begun and has no value yet (R102, R226) -/
  read : Option Nat := none
  /-- POLL: what it has read last, where that came from a line of the core's L1 or from the scratchpad (R226) -/
  seen : Option (List Byte) := none
  /-- the instruction word, for a trap that comes while the thread waits (R120) -/
  word : Word := 0
  deriving DecidableEq, Repr

/-- What a thread waits for. -/
inductive Wait where
  /-- YIELD, until a clock (R121). -/
  | yield (till : Nat)
  /-- WAITM on a mask (R29). -/
  | waitm (m : Nat)
  /-- BAR and BARL at a level (R128). -/
  | barrier (level : Nat)
  /-- STEP (R33). -/
  | step
  /-- LDFE on a granule that is empty (R154). -/
  | ldfe (a : WaitAcc)
  /-- POLL, next read due at a clock, with the back-off in clocks (R226). -/
  | poll (a : WaitAcc) (due backoff : Nat)
  /-- CPW, MWAIT and COLLW on a tag, with the predicate to write (R167, R280, R351). -/
  | cpw (tag pd : Nat) | mwait (tag pd : Nat) | collw (tag pd : Nat)
  /-- FARE of a region in STATE 2 (R234). -/
  | fare (pd : Nat)
  /-- DFLUSH until flush k has been applied (R241). -/
  | dflush (k : Nat)
  /-- BRK until the debug agent releases the thread (R124). -/
  | brk
  /-- YDONE until the workgroup's image is taken (R330). -/
  | ydone
  /-- A fence until the group's store-queue units below a serial have performed (R199). -/
  | fence (serial : Nat)
  /-- A fetch parked on a page (R256). -/
  | fetch (key : Nat)
  /-- An aborted region's thread, until its outstanding loads have landed (R235). -/
  | landing
  /-- A SYS member until it completes; HALTQ in quiesce mode names its core (R377). -/
  | haltq (core pd : Nat)
  /-- An irrevocable access waits for its region to be the oldest (R233). -/
  | irrevocable
  /-- PREEMPT_REQ of a launch without handler: the thread waits for the forced save (R329). -/
  | forcedSave
  /-- MMA until every product of its unit has entered the matrix queue (R276). -/
  | mmaq
  deriving DecidableEq, Repr

/-- A wait and the unit that made it, which %TRAP_RES names when the wait is withdrawn (R329). -/
structure Waiting where
  at_ : Pos := {}
  kind : Wait := .brk
  deriving DecidableEq, Repr

/-- %FAR_STATUS, by its fields (R228). -/
structure FarStatus where
  order : Word := 0
  cause : BitVec 4 := 0
  dieScope : Bool := false
  irrev : Bool := false
  fwdIn : Bool := false
  slot : Nat := 0
  state : Nat := 0
  deriving DecidableEq, Repr

/-- A trap that reaches a thread at its next boundary, away from the unit that caused it (R90, R150, R291). -/
structure Pending where
  cause : Nat
  word : Word
  addr : Dword
  unit : Dword
  /-- the unit after the chain that caused it (R120) -/
  res : Pos := {}
  /-- raised together with another trap: it waits until handler mode is left (log 20) -/
  later : Bool := false
  /-- raised by an executing instruction: the thread takes it before its next unit (R90) -/
  soon : Bool := false
  deriving DecidableEq, Repr

/-- One thread, in its lane (R9). A register that is not listed holds zero (R328). -/
structure Thread where
  present : Bool := false
  ended : Bool := false
  pos : Pos := {}
  v : Tab Word := []
  /-- p7 to p0; bit 0 is not read (R115). -/
  p : BitVec 8 := 0
  handler : Handler := .none
  trapCause : Word := 0
  trapPc : Dword := 0
  trapWord : Word := 0
  trapAddr : Dword := 0
  trapRes : Dword := 0
  trapUnit : Dword := 0
  far : FarStatus := {}
  /-- the packet an aborted region continues at, and the unit and clock of its FARB (R227, R236) -/
  farTarget : Dword := 0
  farSince : Nat := 0
  waits : List Waiting := []
  pending : List Pending := []
  preempt : Bool := false
  /-- registers that a returning atomic of a deterministic launch has marked (R242) -/
  marks : List Nat := []
  /-- vector registers that hold poison (R371) -/
  poison : List Nat := []
  /-- the clock since which the thread has been ready at its unit (R26) -/
  since : Nat := 0
  /-- records of this thread's deterministic atomics so far in its segment (R213) -/
  detSeq : Nat := 0
  /-- the thread has executed DFLUSH in this segment (R241) -/
  flushed : Bool := false
  /-- by copy tag of its group, the operations whose completion it has observed (R164, R167) -/
  seen : Tab Nat := []
  deriving DecidableEq, Repr

/-! ## One group -/

/-- A completion tag (R167, R280, R348). -/
structure Tag where
  count : Nat := 0
  flag : Bool := false
  code : Nat := 0
  /-- operations that have completed on the tag (R164) -/
  ended : Nat := 0
  deriving DecidableEq, Repr

/-- What a unit of the store queue does at its location (R192, R215). -/
inductive SqOp where
  | store
  /-- ATOM, ATOM64 and RED: the member F; `ret` says that the old value is returned (R217). -/
  | rmw (member : Nat) (wide ret : Bool)
  | cas
  | patom (routine : Nat)
  /-- FESET and FECLR of the granules of a range (R163). -/
  | fullBits (value : Bool)
  | tagset
  /-- RSIG and TASKDEC, which are releases and belong to the launch (R337, R352). -/
  | rsig
  deriving DecidableEq, Repr

/-- One lane's access in a unit of the store queue. -/
structure SqAcc where
  lane : Nat := 0
  ea : Dword := 0
  data : Qword := 0
  cmp : Qword := 0
  dest : Nat := 0
  done : Bool := false
  /-- parked on a page (R256) -/
  park : Option Nat := none
  /-- sent to another module, under this request (R261) -/
  remote : Option Nat := none
  /-- the region the access belongs to: die scope, order number (R230) -/
  region : Option (Bool × Nat) := none
  /-- that region has aborted: nothing is written (R235, R237) -/
  dropped : Bool := false
  deriving DecidableEq, Repr

/-- A unit of the store queue (R194). `accs` is in ascending lane order; `done` is the done mask (R219). -/
structure SqUnit where
  serial : Nat := 0
  op : SqOp := .store
  size : Nat := 0
  spad : Bool := false
  policy : Nat := 0
  accs : List SqAcc := []
  /-- the lanes that executed an access made once for the unit (R153) -/
  uni : List Nat := []
  asid : BitVec 16 := 0
  task : Nat := 0
  word : Word := 0
  unit : Dword := 0
  /-- the unit after its chain (R120), and the clock of its issue -/
  res : Pos := {}
  issued : Nat := 0
  deriving DecidableEq, Repr

/-- One resident group of 32 lanes (R10). -/
structure Group where
  present : Bool := false
  wg : Nat := 0
  index : Nat := 0
  lanes : Tab Thread := []
  s : Tab Dword := []
  q : Tab Dword := []
  m : Tab Word := []
  arrived : Tab Word := []
  ropePart : Dword := 0
  copyTags : Tab Tag := []
  matrixTags : Tab Tag := []
  collTags : Tab Tag := []
  sq : List SqUnit := []
  /-- first register row of the group in its partition (R105) -/
  rb : Nat := 0
  active : Bool := false
  /-- in the last clock a thread of the group was eligible to issue, or else the group was parked (R22) -/
  ready : Bool := false
  parked : Bool := false
  /-- no thread of the group could issue as the present clock began, and one was blocked (R22) -/
  blocked : Bool := false
  /-- clocks that the group has waited, ready, outside the active set (R22, R23, R36) -/
  waited : Nat := 0
  lastIssue : Nat := 0
  /-- uniform registers that hold poison (R371) -/
  poison : List Nat := []
  /-- uniform registers an engine command has still to write (R314, R338, R366) -/
  busyS : List Nat := []
  deriving DecidableEq, Repr

/-! ## One core -/

/-- Where the value of a load goes (R151, R153, R162, R273). -/
inductive LoadDest where
  | vec (sz : BitVec 3) (d : Nat)
  | uni (sz : BitVec 3) (d : Nat)
  /-- LD under PROBE also writes its predicate (R155). -/
  | probe (sz : BitVec 3) (d pd : Nat)
  /-- TAGGET (R162). -/
  | tag (d : Nat)
  /-- ACST: the pair, and the words of the tile that it has read (R273). -/
  | tile (d : Nat) (lo hi : Word)
  deriving DecidableEq, Repr

/-- A load that has not taken its value (R151). -/
structure LoadReq where
  id : Nat := 0
  place : Nat := 0
  lane : Nat := 0
  /-- the lanes that executed a load made once for the unit (R153) -/
  uni : List Nat := []
  dest : LoadDest := .tag 0
  ea : Dword := 0
  size : Nat := 0
  spad : Bool := false
  policy : Nat := 0
  asid : BitVec 16 := 0
  /-- serial of the group's newest store-queue unit at issue: only older ones forward (R192) -/
  serial : Nat := 0
  issued : Nat := 0
  /-- the clock since which its thread had been ready at the unit, and the last clock in which an earlier load of the
  thread took its value while this one waited; 0 for none (R194, R201) -/
  ready : Nat := 0
  after : Nat := 0
  long : Bool := false
  park : Option Nat := none
  remote : Option Nat := none
  region : Option (Bool × Nat) := none
  word : Word := 0
  unit : Dword := 0
  /-- the unit after its chain (R120) -/
  res : Pos := {}
  deriving DecidableEq, Repr

/-- The L1 states of R249. -/
inductive L1St where
  | m | o | e | s | isD | isDI | imAD | imA | smAD | smA | miA | oiA | eiA | iiA
  deriving DecidableEq, Repr

/-- A line of an L1, or of its write-back buffer (R249). -/
structure L1Line where
  st : L1St := .s
  asid : BitVec 16 := 0
  line : BitVec 51 := 0
  /-- the die whose home slice serves the line here (R243, R253) -/
  die : Nat := 0
  pa : Nat := 0
  data : BitVec 512 := 0
  /-- INVs acknowledged in IS_D: number, the first name a load issued afterwards can have, and the clock (R201, R250) -/
  invs : List (Nat × Nat × Nat) := []
  /-- acks still to come, counted down from the ack count of the data (R248) -/
  acks : Int := 0
  got : Bool := false
  dirty : Bool := false
  /-- in IS_D_I: the loads that take the data, by their names (R250) -/
  serve : List Nat := []
  /-- the access that the line was filled for, whose own use is no hit (R102) -/
  filler : Nat := 0
  rrpv : Nat := 0
  deriving DecidableEq, Repr

/-- A thread by its workgroup, the index of its group there, and its lane. -/
structure Who where
  wg : Nat
  grp : Nat
  lane : Nat
  deriving DecidableEq, Repr

/-- Where a write of a slot comes from, as far as an MFOP asks (R164). -/
inductive SlotWriter where
  /-- an OSST, or a store through window 4, of a thread -/
  | thread (t : Who)
  /-- an UNPK or a KVGATH by its name, before it completes -/
  | engine (id : Nat)
  /-- one that has completed on a tag of a group: how many operations had completed on the tag before it; and on a
  counter, if it has one: its address, and the threads that have read the counter since -/
  | ended (wg grp tag n : Nat) (ea : Option Dword) (seen : List Who)
  | other
  deriving DecidableEq, Repr

/-- A write of a 4-byte unit of a slot that an MMA may read either way (R164, R282): the unit, what it held, where the
write comes from, and the threads that have ordered it, each with the name of its MFOP. -/
structure SlotWrite where
  unit : Nat
  old : Word
  writer : SlotWriter := .other
  ordered : List (Who × Nat) := []
  deriving DecidableEq, Repr

/-- An operand slot (R264 to R266). `releasing` names the OSREL that has not taken effect (R271). -/
structure Slot where
  claim : Option Nat := none
  releasing : Option Nat := none
  bytes : Tab Byte := []
  scales : Tab Byte := []
  writes : List SlotWrite := []
  /-- poisoned rows (R371) -/
  poison : List Nat := []
  deriving DecidableEq, Repr

/-- An MMA in the matrix queue (R274, R276). -/
structure MmaJob where
  place : Nat := 0
  lane : Nat := 0
  wg : Nat := 0
  /-- index of the group in its workgroup, and the clock of the issue -/
  grp : Nat := 0
  issued : Nat := 0
  blk : List Byte := []
  slotBase : Nat := 0
  tileBase : Nat := 0
  word : Word := 0
  unit : Dword := 0
  /-- its name, among the writes of slots and the releases (R271, R282) -/
  serial : Nat := 0
  /-- it has entered the matrix queue; the products of one unit enter as there is room (R276) -/
  entered : Bool := true
  started : Bool := false
  /-- the clock at which it started (R276) -/
  startedAt : Nat := 0
  /-- the tile was written between the MMA and its MWAIT (R282) -/
  spoiled : Bool := false
  deriving DecidableEq, Repr

/-- The kinds of engine operation. -/
inductive EngKind where
  /-- CPY: size and kind; its lanes carry their addresses (R168). -/
  | cpy (size kind : Nat)
  | tile | unpk | pack | gath | scat | kvcp
  /-- A TT command, by its SUB (R292). -/
  | tt (sub : Nat)
  /-- A SMPL command, by its SUB, and the register it writes (R314). -/
  | smpl (sub sreg : Nat)
  | coll
  /-- PGREQ: waits for its pages, then adds to its status word (R159). -/
  | pgreq
  /-- TASKNEW, and the register it writes (R338). -/
  | tasknew (sreg : Nat)
  deriving DecidableEq, Repr

/-- An operation of an engine (R166, R289, R314, R348). -/
structure EngOp where
  id : Nat := 0
  kind : EngKind := .tile
  core : Nat := 0
  place : Nat := 0
  lane : Nat := 0
  wg : Nat := 0
  /-- index of the group in its workgroup -/
  grp : Nat := 0
  task : Nat := 0
  asid : BitVec 16 := 0
  word : Word := 0
  unit : Dword := 0
  /-- the unit after its chain (R120), and the clock of its issue -/
  res : Pos := {}
  issued : Nat := 0
  blk : List Byte := []
  blkOff : Dword := 0
  target : Dword := 0
  /-- CPY: lane, destination, source; PGREQ: what is still to be serviced, 0 and a page or 1 and a request -/
  elems : List (Nat × Dword × Dword) := []
  policy : Nat := 0
  /-- serial of the group's newest store-queue unit at issue (R177) -/
  serial : Nat := 0
  /-- the reads have been made; the next transfer to write -/
  started : Bool := false
  cursor : Nat := 0
  /-- bytes or words read and not yet written -/
  buf : List Byte := []
  /-- rows or elements that a failed access leaves out (R169) -/
  skip : List Nat := []
  /-- PACK: blocks, by row and place in the row, whose tile was written before it completed (R174) -/
  spoiled : List (Nat × Nat) := []
  err : Nat := 0
  reason : Nat := 0
  out : List Byte := []
  /-- bytes that other modules have answered with, by address; none for an error -/
  got : List (Dword × List Byte) := []
  /-- the word of the completion has been written or skipped -/
  acked : Bool := false
  park : Option Nat := none
  remote : Option Nat := none
  /-- a TT command has reached Badger (R293); everything has been written -/
  arrived : Bool := false
  done : Bool := false
  /-- the number of a COLL on its group (R350) -/
  order : Nat := 0
  /-- pages a reading TT command has snapshotted: pool and page (R288, R293) -/
  snap : List (Nat × Nat) := []
  /-- the pool that a reading TT command has found at its arrival (R293) -/
  pool : Option Nat := none
  deriving DecidableEq, Repr

/-- A version of a line that a region has written (R230): the bytes it has written. -/
structure FarVersion where
  slot : Nat
  asid : BitVec 16
  line : BitVec 51
  /-- where the line's bytes go at the commit -/
  pa : Nat
  bytes : Tab Byte
  deriving DecidableEq, Repr

/-- What a region's read of a line returned (R231): committed, or the version of a slot. -/
structure FarRead where
  slot : Nat
  asid : BitVec 16
  line : BitVec 51
  src : Option Nat
  deriving DecidableEq, Repr

/-- An uncommitted region (R229 to R233). -/
structure Region where
  order : Nat
  core : Nat
  place : Nat
  lane : Nat
  sources : List Nat := []
  waiting : Bool := false
  irrev : Bool := false
  deriving DecidableEq, Repr

/-- The regions of one instance: a core or a die (R229). -/
structure FarInst where
  next : Nat := 1
  regions : Tab Region := []
  versions : List FarVersion := []
  reads : List FarRead := []
  deriving DecidableEq, Repr

/-- A record of the deterministic atomic buffer (R213, R242). -/
structure DetRec where
  wave : Nat
  block : Nat
  thread : Nat
  seq : Nat
  ea : Dword
  asid : BitVec 16
  member : Nat
  wide : Bool
  operand : Dword
  place : Nat
  lane : Nat
  word : Word
  unit : Dword
  /-- the unit after its chain (R120), and the clock of its issue -/
  res : Pos := {}
  issued : Nat := 0
  /-- parked at the flush that applies it (R256) -/
  park : Option Nat := none
  deriving DecidableEq, Repr

/-- A write aimed at a core that is held at its source while the core is quiesced (R262). -/
structure HeldWrite where
  pa : Nat
  bytes : List Byte
  who : SlotWriter := .other
  deriving DecidableEq, Repr

/-- A code line as the core has fetched it (R45, R46). -/
structure CodeLine where
  asid : BitVec 16
  va : Dword
  words : List Word
  deriving DecidableEq, Repr

/-- What a partition remembers of an entry of its convergence table that was eligible in the partition's last clock
(R24, R25): the address space and the place of its unit, on how many eligible clocks in succession it has been passed
over, since which clock it has been eligible, and whether it is selected ahead of the others. -/
structure EntryNote where
  asid : BitVec 16
  pos : Pos
  missed : Nat := 0
  since : Nat := 0
  first : Bool := false
  deriving DecidableEq, Repr

/-- A lane whose operation has counted events of a class away from its instruction in the class's window (R90): the group
that issued it, the unit and the clock of its issue. -/
structure Counted where
  cls : Nat
  wg : Nat
  grp : Nat
  lane : Nat
  unit : Dword
  issued : Nat
  deriving DecidableEq, Repr

/-- One core (R17, R20). What is not listed is as after reset. -/
structure Core where
  groups : Tab Group := []
  numEvt : Dword := 0
  numThr : Dword := 0xFFFFFFFFFFFFFFFF
  numWin : Dword := 0xAAAAAAAA
  fired : BitVec 8 := 0
  /-- per class, the number of the window that the count belongs to (R90) -/
  epochs : Tab Nat := []
  counted : List Counted := []
  carve : Nat := 0
  spad : Tab Byte := []
  full : List Nat := []
  slots : Tab Slot := []
  tiles : Tab (Tab Word) := []
  mq : List MmaJob := []
  l1 : Tab L1Line := []
  loads : List LoadReq := []
  far : FarInst := {}
  det : List DetRec := []
  seq : Nat := 1
  landed : Nat := 0
  halted : Bool := false
  haltQuiesce : Bool := false
  quiesced : Bool := false
  haltFail : Bool := false
  haltSince : Nat := 0
  /-- device time in ns at which the quiesce wait runs out (R262) -/
  haltBy : Nat := 0
  held : List HeldWrite := []
  dbgCtl : Dword := 0
  snapCtl : Dword := 0
  /-- the latch: the sequence number and the number of threads it found (R375) -/
  snapshot : Option (Nat × Nat) := none
  redirects : Nat := 0
  code : List CodeLine := []
  /-- poisoned lines of the scratchpad, by offset / 64 (R371) -/
  poison : List Nat := []
  /-- per partition, what it remembers of the entries of its convergence table (R25) -/
  entries : Tab (List EntryNote) := []
  /-- the clock from which a pipe is free again, by 4·partition + pipe (R20, R182) -/
  busy : Tab Nat := []
  /-- words written through windows 0 and 1 to registers that no group holds, by offset / 4 (R106) -/
  rows : Tab Word := []
  urows : Tab Word := []
  /-- per partition, the clock of its latest forced exchange (R23) -/
  forced : Tab Nat := []
  deriving DecidableEq, Repr

/-! ## Memory system -/

/-- A leaf as an XC holds it: its 64 bits, where it lies, and its level (R99, R100). -/
structure Leaf where
  bits : Dword := 0
  addr : Nat := 0
  big : Bool := false
  deriving DecidableEq, Repr

/-- The copy of its leaf that an L2 line keeps (R98), with the frame of the line. -/
structure L2Line where
  leaf : Leaf := {}
  writeReady : Bool := false
  pa : Nat := 0
  rrpv : Nat := 0
  deriving DecidableEq, Repr

/-- The directory states of R247. -/
inductive DirSt where
  | i | s | o | x | dF | dBS | dBX
  deriving DecidableEq, Repr

/-- The requests of R246. -/
inductive ReqKind where
  | gets | getx | upg | putm | puto | pute
  deriving DecidableEq, Repr

/-- A directory entry (R245). Cores are numbered 72·die + 9·row + column. -/
structure DirEntry where
  st : DirSt := .i
  owner : Option Nat := none
  sharers : List Nat := []
  seq : Nat := 0
  /-- the requester whose UNBLOCK is awaited -/
  pendingFor : Option Nat := none
  queue : List (ReqKind × Nat) := []
  deriving DecidableEq, Repr

/-- The messages of R246, with what they carry. -/
inductive MsgKind where
  | req (k : ReqKind) (data : BitVec 512) (dirty : Bool)
  | fwdGets (req : Nat)
  | fwdGetx (req n : Nat)
  | inv (req : Nat)
  | data (d : BitVec 512) (dirty unb : Bool)
  | dataEx (d : BitVec 512) (n : Nat) (dirty : Bool)
  | upgAck (n : Nat)
  | invAck
  | putAck (stale : Bool)
  | unblock (final : L1St) (dirty : Bool)
  deriving DecidableEq, Repr

/-- A directory message in flight: its line, the slice's die, the core concerned and its number (R245). -/
structure Msg where
  asid : BitVec 16
  line : BitVec 51
  die : Nat
  core : Nat
  seq : Nat
  kind : MsgKind
  deriving DecidableEq, Repr

/-- An entry of a fault window or batch (R257). -/
structure FaultEntry where
  asid : BitVec 16
  page : Nat
  count : Nat := 0
  kinds : BitVec 8 := 0
  freed : Option Nat := none
  cancelled : Bool := false
  deriving DecidableEq, Repr

/-- A closed window: its batch (R257). -/
structure Batch where
  number : Nat
  opened : Nat
  closed : Nat
  entries : List FaultEntry
  delivered : Bool := false
  deriving DecidableEq, Repr

/-- A die's fault gatherer (R257). -/
structure Gatherer where
  ctl : Dword := 0
  win : Dword := 0x108
  opened : Option Nat := none
  entries : List FaultEntry := []
  batches : List Batch := []
  next : Nat := 0
  /-- the batch that occupies each slot of the batch area and has not been replayed -/
  slots : Tab Nat := []
  /-- entries of the other kind than the one under which their page is listed already: they wait for its replay (log 72) -/
  later : List FaultEntry := []
  /-- interrupts of the die's management cores, one for each batch delivered -/
  interrupts : Nat := 0
  deriving DecidableEq, Repr

/-- A request that this module has sent to another, or through its own router (R208, R261). -/
structure RemoteReq where
  target : Nat := 0
  core : Nat := 0
  /-- the clock of the device time counter, in ns, at which the timer runs out -/
  deadline : Nat := 0
  op : RemoteOp := .read 0
  ea : Dword := 0
  asid : BitVec 16 := 0
  deriving DecidableEq, Repr

/-- A request of another module that is parked here (R261). -/
structure RemoteIn where
  msg : RemoteMsg
  park : Nat
  notice : Nat
  deriving DecidableEq, Repr

/-! ## Badger -/

/-- A node record (R287). -/
structure Node where
  parent : Nat := 0xFFFF
  depth : Nat := 0
  state : Nat := 0
  first : Nat := 0
  count : Nat := 0
  gen : Nat := 0
  nchild : Nat := 0
  pages : List Nat := []
  deriving DecidableEq, Repr

/-- A sequence (R286, R301). -/
structure Seq where
  pool : Nat := 0
  windowed : Bool := false
  sink : Nat := 0
  window : Nat := 0
  nodes : Tab Node := []
  /-- sink pages, then ring pages -/
  ring : List Nat := []
  wrap : Tab Nat := []
  deriving DecidableEq, Repr

/-- A page of a pool (R288, R297). -/
structure Page where
  refs : Nat := 0
  owner : Option (Nat × Nat) := none
  scale : Option Nat := none
  deriving DecidableEq, Repr

/-- An entry of the prefix directory (R307, R308). -/
structure PfxEntry where
  hash : Dword
  holder : Nat
  pool : Nat
  page : Nat
  /-- the commands that hold a lease of the block: module and command -/
  leases : List (Nat × Nat) := []
  /-- unpublished: it goes with its last lease -/
  gone : Bool := false
  deriving DecidableEq, Repr

/-! ## Launches, tasks and images -/

/-- A launch header as its 128 bytes hold it (R326). -/
structure Header where
  bytes : List Byte := []
  deriving DecidableEq, Repr

/-- A resident, saved or dormant workgroup (R17, R32). -/
inductive WgSt where
  | running | saved | dormant | ended
  deriving DecidableEq, Repr

/-- A workgroup (R10, R108, R264). -/
structure Wg where
  task : Nat := 0
  number : Nat := 0
  st : WgSt := .running
  core : Nat := 0
  base : Nat := 0
  place : Nat := 0
  groups : Nat := 0
  places : List Nat := []
  slotBase : Nat := 0
  tileBase : Nat := 0
  wave : Nat := 0
  segment : Nat := 0
  segStart : Nat := 0
  /-- SEGMENT_WATCHDOG has been raised in this segment (R335) -/
  warned : Bool := false
  /-- a pre-emption of the workgroup is pending since this time in ns (R331) -/
  preempt : Option Nat := none
  /-- MMAs that no MWAIT has observed: the tile, the group and the tag (R282) -/
  unseen : List (Nat × Nat × Nat) := []
  deriving DecidableEq, Repr

/-- A running launch (R9, R328). -/
structure Launch where
  hdr : Header := {}
  asid : BitVec 16 := 0
  priv : Bool := false
  param : Dword := 0
  dieset : BitVec 2 := 1
  stepc : Nat := 0
  nextWg : Nat := 0
  /-- its workgroups may issue: all of them are placed where they must be (R31, R212) -/
  go : Bool := false
  /-- time in ns that the launch has run, and since when it runs (R328) -/
  ran : Nat := 0
  started : Option Nat := none
  /-- the time in ns at which its first workgroup was placed (R324) -/
  begun : Nat := 0
  /-- the lowest-numbered status so far, with detail and CAUSE2 (R327) -/
  status : Nat := 0
  detail : Nat := 0
  cause2 : Nat := 0
  /-- issue has stopped: a trap without handler, or a stale generation (R118, R328) -/
  stopped : Bool := false
  /-- the flush at which a deterministic launch is saved (R335); flushes applied so far -/
  saveAt : Option Nat := none
  flushes : Nat := 0
  /-- workgroups whose image was refused for its geometry (R334) -/
  refused : List Nat := []
  /-- WATCHDOG has been raised (R328) -/
  watchdog : Bool := false
  deriving DecidableEq, Repr

/-- What the HTS keeps of a task beside its record (R322, R327). -/
structure HtsTask where
  aged : Nat := 0
  inh : Nat := 0
  readyAt : Nat := 0
  /-- 0 not in STATE 2 or later, 1 its header is to be checked, 2 it waits for a place, 3 it runs, 4 its header is to
  be read for DONE, 5 its words are to be written, 6 and 7 its decrements are to be sent: SUCC, then DONE -/
  phase : Nat := 0
  status : Nat := 0
  detail : Nat := 0
  cause2 : Nat := 0
  /-- address of the DONE list; 0 for none -/
  doneAt : Nat := 0
  /-- an access of the HTS for the task parks, has been cancelled, or waits for another module -/
  park : Option Nat := none
  cancelled : Bool := false
  remote : Option Nat := none
  got : List (Dword × List Byte) := []
  deriving DecidableEq, Repr

/-- A decrement on its way to the HTS (R319). -/
structure Decrement where
  task : Nat
  amount : Word
  err : Bool
  /-- one more than the task that has ended and sends it, else 0; those of one task come in their order (R327) -/
  from_ : Nat := 0
  deriving DecidableEq, Repr

/-- The context image of a workgroup, user or full (R330, R331), with its loads that have still to land (R333). -/
structure Image where
  wg : Nat := 0
  task : Nat := 0
  fullImage : Bool := false
  /-- physical address of the image; the geometry word stands there for a full image (R334) -/
  addr : Nat := 0
  /-- saved from this core; the workgroups of one core are restored together (R332) -/
  core : Nat := 0
  groups : Tab Group := []
  loads : List LoadReq := []
  slots : Tab Slot := []
  tiles : Tab (Tab Word) := []
  carve : Option (Nat × Tab Byte × List Nat) := none
  /-- taken by CTXSV: only CTXLD restores it (R377) -/
  manual : Bool := false
  deriving DecidableEq, Repr

/-! ## Text path, host block and management -/

/-- A request in a model's queue (R363, R366). -/
structure TextReq where
  seq : Nat
  count : Nat
  slotVa : Dword
  port : Nat
  session : Nat
  slot : Nat
  w : Word
  topk : Nat
  maxtok : Nat
  key : Dword
  deriving DecidableEq, Repr

/-- A session of a DKE (R364). -/
structure Session where
  port : Nat
  conn : Word
  session : Nat
  model : Nat
  inSlot : Nat
  maxtok : Nat
  posted : Nat := 0
  pendingBytes : List Byte := []
  /-- the time of each pending byte, in ns -/
  stamps : List Nat := []
  ended : Bool := false
  /-- posts not yet taken: id and end flag, and the names that order them among those of the port (R367) -/
  posts : List (Nat × Bool) := []
  order : List Nat := []
  /-- a read of the DKE for the session parks, or has been cancelled -/
  park : Option Nat := none
  failed : Bool := false
  deriving DecidableEq, Repr

/-- An entry of the model table (R360). -/
structure Model where
  valid : Bool := false
  enabled : Bool := false
  vocab : Dword := 0
  template : Nat := 0
  pool : Nat := 0
  inBase : Dword := 0
  inSlots : Nat := 0
  inCap : Nat := 0
  asid : BitVec 16 := 0
  /-- the queue of requests, and the input slots in use (R363) -/
  queue : List TextReq := []
  used : List Nat := []
  /-- the reading of the vocabulary parks, or has been cancelled -/
  park : Option Nat := none
  failed : Bool := false
  deriving DecidableEq, Repr

/-- What a TKE has reserved for the request it is tokenising: the sequence with its pool, the input slot of a model, the
task record and the slot of its DKE (R358). -/
structure TkeRes where
  seq : Nat
  pool : Nat
  model : Nat
  slot : Nat
  task : Nat
  dke : Nat
  deriving DecidableEq, Repr

/-- A port with its TKE and DKE (R355, R356, R368). -/
structure Port where
  ring : Dword := 0
  wptr : Word := 0
  rptr : Word := 0
  logBase : Dword := 0
  logN : Dword := 0
  drop : Word := 0
  conns : List Word := []
  sessions : Tab Session := []
  /-- an access of the TKE for its oldest record parks, or has been cancelled -/
  park : Option Nat := none
  failed : Bool := false
  /-- what has parked is the read of the template's launch header (R338) -/
  atHeader : Bool := false
  /-- held from before a request is tokenised to its end (R358) -/
  reserved : Option TkeRes := none
  /-- replies sent: the connection and the bytes (R359) -/
  sent : List (Word × List Byte) := []
  /-- connections whose accesses to remote memory were answered with the not-supported error (R355) -/
  refused : List Word := []
  deriving DecidableEq, Repr

/-- A correction on its way to the error collector (R373). -/
structure Correction where
  clock : Nat
  time : Nat
  unit : Word
  loc : Dword
  synd : Dword
  deriving DecidableEq, Repr

/-- The Corrected-Error Journal (R372 to R374). -/
structure Journal where
  flash : List (List Byte) := []
  checkpoints : List (List Byte) := []
  buffer : List (List Byte) := []
  incoming : List Correction := []
  next : Nat := 0
  lost : Word := 0
  fullBit : Bool := false
  deriving DecidableEq, Repr

/-- The Jetos image that the boot ROM finds in flash (R369); the verdict on its signature is given (log 15). -/
structure FlashImage where
  bytes : List Byte := []
  version : Nat := 0
  signed : Bool := true
  deriving DecidableEq, Repr

/-- Boot phase (R369). -/
inductive Boot where
  | running | recovery | off
  deriving DecidableEq, Repr

/-- The units that have snapshot registers beside the cores (R3, R375, log 11). -/
inductive Block where
  | slice (die n : Nat)
  | xc (die n : Nat)
  | hac (die n : Nat)
  | badger (die : Nat)
  | scraper (die : Nat)
  | stencil (die : Nat)
  | gatherer (die : Nat)
  | management (die n : Nat)
  | tke (port : Nat)
  | dke (port : Nat)
  | port (n : Nat)
  | copy (core : Nat)
  | collective
  | hts
  deriving DecidableEq, Repr

/-- SNAP_CTL of such a unit, its counter of events, and the number of its latest latch (R208, R375, log 11). -/
structure SnapRegs where
  ctl : Dword := 0
  seq : Nat := 1
  latched : Option Nat := none
  deriving DecidableEq, Repr

/-- The two parts (R1). -/
inductive Part where
  | mz9A | mz9S
  deriving DecidableEq, Repr

/-! ## The chain being issued -/

/-- The prefixes of the unit being issued (R54). -/
structure Prefixes where
  guard : Option (Bool × Nat) := none
  ximm : Option (BitVec 21) := none
  cpol : Option (Option Nat × Nat × Nat) := none
  probe : Option Nat := none
  round : Nat := 0
  sat : Bool := false
  /-- word index of the unit's first word -/
  first : Option Nat := none
  deriving DecidableEq, Repr

/-- What a lane's chain has decided for it when the chain ends (R49, R52). -/
inductive Effect where
  | jump (pc : Dword)
  /-- the unit is issued again (R377) -/
  | resume (at_ : Pos)
  /-- TRET, and YDONE of a restore: handler mode is left (R121) -/
  | leave (at_ : Pos)
  /-- EXIT, with the unit that holds it (R122) -/
  | exit (at_ : Pos)
  | trap (p : Pending)
  | wait (w : Wait) (at_ : Pos)
  deriving DecidableEq, Repr

/-- Events that a member of a chain has counted in a lane: the member's word and the address of its unit (R88, R90). -/
structure Tallied where
  lane : Nat
  word : Word
  unit : Dword
  evs : List (BitVec 8)
  deriving DecidableEq, Repr

/-- The chain being issued: its portion, the registers its members read (R50), and the word to run next. -/
structure Cur where
  active : Bool := false
  core : Nat := 0
  place : Nat := 0
  lanes : List Nat := []
  pc : Dword := 0
  words : List Word := []
  next : Nat := 0
  first : Nat := 0
  /-- index of the chain's last instruction word -/
  last : Nat := 0
  pfx : Prefixes := {}
  rd : Group := {}
  /-- %NUM_EVT, %NUM_THR, %NUM_WIN and %SEQ as the chain began -/
  evt : Dword := 0
  thr : Dword := 0
  win : Dword := 0
  seq : Nat := 0
  effects : List (Nat × Effect) := []
  /-- lanes that the unit leaves out, since it reads a register marked in them (R242) -/
  barred : List Nat := []
  /-- another portion of the same issue group runs after this one (R26) -/
  more : Bool := false
  /-- events that its members have counted, by lane, while the issue group is of several portions (R90) -/
  tally : List Tallied := []
  /-- the first name that an access of the chain can have (R50, R191) -/
  serial : Nat := 0
  /-- the highest lane that has written a special register of the core (R140) -/
  top : Option Nat := none
  deriving DecidableEq, Repr

/-- Which agent moves next (log 3). -/
inductive Turn where
  /-- a core clock passes, in which every partition issues; the operands of the lanes named, by core, place and lane, are
  not ready in it (R25, R111) -/
  | clock (late : List (Nat × Nat × Nat))
  /-- an event of the opcode table happens, within the present clock -/
  | event (i : Instr)
  /-- core clocks in which no operand is late -/
  | tick (clocks : Nat)
  deriving DecidableEq, Repr

/-! ## The machine -/

/-- The whole module. -/
structure State where
  part : Part := .mz9A
  boot : Boot := .running
  flash : FlashImage := {}
  fusedCounter : Nat := 0
  /-- core clocks since core reset; %CLOCK (R140) -/
  clock : Nat := 0
  /-- the device time counter in fs; %TIME is in ns (R140, R378) -/
  timeFs : Nat := 0
  /-- the parts of a femtosecond beyond them (R378) -/
  timeParts : Nat := 0
  mhz : Nat := 2250
  dev : Word := 0
  cores : Tab Core := []
  cur : Cur := {}
  /-- chains selected in the same clock as the one in hand, which have still to run (R20, R26) -/
  due : List Cur := []
  /-- portions of the issue group in hand that have run, and whose chains end with the group's last (R26) -/
  merged : List Cur := []
  /-- lanes whose operands are not ready in this clock, by core, place and lane (R25, R111, log 9) -/
  late : List (Nat × Nat × Nat) := []
  sched : List Turn := []
  /-- physical memory by address; an unlisted byte reads 0 (log 1) -/
  mem : List Host.Cell := []
  /-- memory tags by page and 32-byte granule, and the frame each tagged page was last seen with (R103) -/
  tags : Tab (BitVec 4) := []
  tagged : Tab Nat := []
  /-- poisoned lines, by physical line number (R371) -/
  poison : List Nat := []
  asidRoot : Tab Nat := []
  /-- translations that the XC of each die hold, and each die's page-home table (R97, R244) -/
  xc : Tab Leaf := []
  pageHome : Tab Nat := []
  l2 : Tab L2Line := []
  dir : Tab DirEntry := []
  msgs : List Msg := []
  replica : Tab Nat := []
  collapse : List (Nat × Nat) := []
  gatherers : Tab Gatherer := []
  /-- the snapshot registers of the units beside the cores; those that are not listed are as after reset (R375) -/
  blocks : List (Block × SnapRegs) := []
  faultRec : Tab (Dword × Dword) := []
  hac : Tab (List Word) := []
  farDie : Tab FarInst := []
  ops : List EngOp := []
  remotes : Tab RemoteReq := []
  remoteIn : Tab RemoteIn := []
  /-- Badger -/
  pools : Tab (List Byte) := []
  seqs : Tab Seq := []
  slotGen : Tab Nat := []
  pages : Tab Page := []
  pfxDir : List PfxEntry := []
  pfxMap : Tab Nat := []
  /-- HTS -/
  htsTbase : Dword := 0
  htsTsz : Dword := 0
  htsRes : Dword := 0
  htsCtx : Dword := 0
  htsCtxsz : Dword := 0
  htsIgn : Dword := 0
  htsRange : Tab Dword := []
  tasks : Tab HtsTask := []
  decs : List Decrement := []
  launches : Tab Launch := []
  wgs : Tab Wg := []
  images : Tab Image := []
  /-- fabric -/
  routes : Tab Dword := []
  groups : Tab (List Byte) := []
  /-- failed links, each as a path of links from this module that ends with it (R343) -/
  linksDown : List (List Nat) := []
  packets : List Packet := []
  /-- packets that have left on a link -/
  wire : List (Nat × Packet) := []
  /-- requests sent that may be unacknowledged, by the name of the request or of the collective (R343) -/
  sent : List (Nat × Packet) := []
  /-- requests that have arrived: source, event sequence number, redirected (R343) -/
  heard : List (Nat × Nat × Bool) := []
  collSeq : Tab Nat := []
  failed : List Nat := []
  /-- host block -/
  numiStat : Dword := 0
  remap0 : Dword := 0x0909090909090909
  remap1 : Dword := 0x0909090909090909
  poolEnd : Dword := 0x8000000000000
  mbxIn : List Byte := []
  mbxOut : List Byte := []
  mbxDb : Dword := 0
  msix : List Nat := []
  /-- what the host has last read, and the attestation reports given (R353, R370) -/
  hostRead : List Byte := []
  reports : List (List Byte) := []
  ports : Tab Port := []
  models : Tab Model := []
  journal : Journal := {}
  /-- names for operations in flight -/
  nextId : Nat := 1
  /-- how many free values have been drawn (log 5) -/
  free : Nat := 0
  deriving DecidableEq, Repr

/-- The module right after reset: booted with a valid image, every register at its reset value. -/
def State.reset : State := {}

end Sys2Proof.Machine
end

