-- ==== Sys2Proof/Machine/Regs.lean ====
section
/-! DEFINITION. The one way to read and to write each part of the state: cores, groups, threads, their
registers (R9, R10, R115) and the launch a group belongs to. -/

namespace Sys2Proof.Machine

/-! ## Cores, groups, threads -/

/-- A core; one that is not listed is as after reset. -/
def State.core (s : State) (c : Nat) : Core := s.cores.get {} c

/-- The state with a core replaced. -/
def State.setCore (s : State) (c : Nat) (k : Core) : State := { s with cores := s.cores.set c k }

/-- The state with a core changed. -/
def State.modCore (s : State) (c : Nat) (f : Core → Core) : State := s.setCore c (f (s.core c))

/-- A group of a core, by its place: 24·partition + place in the partition (R18, R105). -/
def State.group (s : State) (c g : Nat) : Group := (s.core c).groups.get {} g

/-- The state with a group changed. -/
def State.modGroup (s : State) (c g : Nat) (f : Group → Group) : State :=
  s.modCore c fun k => { k with groups := k.groups.set g (f (k.groups.get {} g)) }

/-- A thread of a group (R9). -/
def Group.thread (g : Group) (l : Nat) : Thread := g.lanes.get {} l

/-- The group with a thread changed. -/
def Group.modThread (g : Group) (l : Nat) (f : Thread → Thread) : Group :=
  { g with lanes := g.lanes.set l (f (g.thread l)) }

/-- A thread of the machine. -/
def State.thread (s : State) (c g l : Nat) : Thread := (s.group c g).thread l

/-- The state with a thread changed. -/
def State.modThread (s : State) (c g l : Nat) (f : Thread → Thread) : State :=
  s.modGroup c g fun k => k.modThread l f

/-- A thread is live: present and not ended (R10, R11). -/
def Thread.live (t : Thread) : Bool := t.present && !t.ended

/-- The lanes that hold a live thread, ascending. -/
def Group.live (g : Group) : List Nat := (List.range 32).filter fun l => (g.thread l).live

/-- A set of lanes as a mask. -/
def laneMask (ls : List Nat) : Word := ls.foldl (fun m l => m ||| BitVec.ofNat 32 (2 ^ l)) 0

/-- The lanes of a mask, ascending. -/
def maskLanes (m : Word) : List Nat := (List.range 32).filter fun l => m.getLsbD l

/-! ## Registers -/

/-- s(n); s0 reads as 0 (R115). -/
def Group.rs (g : Group) (n : Nat) : Dword := if n = 0 then 0 else g.s.get 0 n

/-- The group with s(n) written; a write of s0 is discarded (R114). -/
def Group.ws (g : Group) (n : Nat) (x : Dword) : Group := 
  if n = 0 then g else { g with s := g.s.set n x, poison := g.poison.filter (· ≠ n) }

/-- v(n) of a lane. -/
def Group.rv (g : Group) (l n : Nat) : Word := (g.thread l).v.get 0 n

/-- The pair v(n) of a lane, low word in v(n) (R130). -/
def Group.rv64 (g : Group) (l n : Nat) : Dword := g.rv l (n + 1) ++ g.rv l n

/-- The thread with v(n) written; a write clears the register's mark (R242). -/
def Thread.wv (t : Thread) (n : Nat) (x : Word) : Thread :=
  { t with v := t.v.set n x, marks := t.marks.filter (· ≠ n), poison := t.poison.filter (· ≠ n) }

/-- The group with v(n) of a lane written. -/
def Group.wv (g : Group) (l n : Nat) (x : Word) : Group := g.modThread l fun t => t.wv n x

/-- The group with the pair v(n) of a lane written. -/
def Group.wv64 (g : Group) (l n : Nat) (x : Dword) : Group :=
  g.modThread l fun t => (t.wv n (x.setWidth 32)).wv (n + 1) (x.extractLsb' 32 32)

/-- p(n) of a lane; p0 reads as 1 (R115). -/
def Group.rp (g : Group) (l n : Nat) : Bool := n = 0 || (g.thread l).p.getLsbD n

/-- A byte with bit n written; bit 0, p0, keeps no state (R115). -/
def putPred (p : BitVec 8) (n : Nat) (b : Bool) : BitVec 8 :=
  if n = 0 then p else if b then p ||| BitVec.ofNat 8 (2 ^ n) else p &&& ~~~ BitVec.ofNat 8 (2 ^ n)

/-- The group with p(n) of a lane written; a write of p0 is discarded (R114). -/
def Group.wp (g : Group) (l n : Nat) (b : Bool) : Group :=
  g.modThread l fun t => { t with p := putPred t.p n b }

/-- m(n) (R10). -/
def Group.rm (g : Group) (n : Nat) : Word := g.m.get 0 n

/-- The group with m(n) written. -/
def Group.wm (g : Group) (n : Nat) (x : Word) : Group := { g with m := g.m.set n x }

/-- q(n) (R110, R137). -/
def Group.rq (g : Group) (n : Nat) : Dword := g.q.get 0 n

/-- The group with q(n) written. -/
def Group.wq (g : Group) (n : Nat) (x : Dword) : Group := { g with q := g.q.set n x }

/-- A completion tag of a group (R167, R280, R348): bank 0 copy, 1 matrix, 2 collective. -/
def Group.tag (g : Group) (bank t : Nat) : Tag :=
  (if bank = 0 then g.copyTags else if bank = 1 then g.matrixTags else g.collTags).get {} t

/-- The group with a tag changed. -/
def Group.modTag (g : Group) (bank t : Nat) (f : Tag → Tag) : Group :=
  if bank = 0 then { g with copyTags := g.copyTags.set t (f (g.tag 0 t)) }
  else if bank = 1 then { g with matrixTags := g.matrixTags.set t (f (g.tag 1 t)) }
  else { g with collTags := g.collTags.set t (f (g.tag 2 t)) }

/-! ## The launch of a group -/

/-- A field of a launch header (R326). -/
def Header.nat (h : Header) (o n : Nat) : Nat := blkNat h.bytes o n

def Header.coop (h : Header) : Bool := h.nat 6 2 % 2 = 1
def Header.det (h : Header) : Bool := h.nat 6 2 / 2 % 2 = 1
def Header.code (h : Header) : Nat := h.nat 8 8
def Header.entry (h : Header) : Nat := h.nat 16 4
def Header.trap (h : Header) : Nat := h.nat 20 4
def Header.preempt (h : Header) : Nat := h.nat 24 4
def Header.watchdog (h : Header) : Nat := h.nat 28 4
/-- The width of WID field k (R12). -/
def Header.wid (h : Header) (k : Nat) : Nat := h.nat (32 + k) 1
def Header.wgsize (h : Header) : Nat := h.nat 60 2
/-- The extent of WID field k; e0 is WGSIZE (R12, R326). -/
def Header.extent (h : Header) (k : Nat) : Nat := if k = 0 then h.wgsize else h.nat (36 + 4 * k) 4
def Header.vregs (h : Header) : Nat := h.nat 62 1
def Header.sregs (h : Header) : Nat := h.nat 63 1
def Header.scratch (h : Header) : Nat := h.nat 64 1
def Header.slots (h : Header) : Nat := h.nat 65 1
def Header.tiles (h : Header) : Nat := h.nat 66 1
def Header.prio (h : Header) : Nat := h.nat 67 1
def Header.minDies (h : Header) : Nat := h.nat 68 1 % 4
def Header.maxDies (h : Header) : Nat := h.nat 68 1 / 4 % 4
def Header.waves (h : Header) : Nat := h.nat 69 1
def Header.segBound (h : Header) : Nat := h.nat 72 4
def Header.psize (h : Header) : Nat := h.nat 76 4
def Header.params (h : Header) : Nat := h.nat 80 8
def Header.done (h : Header) : Nat := h.nat 88 8

/-- Groups of a workgroup (R10). -/
def Header.groups (h : Header) : Nat := (h.wgsize + 31) / 32

/-- Workgroups of the launch: the product of the extents of fields 1 to 5 (R12). -/
def Header.total (h : Header) : Nat := (List.range 5).foldl (fun t k => t * h.extent (k + 1)) 1

/-- Packet index of an address (R47). Below the code base, which only a written %TRAP_RES reaches, it is 0 (log 81). -/
def packetIndex (base a : Nat) : Nat := (a - base) / 64 * 5 + (a - base) % 64 / 12

/-- Address of a packet index (R47). -/
def packetAddr (base : Nat) (pi : Nat) : Dword :=
  BitVec.ofNat 64 ((base + pi / 5 * 64 + pi % 5 * 12) % 2 ^ 57)

/-- The address of an entry of a launch: an offset from its code base (R47, R326). -/
def Header.entryAt (h : Header) (offset : Nat) : Dword := BitVec.ofNat 64 ((h.code + offset) % 2 ^ 60)

/-- The packet after a packet: packet 4 of a line is followed by packet 0 of the next (R47). -/
def nextPacket (pc : Dword) : Dword := if pc.toNat % 64 ≥ 48 then pc + 16 else pc + 12

/-- A workgroup by its number in the table of workgroups. -/
def State.wg (s : State) (w : Nat) : Wg := s.wgs.get {} w

/-- The state with a workgroup changed. -/
def State.modWg (s : State) (w : Nat) (f : Wg → Wg) : State := { s with wgs := s.wgs.set w (f (s.wg w)) }

/-- A launch, by its task. -/
def State.launch (s : State) (t : Nat) : Launch := s.launches.get {} t

/-- The state with a launch changed. -/
def State.modLaunch (s : State) (t : Nat) (f : Launch → Launch) : State :=
  { s with launches := s.launches.set t (f (s.launch t)) }

/-- The task a group's threads belong to. -/
def State.taskOf (s : State) (c g : Nat) : Nat := (s.wg (s.group c g).wg).task

/-- The launch a group's threads belong to. -/
def State.launchOf (s : State) (c g : Nat) : Launch := s.launch (s.taskOf c g)

/-- Device time, in ns (R140). -/
def State.timeNs (s : State) : Nat := s.timeFs / 1000000

/-- The die of a core. -/
def dieOf (c : Nat) : Nat := c / 72

/-- Cores of the part (R1). -/
def State.coreCount (s : State) : Nat := if s.part = .mz9A then 144 else 72

/-- Dies of the part (R1). -/
def State.dies (s : State) : Nat := if s.part = .mz9A then 2 else 1

/-- %CAP_UNITS (R4). -/
def State.capUnits (s : State) : Dword := if s.part = .mz9A then 0x1F else 0x10

/-- Scratchpad bytes of a carve-out setting (R107). -/
def carveBytes (setting : Nat) : Nat := 256 * 1024 * setting

/-- Bytes of a core's scratchpad. -/
def Core.spadSize (k : Core) : Nat := carveBytes k.carve

/-- A read of the scratchpad meets poison (R371). -/
def Core.spadPoisoned (k : Core) (o n : Nat) : Bool :=
  k.poison.any fun l => decide (l * 64 < o + n) && decide (o < l * 64 + 64)

/-- Bytes of the scratchpad from an offset (R108). -/
def Core.spadRead (k : Core) (o n : Nat) : List Byte := (List.range n).map fun i => k.spad.get 0 (o + i)

/-- The core with scratchpad bytes written; full bits are left unchanged (R109). -/
def Core.spadWrite (k : Core) (o : Nat) (bs : List Byte) : Core :=
  { k with spad := (bs.zipIdx).foldl (fun t x => t.set (o + x.2) x.1) k.spad }

/-- The granules that n bytes from an offset touch (R109). -/
def granules (o n : Nat) : List Nat :=
  if n = 0 then [] else (List.range ((o + n - 1) / 16 - o / 16 + 1)).map (· + o / 16)

/-- The core with the full bits of a range set or cleared (R109). -/
def Core.setFull (k : Core) (o n : Nat) (value : Bool) : Core :=
  let gs := granules o n
  { k with full := (if value then gs else []) ++ k.full.filter fun g => !gs.contains g }

/-- An engine write to the scratchpad: data and full bits together (R109, R177). -/
def Core.spadLand (k : Core) (o : Nat) (bs : List Byte) : Core :=
  (k.spadWrite o bs).setFull o bs.length true

/-- A free value is drawn (R8, log 5). -/
def State.draw (s : State) : State := { s with free := s.free + 1 }

/-- A name for an operation in flight. -/
def State.fresh (s : State) : State := { s with nextId := s.nextId + 1 }

/-- An MSI-X vector is raised (R376). -/
def State.raiseMsix (s : State) (v : Nat) : State := { s with msix := s.msix ++ [v] }

/-- A core stamps the next event sequence number, and the event has landed there (R165, R208). -/
def State.stamp (s : State) (c : Nat) : State :=
  s.modCore c fun k => { k with landed := max k.landed k.seq, seq := k.seq + 1 }

/-- The registers of a place are a group's from now on: what was written to them while no group held them is gone
(R328, log 25). -/
def Core.heldRows (k : Core) (place rb vregs : Nat) : Core :=
  { k with rows := k.rows.filter fun x => !(x.1 / 0x8000 = place / 24 && rb ≤ x.1 % 0x8000 / 32 && x.1 % 0x8000 / 32 < rb + vregs)
           urows := k.urows.filter fun x => x.1 / 64 ≠ place }

/-- The HTS passes slots and tiles to another workgroup: the slots are free and hold zeros, the tiles +0 (R264). -/
def Core.clearShare (k : Core) (slotBase slots tileBase tiles : Nat) : Core :=
  { k with slots := k.slots.filter fun y => y.1 < slotBase || slotBase + slots ≤ y.1
           tiles := k.tiles.filter fun y => y.1 < tileBase || tileBase + tiles ≤ y.1 }

end Sys2Proof.Machine
end

