-- ==== Sys2Proof/Machine/Mem.lean ====
section
/-! DEFINITION. Physical memory as a sorted list of bytes, the one operation that writes it, the physical map
(R104, R105), and the tags and poison that go with its lines (R103, R371). -/

namespace Sys2Proof.Machine

/-! ## The list of bytes -/

namespace Memory

/-- The byte at an address; an unlisted one is zero (log 1). -/
def read : List Host.Cell → Nat → Byte
  | [], _ => 0
  | (k, b) :: t, a => if a = k then b else if a < k then 0 else read t a

/-- The memory with a byte replaced; a zero is not listed. -/
def write : List Host.Cell → Nat → Byte → List Host.Cell
  | [], a, b => if b = 0 then [] else [(a, b)]
  | (k, v) :: t, a, b =>
    if a < k then (if b = 0 then (k, v) :: t else (a, b) :: (k, v) :: t)
    else if a = k then (if b = 0 then t else (a, b) :: t)
    else (k, v) :: write t a b

/-- Every listed address is above `lo`, addresses rise, and no byte is zero. -/
def wfFrom (lo : Nat) : List Host.Cell → Bool
  | [] => true
  | (k, b) :: t => decide (lo ≤ k) && b != 0 && wfFrom (k + 1) t

/-- The canonical form: addresses strictly rising, and no byte equal to what an unlisted address reads as. -/
def wf (m : List Host.Cell) : Bool := wfFrom 0 m

/-- `n` bytes from an address. -/
def readN (m : List Host.Cell) (a : Nat) : Nat → List Byte
  | 0 => []
  | n + 1 => read m a :: readN m (a + 1) n

/-- Bytes written from an address up. -/
def writeN (m : List Host.Cell) (a : Nat) : List Byte → List Host.Cell
  | [] => m
  | b :: bs => writeN (write m a b) (a + 1) bs

end Memory

/-- The one operation that changes physical memory. -/
def State.poke (s : State) (a : Nat) (bs : List Byte) : State := { s with mem := Memory.writeN s.mem a bs }

/-- Bytes of physical memory, as the home slices hold them. -/
def State.peek (s : State) (a n : Nat) : List Byte := Memory.readN s.mem a n

/-- A little-endian number in physical memory. -/
def State.peekNat (s : State) (a n : Nat) : Nat := leNat (s.peek a n)

/-! ## The physical map -/

/-- What lies at a physical address (R104). -/
inductive Place where
  | memory | pool | window | none
  deriving DecidableEq, Repr

/-- The physical map; die 1's ranges exist on the MZ9-A only (R104). -/
def State.place (s : State) (pa : Nat) : Place :=
  let die1 := s.part = .mz9A
  if pa < 0x8000000000 then .memory
  else if pa < 0x10000000000 then (if die1 then .memory else .none)
  else if pa < 0x10160000000 then .memory
  else if 0x18000000000 ≤ pa ∧ pa < 0x18160000000 then (if die1 then .memory else .none)
  else if 0x8000000000000 ≤ pa ∧ pa < 0xF000000000000 then
    (if pa < s.poolEnd.toNat then .pool else .none)
  else if 0xF000000000000 ≤ pa ∧ pa < 0x10000000000000 then .window
  else .none

/-- The bytes of a range are populated (R104); a range of at most a line lies in one range of the map. -/
def State.populated (s : State) (pa : Nat) : Bool := s.place pa != .none

/-- The physical column that is disabled in a row of a die (R65). -/
def State.disabledColumn (s : State) (die row : Nat) : Nat :=
  bitsNat (if die = 0 then s.remap0 else s.remap1) (8 * row + 7) (8 * row)

/-- An on-chip window address by its fields (R105). -/
structure Window where
  die : Nat
  row : Nat
  col : Nat
  win : Nat
  off : Nat
  deriving DecidableEq, Repr

/-- The fields of an on-chip window address (R105). -/
def windowOf (pa : Nat) : Window :=
  { die := pa / 2 ^ 47 % 2, row := pa / 2 ^ 44 % 8, col := pa / 2 ^ 40 % 16, win := pa / 2 ^ 36 % 16,
    off := pa % 2 ^ 36 }

/-- The core a window address names: physical columns count past the disabled one (R65, R66). -/
def State.windowCore (s : State) (w : Window) : Option Nat :=
  let dis := s.disabledColumn w.die w.row
  if w.die ≥ s.dies ∨ w.col ≥ 10 ∨ w.col = dis then none
  else some (72 * w.die + 9 * w.row + (if w.col > dis then w.col - 1 else w.col))

/-- The size of a window of a core (R105). -/
def State.windowSize (s : State) (c win : Nat) : Nat :=
  match win with
  | 0 => 0x100000
  | 1 => 0xC000
  | 2 => (s.core c).spadSize
  | 3 => 0x80000
  | 4 => 0x90000
  | 5 => 0x10000
  | _ => 0

/-! ## Tags and poison -/

/-- Key of a granule of a page: tags belong to the page and are carried with its lines, which are tagged by address
space and virtual address (R97, R103, log 66). -/
def granuleKey (asid : BitVec 16) (va : Nat) : Nat := asid.toNat * 2 ^ 52 + va / 32 % 2 ^ 52

/-- The tag of the granule that holds an address (R103). -/
def State.tagAt (s : State) (asid : BitVec 16) (va : Nat) : BitVec 4 := s.tags.get 0 (granuleKey asid va)

/-- A granule's tag replaced (R162). -/
def State.setTag (s : State) (asid : BitVec 16) (va : Nat) (t : BitVec 4) : State :=
  { s with tags := s.tags.set (granuleKey asid va) t }

/-- Every granule that an access touches carries the tag (R103). -/
def State.tagsMatch (s : State) (asid : BitVec 16) (va n : Nat) (t : BitVec 4) : Bool :=
  (List.range ((va + n - 1) / 32 - va / 32 + 1)).all fun i => s.tagAt asid (va + 32 * i) = t

/-- An access touches a poisoned line (R371). -/
def State.poisoned (s : State) (pa n : Nat) : Bool :=
  s.poison.contains (pa / 64) || s.poison.contains ((pa + n - 1) / 64)

/-- The place whose group holds a row of a partition's register file (R105). -/
def State.rowOwner (s : State) (c part row : Nat) : Option Nat :=
  (List.find? (fun x => decide (x.2.present ∧ x.1 / 24 = part ∧ x.2.rb ≤ row ∧
    row < x.2.rb + (s.launch (s.wg x.2.wg).task).hdr.vregs)) (s.core c).groups).map Prod.fst

/-- A row of a tile holds poison: the tile's word 4,096 + row is not zero (R371). A tile that is zeroed or written as a
whole holds none. -/
def Core.tilePoisoned (k : Core) (tile row : Nat) : Bool := (k.tiles.get [] tile).get 0 (4096 + row) ≠ 0

/-- A row of a slot holds poison (R371). -/
def Core.slotPoisoned (k : Core) (slot row : Nat) : Bool := (k.slots.get {} slot).poison.contains row

/-- A read of a window meets poison (R371). -/
def State.windowPoisoned (s : State) (w : Window) (c n : Nat) : Bool :=
  let k := s.core c
  match w.win with
  | 0 =>
    let row := w.off % 0x20000 / 0x80
    match s.rowOwner c (w.off / 0x20000) row with
    | some p => (List.range ((n + 3) / 4)).any fun i =>
        ((s.group c p).thread (w.off % 0x80 / 4 + i)).poison.contains (row - (s.group c p).rb)
    | none => false
  | 1 => (List.range ((n + 7) / 8)).any fun i => (s.group c (w.off / 256)).poison.contains (w.off % 256 / 8 + i)
  | 2 => k.spadPoisoned w.off n
  | 3 => k.tilePoisoned (w.off / 0x4000) (w.off % 0x4000 / 256)
  | 4 => k.slotPoisoned (w.off / 9216) (w.off % 9216 / 144) || k.slotPoisoned ((w.off + n - 1) / 9216) ((w.off + n - 1) % 9216 / 144)
  | _ => false

end Sys2Proof.Machine
end

