-- ==== Sys2Proof/Machine/Queued.lean ====
section
/-! DEFINITION. The accesses of threads that have not performed: whose they are, and which of them another waits for (R153,
R192 to R194). -/

namespace Sys2Proof.Machine

/-- Two ranges of addresses overlap. -/
def overlaps (a n b m : Nat) : Bool := a < b + m && b < a + n

/-- An address as two accesses of one thread are compared by. -/
def accAddr (spad : Bool) (ea : Dword) : Nat := if spad then ea.toNat else bitsNat ea 56 0

/-- A load was made by one of these lanes, alone or with others (R153). -/
def LoadReq.by (r : LoadReq) (lanes : List Nat) : Bool := lanes.contains r.lane || r.uni.any lanes.contains

/-- A read of a tile waits with the loads, but is no access of memory (R273). -/
def LoadDest.isTile : LoadDest → Bool
  | .tile _ _ _ => true
  | _ => false

/-- A load of memory was made by one of these lanes. -/
def LoadReq.accessBy (r : LoadReq) (lanes : List Nat) : Bool := !r.dest.isTile && r.by lanes

/-- The lanes that a load belongs to. -/
def LoadReq.lanes (r : LoadReq) : List Nat := r.lane :: r.uni

/-- A queued access was made by one of these lanes, alone or with others (R153). -/
def SqUnit.by (u : SqUnit) (a : SqAcc) (lanes : List Nat) : Bool := lanes.contains a.lane || u.uni.any lanes.contains

/-- A queued access of the threads' own bytes that passes a test has still to perform. -/
def Group.owes (g : Group) (lanes : List Nat) (serial : Nat) (spad : Bool) (a n : Nat) (p : SqOp → Bool) : Bool :=
  g.sq.any fun u => decide (u.serial < serial) && u.spad = spad && p u.op &&
    u.accs.any fun x => u.by x lanes && !x.done && !x.dropped && overlaps (accAddr spad x.ea) u.size a n

/-- A queued update of the threads' own bytes that is not a plain store has still to perform. -/
def Group.mustWait (g : Group) (lanes : List Nat) (serial : Nat) (spad : Bool) (a n : Nat) : Bool :=
  g.owes lanes serial spad a n fun op => op != .store

/-- The threads of a load have an earlier one outstanding; `far` leaves out those that other modules answer, which land
in any order among themselves (R194, R208). -/
def State.loadsBefore (s : State) (core : Nat) (r : LoadReq) (far : Bool) : Bool :=
  (s.core core).loads.any fun x => decide (x.id < r.id) && x.place = r.place && x.accessBy r.lanes && (!far || x.remote.isNone)

end Sys2Proof.Machine
end

