-- ==== Sys2Proof/Machine/Coh.lean ====
section
/-! DEFINITION. The directory protocol between the L1s and the home slices (R245 to R252): what a home does with
a request, what an L1 does with a message, and how agents without an L1 act at the home. The L2's data is
physical memory itself: a home slice holds no byte that memory does not. -/

namespace Sys2Proof.Machine

/-- Key of a line in an L1. -/
def l1Key (asid : BitVec 16) (line : BitVec 51) : Nat := asid.toNat * 2 ^ 51 + line.toNat

/-- Key of a line at a home slice of a die. -/
def homeKey (die : Nat) (asid : BitVec 16) (line : BitVec 51) : Nat := die * 2 ^ 67 + l1Key asid line

/-- The state with a line of an L1 replaced or removed. -/
def State.setL1 (s : State) (core key : Nat) (l : Option L1Line) : State :=
  s.modCore core fun k => { k with l1 := match l with | some x => k.l1.set key x | none => k.l1.erase key }

/-- A directory entry; a line that is not listed is in I (R245). -/
def State.dirAt (s : State) (key : Nat) : DirEntry := s.dir.get {} key

/-- A directory state that holds new requests in the line's queue (R247). -/
def DirEntry.transient (e : DirEntry) : Bool := e.st = .dF || e.st = .dBS || e.st = .dBX

/-- The state with a directory entry replaced. -/
def State.setDir (s : State) (key : Nat) (e : DirEntry) : State := { s with dir := s.dir.set key e }

/-- A directory message sent (R246). -/
def State.send (s : State) (asid : BitVec 16) (line : BitVec 51) (die core seq : Nat) (k : MsgKind) : State :=
  { s with msgs := s.msgs ++ [{ asid, line, die, core, seq, kind := k }] }

/-- A line's 64 bytes as one value, and back. -/
def lineBits (bs : List Byte) : BitVec 512 := BitVec.ofNat 512 (leNat bs)
def lineBytes (d : BitVec 512) : List Byte := leBytes 64 d.toNat

/-- The data of a copy that memory does not hold yet (R249). -/
def L1Line.modified (l : L1Line) : Bool :=
  l.st = .m || l.st = .o || l.st = .miA || l.st = .oiA || (l.st = .smAD && l.dirty)

/-- Dirty data of a physical line, in an L1, its write-back buffer, or on its way between two L1s. -/
def State.dirtyCopy (s : State) (pa : Nat) : Option (BitVec 512) :=
  let inL1 := s.cores.findSome? fun k => k.2.l1.findSome? fun x =>
    if x.2.pa = pa ∧ x.2.modified then some x.2.data else none
  match inL1 with
  | some d => some d
  | none =>
    (s.cores.findSome? fun k => k.2.l1.findSome? fun x =>
      if x.2.pa = pa ∧ (x.2.st = .imA ∨ x.2.st = .smA) ∧ x.2.dirty then some x.2.data else none).or
    (s.msgs.findSome? fun m => match m.kind with
      | .dataEx d _ true =>
        if (s.core m.core).l1.any fun x => x.2.pa = pa && x.2.asid = m.asid && x.2.line = m.line then some d
        else none
      | _ => none)

/-- Dirty data of a line goes to the home (R252). -/
def State.recallData (s : State) (pa : Nat) : State :=
  match s.dirtyCopy pa with
  | some d => s.poke pa (lineBytes d)
  | none => s

/-! ## The home -/

/-- Copies other than the requester's and the owner's (R248). -/
def DirEntry.others (e : DirEntry) (req : Nat) : List Nat :=
  e.sharers.filter fun c => c ≠ req ∧ e.owner ≠ some c

/-- The home takes a request for a line in a stable state (R248). A line absent from the L2 passes through D_F. -/
def State.homeTake (s : State) (die : Nat) (asid : BitVec 16) (line : BitVec 51) (k : ReqKind)
    (req : Nat) : State :=
  let key := homeKey die asid line
  let e := s.dirAt key
  match s.l2.find? key with
  | none =>
    if k = .gets ∨ k = .getx ∨ k = .upg then s.setDir key { e with st := .dF, queue := (k, req) :: e.queue }
    else s.send asid line die req e.seq (.putAck true)
  | some l2 =>
    let n := (e.seq + 1) % 2 ^ 32
    let e := { e with seq := n }
    let mem := lineBits (s.peek l2.pa 64)
    let invs (s : State) (cs : List Nat) : State :=
      cs.foldl (fun s c => s.send asid line die c n (.inv req)) s
    let k := if k = .upg ∧ !(e.sharers.contains req || e.owner = some req) then .getx else k
    match k with
    | .gets =>
      match e.st, e.owner with
      | .s, _ =>
        (s.setDir key { e with sharers := req :: e.sharers.filter (· ≠ req) }).send asid line die req n
          (.data mem false false)
      | .o, some o | .x, some o =>
        (s.setDir key { e with st := .dBS, pendingFor := some req }).send asid line die o n (.fwdGets req)
      | _, _ =>
        (s.setDir key { e with st := .dBX, pendingFor := some req }).send asid line die req n (.dataEx mem 0 false)
    | .getx =>
      let cs := e.others req
      let s := s.setDir key { e with st := .dBX, pendingFor := some req }
      match e.st, e.owner with
      | .o, some o | .x, some o => invs (s.send asid line die o n (.fwdGetx req cs.length)) cs
      | _, _ => invs (s.send asid line die req n (.dataEx mem cs.length false)) cs
    | .upg =>
      -- DEDUCED (log 21): an owner other than the requester is among "the others"
      let cs := e.others req ++ (match e.owner with | some o => if o = req then [] else [o] | none => [])
      let s := (s.recallData l2.pa).setDir key { e with st := .dBX, pendingFor := some req }
      invs (s.send asid line die req n (.upgAck cs.length)) cs
    | .putm | .puto =>
      -- the data is the putter's write-back buffer's
      let d := (((s.core req).l1.find? (l1Key asid line)).map L1Line.data).getD 0
      if e.owner = some req ∧ (e.st = .x ∨ e.st = .o) then
        let e' : DirEntry := { e with st := if e.st = .x then .i else .s, owner := none }
        ((s.poke l2.pa (lineBytes d)).setDir key e').send asid line die req n (.putAck false)
      else (s.setDir key e).send asid line die req n (.putAck true)
    | .pute =>
      if e.owner = some req ∧ e.st = .x then
        (s.setDir key { e with st := .i, owner := none }).send asid line die req n (.putAck false)
      else (s.setDir key e).send asid line die req n (.putAck true)

/-- The home takes queued requests while the line is stable (R247). -/
def State.homeQueue (s : State) (die : Nat) (asid : BitVec 16) (line : BitVec 51) : Nat → State
  | 0 => s
  | f + 1 =>
    let key := homeKey die asid line
    let e := s.dirAt key
    match e.queue with
    | (k, req) :: q =>
      if e.transient then s
      else ((s.setDir key { e with queue := q }).homeTake die asid line k req).homeQueue die asid line f
    | [] => s

/-- A request reaches the home: it is taken, or waits in the line's queue (R247). -/
def State.homeRequest (s : State) (die : Nat) (asid : BitVec 16) (line : BitVec 51) (k : ReqKind)
    (req : Nat) : State :=
  let key := homeKey die asid line
  let e := s.dirAt key
  if e.transient then s.setDir key { e with queue := e.queue ++ [(k, req)] }
  else s.homeTake die asid line k req

/-- UNBLOCK reaches the home: the final state is recorded and the next queued request is taken (R248, R250). -/
def State.homeUnblock (s : State) (die : Nat) (asid : BitVec 16) (line : BitVec 51) (req : Nat) (final : L1St)
    (dirty : Bool) : State :=
  let key := homeKey die asid line
  let e := s.dirAt key
  let e := { e with pendingFor := none }
  let e : DirEntry :=
    match e.st with
    | .dBS =>
      let add := if final = .iiA then [] else [req]
      let old := match e.owner with | some o => if dirty then [] else [o] | none => []
      { e with st := if dirty then .o else .s, owner := if dirty then e.owner else none,
               sharers := add ++ old ++ e.sharers.filter fun c => !(add ++ old).contains c }
    | .dBX =>
      if final = .iiA then { e with st := .i, owner := none, sharers := [] }
      else { e with st := .x, owner := some req, sharers := [] }
    | _ => e
  (s.setDir key e).homeQueue die asid line (e.queue.length + 1)

/-! ## The L1 -/

/-- Eviction (R249): M, O and E send a write-back and wait in the buffer; S leaves silently. -/
def State.l1Evict (s : State) (core : Nat) (asid : BitVec 16) (line : BitVec 51) : State :=
  let key := l1Key asid line
  match (s.core core).l1.find? key with
  | none => s
  | some l =>
    let put (st : L1St) (k : ReqKind) : State :=
      (s.setL1 core key (some { l with st })).send asid line l.die core 0 (.req k l.data (l.st != .e))
    match l.st with
    | .m => put .miA .putm
    | .o => put .oiA .puto
    | .e => put .eiA .pute
    | .s => s.setL1 core key none
    | _ => s

/-- A line in a state from which its L1 may evict it (R249). -/
def L1Line.stable (l : L1Line) : Bool := l.st = .m || l.st = .o || l.st = .e || l.st = .s

/-- A line that has left its L1 for the write-back buffer (R249). -/
def L1Line.leaving (l : L1Line) : Bool := l.st = .miA || l.st = .oiA || l.st = .eiA || l.st = .iiA

/-- Lines that an L1 holds: what the carve-out leaves of 1,280 KiB (R2, R107). -/
def Core.l1Lines (k : Core) : Nat := 20480 - k.carve * 4096

/-- An L1 with room for a line: when it is full it evicts a stable line with the largest RRPV, the one listed first of
them (log 68), after all of its lines have aged alike until one has RRPV 3; `none` while no line can leave. -/
def State.l1Room (s : State) (core : Nat) : Option State :=
  let k := s.core core
  if k.l1.length < k.l1Lines then some s
  else
    let held := k.l1.filter fun x => !x.2.leaving
    if held.length < k.l1Lines then some s
    else
      let pick (b : Option L1Line) (x : Nat × L1Line) : Option L1Line :=
        if !x.2.stable then b else match b with
          | none => some x.2
          | some y => some (if y.rrpv < x.2.rrpv then x.2 else y)
      match held.foldl pick none with
      | none => none
      | some v =>
        let age (_ : Nat) (x : L1Line) : L1Line := { x with rrpv := min 3 (x.rrpv + (3 - v.rrpv)) }
        some ((s.modCore core fun k => { k with l1 := k.l1.mapVals age }).l1Evict core v.asid v.line)

/-- An access that misses the L1, or needs the line in M: the line's state changes and a request is sent
(R249). A line that waits already sends nothing. A full L1 evicts a line first, and the access waits while none of its
lines can leave. -/
def State.l1Request (s : State) (core : Nat) (asid : BitVec 16) (line : BitVec 51) (die pa rrpv filler : Nat)
    (excl : Bool) : State :=
  let key := l1Key asid line
  match (s.core core).l1.find? key with
  | none =>
    match s.l1Room core with
    | none => s
    | some s =>
      let l : L1Line := { st := if excl then .imAD else .isD, asid, line, die, pa, rrpv, filler }
      (s.setL1 core key (some l)).send asid line die core 0 (.req (if excl then .getx else .gets) 0 false)
  | some l =>
    if excl ∧ (l.st = .s ∨ l.st = .o) then
      (s.setL1 core key (some { l with st := .smAD, dirty := l.st = .o, acks := 0, got := false })).send
        asid line l.die core 0 (.req .upg 0 false)
    else s

/-- A requester that has data and all its acks reaches M and sends UNBLOCK (R248). -/
def State.l1Check (s : State) (core key : Nat) (l : L1Line) (seq : Nat) : State :=
  if l.got ∧ l.acks = 0 then
    (s.setL1 core key (some { l with st := .m, dirty := false, got := false, invs := [] })).send
      l.asid l.line l.die core seq (.unblock .m false)
  else s.setL1 core key (some l)

/-- A load waits for a line of its core's L1. -/
def LoadReq.waitsFor (r : LoadReq) (key : Nat) : Bool :=
  !r.spad && !r.dest.isTile && r.park.isNone && r.remote.isNone &&
    l1Key (if r.ea.extractLsb' 55 2 = 1#2 then 0 else r.asid) (r.ea.extractLsb' 6 51) = key

/-- A number that is greater than another modulo 2^32, by signed difference (R245). -/
def seqAfter (v d : Nat) : Bool := (v + 2 ^ 32 - d) % 2 ^ 32 != 0 && decide ((v + 2 ^ 32 - d) % 2 ^ 32 < 2 ^ 31)

/-- The first INV acknowledged in IS_D whose number is greater than that of the data: its name and its clock (R250). -/
def L1Line.overtaken (l : L1Line) (d : Nat) : Option (Nat × Nat) := (l.invs.find? fun v => seqAfter v.1 d).map Prod.snd

/-- A load of a core that waits for the line when data comes that an INV has overtaken takes it (R250), where nothing puts
the load after that INV: no earlier access of its thread holds it back or has let it go on since, and its thread stood
ready at the unit before the INV, or had issued it (R194, R201, log 71). -/
def State.takesLate (s : State) (core key : Nat) (inv : Nat × Nat) (r : LoadReq) : Bool :=
  r.waitsFor key && !s.loadsBefore core r false &&
  !(s.group core r.place).mustWait r.lanes r.serial false (accAddr false r.ea) r.size &&
  (r.after = 0 || decide (r.after < inv.2)) && (decide (r.id < inv.1) || decide (r.ready < inv.2))

/-- Data reaches a line in IS_D: the line is installed, or serves the loads that were waiting and goes (R250). -/
def State.l1Arrive (s : State) (core key : Nat) (l : L1Line) (st : L1St) (d : BitVec 512) (late : Option (Nat × Nat)) :
    State :=
  match late with
  | none => s.setL1 core key (some { l with st, data := d, invs := [] })
  | some inv =>
    let serve := ((s.core core).loads.filter (s.takesLate core key inv)).map LoadReq.id
    s.setL1 core key (if serve.isEmpty then none else some { l with st := .isDI, data := d, serve })

/-- A message is received by the core it names (R248 to R251). -/
def State.l1Receive (s : State) (m : Msg) : State :=
  let key := l1Key m.asid m.line
  let line := (s.core m.core).l1.find? key
  let reply (s : State) (dst : Nat) (k : MsgKind) : State := s.send m.asid m.line m.die dst m.seq k
  match m.kind, line with
  | .fwdGets req, some l =>
    match l.st with
    | .m | .o => reply (s.setL1 m.core key (some { l with st := .o })) req (.data l.data true true)
    | .e => reply (s.setL1 m.core key (some { l with st := .s })) req (.data l.data false true)
    | .miA | .oiA => reply (s.setL1 m.core key (some { l with st := .oiA })) req (.data l.data true true)
    | .eiA => reply (s.setL1 m.core key (some { l with st := .iiA })) req (.data l.data false true)
    | _ => reply s req (.data l.data l.dirty true)
  | .fwdGetx req n, some l =>
    match l.st with
    | .miA | .oiA | .eiA =>
      reply (s.setL1 m.core key (some { l with st := .iiA })) req (.dataEx l.data n (l.st != .eiA))
    | .smAD =>
      reply (s.setL1 m.core key (some { l with st := .imAD, dirty := false })) req (.dataEx l.data n true)
    | _ => reply (s.setL1 m.core key none) req (.dataEx l.data n (l.st != .e))
  | .inv req, some l =>
    let ack (s : State) := reply s req .invAck
    match l.st with
    | .isD => ack (s.setL1 m.core key (some { l with invs := l.invs ++ [(m.seq, s.nextId, s.clock)] }))
    | .smAD => ack (s.setL1 m.core key (some { l with st := .imAD, dirty := false }))
    | .m | .o | .e | .s => ack (s.setL1 m.core key none)
    | .miA | .oiA | .eiA => ack (s.setL1 m.core key (some { l with st := .iiA }))
    | _ => ack s
  | .inv req, none => reply s req .invAck
  | .data d dirty unb, some l =>
    let late := l.overtaken m.seq
    (if unb then reply s m.core (.unblock (if late.isSome then .iiA else .s) dirty) else s).l1Arrive m.core key l .s d late
  | .dataEx d n dirty, some l =>
    if l.st = .isD then
      let late := l.overtaken m.seq
      (reply s m.core (.unblock (if late.isSome then .iiA else .e) false)).l1Arrive m.core key l .e d late
    else
      s.l1Check m.core key { l with st := .imA, data := d, got := true, dirty, acks := l.acks + n } m.seq
  | .upgAck n, some l =>
    s.l1Check m.core key { l with st := .smA, got := true, acks := l.acks + n } m.seq
  | .invAck, some l => s.l1Check m.core key { l with acks := l.acks - 1 } m.seq
  | .putAck _, some _ => s.setL1 m.core key none
  | _, _ => s

/-! ## Which message is received next -/

/-- The class of a message: 0 request, 1 forward, 2 response (R246). -/
def MsgKind.cls : MsgKind → Nat
  | .req _ _ _ => 0
  | .fwdGets _ | .fwdGetx _ _ | .inv _ => 1
  | _ => 2

/-- The first message of a line and core that passes a test, with the others; an earlier request or forward of
the same line and core stops the search, since none overtakes another (R246). -/
def takeMsg (p : Msg → Bool) (asid : BitVec 16) (line : BitVec 51) (core : Nat) :
    List Msg → Option (Msg × List Msg)
  | [] => none
  | m :: ms =>
    let mine := m.asid = asid ∧ m.line = line ∧ m.core = core
    if mine ∧ p m then some (m, ms)
    else if mine ∧ m.kind.cls < 2 ∧ (ms.find? fun x => p x && x.asid = asid && x.line = line && x.core = core &&
        x.kind.cls = m.kind.cls).isSome then none
    else (takeMsg p asid line core ms).map fun r => (r.1, m :: r.2)

/-- A message of a line and core is received: by the home when it is a request or an UNBLOCK, else by the L1.
With no such message the state stays. -/
def State.deliver (s : State) (asid : BitVec 16) (line : BitVec 51) (core : Nat) (p : MsgKind → Bool) : State :=
  match takeMsg (fun m => p m.kind) asid line core s.msgs with
  | none => s
  | some (m, rest) =>
    let s := { s with msgs := rest }
    match m.kind with
    | .req k _ _ => s.homeRequest m.die asid line k core
    | .unblock final dirty => s.homeUnblock m.die asid line core final dirty
    -- a message that lands at a core is one of its numbered events (R165, R208)
    | _ => (s.l1Receive m).stamp m.core

/-! ## Agents without an L1 -/

/-- The lines of the home slices that hold a physical line (R96, R252). -/
def State.homesOf (s : State) (pa : Nat) : List Nat :=
  s.l2.filterMap fun x => if x.2.pa = pa / 64 * 64 then some x.1 else none

/-- One byte of the coherence order's newest write: a dirty copy's, else memory's (R201, R252). -/
def State.viewByte (s : State) (pa : Nat) : Byte :=
  match s.dirtyCopy (pa / 64 * 64) with
  | some d => BitVec.ofNat 8 (d.toNat / 2 ^ (8 * (pa % 64)))
  | none => Memory.read s.mem pa

/-- Bytes as an agent at the home reads them (R252). -/
def State.view (s : State) (pa n : Nat) : List Byte := (List.range n).map fun i => s.viewByte (pa + i)

/-- A little-endian number as an agent at the home reads it. -/
def State.viewNat (s : State) (pa n : Nat) : Nat := leNat (s.view pa n)

/-- What an L1 line becomes when a home agent reads the line as a GETS would. -/
def L1Line.afterRead (l : L1Line) : L1Line :=
  match l.st with
  | .m => { l with st := .o }
  | .e => { l with st := .s }
  | .miA => { l with st := .oiA }
  | _ => l

/-- What an L1 line becomes when a home agent writes the line as a GETX would; `n` is the transaction's number, `below`
the next name of a load, `clock` the clock. -/
def L1Line.afterWrite (l : L1Line) (n below clock : Nat) : Option L1Line :=
  match l.st with
  | .m | .o | .e | .s => none
  | .isD => some { l with invs := l.invs ++ [(n, below, clock)] }
  | .smAD => some { l with st := .imAD, dirty := false }
  | .miA | .oiA | .eiA => some { l with st := .iiA }
  | _ => some l

/-- The transaction of a line at a home goes on until the line is in a stable state: its messages are received, the one
sent first first. An agent's access waits so in the line's queue (R247, R252, log 22). -/
def State.homeSettle (s : State) (key : Nat) : Nat → State
  | 0 => s
  | f + 1 =>
    if !(s.dirAt key).transient then s
    else match s.msgs.find? fun m => homeKey m.die m.asid m.line = key with
      | none => s
      | some m => (s.deliver m.asid m.line m.core fun k => k.cls = m.kind.cls).homeSettle key f

/-- Messages that the transactions of a line can still need: each of a module's cores asks once, and a request takes at
most two messages of each core. -/
def settleFuel : Nat := 65536

/-- A home agent recalls a line for a read or a write (R252), once a transaction of the line has ended. -/
def State.recall (s : State) (pa : Nat) (write : Bool) : State :=
  let pa := pa / 64 * 64
  let keys := s.homesOf pa
  let s := (keys.foldl (fun s key => s.homeSettle key settleFuel) s).recallData pa
  keys.foldl (fun s key =>
    let e := s.dirAt key
    let n := (e.seq + 1) % 2 ^ 32
    let touch (k : Core) : Core :=
      { k with l1 := k.l1.filterMap fun x =>
          if x.2.pa = pa then
            (if write then (x.2.afterWrite n s.nextId s.clock).map fun l => (x.1, l) else some (x.1, x.2.afterRead))
          else some x }
    let e' : DirEntry :=
      -- a line that waits in D_F has no copy, and goes on waiting
      if write then { e with st := if e.st = .dF then .dF else .i, owner := none, sharers := [], seq := n }
      else match e.st, e.owner with
        | .x, some o =>
          let st := ((s.core o).l1.find? (key % 2 ^ 67)).map fun l => l.st
          if st = some .e ∨ st = some .eiA then { e with st := .s, owner := none, sharers := [o], seq := n }
          else { e with st := .o, seq := n }
        | _, _ => { e with seq := n }
    { s with cores := s.cores.mapVals fun _ k => touch k }.setDir key e') s

/-- The bytes of a line replaced in a copy. -/
def patchLine (d : BitVec 512) (o : Nat) (bs : List Byte) : BitVec 512 :=
  lineBits (putBytes (lineBytes d) o bs)

/-- A home agent's write of at most one line: copies are recalled, then the bytes are written (R252). -/
def State.agentWriteLine (s : State) (pa : Nat) (bs : List Byte) : State :=
  -- a whole line that is written holds poison no longer
  let s := if bs.length = 64 then { s with poison := s.poison.filter (· ≠ pa / 64) } else s
  if bs.isEmpty then s else (s.recall pa true).poke pa bs

/-- A home agent's write of any length, line by line. -/
def State.agentWrite (s : State) (pa : Nat) (bs : List Byte) : State :=
  let n := if bs.isEmpty then 0 else (pa + bs.length - 1) / 64 - pa / 64 + 1
  (List.range n).foldl (fun s i =>
    let lo := if i = 0 then pa else (pa / 64 + i) * 64
    let hi := min (pa + bs.length) ((pa / 64 + i + 1) * 64)
    s.agentWriteLine lo ((bs.drop (lo - pa)).take (hi - lo))) s

/-- A home agent's read recalls dirty data from the owners of the lines it touches (R252). -/
def State.agentTouch (s : State) (pa n : Nat) : State :=
  if n = 0 then s
  else (List.range ((pa + n - 1) / 64 - pa / 64 + 1)).foldl (fun s i => s.recall ((pa / 64 + i) * 64) false) s

end Sys2Proof.Machine
end

