-- ==== Sys2Proof/Machine/Tasks.lean ====
section
/-! DEFINITION. Task records in memory (R316 to R318), aging and inheritance (R322, R323), and the writes of software
that may meet a record (R318). -/

namespace Sys2Proof.Machine

/-! ## The task table (R316, R317) -/

/-- The number of task records (R316). -/
def State.tsz (s : State) : Nat := bitsNat s.htsTsz 18 0

/-- A task index lies in a range of the table (R317). -/
def State.within (s : State) (r : Dword) (t : Nat) : Bool :=
  r.getLsbD 63 && decide (bitsNat r 17 0 ≤ t ∧ t ≤ bitsNat r 49 32 ∧ t < s.tsz)

/-- The range of an address space; ASID 0 has none (R317). -/
def State.taskRange (s : State) (asid : BitVec 16) : Dword := if asid = 0 then 0 else s.htsRange.get 0 asid.toNat

/-- A task index lies in the range of an address space, and in the table (R317). -/
def State.inRange (s : State) (asid : BitVec 16) (t : Nat) : Bool := s.within (s.taskRange asid) t

/-! ## Task records (R318) -/

/-- The address of a task record. -/
def State.taskAddr (s : State) (t : Nat) : Nat := bitsNat s.htsTbase 51 7 * 128 + 128 * t

/-- A field of a task record. -/
def State.taskNat (s : State) (t off n : Nat) : Nat := s.viewNat (s.taskAddr t + off) n

/-- A field of a task record is written. -/
def State.taskPut (s : State) (t off n v : Nat) : State := s.agentWrite (s.taskAddr t + off) (leBytes n v)

def State.taskState (s : State) (t : Nat) : Nat := s.taskNat t 6 1
def State.taskAsid (s : State) (t : Nat) : BitVec 16 := BitVec.ofNat 16 (s.taskNat t 24 2)
def State.task (s : State) (t : Nat) : HtsTask := s.tasks.get {} t
def State.modTask (s : State) (t : Nat) (f : HtsTask → HtsTask) : State :=
  { s with tasks := s.tasks.set t (f (s.task t)) }

/-- The task is in STATE 1, 2 or 3 (R323). -/
def State.unfinished (s : State) (t : Nat) : Bool := 1 ≤ s.taskState t && s.taskState t ≤ 3

/-! ## Inheritance (R322, R323) -/

/-- The predecessors of a task that count. -/
def State.preds (s : State) (t : Nat) : List Nat :=
  ((List.range (min 8 (s.taskNat t 27 1))).map fun i => s.taskNat t (96 + 4 * i) 4 % 2 ^ 18).filter fun u =>
    s.inRange (s.taskAsid t) u && s.unfinished u

/-- The tasks reached from some through at most n links. -/
def State.predsWithin (s : State) : Nat → List Nat → List Nat
  | 0, _ => []
  | n + 1, ts =>
    let next := (ts.flatMap s.preds).eraseDups
    next ++ State.predsWithin s n next

/-- One round of inheritance from every waiting task. -/
def State.inheritRound (s : State) (waiting : List Nat) (inh : Tab Nat) : Tab Nat :=
  waiting.foldl (fun m t =>
    let p := max (s.taskNat t 4 1 % 8) (m.get 0 t)
    (s.predsWithin 4 [t]).foldl (fun m u => m.set u (max (m.get 0 u) p)) m) inh

/-- Rounds until nothing rises. -/
def State.inheritFix (s : State) (waiting : List Nat) : Nat → Tab Nat → Tab Nat
  | 0, m => m
  | n + 1, m =>
    let m' := s.inheritRound waiting m
    if m' = m then m else State.inheritFix s waiting n m'

/-- EPRIO and the pre-emptive priority Q of a task (R322, R324). -/
def State.eprio (s : State) (t : Nat) : Nat := max (s.taskNat t 4 1 % 8) (max (s.task t).aged (s.task t).inh)
def State.qprio (s : State) (t : Nat) : Nat := max (s.taskNat t 4 1 % 8) (s.task t).inh

/-- INH of every task and EPRIO in its record are brought up to date (R322, R323). -/
def State.inherit (s : State) : State :=
  let ts := (List.range s.tsz).filter s.unfinished
  let waiting := ts.filter fun t => s.taskState t = 1
  let inh := s.inheritFix waiting (waiting.length + 1) []
  ts.foldl (fun s t =>
    let s := if (s.task t).inh = inh.get 0 t then s else s.modTask t fun x => { x with inh := inh.get 0 t }
    if s.taskNat t 5 1 = s.eprio t then s else s.taskPut t 5 1 (s.eprio t)) s

/-! ## Writes of software (R318) -/

/-- The records that bytes of memory meet. -/
def State.recordsAt (s : State) (pa n : Nat) : List Nat :=
  let base := s.taskAddr 0
  if n = 0 ∨ pa + n ≤ base ∨ base + 128 * s.tsz ≤ pa then []
  else
    let lo := (pa - base) / 128
    let hi := min (s.tsz - 1) ((pa + n - 1 - base) / 128)
    (List.range (hi + 1 - lo)).map (· + lo)

/-- A record in STATE 1 to 7: a write of software leaves undefined values in it (R318). -/
def State.recordLocked (s : State) (t : Nat) : Bool := 1 ≤ s.taskState t && s.taskState t ≤ 7

/-- A record's bytes become free values (R318, log 31). -/
def State.spoilRecord (s : State) (t : Nat) : State :=
  let s' := s.agentWrite (s.taskAddr t) ((List.range 128).map fun i => Config.freeByte (s.free + i))
  { s' with free := s'.free + 128 }

/-- What a write of software to some records leaves: undefined values in those that it may not write, and otherwise
another inheritance (R318, R323). -/
def State.afterRecords (s : State) (hit locked : List Nat) : State :=
  if hit.isEmpty then s else (locked.foldl State.spoilRecord s).inherit

/-- Software writes bytes of memory at the home: what it writes into a record that it may write is there, and changes
what tasks inherit; a record that it may not write holds undefined values (R318, R323). -/
def State.softWrite (s : State) (pa : Nat) (bs : List Byte) : State :=
  let hit := s.recordsAt pa bs.length
  (s.agentWrite pa bs).afterRecords hit (hit.filter s.recordLocked)

end Sys2Proof.Machine
end

