-- ==== Sys2Proof/Machine/Xlate.lean ====
section
/-! DEFINITION. Translation (R95 to R101), the checks of an access (R98, R102 to R104, R150), and the parking of a
translation fault in the fault gatherer (R256, R257). -/

namespace Sys2Proof.Machine

/-! ## The leaf (R100) -/

def Leaf.bit (l : Leaf) (n : Nat) : Bool := l.bits.getLsbD n
def Leaf.w (l : Leaf) : Bool := l.bit 1
def Leaf.x (l : Leaf) : Bool := l.bit 2
def Leaf.cls (l : Leaf) : Nat := bitsNat l.bits 4 3
def Leaf.repl (l : Leaf) : Bool := l.bit 5
def Leaf.tagen (l : Leaf) : Bool := l.bit 6
def Leaf.kvm (l : Leaf) : Bool := l.bit 7
def Leaf.fwd (l : Leaf) : Bool := l.bit 8
def Leaf.home (l : Leaf) : Nat := (l.bit 9).toNat
def Leaf.dirty (l : Leaf) : Bool := l.bit 12
/-- FRAME as a byte address. -/
def Leaf.frame (l : Leaf) : Nat := bitsNat l.bits 51 16 * 65536
/-- Bytes that the leaf maps. -/
def Leaf.span (l : Leaf) : Nat := if l.big then 2 ^ 29 else 2 ^ 16

/-- FRAME names a pool page (R101). -/
def Leaf.fwdPool (l : Leaf) : Bool := 8 ≤ bitsNat l.bits 51 48 && bitsNat l.bits 51 48 ≤ 14

/-- A leaf that faults as malformed (R101). -/
def State.malformed (s : State) (l : Leaf) : Bool :=
  bitsNat l.bits 15 14 != 0 || (l.big && bitsNat l.bits 28 16 != 0) || (l.home = 1 && s.dies = 1) ||
  (l.repl && l.kvm) ||
  (l.fwd && !l.fwdPool && !(bitsNat l.bits 51 48 = 0 && bitsNat l.bits 47 25 = 0))

/-! ## The walk (R99, R101) -/

/-- What a walk gives. -/
inductive Walked where
  | leaf (l : Leaf)
  | fault (malformed : Bool)
  deriving DecidableEq, Repr

/-- The last levels of a walk, by table address: `lvl` 2 reads a table of pointers, 1 the L1 table, 0 the L0. A table
at an address that holds no memory reads as zeros, so that the walk ends in V = 0 (log 69); of a CONTIG unit whose
leaves differ, an access takes the entry of its own page, one of the 32 that R101 allows (log 70). -/
def State.walkFrom (s : State) (va : Nat) (table : Nat) : Nat → Walked
  | 0 =>
    let a := table + va / 2 ^ 16 % 2 ^ 13 * 8
    let l : Leaf := { bits := BitVec.ofNat 64 (s.viewNat a 8), addr := a }
    if !l.bit 0 then .fault false else if l.bit 13 || s.malformed l then .fault true else .leaf l
  | k + 1 =>
    let a := table + va / 2 ^ (16 + 13 * (k + 1)) % (if k = 2 then 4 else 2 ^ 13) * 8
    let e : Dword := BitVec.ofNat 64 (s.viewNat a 8)
    if !e.getLsbD 0 then .fault false
    else if k = 0 ∧ e.getLsbD 13 then
      let l : Leaf := { bits := e, addr := a, big := true }
      if s.malformed l then .fault true else .leaf l
    else if bitsNat e 15 1 != 0 then .fault true
    else s.walkFrom va (bitsNat e 51 16 * 65536) k

/-- The walk of an address in its address space; an ASID without a root table has no page (log 17). -/
def State.walk (s : State) (asid : BitVec 16) (va : Nat) : Walked :=
  match s.asidRoot.find? asid.toNat with
  | none => .fault false
  | some root => s.walkFrom va root 3

/-- Key of a page of an address space. -/
def pageKey (asid : BitVec 16) (va : Nat) : Nat := asid.toNat * 2 ^ 41 + va / 65536 % 2 ^ 41

/-- Key of a page in what a die keeps of it: the translations of its XC, the page-home table of its local slices
(R244), and the fault gatherer that an access to the page parks in (R256). -/
def parkKey (die : Nat) (asid : BitVec 16) (va : Nat) : Nat := die * 2 ^ 57 + pageKey asid va

/-- A page is no longer mapped with tags: it is newly mapped when it is mapped again (R103). -/
def State.dropTags (s : State) (asid : BitVec 16) (va : Nat) : State :=
  { s with tagged := s.tagged.erase (pageKey asid va) }

/-- A page newly mapped with TAGEN = 1 has every tag 0 (R103): one that was last seen unmapped, without tags, or with
another frame (log 66). -/
def State.seeTags (s : State) (asid : BitVec 16) (va : Nat) (l : Leaf) : State :=
  let k := pageKey asid va
  if !l.tagen then s.dropTags asid va
  else if s.tagged.find? k = some l.frame then s
  else { s with tagged := s.tagged.set k l.frame, tags := s.tags.filter fun x => x.1 / 2048 ≠ k }

/-- A leaf in memory gains bits by an atomic update (R98). -/
def State.markLeaf (s : State) (l : Leaf) (m : Dword) : State × Leaf :=
  let b := BitVec.ofNat 64 (s.viewNat l.addr 8) ||| m
  if l.bits &&& m = m then (s, l)
  else (s.agentWriteLine l.addr (leBytes 8 b.toNat), { l with bits := l.bits ||| m })

/-- Translation in an XC of a die: a held translation, or a walk, which sets ACCESSED (R97, R98). A translation that
is held is used until a TLBI removes it: of the two that R98 allows, the old leaf (log 67). -/
def State.xlate (s : State) (die : Nat) (asid : BitVec 16) (va : Nat) : State × Walked :=
  let k := parkKey die asid va
  match s.xc.find? k with
  | some l => (s, .leaf l)
  | none =>
    match s.walk asid va with
    | .fault m => (if m then s else s.dropTags asid va, .fault m)
    | .leaf l =>
      let (s, l) := s.markLeaf l 0x800
      let s := s.seeTags asid va l
      ({ s with xc := s.xc.set k l, pageHome := s.pageHome.set k l.home }, .leaf l)

/-! ## The lines of the L2 -/

/-- The home die of a line (R243, R244, R253): the page-home table's of the requester's die, else the leaf's; a
replica's is the requester's own die. -/
def State.homeDie (s : State) (die : Nat) (asid : BitVec 16) (va : Nat) (l : Leaf) : Nat :=
  if l.repl then die else s.pageHome.get l.home (parkKey die asid va)

/-- The physical address of an access by a die; a replica's frame on the other die is the replica table's, which names
one for each page of 64 KiB (R253), and a page forwarded to the pool lies there (R101). -/
def State.physical (s : State) (die : Nat) (asid : BitVec 16) (va : Nat) (l : Leaf) : Nat :=
  match if l.repl ∧ die ≠ l.home then s.replica.find? (pageKey asid va) else none with
  | some frame => frame + va % 65536
  | none => l.frame + va % l.span

/-- The line number of an address. -/
def lineOf (va : Nat) : BitVec 51 := BitVec.ofNat 51 (va / 64)

/-- The L2 copy that an access of a die hits (R97): the local slice's, else the home slice's on the other die once
the page-home table names it (R244). -/
def State.l2Hit (s : State) (die : Nat) (asid : BitVec 16) (va : Nat) : Option L2Line :=
  match s.l2.find? (homeKey die asid (lineOf va)) with
  | some l => some l
  | none =>
    match s.pageHome.find? (parkKey die asid va) with
    | some h =>
      match s.l2.find? (homeKey h asid (lineOf va)) with
      | some l => if l.leaf.repl then none else some l
      | none => none
    | none => none

/-- RRPV of an insertion: near 0, mid 2, far 3; a no-allocate page makes near and mid far (R102). -/
def rrpvOf (policy cls : Nat) : Nat :=
  if cls = 1 then 3 else if policy = 0 then 0 else if policy = 1 then 2 else 3

/-- An access allocates its line: normal classes, memory or pool, and no stream policy (R102). -/
def State.allocates (s : State) (pa cls policy : Nat) : Bool :=
  cls < 2 && policy < 3 && (s.place pa = .memory || s.place pa = .pool)

/-- An access hits an L2 line: its RRPV becomes 0, but for a stream access, and for an access that was checked before
(R102). -/
def State.l2Use (s : State) (die : Nat) (asid : BitVec 16) (va policy : Nat) (again : Bool) (l : L2Line) : State :=
  let key := homeKey (s.homeDie die asid va l.leaf) asid (lineOf va)
  if policy < 3 ∧ !again then { s with l2 := s.l2.set key { l with rrpv := 0 } } else s

/-- The slice of its die, one of 64, that a line's key has (R2, R243); the hash is the part's (log 12). -/
def sliceOf (key : Nat) : Nat := Config.slice (key % 2 ^ 67) % 64

/-- Lines that an L2 slice of 8 MiB holds (R2). -/
def sliceLines : Nat := 131072

/-- The line that an L2 slice evicts: in a stable state, with the largest RRPV; of those the one listed first, since
the manual names no order among them (log 68). -/
def State.l2Victim (s : State) (ks : List (Nat × L2Line)) : Option (Nat × L2Line) :=
  (ks.filter fun x => !(s.dirAt x.1).transient).foldl
    (fun b x => match b with
      | none => some x
      | some y => some (if y.2.rrpv < x.2.rrpv then x else y)) none

/-- A line leaves the L2: every L1 copy is invalidated and an owner's data written back first (R245). -/
def State.l2Evict (s : State) (key pa : Nat) : State :=
  let s := s.recall pa true
  { s with l2 := s.l2.erase key, dir := s.dir.set key { seq := (s.dirAt key).seq, queue := (s.dirAt key).queue } }

/-- A line enters its L2 slice, which evicts one when it is full (R2, R245). Without a line that can leave, the access
fills none. -/
def State.l2Fill (s : State) (key : Nat) (l : L2Line) : State :=
  if s.l2.length < sliceLines then { s with l2 := s.l2.set key l }
  else
    let ks := s.l2.filter fun x => x.1 / 2 ^ 67 = key / 2 ^ 67 && sliceOf x.1 = sliceOf key
    if ks.length < sliceLines then { s with l2 := s.l2.set key l }
    else match s.l2Victim ks with
      | none => s
      | some v =>
        -- no line of the slice has RRPV 3: all of them age alike until one has
        let age (x : Nat × L2Line) : Nat × L2Line :=
          if ks.any fun y => y.1 = x.1 then (x.1, { x.2 with rrpv := min 3 (x.2.rrpv + (3 - v.2.rrpv)) }) else x
        let s := ({ s with l2 := s.l2.map age }).l2Evict v.1 v.2.pa
        { s with l2 := s.l2.set key l }

/-- An access that misses the L2 is translated, and its line filled where it allocates (R97, R98). -/
def State.leafFor (s : State) (die : Nat) (asid : BitVec 16) (va policy : Nat) (again : Bool) : State × Walked :=
  match s.l2Hit die asid va with
  | some l => (s.l2Use die asid va policy again l, .leaf l.leaf)
  | none =>
    match s.xlate die asid va with
    | (s, .leaf l) =>
      let pa := s.physical die asid va l
      if s.allocates pa l.cls policy ∧ (!l.fwd ∨ l.fwdPool) then
        let key := homeKey (s.homeDie die asid va l) asid (lineOf va)
        match s.l2.find? key with
        | some x => (s.l2Use die asid va policy again x, .leaf x.leaf)
        | none => (s.l2Fill key { leaf := l, writeReady := l.w && l.dirty, pa := pa / 64 * 64,
                                  rrpv := rrpvOf policy l.cls }, .leaf l)
      else (s, .leaf l)
    | r => r

/-- A store to a line whose copy is not write-ready is re-translated, and the XC sets DIRTY (R98). -/
def State.makeDirty (s : State) (die : Nat) (asid : BitVec 16) (va : Nat) : State × Walked :=
  match s.xlate die asid va with
  | (s, .leaf l) =>
    if !l.w then (s, .leaf l) else
    let (s, l) := s.markLeaf l 0x1000
    let s := { s with xc := s.xc.set (parkKey die asid va) l }
    let fix (s : State) (d : Nat) : State :=
      let key := homeKey d asid (lineOf va)
      match s.l2.find? key with
      | some x => { s with l2 := s.l2.set key { x with leaf := l, writeReady := true } }
      | none => s
    (fix (fix s die) (1 - die), .leaf l)
  | r => r

/-! ## Parking (R256, R257) -/

/-- A die's fault gatherer. -/
def State.gatherer (s : State) (die : Nat) : Gatherer := s.gatherers.get {} die

/-- Batch slots; 0 is treated as 1 (R257). -/
def Gatherer.slotCount (g : Gatherer) : Nat := max 1 (bitsNat g.win 15 8)

/-- Window length in ns (R257). -/
def Gatherer.window (g : Gatherer) : Nat := min 64 (max 1 (bitsNat g.win 5 0)) * 1000

/-- The two words of an entry of a batch (R257). -/
def FaultEntry.bytes (e : FaultEntry) : List Byte :=
  leBytes 8 (e.asid.toNat * 2 ^ 48 + e.page % 2 ^ 41) ++
  (match e.freed with
   | some f => leBytes 8 (2 ^ 39 + f / 65536 % 2 ^ 36)
   | none => leBytes 8 (min e.count 0xFFFF * 2 ^ 48 + e.kinds.toNat * 2 ^ 40))

/-- The 64-byte header and the entries of a batch (R257). -/
def Batch.bytes (b : Batch) (die : Nat) : List Byte :=
  leBytes 8 b.number ++ leBytes 4 b.entries.length ++ leBytes 1 die ++ leBytes 3 0 ++ leBytes 8 b.opened ++
  leBytes 8 b.closed ++ leBytes 32 0 ++ b.entries.flatMap FaultEntry.bytes

/-- Held batches are written in order, each once its slot is free; the die's management cores are interrupted (R257). -/
def State.deliverBatches (s : State) (die : Nat) : Nat → State
  | 0 => s
  | f + 1 =>
    let g := s.gatherer die
    match g.batches.find? fun b => !b.delivered with
    | none => s
    | some b =>
      let slot := b.number % g.slotCount
      if (g.slots.find? slot).isSome then s else
      let g := { g with slots := g.slots.set slot b.number,
                        batches := g.batches.map fun x => if x.number = b.number then { x with delivered := true } else x
                        interrupts := g.interrupts + 1 }
      let area := bitsNat g.ctl 51 6 * 64
      (({ s with gatherers := s.gatherers.set die g }).agentWrite (area + 32768 * slot) (b.bytes die)).deliverBatches
        die f

/-- The open window closes and becomes a batch (R257). -/
def State.closeWindow (s : State) (die : Nat) : State :=
  let g := s.gatherer die
  match g.opened with
  | none => s
  | some t =>
    let b : Batch := { number := g.next, opened := t, closed := s.timeNs,
                       entries := sortBy (fun e => e.asid.toNat * 2 ^ 42 + e.page) g.entries }
    let g := { g with opened := none, entries := [], next := g.next + 1, batches := g.batches ++ [b] }
    ({ s with gatherers := s.gatherers.set die g }).deliverBatches die g.batches.length

/-- An entry that a fault on its page joins (R257). -/
def FaultEntry.joins (e : FaultEntry) (asid : BitVec 16) (page : Nat) : Bool :=
  e.asid = asid && e.page = page && e.freed.isNone

/-- A page stands in the open window or in an unfinished batch (R257). -/
def Gatherer.lists (g : Gatherer) (asid : BitVec 16) (page : Nat) : Bool :=
  g.entries.any (fun e => e.asid = asid && e.page = page) ||
    g.batches.any fun b => b.entries.any fun e => e.asid = asid && e.page = page

/-- A new entry enters the window, which opens with it and closes when it is full. An (ASID, page) appears at most once
among all unfinished batches: an entry of a page that is listed already waits until that one has been replayed (R257,
log 72). -/
def State.enterFault (s : State) (die : Nat) (e : FaultEntry) : State :=
  let g := s.gatherer die
  if g.lists e.asid e.page then { s with gatherers := s.gatherers.set die { g with later := g.later ++ [e] } }
  else
    let g := { g with entries := g.entries ++ [e], opened := g.opened.or (some s.timeNs) }
    let s := { s with gatherers := s.gatherers.set die g }
    if g.entries.length ≥ 1024 then s.closeWindow die else s

/-- The entries that wait enter the window, where their pages are listed no longer. -/
def State.readmit (s : State) (die : Nat) : State :=
  let g := s.gatherer die
  g.later.foldl (fun s e => s.enterFault die e) { s with gatherers := s.gatherers.set die { g with later := [] } }

/-- A fault arrives at a gatherer: it joins an unfinished entry of its page, or is a new one (R257). `n` accesses park
on it. -/
def State.joinFault (s : State) (die : Nat) (asid : BitVec 16) (page : Nat) (kinds : BitVec 8) (n : Nat) : State :=
  let g := s.gatherer die
  let mine (e : FaultEntry) : Bool := e.joins asid page
  let add (e : FaultEntry) : FaultEntry :=
    if mine e then { e with count := e.count + n, kinds := e.kinds ||| kinds } else e
  if g.entries.any mine ∨ (g.batches.any fun b => b.entries.any mine) ∨ g.later.any mine then
    { s with gatherers := s.gatherers.set die { g with
        entries := g.entries.map add
        batches := g.batches.map fun b => { b with entries := b.entries.map add }
        later := g.later.map add } }
  else s.enterFault die { asid, page, count := n, kinds }

/-- A fault on the page of an address, on which `n` accesses park; `kinds` are the bits of KINDS (R257). -/
def State.faultOn (s : State) (die : Nat) (asid : BitVec 16) (va : Nat) (kinds : BitVec 8) (malformed : Bool)
    (n : Nat) : State :=
  s.joinFault die asid (va / 65536 % 2 ^ 41) (if malformed then kinds ||| 0x80 else kinds) n

/-- An access parks on the page of its address (R256). -/
def State.parkOn (s : State) (die : Nat) (asid : BitVec 16) (va : Nat) (kinds : BitVec 8) (malformed : Bool) :
    State := s.faultOn die asid va kinds malformed 1

/-! ## The checks of an access (R150) -/

/-- Where an access goes. -/
structure Loc where
  leaf : Leaf := {}
  asid : BitVec 16 := 0
  va : Nat := 0
  pa : Nat := 0
  home : Nat := 0
  place : Place := .memory
  deriving DecidableEq, Repr

/-- What the checks of an access find. -/
inductive Found where
  | ok (l : Loc)
  | trap (cause : Nat)
  | park (malformed : Bool)
  | remote (target : Nat)
  deriving DecidableEq, Repr

/-- What an access asks of its checks. -/
structure Ask where
  write : Bool := false
  atomic : Bool := false
  fetch : Bool := false
  /-- the tag is compared (R103) -/
  tag : Bool := true
  /-- the insertion policy (R102); of an access that has neither an RD field nor a CPOL prefix that it accepts it is near,
  the model's choice (log 83) -/
  policy : Nat := 0
  /-- Badger and the copy engine's KV commands may write KVM pages (R101) -/
  kvm : Bool := false
  /-- the access has been checked before, or its L1 holds the line: it is no new hit in the L2 (R97, R102) -/
  again : Bool := false
  deriving DecidableEq, Repr

/-- The address space of a pointer (R95). -/
def spaceOf (asid : BitVec 16) (ea : Dword) : BitVec 16 := if ea.extractLsb' 55 2 = 1#2 then 0 else asid

/-- The route table has a destination as reachable, the module's own number too (R95, R341). -/
def State.routed (s : State) (target : Nat) : Bool := target < 320 && (s.routes.get 0 target).getLsbD 52

/-- The number of a trap cause (R119). -/
abbrev Cause.illegalEncoding : Nat := 0x01
abbrev Cause.illegalChain : Nat := 0x02
abbrev Cause.illegalPrefix : Nat := 0x03
abbrev Cause.reservedOpcode : Nat := 0x04
abbrev Cause.lineCheck : Nat := 0x05
abbrev Cause.privilege : Nat := 0x06
abbrev Cause.alignment : Nat := 0x10
abbrev Cause.noncanonical : Nat := 0x11
abbrev Cause.tagMismatch : Nat := 0x12
abbrev Cause.fatalMemory : Nat := 0x13
abbrev Cause.protection : Nat := 0x14
abbrev Cause.scratchRange : Nat := 0x15
abbrev Cause.slotState : Nat := 0x16
abbrev Cause.format : Nat := 0x17
abbrev Cause.numericThreshold : Nat := 0x20
abbrev Cause.preemptReq : Nat := 0x30
abbrev Cause.detViolation : Nat := 0x31
abbrev Cause.watchdog : Nat := 0x32
abbrev Cause.geometryMismatch : Nat := 0x33
abbrev Cause.farIllegal : Nat := 0x40
abbrev Cause.treeInvalid : Nat := 0x50
abbrev Cause.staleGeneration : Nat := 0x51
abbrev Cause.remoteTimeout : Nat := 0x60
abbrev Cause.unitAbsent : Nat := 0x61
abbrev Cause.user : Nat := 0x70

/-- Checks 6 and 7 of R150, once the leaf is known and check 5 has passed. -/
def State.checkPlace (s : State) (die : Nat) (asid : BitVec 16) (ea : Dword) (size : Nat) (q : Ask) (l : Leaf) :
    Found :=
  let va := bitsNat ea 56 0
  let pa := s.physical die asid va l
  let place := s.place pa
  if q.tag && !q.fetch && l.tagen && !s.tagsMatch asid va size (ea.extractLsb' 60 4) then .trap Cause.tagMismatch
  else match place with
  | .none => .trap Cause.fatalMemory
  | .window =>
    let w := windowOf pa
    match s.windowCore w with
    | none => .trap Cause.fatalMemory
    | some c =>
      if w.win ≥ 6 ∨ w.off + size > s.windowSize c w.win then .trap Cause.fatalMemory
      else if (w.win = 0 ∨ w.win = 1 ∨ w.win = 3 ∨ w.win = 4) ∧ (size < 4 ∨ 16 < size ∨ w.off % size ≠ 0) then
        .trap Cause.alignment
      else if s.windowPoisoned w c size && !q.write then .trap Cause.fatalMemory
      else .ok { leaf := l, asid, va, pa, home := die, place }
  | p =>
    if s.poisoned pa size && (q.atomic || !q.write) then .trap Cause.fatalMemory
    else .ok { leaf := l, asid, va, pa, home := s.homeDie die asid va l, place := p }

/-- Checks 4 to 7 of R150, with what the XC does to the leaf on the way. -/
def State.check (s : State) (die : Nat) (asid : BitVec 16) (ea : Dword) (size : Nat) (q : Ask) : State × Found :=
  if ea.getLsbD 56 then
    let t := bitsNat ea 55 47
    (s, if s.routed t then .remote t else .trap Cause.protection)
  else
  let asid := spaceOf asid ea
  let va := bitsNat ea 56 0
  match s.leafFor die asid va q.policy q.again with
  | (s, .fault m) => (s, .park m)
  | (s, .leaf l) =>
    if l.fwd ∧ !l.fwdPool then
      -- as a domain-window access (R101), so that a target without a path is refused (R95)
      let t := bitsNat l.bits 24 16
      (s, if s.routed t then .remote t else .trap Cause.protection)
    else
      let window := s.place (s.physical die asid va l) = .window
      if q.fetch ∧ !l.x then (s, .trap Cause.protection)
      else if (q.write ∨ q.atomic) ∧ l.kvm ∧ !q.kvm then (s, .trap Cause.protection)
      else if q.atomic ∧ (l.cls = 3 ∨ window) then (s, .trap Cause.protection)
      else if (q.write ∨ q.atomic) ∧ !(((s.l2Hit die asid va).map L2Line.writeReady).getD false) then
        match s.makeDirty die asid va with
        | (s, .fault m) => (s, .park m)
        | (s, .leaf l) =>
          (s, if !l.w then .trap Cause.protection else s.checkPlace die asid ea size q l)
      else (s, s.checkPlace die asid ea size q l)

end Sys2Proof.Machine
end

