-- ==== Sys2Proof/Machine/Regions.lean ====
section
/-! DEFINITION. Forwarding atomic regions (R209 to R211, R228 to R239): instances, versions, the dependence graph,
commit and abort. -/

namespace Sys2Proof.Machine

/-- An instance: a die (true) or a core (false), and its number (R229). -/
abbrev InstRef := Bool × Nat

/-- The regions of an instance. -/
def State.inst (s : State) (r : InstRef) : FarInst := if r.1 then s.farDie.get {} r.2 else (s.core r.2).far

/-- The state with an instance replaced. -/
def State.setInst (s : State) (r : InstRef) (i : FarInst) : State :=
  if r.1 then { s with farDie := s.farDie.set r.2 i } else s.modCore r.2 fun k => { k with far := i }

/-- The instance that a region of a core belongs to. -/
def instOf (core : Nat) (dieScope : Bool) : InstRef := (dieScope, if dieScope then dieOf core else core)

/-- A region is open: STATE 1 or 2 (R228). -/
def Thread.inRegion (t : Thread) : Bool := t.far.state = 1 || t.far.state = 2

/-- Slots of an instance (R229). -/
def slotCount (dieScope : Bool) : Nat := if dieScope then 256 else 64

/-- Lines a region may write before it continues irrevocably (R233). -/
def lineLimit (dieScope : Bool) : Nat := if dieScope then 4096 else 512

/-- The region with an order number in an instance, with its slot. -/
def FarInst.byOrder (i : FarInst) (order : Nat) : Option (Nat × Region) :=
  List.find? (fun x => x.2.order = order) i.regions

/-- The order number of the region in a slot. -/
def FarInst.orderOf (i : FarInst) (slot : Nat) : Nat := ((i.regions.find? slot).map Region.order).getD 0

/-- No uncommitted region of the instance is older (R233, R234). -/
def FarInst.oldest (i : FarInst) (order : Nat) : Bool := i.regions.all fun x => order ≤ x.2.order

/-- %FAR_STATUS (R228). -/
def FarStatus.word (f : FarStatus) : Dword :=
  BitVec.ofNat 64 (f.order.toNat * 2 ^ 32 + f.cause.toNat * 2 ^ 20 + f.dieScope.toNat * 2 ^ 19 +
    f.irrev.toNat * 2 ^ 18 + f.fwdIn.toNat * 2 ^ 17 + f.slot % 256 * 2 ^ 8 + f.state % 8)

/-! ## Commit -/

/-- Queued accesses and loads of a region become ordinary ones, or stay as they are. -/
def State.retag (s : State) (core place lane : Nat) (old : Bool × Nat) : State :=
  let fixLoad (r : LoadReq) : LoadReq :=
    if r.place = place ∧ r.lane = lane ∧ r.region = some old then { r with region := none } else r
  let fixAcc (a : SqAcc) : SqAcc :=
    if a.lane = lane ∧ a.region = some old then { a with region := none } else a
  let s := s.modCore core fun k => { k with loads := k.loads.map fixLoad }
  s.modGroup core place fun g => { g with sq := g.sq.map fun u => { u with accs := u.accs.map fixAcc } }

/-- The versions of a slot become the committed values (R210). -/
def State.publish (s : State) (i : FarInst) (slot : Nat) : State :=
  let vs := i.versions.filter fun v => v.slot = slot
  let hit := (vs.flatMap fun v => v.bytes.flatMap fun b => s.recordsAt (v.pa + b.1) 1).eraseDups
  (vs.foldl (fun s v => v.bytes.foldl (fun s b => s.agentWriteLine (v.pa + b.1) [b.2]) s) s).afterRecords hit
    (hit.filter s.recordLocked)

/-- A slot is forgotten by the instance: its versions and reads go, and it is no source any more. -/
def FarInst.drop (i : FarInst) (slot : Nat) : FarInst :=
  { i with
    regions := (i.regions.erase slot).mapVals fun _ r => { r with sources := r.sources.filter (· ≠ slot) }
    versions := i.versions.filter fun v => v.slot ≠ slot
    reads := (i.reads.filter fun x => x.slot ≠ slot).map fun x =>
      if x.src = some slot then { x with src := none } else x }

/-- A region commits: its versions become visible at once and its slot is freed (R210, R234). -/
def State.farCommit (s : State) (ref : InstRef) (slot : Nat) : State :=
  let i := s.inst ref
  match i.regions.find? slot with
  | none => s
  | some r =>
    let s := (s.publish i slot).setInst ref (i.drop slot)
    (s.retag r.core r.place r.lane (ref.1, r.order)).modThread r.core r.place r.lane fun t =>
      { t with far := { t.far with state := 3 } }

/-! ## Abort -/

/-- The slots whose regions have read, directly or through others, from the slots given (R232). -/
def FarInst.dependents (i : FarInst) (ss : List Nat) : Nat → List Nat
  | 0 => ss
  | f + 1 =>
    let more := i.regions.filterMap fun x =>
      if !ss.contains x.1 && x.2.sources.any ss.contains then some x.1 else none
    if more.isEmpty then ss else i.dependents (ss ++ more) f

/-- One region aborts (R235): what it has queued writes nothing, its thread abandons its wait, and waits for its loads
to land. -/
def State.farAbortOne (s : State) (ref : InstRef) (slot : Nat) (cause : BitVec 4) : State :=
  let i := s.inst ref
  match i.regions.find? slot with
  | none => s
  | some r =>
    let drop (a : SqAcc) : SqAcc :=
      if a.lane = r.lane ∧ a.region = some (ref.1, r.order) then { a with dropped := true } else a
    let s := (s.setInst ref (i.drop slot)).modGroup r.core r.place fun g =>
      { g with sq := g.sq.map fun u => { u with accs := u.accs.map drop } }
    s.modThread r.core r.place r.lane fun t =>
      { t with far := { t.far with state := 4, cause }, pos := { pc := t.farTarget, word := 0 },
               waits := [{ at_ := t.pos, kind := .landing }] }

/-- A region aborts, and every region that has read from it aborts with cause 2 (R232, R235). -/
def State.farAbort (s : State) (ref : InstRef) (slot : Nat) (cause : BitVec 4) : State :=
  let i := s.inst ref
  let all := i.dependents [slot] (i.regions.length + 1)
  all.foldl (fun s k => s.farAbortOne ref k (if k = slot then cause else 2)) s

/-- The region of a thread ends for a trap or an illegal operation: an irrevocable one commits with what it has
performed, any other aborts with cause 5 (R237). -/
def State.farTrap (s : State) (core place lane : Nat) : State :=
  let t := s.thread core place lane
  if !t.inRegion then s
  else
    let ref := instOf core t.far.dieScope
    if t.far.irrev then s.farCommit ref t.far.slot
    else (s.farAbort ref t.far.slot 5).modThread core place lane fun t => { t with waits := [] }

/-! ## Reads and writes of a region -/

/-- The uncommitted region, not irrevocable, that an access belongs to: its instance and slot. -/
def State.regionOf (s : State) (core : Nat) (r : Option (Bool × Nat)) : Option (InstRef × Nat × Region) :=
  match r with
  | none => none
  | some (d, order) =>
    match (s.inst (instOf core d)).byOrder order with
    | some (slot, g) => some (instOf core d, slot, g)
    | none => none

/-- The versions of a line that a region's read sees, oldest first, its own last (R230, log 23). -/
def FarInst.visible (i : FarInst) (slot order : Nat) (asid : BitVec 16) (line : BitVec 51) : List FarVersion :=
  sortBy (fun v => i.orderOf v.slot)
    (i.versions.filter fun v => v.asid = asid ∧ v.line = line ∧ (v.slot = slot ∨ i.orderOf v.slot < order))

/-- The committed bytes of a range of a line with the versions' bytes over them. -/
def overlay (vs : List FarVersion) (o : Nat) (bs : List Byte) : List Byte :=
  bs.zipIdx.map fun b => vs.foldl (fun x v => (v.bytes.find? (o + b.2)).getD x) b.1

/-- What a read of a line comes from, each source once: the newest visible version of the line, and for each byte the
newest one that holds it, or none for the committed value (R230, R231, log 23). -/
def FarInst.sourcesOf (i : FarInst) (slot order : Nat) (asid : BitVec 16) (line : BitVec 51) (o n : Nat) :
    List (Option Nat) :=
  let vs := i.visible slot order asid line
  let newest := (vs.getLast?.map fun v => some v.slot).toList
  (newest ++ (List.range n).map fun k =>
    vs.foldl (fun x v => if (v.bytes.find? (o + k)).isSome then some v.slot else x) none).eraseDups

/-- The slots of other regions among the sources of a read: its forward edges (R231). -/
def forwardEdges (slot : Nat) (srcs : List (Option Nat)) : List Nat := srcs.filterMap fun x => x.filter (· ≠ slot)

/-- The cascade depth of a region: 0 when it has read no forwarded value, else one more than the largest of its sources
(R232). -/
def FarInst.depth (i : FarInst) : Nat → Nat → Nat
  | 0, _ => 0
  | f + 1, slot =>
    (((i.regions.find? slot).map Region.sources).getD []).foldl (fun d k => max d (i.depth f k + 1)) 0

/-- The instance with the forward edges of a read added. -/
def FarInst.addSources (i : FarInst) (slot : Nat) (ss : List Nat) : FarInst :=
  { i with regions := i.regions.mapVals fun k r =>
      if k = slot then { r with sources := ss ++ r.sources.filter fun k => !ss.contains k, waiting := false } else r }

/-- A read would forward and make the depth of its region, or of one that has read from it, exceed 4 (R232, log 23). -/
def FarInst.tooDeep (i : FarInst) (slot : Nat) (srcs : List (Option Nat)) : Bool :=
  let ss := forwardEdges slot srcs
  let i' := i.addSources slot ss
  !ss.isEmpty && i'.regions.any fun x => decide (4 < i'.depth (i'.regions.length + 1) x.1)

/-- A region's read of a line is recorded: the forward edges and what was returned (R228, R231). -/
def State.farRead (s : State) (ref : InstRef) (slot : Nat) (asid : BitVec 16) (line : BitVec 51)
    (srcs : List (Option Nat)) : State :=
  let i := s.inst ref
  match i.regions.find? slot with
  | none => s
  | some r =>
    let ss := forwardEdges slot srcs
    let s := s.setInst ref { i.addSources slot ss with
      reads := (srcs.map fun src => { slot, asid, line, src }) ++ i.reads }
    if ss.isEmpty then s
    else s.modThread r.core r.place r.lane fun t => { t with far := { t.far with fwdIn := true } }

/-- Later regions that have read a line without the write a region is making now: they abort with cause 1
(R231); an irrevocable writer aborts only readers of the committed value (R233). -/
def FarInst.antiDep (i : FarInst) (slot order : Nat) (irrev : Bool) (asid : BitVec 16) (line : BitVec 51) :
    List Nat :=
  (i.reads.filter fun x =>
    x.slot != slot && x.asid = asid && x.line = line && decide (order < i.orderOf x.slot) &&
    (match x.src with
     | none => true
     | some w => !irrev && w != x.slot && decide (i.orderOf w < order) && w != slot)).map FarRead.slot

/-- The slots of a list abort with cause 1. -/
def State.abortAll (s : State) (ref : InstRef) (ss : List Nat) : State :=
  ss.foldl (fun s k => s.farAbort ref k 1) s

/-- A region writes bytes of a line: its version is created or updated (R230, R231). -/
def State.farWrite (s : State) (ref : InstRef) (slot : Nat) (asid : BitVec 16) (line : BitVec 51) (pa o : Nat)
    (bs : List Byte) : State :=
  let i := s.inst ref
  match i.regions.find? slot with
  | none => s
  | some r =>
    let put (t : Tab Byte) : Tab Byte := bs.zipIdx.foldl (fun t b => t.set (o + b.2) b.1) t
    let vs := if i.versions.any fun v => v.slot = slot ∧ v.asid = asid ∧ v.line = line then
        i.versions.map fun v =>
          if v.slot = slot ∧ v.asid = asid ∧ v.line = line then { v with bytes := put v.bytes } else v
      else { slot, asid, line, pa, bytes := put [] } :: i.versions
    (s.setInst ref { i with versions := vs }).abortAll ref (i.antiDep slot r.order false asid line)

/-- Lines that a region has written (R233). -/
def FarInst.lines (i : FarInst) (slot : Nat) : Nat := (i.versions.filter fun v => v.slot = slot).length

/-- A thread by its core, place and lane. -/
abbrev ThreadRef := Nat × Nat × Nat

/-- The region that a slot holds continues irrevocably, and is the thread's (R233). -/
def FarInst.irrevOf (i : FarInst) (slot : Nat) (who : Option ThreadRef) : Bool :=
  (i.regions.find? slot).any fun r => r.irrev && who = some (r.core, r.place, r.lane)

/-- An uncommitted region holds a line against an access that does not belong to it: it has written the line, or
has read it and the access writes (R210, R238). What the thread of an irrevocable region has accesses done for is done
directly (R233). -/
def FarInst.holds (i : FarInst) (asid : BitVec 16) (line : BitVec 51) (write : Bool) (who : Option ThreadRef := none) :
    Bool :=
  (i.versions.any fun v => v.asid = asid && v.line = line) ||
  (write && i.reads.any fun x => x.asid = asid && x.line = line && !i.irrevOf x.slot who)

/-- The access is held by a region of an instance it does not take part in, that of its own region being `own` (R210,
R238). -/
def State.farHeld (s : State) (own : Option InstRef) (asid : BitVec 16) (line : BitVec 51) (write : Bool)
    (who : Option ThreadRef := none) : Bool :=
  (s.cores.any fun k => own ≠ some (false, k.1) && k.2.far.holds asid line write who) ||
  (s.farDie.any fun d => own ≠ some (true, d.1) && d.2.holds asid line write who)

/-- A line that an irrevocable region has accessed: the writes of others wait (R210, R233, log 85). -/
def FarInst.hold (i : FarInst) (slot : Nat) (asid : BitVec 16) (line : BitVec 51) : FarInst :=
  let r : FarRead := { slot, asid, line, src := none }
  { i with reads := if i.reads.contains r then i.reads else r :: i.reads }

/-- An access on which regions cannot speculate (R102, R233). -/
def Loc.unspeculable (l : Loc) : Bool := l.place = .pool || l.place = .window || 2 ≤ l.leaf.cls

/-- A region continues irrevocably: its versions are published, and it keeps its place and its hold on the lines that it
has accessed (R210, R233, log 85). -/
def State.farIrrevocable (s : State) (ref : InstRef) (slot : Nat) : State :=
  let i := s.inst ref
  match i.regions.find? slot with
  | none => s
  | some r =>
    let i' := (i.versions.filter fun v => v.slot = slot).foldl (fun i v => i.hold slot v.asid v.line) { i with
      regions := i.regions.set slot { r with irrev := true, waiting := false }
      versions := i.versions.filter fun v => v.slot ≠ slot
      reads := i.reads.map fun x => if x.src = some slot then { x with src := none } else x }
    ((s.publish i slot).setInst ref i').modThread r.core r.place r.lane fun t =>
      { t with far := { t.far with irrev := true },
               waits := t.waits.filter fun w => w.kind ≠ .irrevocable }

end Sys2Proof.Machine
end

