-- ==== Sys2Proof/Machine/Save.lean ====
section
/-! DEFINITION. Context images: saving a workgroup as a user image or a full image, and putting an image back onto
a core (R330 to R334). -/

namespace Sys2Proof.Machine

/-- The geometry word of the part (R334). -/
def geometryWord : Nat := 0x0120400822408000

/-- The context area's base and size in bytes (R317). -/
def State.ctxBase (s : State) : Nat := bitsNat s.htsCtx 51 12 * 4096
def State.ctxSize (s : State) : Nat := bitsNat s.htsCtxsz 31 0 * 65536

/-- Bytes of the images of a workgroup of a launch; the manual gives no layout (log 14). -/
def Header.fullBytes (h : Header) : Nat :=
  64 + h.groups * (h.vregs * 128 + 32 * 8 + 32 * 96 + 512) + h.slots * 9280 + h.tiles * 16384 +
  carveBytes h.scratch
def Header.userBytes (h : Header) : Nat := 64 + h.groups * (32 * 8 + 32 * 96 + 512)

/-- 64 KiB units that bytes take. -/
def unitsOf (n : Nat) : Nat := (n + 65535) / 65536

/-- The lowest free run of units of the context area, as a unit number; images never overlap (R332). -/
def State.ctxFree (s : State) (units : Nat) : Option Nat :=
  let total := s.ctxSize / 65536
  let busy (u : Nat) : Bool := s.images.any fun x =>
    let i := x.2
    let n := unitsOf (if i.fullImage then (s.launch i.task).hdr.fullBytes else (s.launch i.task).hdr.userBytes)
    let b := (i.addr - s.ctxBase) / 65536
    s.ctxBase ≤ i.addr && b ≤ u && u < b + n
  (List.range (total + 1 - units)).find? fun u => (List.range units).all fun k => !busy (u + k)

/-- A workgroup's group places become free; what its store queues still hold keeps draining (R332). -/
def State.freeWg (s : State) (w : Nat) : State :=
  let x := s.wg w
  s.modCore x.core fun k => { k with groups := k.groups.mapVals fun _ g =>
    if g.present ∧ g.wg = w then { wg := g.wg, index := g.index, sq := g.sq, rb := g.rb } else g }

/-- The resident groups of a workgroup, by their index. -/
def State.wgGroups (s : State) (w : Nat) : Tab Group :=
  ((s.core (s.wg w).core).groups.filter fun x => x.2.present ∧ x.2.wg = w).map fun x => (x.2.index, x.2)

/-- Places of a workgroup's groups. -/
def State.wgPlaces (s : State) (w : Nat) : List Nat :=
  ((s.core (s.wg w).core).groups.filter fun x => x.2.present ∧ x.2.wg = w).map Prod.fst

/-- What a user image holds of a thread (R330). -/
def Thread.user (t : Thread) : Thread :=
  { present := t.present, ended := t.ended, p := t.p, trapCause := t.trapCause, trapPc := t.trapPc,
    trapWord := t.trapWord, trapAddr := t.trapAddr, trapRes := t.trapRes, trapUnit := t.trapUnit, far := t.far,
    farTarget := t.farTarget, pending := t.pending, detSeq := t.detSeq, flushed := t.flushed, seen := t.seen }

/-- What a user image holds of a group (R330). -/
def Group.user (g : Group) (sregs : Nat) : Group :=
  { wg := g.wg, index := g.index, s := g.s.filter fun x => x.1 < sregs, q := g.q, m := g.m, arrived := g.arrived,
    copyTags := g.copyTags, matrixTags := g.matrixTags, collTags := g.collTags, ropePart := g.ropePart, busyS := g.busyS,
    lanes := g.lanes.mapVals fun _ t => t.user }

/-- Loads of a workgroup that wait. -/
def State.wgLoads (s : State) (w : Nat) : List LoadReq :=
  let ps := s.wgPlaces w
  (s.core (s.wg w).core).loads.filter fun r => ps.contains r.place

/-- Loads are abandoned, and a line that only served such loads goes (R122, R250). -/
def Core.dropWhere (k : Core) (p : LoadReq → Bool) : Core :=
  let loads := k.loads.filter fun r => !p r
  { k with loads, l1 := k.l1.filter fun x => x.2.st ≠ .isDI || loads.any fun r => x.2.serve.contains r.id }

/-- Loads of a workgroup taken away from its core. -/
def State.dropLoads (s : State) (w : Nat) : State :=
  let ps := s.wgPlaces w
  s.modCore (s.wg w).core fun k => k.dropWhere fun r => ps.contains r.place

/-- A load that writes a uniform register. -/
def LoadDest.uniform : LoadDest → Bool
  | .uni _ _ => true
  | _ => false

/-- Every live thread of a workgroup has executed YDONE (R330). -/
def State.allYdone (s : State) (w : Nat) : Bool :=
  (s.wgGroups w).all fun g => g.2.lanes.all fun t =>
    !t.2.live || t.2.waits.any fun x => x.kind = .ydone

/-- A product of the workgroup is in its core's matrix queue, or runs (R276, R283). -/
def State.wgMma (s : State) (w : Nat) : Bool := (s.core (s.wg w).core).mq.any fun j => j.wg = w

/-- USER_IMAGE_SAVE: the user image is written and the workgroup's resources are freed, once every live thread is
done, its MMAs have completed and no load into a uniform register is outstanding (R283, R330, R333). -/
def State.trySaveUser (s : State) (w : Nat) : State :=
  let x := s.wg w
  if x.st ≠ .running ∨ x.preempt.isNone ∨ !s.allYdone w ∨ s.wgMma w ∨
      (s.wgLoads w).any (fun r => r.dest.uniform) then s
  else
    let h := (s.launch x.task).hdr
    match s.ctxFree (unitsOf h.userBytes) with
    | none => s
    | some u =>
      let img : Image := { wg := w, task := x.task, fullImage := false, addr := u * 65536 + s.ctxBase, core := x.core,
                           groups := (s.wgGroups w).mapVals fun _ g => g.user h.sregs }
      let s := { s with images := s.images.set s.nextId img, nextId := s.nextId + 1 }
      ((s.dropLoads w).freeWg w).modWg w fun x => { x with st := .saved, preempt := none }

/-- A wait as a full image holds it, where the thread continues exactly where it stopped (R331). A fetch and a read of a
POLL are made again after the restore; the wait for the forced save itself and that of a YDONE are over. -/
def Waiting.keep (w : Waiting) : Option Waiting :=
  match w.kind with
  | .ydone | .forcedSave | .fetch _ => none
  | .poll a due b => some { w with kind := .poll { a with park := none, remote := none, read := none, seen := none } due b }
  | _ => some w

/-- A thread as a full image holds it: it continues where it stopped, one whose YDONE is done after it (R331). -/
def Thread.full (t : Thread) : Thread := { t with preempt := false, waits := t.waits.filterMap Waiting.keep }

/-- A full image of a workgroup at an address, with its loads, slots and tiles, and a copy of the carve-out
(R331, R333). The geometry word is written at its start (R334). -/
def State.saveFull (s : State) (w addr : Nat) (carve : Bool) : State :=
  let x := s.wg w
  let h := (s.launch x.task).hdr
  let k := s.core x.core
  let img : Image :=
    { wg := w, task := x.task, fullImage := true, addr, core := x.core,
      groups := (s.wgGroups w).mapVals fun _ g => { g with sq := [], lanes := g.lanes.mapVals fun _ t => t.full },
      loads := s.wgLoads w,
      slots := k.slots.filter fun y => x.slotBase ≤ y.1 ∧ y.1 < x.slotBase + h.slots,
      tiles := k.tiles.filter fun y => x.tileBase ≤ y.1 ∧ y.1 < x.tileBase + h.tiles,
      carve := if carve ∧ k.carve ≠ 0 then some (k.carve, k.spad, k.full) else none }
  let s := { s with images := s.images.set s.nextId img, nextId := s.nextId + 1 }
  let s := s.agentWrite addr (leBytes 8 geometryWord)
  ((s.dropLoads w).freeWg w).modWg w fun x => { x with st := .saved, preempt := none }

/-- A full image of a workgroup in the context area (R331, R332); without room there the workgroup stays. -/
def State.forcedSave (s : State) (w : Nat) (carve : Bool) : State :=
  match s.ctxFree (unitsOf (s.launch (s.wg w).task).hdr.fullBytes) with
  | some u => s.saveFull w (u * 65536 + s.ctxBase) carve
  | none => s

/-- A uniform register that a restore leaves undefined holds a free value (R330, log 5). -/
def State.freeUniforms (s : State) (core place sregs : Nat) : State :=
  (List.range (32 - sregs)).foldl (fun s i =>
    (s.modGroup core place fun g => g.ws (sregs + i) (Config.freeDword s.free)).draw) s

/-- A thread of a user image enters PREEMPT again with %TRAP_ADDR = 1 (R330). -/
def Thread.reenter (t : Thread) (entry : Dword) (clock : Nat) : Thread :=
  if t.live then { t with handler := .restore, trapAddr := 1, pos := { pc := entry, word := 0 }, since := clock }
  else t

/-- Where a workgroup goes: its places in order of its groups, its slots and its tiles. -/
structure Spot where
  base : Nat
  place : Nat
  places : List Nat
  rbs : List Nat
  slotBase : Nat
  tileBase : Nat
  deriving DecidableEq, Repr

/-- An image is put onto a core (R330, R331): its groups, loads, slots and tiles, and the threads continue. -/
def State.putImage (s : State) (i : Image) (core : Nat) (spot : Spot) : State :=
  let l := s.launch i.task
  let h := l.hdr
  let entry : Dword := h.entryAt h.preempt
  let placeOf (j : Nat) : Nat := spot.places.getD j 0
  let old := s.wg i.wg
  let wake (t : Thread) : Thread :=
    if i.fullImage then { t with since := s.clock, handler := if t.handler = .preempt then .restore else t.handler } else t.reenter entry s.clock
  let put (k : Core) (x : Nat × Group) : Core :=
    { k.heldRows (placeOf x.1) (spot.rbs.getD x.1 0) h.vregs with groups := k.groups.set (placeOf x.1) { x.2 with
      present := true, wg := i.wg, index := x.1, rb := spot.rbs.getD x.1 0, active := false, ready := false, parked := false,
      waited := 0, lastIssue := s.clock,
      lanes := x.2.lanes.mapVals fun _ t => wake t, sq := ((k.groups.get {} (placeOf x.1)).sq) } }
  let oldPlace (p : Nat) : Nat := (old.places.findIdx? (· = p)).getD 0
  let move (r : LoadReq) : LoadReq := { r with place := placeOf (oldPlace r.place) }
  let shift (b b' : Nat) {α : Type} (t : Tab α) : Tab α := t.map fun x => (x.1 - b + b', x.2)
  let s := s.modCore core fun k =>
    let k := i.groups.foldl put (k.clearShare spot.slotBase h.slots spot.tileBase h.tiles)
    { k with
    loads := k.loads ++ i.loads.map move
    slots := (shift old.slotBase spot.slotBase i.slots).foldl (fun t x => t.set x.1 x.2) k.slots
    tiles := (shift old.tileBase spot.tileBase i.tiles).foldl (fun t x => t.set x.1 x.2) k.tiles
    code := [] }
  let s := s.modWg i.wg fun w => { w with
    st := .running, core, base := spot.base, place := spot.place, places := spot.places,
    slotBase := spot.slotBase, tileBase := spot.tileBase, preempt := none }
  let s := { s with ops := s.ops.map fun o =>
    if o.wg = i.wg then { o with core, place := placeOf o.grp } else o }
  i.groups.foldl (fun s x => s.freeUniforms core (placeOf x.1) h.sregs) s

end Sys2Proof.Machine
end

