-- ==== Sys2Proof/Machine/Ops.lean ====
section
/-! DEFINITION. The operations the meanings share: the executing threads of a unit and their registers (R112 to
R115), the end of a unit and of its chain (R49 to R52), convergence and barriers (R29, R128), the end of threads and
launches (R11), and taking a trap and returning from it (R118 to R120). -/

namespace Sys2Proof.Machine

/-- What a step answers. -/
abbrev Out := Host.Outcome State Fault Refusal

/-! ## The executing threads and their registers -/

/-- The group of the chain as it is now. -/
def State.here (s : State) : Group := s.group s.cur.core s.cur.place

/-- The group of the chain changed. -/
def State.onHere (s : State) (f : Group → Group) : State := s.modGroup s.cur.core s.cur.place f

/-- A lane passes the unit's GUARD (R55). -/
def Cur.passes (c : Cur) (l : Nat) : Bool :=
  match c.pfx.guard with
  | none => true
  | some (n, p) => c.rd.rp l p = n

/-- The executing threads E, by lane (R112). -/
def State.E (s : State) : List Nat :=
  (s.cur.lanes.filter s.cur.passes).filter fun l => !s.cur.barred.contains l

/-- Every lane of E changes the group, in ascending lane order. -/
def State.lanesDo (s : State) (f : Group → Nat → Group) : State := s.onHere fun g => s.E.foldl f g

/-- Every lane of E writes v(d). -/
def State.vset (s : State) (d : Nat) (f : Nat → Word) : State := s.lanesDo fun g l => g.wv l d (f l)

/-- Every lane of E writes the pair v(d). -/
def State.vset64 (s : State) (d : Nat) (f : Nat → Dword) : State := s.lanesDo fun g l => g.wv64 l d (f l)

/-- Every lane of E writes p(d). -/
def State.pset (s : State) (d : Nat) (f : Nat → Bool) : State := s.lanesDo fun g l => g.wp l d (f l)

/-- A once-per-unit effect: none when E is empty (R113). -/
def State.once (s : State) (f : State → State) : State := if s.E.isEmpty then s else f s

/-- A once-per-unit write of s(d). -/
def State.sset (s : State) (d : Nat) (x : Dword) : State := s.once fun s => s.onHere fun g => g.ws d x

/-! ## The unit being executed -/

/-- The word of the instruction being executed. -/
def State.curWord (s : State) : Word := s.cur.words.getD s.cur.next 0

/-- Index of the unit's first word: its first prefix, or the instruction word. -/
def Cur.unitFirst (c : Cur) : Nat := c.pfx.first.getD c.next

/-- The unit after a word of a packet (R47, R49). -/
def unitAfter (pc : Dword) (word : Nat) : Pos :=
  if word + 1 < 3 then { pc, word := word + 1 } else { pc := nextPacket pc, word := 0 }

/-- The unit after the chain (R49, R120). -/
def State.chainRes (s : State) : Pos := unitAfter s.cur.pc s.cur.last

/-- Where the unit stands. -/
def State.unitPos (s : State) : Pos := { pc := s.cur.pc, word := s.cur.unitFirst }

/-- The address of the unit's first word (R120). -/
def State.unitAddr (s : State) : Dword := s.cur.pc + BitVec.ofNat 64 (4 * s.cur.unitFirst)

/-- A lane's chain gains an effect that is taken when the chain ends. -/
def State.effect (s : State) (l : Nat) (e : Effect) : State :=
  { s with cur := { s.cur with effects := s.cur.effects ++ [(l, e)] } }

/-- A lane raises a trap (R52, R120). -/
def State.raise (s : State) (l cause : Nat) (addr : Dword) : State :=
  s.effect l (.trap { cause, word := s.curWord, addr, unit := s.unitAddr })

/-- A lane waits after the chain (R22, R128). -/
def State.wait (s : State) (l : Nat) (w : Wait) : State := s.effect l (.wait w s.unitPos)

/-- An effect for each lane of E. -/
def State.each (s : State) (f : State → Nat → State) : State := s.E.foldl f s

/-- The launch of the chain's threads. -/
def State.curLaunch (s : State) : Launch := s.launchOf s.cur.core s.cur.place

/-- The packet index of the chain's packet (R47). -/
def State.pi (s : State) : Word :=
  BitVec.ofNat 32 (packetIndex (s.curLaunch.hdr.code % 2 ^ 57) (s.cur.pc.toNat % 2 ^ 57))

/-- The address of a packet index of the launch (R47, R48). -/
def State.target (s : State) (pi : Word) : Dword := packetAddr s.curLaunch.hdr.code pi.toNat

/-! ## Convergence (R29) -/

/-- RELEASE_CHECK of m(k): the waiting threads continue when the arrival set covers the mask (R29). -/
def Group.releaseCheck (g : Group) (k : Nat) : Group :=
  let a := g.arrived.get 0 k
  if a ≠ 0 ∧ g.rm k &&& ~~~ a = 0 then
    { g with arrived := g.arrived.erase k,
             lanes := g.lanes.mapVals fun l t =>
               if a.getLsbD l then { t with waits := t.waits.filter fun w => w.kind ≠ .waitm k } else t }
  else g

/-- RELEASE_CHECK of every mask that threads wait on. -/
def Group.releaseAll (g : Group) : Group := g.arrived.keys.foldl Group.releaseCheck g

/-- The masks that a thread leaves when it ends (R11). -/
def Group.leaveAll (g : Group) (l : Nat) : Group :=
  { g with m := g.m.mapVals fun _ x => x &&& ~~~ BitVec.ofNat 32 (2 ^ l),
           arrived := g.arrived.mapVals fun _ x => x &&& ~~~ BitVec.ofNat 32 (2 ^ l) }

/-! ## Barriers (R15, R33, R128) -/

/-- Workgroups of a level-k set share this number: fields k+1 to 5 (R15). -/
def Header.levelOf (h : Header) (k number : Nat) : Nat :=
  number / ((List.range k).foldl (fun t j => t * h.extent (j + 1)) 1)

/-- The workgroups of a task that belong to one place of a level, those that have ended among them (R15, R32). -/
def State.levelAll (s : State) (task level number : Nat) : List Nat :=
  let h := (s.launch task).hdr
  (s.wgs.filter fun x => x.2.task = task ∧ h.levelOf level x.2.number = h.levelOf level number).map Prod.fst

/-- Those of them whose threads a barrier of the level counts. -/
def State.levelSet (s : State) (task level number : Nat) : List Nat :=
  (s.levelAll task level number).filter fun w => (s.wg w).st = .running || (s.wg w).st = .saved

/-- A wait for the thread's own earlier accesses (R199, R205). -/
def Wait.isFence : Wait → Bool
  | .fence _ => true
  | _ => false

/-- The thread has arrived: it waits for the kind given, and its earlier accesses have performed (R205). -/
def Thread.arrivedAt (t : Thread) (k : Wait) : Bool :=
  t.waits.any (fun x => x.kind = k) && !t.waits.any fun x => x.kind.isFence

/-- What is queued for the places of a workgroup has performed, and its loads; those of its ended threads stay there (R11,
R122, R205). -/
def State.wgStored (s : State) (w : Nat) : Bool :=
  s.cores.all fun k => k.2.groups.all fun g => g.2.wg ≠ w ||
    (g.2.sq.all fun u => u.accs.all SqAcc.done) && k.2.loads.all fun r => r.place ≠ g.1 || r.dest.isTile

/-- Every live thread of the workgroups has arrived at the kind given. -/
def State.allWait (s : State) (ws : List Nat) (k : Wait) : Bool :=
  ws.all (fun w => (s.wg w).st = .running && s.wgStored w) &&
  (ws.flatMap fun w => (s.wgGroups w).flatMap fun g => g.2.lanes.filterMap fun t =>
    if t.2.live then some (t.2.arrivedAt k) else none).all id

/-- The threads of the workgroups no longer wait for the kind given. -/
def State.release (s : State) (ws : List Nat) (k : Wait) : State :=
  ws.foldl (fun s w =>
    s.modCore (s.wg w).core fun c => { c with groups := c.groups.mapVals fun _ g =>
      if g.present ∧ g.wg = w then
        { g with lanes := g.lanes.mapVals fun _ t => { t with waits := t.waits.filter fun x => x.kind ≠ k } }
      else g }) s

/-- A level's barrier completes when every live thread of its set has arrived (R128), and what those that have ended
left queued has performed (R205). -/
def State.barrierCheck (s : State) (w level : Nat) : State :=
  let x := s.wg w
  let ws := s.levelSet x.task level x.number
  if s.allWait ws (.barrier level) ∧ (s.levelAll x.task level x.number).all s.wgStored then
    s.release ws (.barrier level) else s

/-- Every running thread of the launch is held at its STEP barrier (R33). -/
def State.stepHeld (s : State) (task : Nat) : Bool :=
  let ws := (s.wgs.filter fun x => x.2.task = task ∧ (x.2.st = .running ∨ x.2.st = .saved)).map Prod.fst
  s.allWait ws .step && (s.wgs.all fun x => x.2.task ≠ task || s.wgStored x.1) &&
    ws.any fun w => (s.wgGroups w).any fun g => g.2.lanes.any fun t => t.2.waits.any fun x => x.kind = .step

/-- STEP_BARRIER_COMPLETE: %STEPC rises and the barrier releases (R33). -/
def State.stepComplete (s : State) (task : Nat) : State :=
  let ws := (s.wgs.filter fun x => x.2.task = task ∧ x.2.st = .running).map Prod.fst
  (s.release ws .step).modLaunch task fun l => { l with stepc := l.stepc + 1 }

/-- A launch whose die set may change (R32). -/
def Launch.elastic (l : Launch) : Bool := l.hdr.minDies ≠ l.hdr.maxDies

/-- The STEP barrier completes at once, but for an elastic launch, where the HTS first decides on the die set. -/
def State.stepCheck (s : State) (task : Nat) : State :=
  if s.stepHeld task ∧ !(s.launch task).elastic then s.stepComplete task else s

/-! ## The end of threads, workgroups and launches (R11) -/

/-- Every thread of a workgroup has ended. -/
def State.wgEnded (s : State) (w : Nat) : Bool :=
  (s.wgGroups w).all fun g => g.2.lanes.all fun t => !t.2.live

/-- A workgroup ends when all its threads have; its places become free, unless its wave goes on (R11, R241). -/
def State.wgCheck (s : State) (w : Nat) : State :=
  let x := s.wg w
  if x.st = .running ∧ s.wgEnded w then
    let s := s.modWg w fun x => { x with st := .ended, preempt := none }
    if (s.launch x.task).hdr.det then s else s.freeWg w
  else s

/-- Loads into registers of a thread are abandoned, with the last thread of a group those into its uniform registers too
(R122, log 84). -/
def Core.dropLane (k : Core) (place lane : Nat) (last : Bool) : Core :=
  k.dropWhere fun r => r.place = place && (last || r.lane = lane && !r.dest.uniform)

/-- A thread ends (R11, R122). -/
def State.endThread (s : State) (core place lane : Nat) : State :=
  let s := s.modCore core fun k => k.dropLane place lane ((s.group core place).live.all fun l => l = lane)
  s.modGroup core place fun g =>
    (g.leaveAll lane).modThread lane fun t => { t with ended := true, waits := [], pending := [] }

/-- What arrivals and endings of a group's threads complete: masks, barriers, STEP, the pre-emption save and the
workgroup's end. -/
def State.settle (s : State) (core place : Nat) : State :=
  let w := (s.group core place).wg
  let task := (s.wg w).task
  let s := s.modGroup core place Group.releaseAll
  let s := (List.range 6).foldl (fun s k => s.barrierCheck w k) s
  ((s.stepCheck task).wgCheck w).trySaveUser w

/-- The lower-numbered of the statuses 1, 3 and 5 is kept, with its detail (R327). -/
def State.noteStatus (s : State) (task status detail cause2 : Nat) : State :=
  s.modLaunch task fun l =>
    if l.status = 0 ∨ l.status = 4 ∨ status < l.status then { l with status, detail, cause2 } else l

/-- The regions of a workgroup's threads are discarded when the launch is stopped. -/
def State.dropRegions (s : State) (w : Nat) : State :=
  let x := s.wg w
  (s.core x.core).groups.foldl (fun s g =>
    if g.2.wg = w then g.2.lanes.foldl (fun s t => s.farTrap x.core g.1 t.1) s else s) s

/-- A launch ends before its threads do: they stop, and what they issued drains (R118, R328). -/
def State.endLaunch (s : State) (task status detail cause2 : Nat) : State :=
  let s := s.noteStatus task status detail cause2
  let s := s.modLaunch task fun l => { l with stopped := true }
  let s := { s with images := s.images.filter fun x => x.2.task ≠ task }
  (s.wgs.filter fun x => x.2.task = task).foldl (fun s x =>
    if x.2.st = .running then
      let s := s.dropRegions x.1
      let s := ((s.dropLoads x.1).modCore x.2.core fun k => { k with groups := k.groups.mapVals fun _ g =>
        if g.present ∧ g.wg = x.1 then
          { g with lanes := g.lanes.mapVals fun _ t => { t with ended := true, waits := [], pending := [] } }
        else g })
      (s.freeWg x.1).modWg x.1 fun w => { w with st := .ended, preempt := none }
    else s.modWg x.1 fun w => { w with st := .ended, preempt := none }) s

/-! ## Counts of numeric events (R88 to R90) -/

/-- How many of the elements counted class k. -/
def evCount (es : List (BitVec 8)) (k : Nat) : Nat := (es.filter fun e => e.getLsbD k).length

/-- CNTk, THRk and ACTk of a core (R89). -/
def Core.cnt (c : Core) (k : Nat) : Nat := bitsNat c.numEvt (8 * k + 7) (8 * k)
def Core.thr (c : Core) (k : Nat) : Nat := bitsNat c.numThr (8 * k + 7) (8 * k)
def Core.act (c : Core) (k : Nat) : Bool := c.numWin.getLsbD (32 + k)

/-- The crossing's report to the host (R90, R376): a crossing over an unread one sets OVF. -/
def State.numi (s : State) (core k : Nat) : State :=
  let old := s.numiStat.getLsbD 63
  let w := 2 ^ 63 + (if old || s.numiStat.getLsbD 62 then 2 ^ 62 else 0) + dieOf core * 2 ^ 16 +
    core % 72 * 2 ^ 8 + k
  { s with numiStat := BitVec.ofNat 64 w }.raiseMsix 0

/-- n events of class k are counted at a core, saturating (R89). The answer says that the class's trap action
fires: the count exceeds the threshold for the first time in its window (R90). A threshold that software lowers below
the count is exceeded at the next count of the class (log 82). -/
def State.count (s : State) (core k n : Nat) : State × Bool :=
  if n = 0 then (s, false)
  else
    let c := s.core core
    let x := min 255 (c.cnt k + n)
    let fire := c.thr k < x && !c.fired.getLsbD k
    let s := s.setCore core { c with
      numEvt := putBits c.numEvt (8 * k + 7) (8 * k) x
      fired := if fire then c.fired ||| BitVec.ofNat 8 (2 ^ k) else c.fired }
    if fire && c.act k then (s.numi core k, false) else (s, fire)

/-! ## Snapshots (R375) -/

/-- The units beside the cores that the part has (R3). -/
def State.blockList (s : State) : List Block :=
  let on (n : Nat) (f : Nat → Nat → Block) : List Block := (List.range s.dies).flatMap fun d => (List.range n).map (f d)
  let text (f : Nat → Block) : List Block := if s.part = .mz9A then (List.range (2 * s.dies)).map f else []
  on 64 .slice ++ on 16 .xc ++ (if s.part = .mz9A then on 32 .hac else []) ++ on 2 .management ++
    (List.range s.dies).flatMap (fun d => [.badger d, .scraper d, .stencil d, .gatherer d]) ++
    text .tke ++ text .dke ++ text .port ++ (List.range s.coreCount).map .copy ++ [.collective, .hts]

/-- The snapshot registers of a unit. -/
def State.block (s : State) (b : Block) : SnapRegs := ((s.blocks.find? fun x => x.1 = b).map Prod.snd).getD {}

/-- Bits 3:0 of a SNAP_CTL written; CODE and the reserved bits stay (R375). -/
def snapCtlWrite (ctl x : Dword) : Dword := (ctl &&& ~~~0xF#64) ||| (x &&& 0xF#64)

/-- SNAP_CTL after a latch: disarmed, with the SNAP code (R375). -/
def snapCtlLatched (ctl : Dword) (code : Option Nat) : Dword := putBits (putBits ctl 0 0 0) 63 50 (code.getD 0)

/-- SNAP_CTL arms a trigger of a kind. -/
def snapArmed (ctl : Dword) (bit : Nat) : Bool := ctl.getLsbD 0 && ctl.getLsbD bit

/-- The registers of a unit latch, if they are armed. -/
def SnapRegs.latch (r : SnapRegs) (code : Option Nat) : SnapRegs :=
  if r.ctl.getLsbD 0 then { ctl := snapCtlLatched r.ctl code, seq := r.seq + 1, latched := some r.seq } else r

/-- An armed trigger of a kind (a bit of SNAP_CTL) latches the snapshot registers of every block together. -/
def State.shoot (s : State) (bit : Nat) (code : Option Nat) : State :=
  if (s.cores.any fun k => snapArmed k.2.snapCtl bit) || s.blocks.any fun b => snapArmed b.2.ctl bit then
    let live (k : Core) : Nat := (k.groups.map fun g => g.2.live.length).sum
    { s with
      blocks := s.blocks.map fun b => (b.1, b.2.latch code)
      cores := s.cores.mapVals fun _ k =>
        if k.snapCtl.getLsbD 0 then
          { k with snapshot := some (k.seq, live k), seq := k.seq + 1, landed := max k.landed k.seq,
                   snapCtl := snapCtlLatched k.snapCtl code }
        else k }
  else s

/-- What the TKEs have reserved (R358). -/
def State.reservations (s : State) : List TkeRes := s.ports.filterMap fun p => p.2.reserved

/-! ## Threads that may have been saved (R333) -/

/-- A thread of a workgroup's group changed wherever the group is: on its core, or in its image (R333). -/
def State.landThread (s : State) (core place lane : Nat) (f : Thread → Thread) : State :=
  let g := s.group core place
  if g.present then s.modThread core place lane f
  else
    { s with images := s.images.mapVals fun _ i =>
        if i.wg = g.wg then { i with groups := i.groups.set g.index ((i.groups.get {} g.index).modThread lane f) }
        else i }

/-- A returned value is written to the thread's registers wherever the thread is; a user image holds no vector register,
and discards it (R330, R333). -/
def State.landValue (s : State) (core place lane : Nat) (f : Thread → Thread) : State :=
  let g := s.group core place
  if g.present then s.modThread core place lane f
  else
    { s with images := s.images.mapVals fun _ i =>
        if i.wg = g.wg ∧ i.fullImage then
          { i with groups := i.groups.set g.index ((i.groups.get {} g.index).modThread lane f) }
        else i }

/-- A group changed wherever it is: on its core, or in its workgroup's image (R333). -/
def State.landGroup (s : State) (wg grp : Nat) (f : Group → Group) : State :=
  let w := s.wg wg
  if w.st = .running then s.modGroup w.core (w.places.getD grp 0) f
  else { s with images := s.images.mapVals fun _ i =>
    if i.wg = wg then { i with groups := i.groups.set grp (f (i.groups.get {} grp)) } else i }

/-! ## Traps and their return (R118 to R121) -/

/-- A trap handler's resumption point as %TRAP_RES holds it (R120). -/
def Pos.res (p : Pos) : Dword := BitVec.ofNat 64 (p.word % 4 * 2 ^ 62 + p.pc.toNat % 2 ^ 57)

/-- The position that a resumption point names (R120). Index 3 names no unit and is read as 2, and an offset that no
packet has names the last packet that begins below it (R47, log 24). -/
def posOf (r : Dword) : Pos :=
  { pc := BitVec.ofNat 64 (bitsNat r 56 6 * 64 + min 4 (bitsNat r 5 0 / 12) * 12), word := min 2 (bitsNat r 63 62) }

/-- The packet address of a unit's first word (R47, R120). -/
def packetOf (u : Dword) : Dword := u - BitVec.ofNat 64 (u.toNat % 64 % 12)

/-- A trap in a thread (R118): its trap registers are written, it enters handler mode and continues at the trap
entry. Without an entry, or in a handler, the launch ends with status 1. A region of the thread ends first (R237). -/
def State.takeTrap (s : State) (core place lane : Nat) (p : Pending) (pc : Dword) (res : Pos) : State :=
  let s := if p.cause = Cause.fatalMemory ∨ p.cause = Cause.watchdog then s.shoot 3 none else s
  let s := s.farTrap core place lane
  let t := s.thread core place lane
  let task := s.taskOf core place
  let h := (s.launch task).hdr
  if t.handler ≠ .none then s.endLaunch task 1 (t.trapCause.toNat % 256) p.cause
  else if h.trap = 0 then s.endLaunch task 1 p.cause 0
  else s.modThread core place lane fun t =>
    { t with trapCause := BitVec.ofNat 32 p.cause, trapPc := pc, trapWord := p.word, trapAddr := p.addr,
             trapUnit := p.unit, trapRes := res.res, handler := .trap,
             pos := { pc := h.entryAt h.trap, word := 0 }, waits := [], since := s.clock }

/-- A thread is owed a trap. A threshold beside one that it is owed already waits until handler mode is left (R90,
log 20). -/
def Thread.owe (t : Thread) (p : Pending) : Thread :=
  let two := p.cause = Cause.numericThreshold && t.pending.any fun q => q.cause = Cause.numericThreshold
  { t with pending := t.pending ++ [{ p with later := p.later || two }] }

/-- A trap that reaches a thread away from the unit that caused it: it is raised before the thread next issues, and
not at all when the thread has ended (R90, R150, log 20). -/
def State.pend (s : State) (core place lane : Nat) (p : Pending) : State :=
  s.landThread core place lane fun t => if t.live then t.owe p else t

/-- A pending trap that a thread takes where it stands: a threshold that a count made away from its instruction has
crossed only at a packet boundary, and one that was raised together with another not in handler mode (R90, log 20). -/
def Thread.mayTake (t : Thread) (p : Pending) : Bool :=
  (p.cause ≠ Cause.numericThreshold || p.soon || t.pos.word = 0) && (!p.later || t.handler = .none)

/-- The oldest pending trap that a thread may take now. -/
def Thread.dueTrap (t : Thread) : Option Pending := t.pending.find? t.mayTake

/-- Where a pending trap resumes: the unit after the chain that caused it, or, for a count made away from it and for
WATCHDOG, the unit at which the thread stands (R90, R120, log 20). -/
def Pending.resume (p : Pending) (now : Pos) : Pos :=
  if p.cause = Cause.numericThreshold ∨ p.cause = Cause.watchdog then now else p.res

/-- A thread takes the oldest pending trap that it may (R90, R120, log 20). -/
def State.takePending (s : State) (core place lane : Nat) : State :=
  let t := s.thread core place lane
  match t.dueTrap with
  | none => s
  | some p =>
    let s := s.modThread core place lane fun t => { t with pending := t.pending.erase p }
    s.takeTrap core place lane p
      (if p.cause = Cause.numericThreshold then t.pos.pc else packetOf p.unit) (p.resume t.pos)

/-- Leaving handler mode after the chain: the thread continues at %TRAP_RES (R49, R121). -/
def State.trapReturn (s : State) (l : Nat) : State := s.effect l (.leave (posOf (s.cur.rd.thread l).trapRes))

/-! ## The end of a unit and of its chain (R49 to R52) -/

/-- The unit after the last word run, which at the chain's end is the unit after the chain (R49). -/
def Cur.after (c : Cur) : Pos := unitAfter c.pc c.next

/-- The effects of a lane, in the order of the members. -/
def Cur.effectsOf (c : Cur) (l : Nat) : List Effect := (c.effects.filter fun e => e.1 = l).map Prod.snd

/-- Where a lane continues when nothing traps. -/
def laneNext (after : Pos) (es : List Effect) : Pos :=
  match es.findSome? fun e => match e with
    | .jump pc => some { pc, word := 0 }
    | .resume p | .leave p => some p
    | _ => none with
  | some p => p
  | none => after

/-- The waits of a lane's members. -/
def laneWaits (es : List Effect) : List Waiting :=
  es.filterMap fun e => match e with
    | .wait w p => some { at_ := p, kind := w }
    | _ => none

/-- The traps of a lane's members, in their order. -/
def laneTraps (es : List Effect) : List Pending :=
  es.filterMap fun e => match e with
    | .trap p => some p
    | _ => none

/-- The first trap of a lane's members (R52). -/
def laneTrap (es : List Effect) : Option Pending := (laneTraps es).head?

/-- The EXIT among a lane's members. -/
def laneExit (es : List Effect) : Option Pos :=
  es.findSome? fun e => match e with
    | .exit p => some p
    | _ => none

/-- A lane's member leaves handler mode. -/
def laneLeaves (es : List Effect) : Bool := es.any fun e => match e with
  | .leave _ => true
  | _ => false

/-- The thresholds that a lane's members cross beside the trap taken: each is raised too, once handler mode is left
(R90, log 20). -/
def laneLater (es : List Effect) : List Pending :=
  ((laneTraps es).drop 1).filterMap fun p =>
    if p.cause = Cause.numericThreshold then some { p with later := true, soon := true } else none

/-- What a chain decided for one lane takes effect (R49, R52, R90, R122). A trap names as resumption point where the
lane's other members lead: the unit after the chain, the target of a transfer, or an EXIT again (log 20). -/
def State.finishLane (s : State) (core place : Nat) (after : Pos) (es : List Effect) (l : Nat) : State :=
  let t := s.thread core place l
  if !t.live then s
  else if (laneTrap es).isNone ∧ (laneExit es).isSome then s.endThread core place l
  else if t.waits.any fun w => w.kind = .landing then
    -- the region has aborted: the thread goes on at the abort target, where the trap of another member is taken (R235)
    match laneTrap es with
    | none => s
    | some p => s.pend core place l { p with res := t.pos, soon := true }
  else
    let on := (laneExit es).getD (laneNext after es)
    let s := s.modThread core place l fun t =>
      { t with pos := on, waits := laneWaits es, handler := if laneLeaves es then .none else t.handler
               pending := t.pending ++ laneLater es }
    match laneTrap es with
    | none => s
    | some p =>
      if (laneWaits es).isEmpty then
        s.takeTrap core place l p (if p.cause = Cause.numericThreshold then on.pc else packetOf p.unit) on
      else s.pend core place l { p with res := on, soon := true }

/-- A chain ends: every lane goes to the unit after it, and then the effects of its members are taken. -/
def State.commitOne (s : State) (c : Cur) : State :=
  let s := s.modGroup c.core c.place fun g =>
    c.lanes.foldl (fun g l => g.modThread l fun t =>
      if t.waits.isEmpty then { t with pos := c.after, since := s.clock } else t) g
  let s :=
    if c.effects.isEmpty then s
    else (c.lanes.foldl (fun s l => s.finishLane c.core c.place c.after (c.effectsOf l) l) s).settle c.core c.place
  s.modGroup c.core c.place Group.releaseAll

/-- A trap of a lane takes its place among those of its chain, by the address of its unit (R52). -/
def insertTrap (l : Nat) (p : Pending) : List (Nat × Effect) → List (Nat × Effect)
  | [] => [(l, .trap p)]
  | e :: es => match e.2 with
    | .trap q => if e.1 = l ∧ p.unit.toNat < q.unit.toNat then (l, .trap p) :: e :: es else e :: insertTrap l p es
    | _ => e :: insertTrap l p es

/-- The units whose events the portions of an issue group have counted, in their order. -/
def unitsOfTally (cs : List Cur) : List Dword :=
  sortBy BitVec.toNat ((cs.flatMap fun c => c.tally.map Tallied.unit).eraseDups)

/-- The counts of one unit of an issue group of several portions: the lowest lane that counted a class takes its trap
(R88, R90). -/
def State.countMerged (s : State) (cs : List Cur) (unit : Dword) : State × List Cur :=
  let es := sortBy Tallied.lane ((cs.flatMap Cur.tally).filter fun x => x.unit = unit)
  (List.range 8).foldl (fun (x : State × List Cur) k =>
    match x.1.count (cs.headD {}).core k (es.map fun e => evCount e.evs k).sum with
    | (s, true) =>
      match es.find? fun e => evCount e.evs k ≠ 0 with
      | some e =>
        let p : Pending := { cause := Cause.numericThreshold, word := e.word, addr := BitVec.ofNat 64 k, unit }
        (s, x.2.map fun c => if c.lanes.contains e.lane then { c with effects := insertTrap e.lane p c.effects } else c)
      | none => (s, x.2)
    | (s, false) => (s, x.2)) (s, cs)

/-- The chains of an issue group of several portions end together, once their events have been counted (R26, R90). -/
def State.commitGroup (s : State) (cs : List Cur) : State :=
  let x := (unitsOfTally cs).foldl (fun (x : State × List Cur) u => x.1.countMerged x.2 u) (s, cs)
  x.2.foldl State.commitOne x.1

/-- The chain in hand has run. While another portion of its issue group has still to run, it is held (R26, R28). -/
def State.commit (s : State) : State :=
  if !s.cur.active then s
  else if s.cur.more then { s with cur := {}, merged := s.merged ++ [s.cur] }
  else match s.merged with
    | [] => ({ s with cur := {} } : State).commitOne s.cur
    | c :: cs => ({ s with cur := {}, merged := [] } : State).commitGroup (c :: cs ++ [s.cur])

/-- The end of an instruction word: with C = 1 the chain goes on, else it ends (R39, R40). -/
def endUnit (c : Bool) (s : State) : Out :=
  if c ∧ s.cur.active ∧ s.cur.next < 2 then
    .next { s with cur := { s.cur with next := s.cur.next + 1, pfx := {}, barred := [] } }
  else .next s.commit

/-- The end of a prefix word: the unit goes on with the next word (R40). -/
def latch (f : Prefixes → Prefixes) (s : State) : Out :=
  if s.cur.active then
    .next { s with cur := { s.cur with
      pfx := { f s.cur.pfx with first := some s.cur.unitFirst }, next := s.cur.next + 1 } }
  else .next s

end Sys2Proof.Machine
end

