-- ==== Sys2Proof/Machine/Operands.lean ====
section
/-! DEFINITION. The operand forms: registers as the chain reads them (R50, R114), immediates with and without XIMM
(R57), the addresses of the M-format majors (R149, R110) and of the atomics (R215). -/

namespace Sys2Proof.Machine

/-! ## Registers as read at the chain's issue -/

/-- v(n) of a lane. -/
def State.v (s : State) (l : Nat) (n : BitVec 7) : Word := s.cur.rd.rv l n.toNat

/-- The pair v(n) of a lane. -/
def State.v64 (s : State) (l : Nat) (n : BitVec 7) : Dword := s.cur.rd.rv64 l n.toNat

/-- p(n) of a lane. -/
def State.pr (s : State) (l : Nat) (n : BitVec 3) : Bool := s.cur.rd.rp l n.toNat

/-- s(n). -/
def State.sr (s : State) (n : BitVec 5) : Dword := s.cur.rd.rs n.toNat

/-- The quad v(n) of a lane, low word in v(n). -/
def State.v128 (s : State) (l : Nat) (n : Nat) : Qword :=
  s.cur.rd.rv l (n + 3) ++ s.cur.rd.rv l (n + 2) ++ s.cur.rd.rv l (n + 1) ++ s.cur.rd.rv l n

/-! ## Immediates (R57) -/

/-- A 7-bit immediate, or the 28-bit immediate of XIMM, sign-extended to 64 bits. -/
def State.imm7 (s : State) (i : BitVec 7) : Dword :=
  match s.cur.pfx.ximm with
  | some p => sext 64 (p ++ i)
  | none => sext 64 i

/-- An 18-bit immediate, or the 39-bit immediate of XIMM, sign-extended to 64 bits. -/
def State.imm18 (s : State) (i : BitVec 18) : Dword :=
  match s.cur.pfx.ximm with
  | some p => sext 64 (p ++ i)
  | none => sext 64 i

/-- A second source v(b), or the immediate in its place, at 32 bits (R129). -/
def State.bv (s : State) (b : BitVec 7) (l : Nat) : Word :=
  match s.cur.pfx.ximm with
  | some p => sext 32 (p ++ b)
  | none => s.v l b

/-- A second source pair v(b), or the immediate in its place, at 64 bits (R132). -/
def State.bv64 (s : State) (b : BitVec 7) (l : Nat) : Dword :=
  match s.cur.pfx.ximm with
  | some p => sext 64 (p ++ b)
  | none => s.v64 l b

/-- A second source s(b) at 32 bits (R129). -/
def State.bs (s : State) (b : BitVec 5) : Word := (s.sr b).setWidth 32

/-- An f32 second source v(b), or the pattern of XIMM in its place (R57). -/
def State.bf (s : State) (b : BitVec 7) (l : Nat) : Word :=
  match s.cur.pfx.ximm with
  | some p => p ++ b ++ (0 : BitVec 4)
  | none => s.v l b

/-- A uniform second source s(b), or the immediate in its place (R144). -/
def State.bss (s : State) (b : BitVec 7) : Dword :=
  match s.cur.pfx.ximm with
  | some p => sext 64 (p ++ b)
  | none => s.cur.rd.rs (b.toNat % 32)

/-- The displacement of an M-format access (R57, R149). -/
def State.disp (s : State) : Dword :=
  match s.cur.pfx.ximm with
  | some p => sext 64 p
  | none => 0

/-! ## M-format addresses (R148, R149) -/

/-- Bytes of an access of size code `z` (R148). -/
def sizeOf (z : BitVec 3) : Nat :=
  match z with
  | 0 | 1 => 1
  | 2 | 3 => 2
  | 4 => 4
  | 5 => 8
  | 6 => 16
  | _ => 1

/-- The effective address of a lane (R149). -/
def State.ea (s : State) (l : Nat) (a : BitVec 7) (b : BitVec 4) (z : BitVec 3) (m : BitVec 2) : Dword :=
  let base := if b = 0 then 0 else s.cur.rd.rs b.toNat
  (match m with
   | 0 => base + s.v64 l a
   | 1 => base + zext 64 (s.v l a)
   | 2 => base + zext 64 (s.v l a) * BitVec.ofNat 64 (sizeOf z)
   | _ => zext 64 (s.v l a)) + s.disp

/-- The effective address of SLD and SST (R149). -/
def State.eaUniform (s : State) (a : BitVec 5) (b : BitVec 4) (z : BitVec 3) (m : BitVec 2) : Dword :=
  let base := if b = 0 then 0 else s.cur.rd.rs b.toNat
  (if m = 0 then base + s.sr a else base + s.sr a * BitVec.ofNat 64 (sizeOf z)) + s.disp

/-- The modulo register of a MODE 3 access (R110): base and length, if the access passes its checks. -/
def State.ring (s : State) (q : Nat) (l : Nat) (a : BitVec 7) (size : Nat) : Option (Nat × Nat) :=
  let r := s.cur.rd.rq q
  let base := bitsNat r 31 0
  let len := bitsNat r 63 32
  let x := (s.v l a).toNat
  if base % size = 0 ∧ len % size = 0 ∧ len ≠ 0 ∧ base + len ≤ (s.core s.cur.core).spadSize ∧
      base ≤ x ∧ x + size ≤ base + len then some (base, len)
  else none

/-- The address register after a MODE 3 access (R110). -/
def ringNext (base len x size : Nat) : Word := BitVec.ofNat 32 (base + (x - base + size) % len)

/-! ## Atomic addresses (R215) -/

/-- The space bit: the address is a scratchpad offset. -/
def atomSpad (a : BitVec 7) : Bool := a.getLsbD 0

/-- The address of an atomic's lane. -/
def State.atomEa (s : State) (l : Nat) (a : BitVec 7) : Dword :=
  let n := a.toNat / 2 * 2
  if atomSpad a then zext 64 (s.cur.rd.rv l n) else s.cur.rd.rv64 l n

/-! ## CPOL (R102, R156) -/

/-- The policy of an access: the CPOL override, else RD (R102). -/
def State.policy (s : State) (rd : Nat) : Nat :=
  match s.cur.pfx.cpol with
  | some (some q, _, _) => q
  | _ => rd

/-- Order and scope of CPOL; without it relaxed at scope thread (R197). -/
def State.order (s : State) : Nat := match s.cur.pfx.cpol with | some (_, o, _) => o | none => 0
def State.scope (s : State) : Nat := match s.cur.pfx.cpol with | some (_, _, c) => c | none => 0

end Sys2Proof.Machine
end

