-- ==== Sys2Proof/Machine/Float.lean ====
section
/-! DEFINITION. Floating values: the formats (R73), the one rounding (R76), exact arithmetic with its special cases
(R75, R77 to R79, R81) and conversions (R80). Every function gives the result's bits and the event classes it
counts (R88), one bit for each class. -/

namespace Sys2Proof.Machine

/-- Event classes of one element: bit k is class k (R88). -/
abbrev Ev := BitVec 8

namespace Ev
abbrev invalid : Ev := 0x01
abbrev divZero : Ev := 0x02
abbrev overflow : Ev := 0x04
abbrev underflow : Ev := 0x08
abbrev nan : Ev := 0x10
abbrev sat : Ev := 0x20
end Ev

/-- A floating format (R73): bits of fraction, bias, width, patterns of the largest finite value, of the canonical
NaN and of infinity, if it has one. -/
structure Fmt where
  fb : Nat
  bias : Nat
  w : Nat
  maxBits : Nat
  nanBits : Nat
  infBits : Option Nat
  deriving DecidableEq, Repr

namespace Fmt
def f16 : Fmt := { fb := 10, bias := 15, w := 16, maxBits := 0x7BFF, nanBits := 0x7E00, infBits := some 0x7C00 }
def bf16 : Fmt := { fb := 7, bias := 127, w := 16, maxBits := 0x7F7F, nanBits := 0x7FC0, infBits := some 0x7F80 }
def f32 : Fmt :=
  { fb := 23, bias := 127, w := 32, maxBits := 0x7F7FFFFF, nanBits := 0x7FC00000, infBits := some 0x7F800000 }
def f64 : Fmt :=
  { fb := 52, bias := 1023, w := 64, maxBits := 0x7FEFFFFFFFFFFFFF, nanBits := 0x7FF8000000000000,
    infBits := some 0x7FF0000000000000 }
def e4m3 : Fmt := { fb := 3, bias := 7, w := 8, maxBits := 0x7E, nanBits := 0x7F, infBits := none }
def e5m2 : Fmt := { fb := 2, bias := 15, w := 8, maxBits := 0x7B, nanBits := 0x7E, infBits := some 0x7C }

/-- The sign bit's weight. -/
def signBit (f : Fmt) : Nat := 2 ^ (f.w - 1)
/-- The exponent of the least subnormal's unit. -/
def minExp (f : Fmt) : Int := 1 - (f.bias : Int) - f.fb
end Fmt

/-- A value: NaN, an infinity, or ± m · 2^e. -/
inductive Fl where
  | nan
  | inf (neg : Bool)
  | fin (neg : Bool) (m : Nat) (e : Int)
  deriving DecidableEq, Repr

/-- Rounding modes: 0 RNE, 1 RTZ, 2 RDN, 3 RUP, 4 RNA (R76). -/
abbrev Mode := Nat

/-- A result and its events. -/
abbrev FR := Nat × Ev

/-- The value of a pattern (R73). -/
def Fmt.val (f : Fmt) (b : Nat) : Fl :=
  let neg := b / f.signBit % 2 = 1
  let mag := b % f.signBit
  if some mag = f.infBits then .inf neg
  else if mag > f.maxBits then .nan
  else
    let ex := mag / 2 ^ f.fb
    let fr := mag % 2 ^ f.fb
    if ex = 0 then .fin neg fr f.minExp
    else .fin neg (fr + 2 ^ f.fb) (f.minExp + (ex - 1 : Nat))

/-- A pattern with a sign. -/
def Fmt.sign (f : Fmt) (neg : Bool) (mag : Nat) : Nat := if neg then mag + f.signBit else mag

/-- An infinity, or the NaN of a format that has none. -/
def Fmt.infinite (f : Fmt) (neg : Bool) : Nat :=
  match f.infBits with
  | some i => f.sign neg i
  | none => f.nanBits

/-- Whether the kept integer is incremented: `up` the discarded part's relation to a half (0 below, 1 equal, 2
above), `any` whether anything is discarded. -/
def roundUp (mode : Mode) (neg odd any : Bool) (half : Nat) : Bool :=
  match mode with
  | 0 => half = 2 || (half = 1 && odd)
  | 1 => false
  | 2 => any && neg
  | 3 => any && !neg
  | _ => half ≥ 1

/-- m · 2^-s rounded to an integer, and whether something was discarded (R76). -/
def shiftRound (mode : Mode) (neg : Bool) (m s : Nat) : Nat × Bool :=
  if s = 0 then (m, false)
  else if s > m.log2 + 2 then
    (if roundUp mode neg false (m != 0) 0 then 1 else 0, m != 0)
  else
    let n := m / 2 ^ s
    let r := m % 2 ^ s
    let half := if r < 2 ^ (s - 1) then 0 else if r = 2 ^ (s - 1) then 1 else 2
    (if roundUp mode neg (n % 2 = 1) (r != 0) half then n + 1 else n, r != 0)

/-- ROUND of ± m · 2^e, m non-zero (R76), with overflow and underflow (R88). -/
def Fmt.round (f : Fmt) (mode : Mode) (neg : Bool) (m : Nat) (e : Int) : FR :=
  let top : Int := e + m.log2
  let q : Int := max (top - f.fb) f.minExp
  let ovf : FR :=
    let big := mode = 0 || mode = 4 || (mode = 3 && !neg) || (mode = 2 && neg)
    (if big then f.infinite neg else f.sign neg f.maxBits,
      if big && f.infBits.isNone then Ev.overflow ||| Ev.nan else Ev.overflow)
  if top > f.bias + 2 then ovf
  else
    let r := if q ≥ e then shiftRound mode neg m (q - e).toNat else (m * 2 ^ (e - q).toNat, false)
    -- the pattern: exponent field and fraction, carried into each other
    let mag := (q - f.minExp).toNat * 2 ^ f.fb + r.1
    if mag > f.maxBits then ovf
    else (f.sign neg mag, if r.2 && mag < 2 ^ f.fb then Ev.underflow else 0)

/-- ROUND of a value just above ± m · 2^e, below ± (m + 1) · 2^e. -/
def Fmt.roundSticky (f : Fmt) (mode : Mode) (neg : Bool) (m : Nat) (e : Int) (sticky : Bool) : FR :=
  if sticky then f.round mode neg (4 * m + 1) (e - 2) else f.round mode neg m e

/-- A NaN result from operands none of which is NaN: invalid and NaN produced (R78, R88). -/
def Fmt.bad (f : Fmt) : FR := (f.nanBits, Ev.invalid ||| Ev.nan)

/-- A signed zero. -/
def Fmt.zero (f : Fmt) (neg : Bool) : FR := (f.sign neg 0, 0)

/-- ± m · 2^e as a multiple of 2^k, k ≤ e. -/
def scaled (neg : Bool) (m : Nat) (e k : Int) : Int :=
  let x : Int := (m * 2 ^ (e - k).toNat : Nat)
  if neg then -x else x

/-- The exact sum of two finite values rounded; the sign of a zero sum by R77. -/
def Fmt.sum (f : Fmt) (mode : Mode) (n1 : Bool) (m1 : Nat) (e1 : Int) (n2 : Bool) (m2 : Nat) (e2 : Int) : FR :=
  let k := min e1 e2
  let x := scaled n1 m1 e1 k + scaled n2 m2 e2 k
  if x = 0 then
    f.zero ((m1 = 0 && m2 = 0 && n1 && n2) || mode = 2)
  else f.round mode (x < 0) x.natAbs k

/-- Addition (R75, R77, R78). -/
def Fmt.add (f : Fmt) (mode : Mode) (a b : Fl) : FR :=
  match a, b with
  | .nan, _ | _, .nan => (f.nanBits, 0)
  | .inf x, .inf y => if x = y then (f.infinite x, 0) else f.bad
  | .inf x, _ | _, .inf x => (f.infinite x, 0)
  | .fin n1 m1 e1, .fin n2 m2 e2 => f.sum mode n1 m1 e1 n2 m2 e2

/-- The value with its sign inverted. -/
def Fl.neg : Fl → Fl
  | .nan => .nan
  | .inf n => .inf !n
  | .fin n m e => .fin (!n) m e

/-- Subtraction. -/
def Fmt.sub (f : Fmt) (mode : Mode) (a b : Fl) : FR := f.add mode a b.neg

/-- A finite value of zero. -/
def Fl.isZero : Fl → Bool
  | .fin _ m _ => m = 0
  | _ => false

def Fl.isInf : Fl → Bool
  | .inf _ => true
  | _ => false

def Fl.isNan : Fl → Bool
  | .nan => true
  | _ => false

/-- The sign of a value that is not NaN. -/
def Fl.negative : Fl → Bool
  | .nan => false
  | .inf n => n
  | .fin n _ _ => n

/-- Multiplication (R77, R78). -/
def Fmt.mul (f : Fmt) (mode : Mode) (a b : Fl) : FR :=
  match a, b with
  | .nan, _ | _, .nan => (f.nanBits, 0)
  | .fin n1 m1 e1, .fin n2 m2 e2 =>
    if m1 = 0 ∨ m2 = 0 then f.zero (n1 != n2) else f.round mode (n1 != n2) (m1 * m2) (e1 + e2)
  | a, b => if a.isZero || b.isZero then f.bad else (f.infinite (a.negative != b.negative), 0)

/-- Fused multiply-add a · b + c, or −(a · b) + c (R78, R184). 0 × ∞ counts invalid whatever c is, and NaN
produced only when no operand is NaN (log 8). -/
def Fmt.fma (f : Fmt) (mode : Mode) (negate : Bool) (a b c : Fl) : FR :=
  if a.isNan || b.isNan then (f.nanBits, 0)
  else if (a.isZero && b.isInf) || (a.isInf && b.isZero) then
    (f.nanBits, if c.isNan then Ev.invalid else Ev.invalid ||| Ev.nan)
  else
    let n := (a.negative != b.negative) != negate
    match a, b, c with
    | _, _, .nan => (f.nanBits, 0)
    | .fin _ m1 e1, .fin _ m2 e2, .fin n3 m3 e3 => f.sum mode n (m1 * m2) (e1 + e2) n3 m3 e3
    | .fin _ _ _, .fin _ _ _, .inf n3 => (f.infinite n3, 0)
    | _, _, .inf n3 => if n = n3 then (f.infinite n, 0) else f.bad
    | _, _, .fin _ _ _ => (f.infinite n, 0)

/-- Division (R79). -/
def Fmt.div (f : Fmt) (mode : Mode) (a b : Fl) : FR :=
  match a, b with
  | .nan, _ | _, .nan => (f.nanBits, 0)
  | .inf _, .inf _ => f.bad
  | .inf x, .fin y _ _ => (f.infinite (x != y), 0)
  | .fin x _ _, .inf y => f.zero (x != y)
  | .fin n1 m1 e1, .fin n2 m2 e2 =>
    if m2 = 0 then (if m1 = 0 then f.bad else (f.infinite (n1 != n2), Ev.divZero))
    else if m1 = 0 then f.zero (n1 != n2)
    else
      let k := f.fb + 4 + m2.log2
      let x := m1 * 2 ^ k
      f.roundSticky mode (n1 != n2) (x / m2) (e1 - e2 - k) (x % m2 != 0)

/-- SCALE: a · 2^n (R183). -/
def Fmt.scale (f : Fmt) (mode : Mode) (a : Fl) (n : Int) : FR :=
  match a with
  | .nan => (f.nanBits, 0)
  | .inf x => (f.infinite x, 0)
  | .fin x m e => if m = 0 then f.zero x else f.round mode x m (e + n)

/-- The order of R81 and of comparisons, with −0 below +0. -/
def Fl.key (a : Fl) (k : Int) : Int :=
  match a with
  | .fin n m e => if m = 0 then (if n then -1 else 0) else 2 * scaled n m e k
  | _ => 0

/-- The common exponent of two values. -/
def Fl.exp : Fl → Int
  | .fin _ _ e => e
  | _ => 0

/-- a is below b in the order of R81; neither is NaN. -/
def Fl.below (a b : Fl) : Bool :=
  match a, b with
  | .inf x, .inf y => x && !y
  | .inf x, _ => x
  | _, .inf y => !y
  | a, b => let k := min a.exp b.exp; a.key k < b.key k

/-- MIN and MAX by patterns (R81). -/
def Fmt.minmax (f : Fmt) (max : Bool) (a b : Nat) : Nat :=
  let x := f.val a
  let y := f.val b
  if x.isNan then (if y.isNan then f.nanBits else b)
  else if y.isNan then a
  else if (if max then x.below y else y.below x) then b else a

/-- The comparison conditions of FCMP (R188): 0 eq to 7 ord. -/
def fcmp (cnd : Nat) (a b : Fl) : Bool :=
  if a.isNan || b.isNan then cnd = 1 || cnd = 6
  else
    let eq := (a.isZero && b.isZero) || (!a.below b && !b.below a)
    let lt := !eq && a.below b
    match cnd with
    | 0 => eq
    | 1 => !eq
    | 2 => lt
    | 3 => lt || eq
    | 4 => !lt && !eq
    | 5 => !lt
    | 6 => false
    | _ => true

/-! ## Functions (R79, R186, R187) -/

/-- 1 / a. -/
def Fmt.rcp (f : Fmt) (mode : Mode) (a : Fl) : FR := f.div mode (.fin false 1 0) a

/-- √a. -/
def Fmt.sqrt (f : Fmt) (mode : Mode) (a : Fl) : FR :=
  match a with
  | .nan => (f.nanBits, 0)
  | .inf n => if n then f.bad else (f.infinite false, 0)
  | .fin n m e =>
    if m = 0 then f.zero n
    else if n then f.bad
    else
      let k := f.fb + 4
      let (m, e) := if e % 2 = 0 then (m, e) else (2 * m, e - 1)
      let x := m * 2 ^ (2 * k)
      let r := isqrt x
      f.roundSticky mode false r (e / 2 - k) (r * r != x)

/-- 1 / √a. -/
def Fmt.rsq (f : Fmt) (mode : Mode) (a : Fl) : FR :=
  match a with
  | .nan => (f.nanBits, 0)
  | .inf n => if n then f.bad else f.zero false
  | .fin n m e =>
    if m = 0 then (f.infinite n, Ev.divZero)
    else if n then f.bad
    else
      let (m, e) := if e % 2 = 0 then (m, e) else (2 * m, e - 1)
      let k := f.fb + 4 + m.log2
      let x := 2 ^ (2 * k)
      let r := isqrt (x / m)
      f.roundSticky mode false r (-(e / 2) - k) (r * r * m != x)

/-- RND (R187): the value rounded to an integer, exactly. -/
def Fmt.rnd (f : Fmt) (mode : Mode) (b : Nat) : Nat :=
  match f.val b with
  | .nan => f.nanBits
  | .inf _ => b
  | .fin n m e =>
    if m = 0 ∨ e ≥ 0 then b
    else
      let r := (shiftRound mode n m (-e).toNat).1
      if r = 0 then f.sign n 0 else (f.round 0 n r 0).1

/-- FRACT (R187): a − floor(a), below 1. -/
def Fmt.fract (f : Fmt) (mode : Mode) (a : Fl) : FR :=
  match a with
  | .nan => (f.nanBits, 0)
  | .inf _ => f.bad
  | .fin n m e =>
    if e ≥ 0 then f.zero false
    else
      let s := (-e).toNat
      let r := m % 2 ^ s
      let t := if n then (2 ^ s - r) % 2 ^ s else r
      if t = 0 then f.zero false
      else
        let one := f.bias * 2 ^ f.fb
        let y := f.round mode false t e
        (if y.1 ≥ one then one - 1 else y.1, 0)

/-- CLASS (R187). -/
def Fmt.classOf (f : Fmt) (b : Nat) : Nat :=
  match f.val b with
  | .nan => 0x100
  | .inf n => if n then 0x01 else 0x80
  | .fin n m _ =>
    if m = 0 then (if n then 0x08 else 0x10)
    else if m < 2 ^ f.fb then (if n then 0x04 else 0x20)
    else if n then 0x02 else 0x40

/-! ## Conversions (R80, R189, R190) -/

/-- Float to float. A narrower format rounds, and SAT clamps infinities and e4m3's overflow to ±MAXF. -/
def Fmt.cvt (f : Fmt) (mode : Mode) (sat : Bool) (a : Fl) (narrower : Bool) : FR :=
  match a with
  | .nan => (f.nanBits, 0)
  | .inf n =>
    if sat && narrower then (f.sign n f.maxBits, Ev.sat)
    else (f.infinite n, if f.infBits.isNone then Ev.nan else 0)
  | .fin n m e =>
    if m = 0 then f.zero n
    else
      let r := f.round mode n m e
      let inf := some (r.1 % f.signBit) = f.infBits || (f.infBits.isNone && r.1 = f.nanBits)
      if sat && narrower && inf then (f.sign n f.maxBits, Ev.overflow ||| Ev.sat) else r

/-- An integer to a float. -/
def Fmt.ofInt (f : Fmt) (mode : Mode) (x : Int) : FR :=
  if x = 0 then f.zero false else f.round mode (x < 0) x.natAbs 0

/-- A float to an integer of a range (R80). -/
def Fl.toInt (mode : Mode) (lo hi : Int) (a : Fl) : Int × Ev :=
  match a with
  | .nan => (0, Ev.sat)
  | .inf n => (if n then lo else hi, Ev.sat)
  | .fin n m e =>
    if m ≠ 0 ∧ e + m.log2 > 70 then (if n then lo else hi, Ev.sat)
    else
      let r := if e ≥ 0 then m * 2 ^ e.toNat else (shiftRound mode n m (-e).toNat).1
      let x : Int := if n then -(r : Int) else r
      let c := clampInt lo hi x
      (c.1, if c.2 then Ev.sat else 0)

/-- The float format of a type code, if it is one (R60). -/
def floatType : Nat → Option Fmt
  | 8 => some .f16
  | 9 => some .bf16
  | 10 => some .f32
  | 11 => some .f64
  | 12 => some .e4m3
  | 13 => some .e5m2
  | _ => none

/-- Bits of an integer type code (R60). -/
def intBits (t : Nat) : Nat := 8 * 2 ^ (t % 4)

/-- Signedness of an integer type code. -/
def intSigned (t : Nat) : Bool := t < 4

/-- The range of an integer type. -/
def intRange (t : Nat) : Int × Int :=
  if intSigned t then (-(2 ^ (intBits t - 1) : Int), 2 ^ (intBits t - 1) - 1) else (0, 2 ^ intBits t - 1)

/-- The integer that the low bits of a value hold. -/
def intVal (t : Nat) (x : Nat) : Int :=
  let y := x % 2 ^ intBits t
  if intSigned t ∧ y ≥ 2 ^ (intBits t - 1) then (y : Int) - 2 ^ intBits t else y

/-- CVT of a value from type `s` to type `t`: the destination's bits, at 64 bits (R80, R189, R190). -/
def cvtValue (s t mode : Nat) (sat : Bool) (x : Nat) : Dword × Ev :=
  match floatType s, floatType t with
  | some f, some g =>
    if s = t then
      let b := x % 2 ^ f.w
      (BitVec.ofNat 64 (if (f.val b).isNan then f.nanBits else b), 0)
    else
      let narrower := g.fb < f.fb || g.bias < f.bias
      let r := g.cvt mode sat (f.val (x % 2 ^ f.w)) narrower
      (BitVec.ofNat 64 r.1, r.2)
  | none, some g =>
    let r := g.ofInt mode (intVal s x)
    (BitVec.ofNat 64 r.1, r.2)
  | some f, none =>
    let c := intRange t
    let r := Fl.toInt mode c.1 c.2 (f.val (x % 2 ^ f.w))
    (BitVec.ofInt 64 r.1, r.2)
  | none, none =>
    let c := intRange t
    let r := clampInt c.1 c.2 (intVal s x)
    (BitVec.ofInt 64 r.1, if r.2 then Ev.sat else 0)

/-- A 32-bit destination of CVT: s8 and s16 sign-extended, other narrow types zero-extended (R190). -/
def cvtNarrow (t : Nat) (x : Dword) : Word :=
  match t with
  | 0 | 1 | 2 | 6 | 10 => x.setWidth 32
  | 4 => (x.setWidth 8 : BitVec 8).setWidth 32
  | 5 => (x.setWidth 16 : BitVec 16).setWidth 32
  | _ => x.setWidth 32

/-! ## Words -/

/-- ROUND_F32 of an exact value and other common forms, on words. -/
def f32v (x : Word) : Fl := Fmt.f32.val x.toNat
def f64v (x : Dword) : Fl := Fmt.f64.val x.toNat

/-- A result on a 32-bit or 64-bit register. -/
def FR.word (r : FR) : Word × Ev := (BitVec.ofNat 32 r.1, r.2)
def FR.dword (r : FR) : Dword × Ev := (BitVec.ofNat 64 r.1, r.2)

/-- Two packed 16-bit elements computed apart (R73, R185). -/
def packed2 (f : Nat → Nat → Nat → FR) (a b d : Word) : Word × List Ev :=
  let lo (x : Word) : Nat := x.toNat % 65536
  let hi (x : Word) : Nat := x.toNat / 65536
  let r0 := f (lo a) (lo b) (lo d)
  let r1 := f (hi a) (hi b) (hi d)
  (BitVec.ofNat 32 (r0.1 % 65536 + r1.1 % 65536 * 65536), [r0.2, r1.2])

/-- f32 addition as engines and reductions use it: RNE (R76 to R78). -/
def addF32 (a b : Word) : Word × Ev := FR.word (Fmt.f32.add 0 (f32v a) (f32v b))

end Sys2Proof.Machine
end

