-- ==== Sys2Proof/Machine/Transc.lean ====
section
/-! DEFINITION. EXP2, LOG2, SINPI and COSPI of f32 (R79): special operands as the table lists them, any other value
from a 256-bit fixed-point evaluation that decides the rounding (log 7). -/

namespace Sys2Proof.Machine

namespace Transc

/-- Fraction bits of the fixed point. -/
abbrev F : Nat := 256

/-- ln 2 and π, rounded down to the fixed point. -/
def ln2 : Nat := 80260960185991308862233904206310070533990667611589946606122867505419956976171
def pi : Nat := 363771576891766324280234942777729862653393377328392429958772151117938894466185

/-- Σ y^k / k! from the k-th term on. -/
def expGo (y term k acc : Nat) : Nat → Nat
  | 0 => acc
  | n + 1 => let t := term * y / 2 ^ F / (k + 1); expGo y t (k + 1) (acc + t) n

/-- e^y for 0 ≤ y < 1. -/
def exp (y : Nat) : Nat := expGo y (2 ^ F) 0 (2 ^ F) 64

/-- Σ t^(2k+1) / (2k+1). -/
def atanhGo (t2 p k acc : Nat) : Nat → Nat
  | 0 => acc
  | n + 1 => atanhGo t2 (p * t2 / 2 ^ F) (k + 1) (acc + p / (2 * k + 1)) n

/-- log2 z for z = m / 2^s in [1, 2): 2 · atanh((z − 1) / (z + 1)) / ln 2. -/
def log2 (m s : Nat) : Nat :=
  let t := (m - 2 ^ s) * 2 ^ F / (m + 2 ^ s)
  let a := atanhGo (t * t / 2 ^ F) t 0 0 90
  2 * a * 2 ^ F / ln2

/-- Σ ± y^(2k+i) / (2k+i)!, alternating. -/
def sinGo (y2 term k : Nat) (acc : Int) (plus : Bool) : Nat → Int
  | 0 => acc
  | n + 1 =>
    let acc := if plus then acc + term else acc - term
    sinGo y2 (term * y2 / 2 ^ F / ((k + 1) * (k + 2))) (k + 2) acc (!plus) n

/-- sin y and cos y for 0 ≤ y ≤ π/2. -/
def sin (y : Nat) : Nat := (sinGo (y * y / 2 ^ F) y 1 0 true 40).toNat
def cos (y : Nat) : Nat := (sinGo (y * y / 2 ^ F) (2 ^ F) 0 0 true 40).toNat

end Transc

/-- 2^a (R79). -/
def exp2F32 (mode : Mode) (a : Fl) : FR :=
  let f := Fmt.f32
  match a with
  | .nan => (f.nanBits, 0)
  | .inf n => if n then f.zero false else (f.infinite false, 0)
  | .fin n m e =>
    if m = 0 then f.round mode false 1 0
    else if e + m.log2 ≥ 10 then
      f.roundSticky mode false 1 (if n then -1000 else 1000) true
    else if e ≥ 0 then f.round mode false 1 (if n then -(m * 2 ^ e.toNat : Nat) else (m * 2 ^ e.toNat : Nat))
    else
      let s := (-e).toNat
      let k : Int := if n then -(((m + 2 ^ s - 1) / 2 ^ s : Nat) : Int) else (m / 2 ^ s : Nat)
      let r := if n then (2 ^ s - m % 2 ^ s) % 2 ^ s else m % 2 ^ s
      if r = 0 then f.round mode false 1 k
      else
        let y := r * 2 ^ Transc.F / 2 ^ s * Transc.ln2 / 2 ^ Transc.F
        f.roundSticky mode false (Transc.exp y) (k - Transc.F) true

/-- log2 a (R79). -/
def log2F32 (mode : Mode) (a : Fl) : FR :=
  let f := Fmt.f32
  match a with
  | .nan => (f.nanBits, 0)
  | .inf n => if n then f.bad else (f.infinite false, 0)
  | .fin n m e =>
    if m = 0 then (f.infinite true, Ev.divZero)
    else if n then f.bad
    else
      let s := m.log2
      let k : Int := e + s
      if m = 2 ^ s then (if k = 0 then f.zero false else f.ofInt mode k)
      else
        let x : Int := k * 2 ^ Transc.F + Transc.log2 m s
        if x ≥ 0 then f.roundSticky mode false x.natAbs (-(Transc.F : Int)) true
        else f.roundSticky mode true (x.natAbs - 1) (-(Transc.F : Int)) true

/-- sin(π·r) or cos(π·r) for a dyadic r = m / 2^s in (0, 1/2), as a rounded magnitude. -/
def sinCosMag (mode : Mode) (neg cosine : Bool) (m s : Nat) : FR :=
  let y := m * 2 ^ Transc.F / 2 ^ s * Transc.pi / 2 ^ Transc.F
  -- the margin keeps the cosine of a tiny angle below 1; it is far below every rounding boundary (log 7)
  Fmt.f32.roundSticky mode neg (if cosine then Transc.cos y - 64 else Transc.sin y) (-(Transc.F : Int)) true

/-- sin(π·x) for x = (quarter turns q) + m / 2^s of a half turn: q counts halves of π. -/
def sinCosAt (mode : Mode) (neg : Bool) (q m s : Nat) : FR :=
  let f := Fmt.f32
  -- sin(π/2 · q + π · m / 2^s), with 0 < m / 2^s < 1/2
  let flip := q / 2 % 2 = 1
  if m = 0 then (if q % 2 = 0 then f.zero false else f.round mode (flip != neg) 1 0)
  else sinCosMag mode (flip != neg) (q % 2 = 1) m s

/-- sin(π·a) (R79). -/
def sinpiF32 (mode : Mode) (a : Fl) : FR :=
  let f := Fmt.f32
  match a with
  | .nan => (f.nanBits, 0)
  | .inf _ => f.bad
  | .fin n m e =>
    if m = 0 then f.zero n
    else if e ≥ 0 then f.zero n
    else
      let s := (-e).toNat
      if m % 2 ^ s = 0 then f.zero n
      else
        let r := m % 2 ^ (s + 1)
        let half := 2 ^ (s - 1)
        sinCosAt mode n (r / half) (r % half) s

/-- cos(π·a) (R79). -/
def cospiF32 (mode : Mode) (a : Fl) : FR :=
  let f := Fmt.f32
  match a with
  | .nan => (f.nanBits, 0)
  | .inf _ => f.bad
  | .fin _ m e =>
    if m = 0 then f.round mode false 1 0
    else if e ≥ 0 then
      f.round mode (decide (e = 0 ∧ m % 2 = 1)) 1 0
    else
      let s := (-e).toNat
      let r := m % 2 ^ (s + 1)
      let half := 2 ^ (s - 1)
      -- cos(π·x) = sin(π·x + π/2)
      sinCosAt mode false (r / half + 1) (r % half) s

end Sys2Proof.Machine
end

