-- ==== Sys2Proof/Machine/Flags.lean ====
section
/-! DEFINITION. Numeric events: the counts of a core, their thresholds, and what a crossing does (R88 to R90, R376). -/

namespace Sys2Proof.Machine

/-- The events of an issue unit, by lane: the lowest lane that counted a class takes its trap after the chain
(R88, R90). The counts of a unit that several portions issue are made when the last of them has run. -/
def State.countUnit (s : State) (es : List (Nat × List Ev)) : State :=
  if s.cur.more ∨ s.merged ≠ [] then
    { s with cur := { s.cur with tally := s.cur.tally ++
        ((es.filter fun e => !e.2.isEmpty).map fun e =>
          { lane := e.1, word := s.curWord, unit := s.unitAddr, evs := e.2 }) } }
  else (List.range 8).foldl (fun s k =>
    let n := (es.map fun e => evCount e.2 k).sum
    match s.count s.cur.core k n with
    | (s, true) =>
      match es.find? fun e => evCount e.2 k ≠ 0 with
      | some e => s.raise e.1 Cause.numericThreshold (BitVec.ofNat 64 k)
      | none => s
    | (s, false) => s) s

/-- Where an operation that counts events comes from: its thread, and the unit and the clock of its issue. -/
structure Origin where
  wg : Nat
  grp : Nat
  lane : Nat
  word : Word
  unit : Dword
  issued : Nat
  deriving DecidableEq, Repr

/-- The lane of an operation's unit that a crossing of a class traps: the lowest of those whose operations have counted
the class in its window (R90). -/
def Core.countedLane (c : Core) (o : Origin) (k : Nat) : Nat :=
  c.counted.foldl (fun n x =>
    if x.cls = k ∧ x.wg = o.wg ∧ x.grp = o.grp ∧ x.unit = o.unit ∧ x.issued = o.issued then min n x.lane else n) o.lane

/-- The lane is kept among those that have counted a class. -/
def Core.noteCounted (c : Core) (o : Origin) (k : Nat) : Core :=
  let x : Counted := { cls := k, wg := o.wg, grp := o.grp, lane := o.lane, unit := o.unit, issued := o.issued }
  if c.counted.contains x then c else { c with counted := x :: c.counted }

/-- A thread of a workgroup, wherever it is, is owed a trap, if it still runs (R90, R333). -/
def State.pendIn (s : State) (wg grp lane : Nat) (p : Pending) : State :=
  s.landGroup wg grp fun g => g.modThread lane fun t => if t.live then t.owe p else t

/-- Events of a class counted away from the instruction: the lowest lane of the unit that has counted the class is owed
the trap (R90). -/
def State.countClass (s : State) (core : Nat) (o : Origin) (k n : Nat) : State :=
  if n = 0 then s
  else
    match (s.modCore core fun c => c.noteCounted o k).count core k n with
    | (s, true) =>
      s.pendIn o.wg o.grp ((s.core core).countedLane o k)
        { cause := Cause.numericThreshold, word := o.word, addr := BitVec.ofNat 64 k, unit := o.unit }
    | (s, false) => s

/-- Events counted away from the instruction (R88, R90). -/
def State.countAway (s : State) (core : Nat) (o : Origin) (es : List Ev) : State :=
  (List.range 8).foldl (fun s k => s.countClass core o k (evCount es k)) s

/-- Every lane of E writes v(d) and counts its events. -/
def State.vsetEv (s : State) (d : Nat) (f : Nat → Word × List Ev) : State :=
  (s.vset d fun l => (f l).1).countUnit (s.E.map fun l => (l, (f l).2))

/-- Every lane of E writes the pair v(d) and counts its events. -/
def State.vset64Ev (s : State) (d : Nat) (f : Nat → Dword × List Ev) : State :=
  (s.vset64 d fun l => (f l).1).countUnit (s.E.map fun l => (l, (f l).2))

/-- A once-per-unit write of s(d) that counts events for the lowest executing lane. -/
def State.ssetEv (s : State) (d : Nat) (x : Dword × List Ev) : State :=
  match s.E with
  | [] => s
  | l :: _ => (s.sset d x.1).countUnit [(l, x.2)]

/-- A clamp of an exact integer under SAT: the value and its event (R72, R117). -/
def satInt (sat : Bool) (c : Int × Bool) (r : Int) : Int × List Ev :=
  if sat then (c.1, if c.2 then [Ev.sat] else []) else (r, [])

end Sys2Proof.Machine
end

