-- ==== Sys2Proof/Machine/Sdb.lean ====
section
/-! DEFINITION. Self-describing blocks (R83 to R87): decoding elements exactly, encoding groups and blocks, and the
rescaling of a group. -/

namespace Sys2Proof.Machine

/-- Magnitude bits of a block format; `none` for an empty or reserved one (R84). -/
def sdbM (fmt : Nat) : Option Nat :=
  match fmt with
  | 1 => some 2
  | 2 => some 4
  | 3 => some 7
  | _ => none

/-- Bits of a group, and groups of a block (R84). -/
def sdbG (m : Nat) : Nat := 16 + 16 * (1 + m)
def sdbGroups (m : Nat) : Nat := 496 / sdbG m

/-- The payload of a block as one number. -/
def sdbPayload (b : List Byte) : Nat := leNat ((b.drop 2).take 62)

/-- An element of a group given as a number: ± M · 2^(S − 127 − g − μ − (m − 1)) (R85). -/
def sdbElem (m S grp e : Nat) : Fl :=
  if S = 0xFF then .nan
  else
    let g := grp % 256
    let mu := grp / 2 ^ (8 + e / 2) % 2
    let x := grp / 2 ^ (16 + e * (1 + m)) % 2 ^ (1 + m)
    let M := x % 2 ^ m
    if M = 0 then .fin false 0 0
    else .fin (x / 2 ^ m = 1) M ((S : Int) - 127 - g - mu - (m - 1 : Nat))

/-- The elements of a block, or nothing for a reserved format (R84, R85). -/
def sdbBlock (b : List Byte) : Option (List Fl) :=
  let fmt := blkNat b 0 1
  if fmt = 0 then some []
  else
    (sdbM fmt).map fun m =>
      let p := sdbPayload b
      (List.range (sdbGroups m)).flatMap fun j =>
        (List.range 16).map fun e => sdbElem m (blkNat b 1 1) (p / 2 ^ (j * sdbG m) % 2 ^ sdbG m) e

/-- The first `n` elements of a stream of blocks (R86); nothing when a reserved format is met first. -/
def sdbRow (bs : List Byte) (n : Nat) : Nat → Option (List Fl)
  | 0 => some []
  | f + 1 =>
    if n = 0 then some []
    else if bs.isEmpty then some []
    else
      match sdbBlock (bs.take 64) with
      | none => none
      | some es => (sdbRow (bs.drop 64) (n - es.length) f).map fun r => es.take n ++ r

/-- floor(log2 |x|) of a finite non-zero value. -/
def Fl.log2 : Fl → Int
  | .fin _ m e => e + m.log2
  | _ => 0

/-- CHOOSE_SCALE (R87). -/
def chooseScale (xs : List Fl) : Nat :=
  if xs.any fun x => x.isNan || x.isInf then 0xFF
  else
    let ls := (xs.filter fun x => !x.isZero).map Fl.log2
    match ls.max? with
    | none => 127
    | some t => (min 254 (max 0 (127 + t + 1))).toNat

/-- MAG: |v| / 2^(S − 127 − g − mu − (m − 1)), rounded to nearest, ties to even (R87). An infinity exceeds every
magnitude; the rule gives none to a NaN, whose magnitude is a free value (log 64). -/
def sdbMag (m S g mu : Nat) (v : Fl) : Nat :=
  match v with
  | .fin _ x e =>
    let k : Int := (S : Int) - 127 - g - mu - (m - 1 : Nat)
    if e ≥ k then (if x = 0 then 0 else if e - k > 300 then 2 ^ 300 else x * 2 ^ (e - k).toNat)
    else (shiftRound 0 false x (k - e).toNat).1
  | .inf _ => 2 ^ 300
  | .nan => Config.nanMag

/-- The largest g in 0 to 255 for which every magnitude fits (R87). -/
def sdbFindG (m S : Nat) (xs : List Fl) : Nat → Option Nat
  | 0 => if xs.all fun x => sdbMag m S 0 0 x < 2 ^ m then some 0 else none
  | g + 1 => if xs.all fun x => sdbMag m S (g + 1) 0 x < 2 ^ m then some (g + 1) else sdbFindG m S xs g

/-- An encoded group: its bits as a number, the overflow flag, and the events per class: flushed and clamped. -/
structure SdbGroup where
  bits : Nat
  ovf : Bool
  flushed : Nat
  clamped : Nat
  deriving DecidableEq, Repr

/-- The bits of a group from its offset, its micro bits and its elements' sign and magnitude. -/
def sdbPack (m g : Nat) (mus : List Nat) (es : List (Bool × Nat)) : Nat :=
  g + (mus.zipIdx.map fun x => x.1 * 2 ^ (8 + x.2)).sum +
  (es.zipIdx.map fun x => ((if x.1.1 then 2 ^ m else 0) + x.1.2) * 2 ^ (16 + x.2 * (1 + m))).sum

/-- ENCODE_GROUP of 16 values (R87). -/
def encodeGroup (m S : Nat) (xs : List Fl) : SdbGroup :=
  let found := sdbFindG m S xs 255
  let g := found.getD 0
  let lim := 2 ^ m
  let at_ (e : Nat) : Fl := xs.getD e (.fin false 0 0)
  let mu (i : Nat) : Nat :=
    if sdbMag m S g 1 (at_ (2 * i)) < lim ∧ sdbMag m S g 1 (at_ (2 * i + 1)) < lim then 1 else 0
  let raw (e : Nat) : Nat := sdbMag m S g (mu (e / 2)) (at_ e)
  let es := (List.range 16).map fun e =>
    let M := min (raw e) (lim - 1)
    (decide (M ≠ 0) && (at_ e).negative, M)
  { bits := sdbPack m g ((List.range 8).map mu) es
    ovf := found.isNone
    flushed := ((List.range 16).filter fun e => raw e = 0 ∧ !(at_ e).isZero).length
    clamped := ((List.range 16).filter fun e => raw e ≥ lim).length }

/-- An encoded block with its events. -/
structure SdbEnc where
  bytes : List Byte
  ovf : Bool
  evs : List Ev
  deriving DecidableEq, Repr

/-- Classes 5 and 6 as event lists. -/
def sdbEvents (flushed clamped : Nat) : List Ev := List.replicate flushed 0x40 ++ List.replicate clamped Ev.sat

/-- Groups laid into a block's payload. -/
def sdbBytes (fmt m S : Nat) (gs : List Nat) : List Byte :=
  leBytes 1 fmt ++ leBytes 1 S ++ leBytes 62 (gs.zipIdx.map fun x => x.1 * 2 ^ (x.2 * sdbG m)).sum

/-- ENCODE_BLOCK (R87); elements past the list are zero. Saturation counts for a caller that cannot rescale. -/
def encodeBlock (fmt S : Nat) (xs : List Fl) : SdbEnc :=
  let m := (sdbM fmt).getD 7
  if S = 0xFF then { bytes := leBytes 1 fmt ++ leBytes 1 S ++ leBytes 62 0, ovf := false, evs := [Ev.nan] }
  else
    let gs := (List.range (sdbGroups m)).map fun j => encodeGroup m S ((xs.drop (16 * j)).take 16)
    { bytes := sdbBytes fmt m S (gs.map SdbGroup.bits)
      ovf := gs.any SdbGroup.ovf
      evs := gs.flatMap fun g => sdbEvents g.flushed (if g.ovf then g.clamped else 0) }

/-- The stride of a row of L elements (R86). -/
def sdbStride (n : Nat) : Nat := 64 * ((n + 47) / 48)

/-- A row encoded block by block and filled up to its stride with empty blocks (R86). `scale` is the caller's, or
chosen for each block. -/
def encodeRow (fmt : Nat) (scale : Option Nat) (xs : List Fl) : SdbEnc :=
  let per := sdbGroups ((sdbM fmt).getD 7) * 16
  let n := (xs.length + per - 1) / per
  let bs := (List.range n).map fun j =>
    let ys := (xs.drop (per * j)).take per
    encodeBlock fmt (scale.getD (chooseScale ys)) ys
  let used := bs.flatMap SdbEnc.bytes
  { bytes := used ++ List.replicate (sdbStride xs.length - used.length) 0
    ovf := bs.any SdbEnc.ovf
    evs := bs.flatMap SdbEnc.evs }

/-- A group taken down to a scale that is higher by δ: g gains δ; past 255 the group becomes zero and its non-zero
elements are flushed (R87, R173). -/
def rescaleGroup (m grp delta : Nat) : Nat × Nat :=
  let g := grp % 256
  if g + delta ≤ 255 then (grp + delta, 0)
  else (0, ((List.range 16).filter fun e => grp / 2 ^ (16 + e * (1 + m)) % 2 ^ m ≠ 0).length)

/-- A block rescaled by δ (R87). -/
def rescaleBlock (b : List Byte) (delta : Nat) : List Byte × Nat :=
  match sdbM (blkNat b 0 1) with
  | none => (b, 0)
  | some m =>
    let p := sdbPayload b
    let gs := (List.range (sdbGroups m)).map fun j => rescaleGroup m (p / 2 ^ (j * sdbG m) % 2 ^ sdbG m) delta
    (sdbBytes (blkNat b 0 1) m (blkNat b 1 1 + delta) (gs.map Prod.fst), (gs.map Prod.snd).sum)

/-- A value of a format from an SDB element or another float, rounded with RNE (R80, R85). -/
def Fmt.ofFl (f : Fmt) (x : Fl) : FR :=
  match x with
  | .nan => (f.nanBits, 0)
  | .inf n => (f.infinite n, if f.infBits.isNone then Ev.nan else 0)
  | .fin n m e => if m = 0 then f.zero n else f.round 0 n m e

end Sys2Proof.Machine
end

