-- ==== Sys2Proof/Machine/Moves.lean ====
section
/-! DEFINITION. The transfers of an engine operation as data: naturally aligned pieces, and the writes of a command of the
copy engine (R168 to R177). -/

namespace Sys2Proof.Machine

/-- The largest naturally aligned piece at an address, of at most 16 bytes and at most `n`. -/
def pieceSize (a n : Nat) : Nat :=
  if a % 16 = 0 ∧ 16 ≤ n then 16
  else if a % 8 = 0 ∧ 8 ≤ n then 8
  else if a % 4 = 0 ∧ 4 ≤ n then 4
  else if a % 2 = 0 ∧ 2 ≤ n then 2
  else 1

/-- A range of addresses as naturally aligned pieces. -/
def pieces (a n : Nat) : Nat → List (Nat × Nat)
  | 0 => []
  | f + 1 => if n = 0 then [] else (a, pieceSize a n) :: pieces (a + pieceSize a n) (n - pieceSize a n) f

/-- A flag bit of byte 40. -/
def blkFlag (b : List Byte) (k : Nat) : Bool := blkNat b 40 1 / 2 ^ k % 2 = 1

/-- One write of an operation: its row, address, length and place in the buffer. -/
structure Move where
  row : Nat
  addr : Nat
  n : Nat
  off : Nat
  deriving DecidableEq, Repr

/-- The writes of an operation, row by row: a whole element of CPY, naturally aligned pieces else. -/
def EngOp.moves (o : EngOp) (n : Nat) (whole four : Bool) : List Move :=
  o.elems.zipIdx.flatMap fun e =>
    let a := e.1.2.1.toNat
    if whole then [{ row := e.1.1, addr := a, n, off := n * e.2 }]
    else if four then (List.range (n / 4)).map fun j => { row := e.1.1, addr := a + 4 * j, n := 4, off := n * e.2 + 4 * j }
    else (pieces a n n).map fun p => { row := e.1.1, addr := p.1, n := p.2, off := n * e.2 + (p.1 - a) }

/-- How an operation writes. -/
structure HowWrite where
  spad : Bool
  policy : Nat
  mode : Nat := 0
  deriving DecidableEq, Repr

/-- How an operation of the copy engine writes, and its moves. -/
def EngOp.writing (o : EngOp) : HowWrite × List Move :=
  let flags := blkNat o.blk 40 1
  match o.kind with
  | .cpy size k => ({ spad := k = 1 || k = 3, policy := o.policy }, o.moves size true false)
  | .pack => ({ spad := blkFlag o.blk 1, policy := flags / 16 % 4 }, o.moves (sdbStride (blkNat o.blk 21 1)) false false)
  | .kvcp => ({ spad := blkFlag o.blk 0, policy := 0 }, o.moves (o.buf.length / max 1 o.elems.length) false false)
  | .scat =>
    let mode := flags / 4 % 4
    ({ spad := blkFlag o.blk 1, policy := flags / 16 % 4, mode }, o.moves (blkNat o.blk 20 4) false (mode != 0))
  | _ => ({ spad := blkFlag o.blk 1, policy := flags / 16 % 4 }, o.moves (blkNat o.blk 20 4) false false)

end Sys2Proof.Machine
end

