-- ==== Sys2Proof/Machine/Windows.lean ====
section
/-! DEFINITION. On-chip windows (R105, R106): what each window of a core reads as and what a write through it does.
The layout of the control window beyond the offsets that the manual names is the model's (log 13). What a row of the
register file that no group holds reads as is a free value (log 25). -/

namespace Sys2Proof.Machine

/-! ## Registers of a core in its control window -/

/-- A pointer leads through an on-chip window to a core. -/
def State.leadsTo (s : State) (die : Nat) (asid : BitVec 16) (ea : Dword) (c : Nat) : Bool :=
  let sp := spaceOf asid ea
  let va := bitsNat ea 56 0
  !ea.getLsbD 56 &&
  (match ((s.xc.find? (parkKey die sp va)).map Walked.leaf).getD (s.walk sp va) with
   | .leaf l =>
     let pa := s.physical die sp va l
     s.place pa = .window && s.windowCore (windowOf pa) = some c
   | .fault _ => false)

/-- Writes that an engine operation has issued at its own core and that have not landed: rows and elements of its scratchpad
and slots, and at the end of a command its result record or register (R168 to R176, R263, R291, R314, R338). -/
def EngOp.coreWrites (o : EngOp) : Nat :=
  let going := o.started && !o.done
  match o.kind with
  | .cpy _ _ | .tile | .gath | .scat | .pack => if going && o.writing.1.spad then o.writing.2.length - o.cursor else 0
  | .kvcp => if going && o.writing.1.spad && blkNat o.blk 24 1 = 0 then o.writing.2.length - o.cursor else 0
  | .unpk => if going then blkNat o.blk 18 1 - o.cursor else 0
  | .tt _ => if o.done then (if blkNat o.blk 48 4 = 0xFFFFFFFF || o.skip = [1] then 0 else 1) else (o.buf.length - o.cursor + 4095) / 4096
  | .smpl sub _ =>
    if o.done then 1
    else if going && (sub = 1 || sub = 2) && blkNat o.blk 28 1 / 4 % 2 = 1 then blkNat o.blk 16 4 - o.cursor else 0
  | .tasknew _ => if o.done then 1 else 0
  | .coll | .pgreq => 0

/-- An operation may still write its own core. -/
def EngOp.writesCore (o : EngOp) : Bool :=
  match o.kind with
  | .cpy _ _ | .tile | .gath | .scat | .pack => o.writing.1.spad
  | .kvcp => o.writing.1.spad && blkNat o.blk 24 1 = 0
  | .unpk | .tt _ | .smpl _ _ | .tasknew _ => true
  | .coll | .pgreq => false

/-- Addresses in memory of the writes that an engine operation has issued and that have not landed, with the counter of its
completion. -/
def EngOp.memoryWrites (o : EngOp) : List Dword :=
  let going := o.started && !o.done
  (match o.kind with
   | .cpy _ _ | .tile | .gath | .scat | .pack | .kvcp =>
     if going && !o.writing.1.spad then (o.writing.2.drop o.cursor).map fun m => BitVec.ofNat 64 m.addr else []
   | .coll => if going then [BitVec.ofNat 64 (blkNat o.blk 16 8)] else []
   | .smpl sub _ =>
     if going && (sub = 1 || sub = 2) && blkNat o.blk 28 1 / 4 % 2 = 0 then
       (List.range (blkNat o.blk 16 4 - o.cursor)).map fun i =>
         BitVec.ofNat 64 (blkNat o.blk 8 8) + BitVec.ofNat 64 (4 * (o.cursor + i))
     else []
   | _ => []) ++
  (match o.kind with
   | .pgreq => if o.elems.isEmpty && o.target ≠ 0 then [o.target] else []
   | _ => if o.done && !o.acked && bitsNat o.target 63 62 = 1 then [zext 64 (o.target.extractLsb' 0 57)] else [])

/-- Writes of an engine operation that are aimed at a core and have not landed: at its own, where its workgroup still is, and
at any through a window. -/
def State.opAims (s : State) (c : Nat) (o : EngOp) : Nat :=
  (if o.core = c && (s.wg o.wg).st != .saved then o.coreWrites else 0) +
  (o.memoryWrites.filter fun ea => s.leadsTo (dieOf o.core) o.asid ea c).length

/-- A request of another module that waits here is a write aimed at a core. -/
def State.remoteAims (s : State) (c : Nat) (r : RemoteIn) : Bool :=
  (match r.msg.op with
   | .write _ _ => true
   | _ => false) && s.leadsTo 0 r.msg.asid (BitVec.ofNat 64 r.msg.va.toNat) c

/-- Writes aimed at a core that have been issued and have not landed (R263): queued stores and atomics of its own
scratchpad, and stores, engine operations and remote writes whose destination it is. -/
def State.inflight (s : State) (c : Nat) : Nat :=
  let queued := (s.cores.map fun k => (k.2.groups.map fun g => (g.2.sq.map fun u => (u.accs.filter fun a =>
    !a.done && (if u.spad then k.1 = c else s.leadsTo (dieOf k.1) u.asid a.ea c)).length).sum).sum).sum
  min 0xFFFF (queued + (s.ops.map (s.opAims c)).sum + (s.remoteIn.filter fun r => s.remoteAims c r.2).length)

/-- HALT_STAT (R263). -/
def State.haltStat (s : State) (c : Nat) : Dword :=
  let k := s.core c
  BitVec.ofNat 64 (s.inflight c * 2 ^ 16 + k.haltFail.toNat * 8 + k.quiesced.toNat * 4 +
    k.haltQuiesce.toNat * 2 + k.halted.toNat)

/-- A write of %NUM_EVT clears every field in which a bit of the value is set (R89). -/
def Core.writeEvt (k : Core) (x : Dword) : Core :=
  { k with numEvt := (List.range 8).foldl (fun e i =>
      if bitsNat x (8 * i + 7) (8 * i) = 0 then e else putBits e (8 * i + 7) (8 * i) 0) k.numEvt }

/-- The window exponent of class k (R89). -/
def Core.winExp (c : Core) (k : Nat) : Nat := bitsNat c.numWin (4 * k + 3) (4 * k)

/-- The counts belong to the windows of this clock (R90). -/
def Core.markWindows (k : Core) (clock : Nat) : Core :=
  { k with epochs := (List.range 8).map fun i => (i, clock / 2 ^ (10 + k.winExp i)) }

/-- A write of %NUM_WIN: the windows run from the clock's own multiples (R89, R90). -/
def Core.writeWin (k : Core) (x : Dword) (clock : Nat) : Core :=
  ({ k with numWin := x &&& 0xFFFFFFFFFF#64 } : Core).markWindows clock

/-- A write of SNAP_CTL: CODE and the reserved bits stay (R375). -/
def Core.writeSnapCtl (k : Core) (x : Dword) : Core :=
  { k with snapCtl := snapCtlWrite k.snapCtl x }

/-- A write of DBG_CTL; bit 1 is a debug request (R376). -/
def State.writeDbgCtl (s : State) (c : Nat) (x : Dword) : State :=
  let s := s.modCore c fun k => { k with dbgCtl := x &&& 1#64 }
  if x.getLsbD 1 then s.shoot 2 none else s

/-- A 64-bit register of the control window, by its offset (R105, R263, R376, log 13). -/
def State.controlRead (s : State) (c off : Nat) : Dword :=
  let k := s.core c
  if off = 0x0000 then k.numEvt
  else if off = 0x0008 then k.numThr
  else if off = 0x0010 then k.numWin
  else if off = 0x0100 then s.haltStat c
  else if off = 0x0108 then k.dbgCtl
  else if off = 0x0110 then k.snapCtl
  else if off = 0x0118 then BitVec.ofNat 64 ((k.snapshot.map Prod.fst).getD 0)
  else if off = 0x0120 then BitVec.ofNat 64 ((k.snapshot.map Prod.snd).getD 0)
  else if off = 0x0128 then BitVec.ofNat 64 k.redirects
  else if 0x1000 ≤ off ∧ off < 0x1600 then
    -- the group table: RB, place and presence of each group
    let g := s.group c ((off - 0x1000) / 8)
    if g.present then BitVec.ofNat 64 (2 ^ 63 + (off - 0x1000) / 8 % 24 * 2 ^ 16 + g.rb) else 0
  else if 0x1800 ≤ off ∧ off < 0x1E00 then
    -- the workgroup table: slot and tile bases of the workgroup of each group
    let g := s.group c ((off - 0x1800) / 8)
    if g.present then BitVec.ofNat 64 (2 ^ 63 + (s.wg g.wg).tileBase * 2 ^ 16 + (s.wg g.wg).slotBase) else 0
  else 0

/-- A 64-bit write of a register of the control window; a read-only one keeps its value (R106). -/
def State.controlWrite (s : State) (c off : Nat) (x : Dword) : State :=
  if off = 0x0000 then s.modCore c fun k => k.writeEvt x
  else if off = 0x0008 then s.modCore c fun k => { k with numThr := x }
  else if off = 0x0010 then s.modCore c fun k => k.writeWin x s.clock
  else if off = 0x0108 then s.writeDbgCtl c x
  else if off = 0x0110 then s.modCore c fun k => k.writeSnapCtl x
  else s

/-! ## Words of a window -/

/-- A 32-bit word of a tile; a tile that is not listed holds +0 (R264). -/
def Core.tileWord (k : Core) (tile row col : Nat) : Word := (k.tiles.get [] tile).get 0 (row * 64 + col)

/-- The core with a word of a tile written. -/
def Core.setTileWord (k : Core) (tile row col : Nat) (x : Word) : Core :=
  { k with tiles := k.tiles.set tile ((k.tiles.get [] tile).set (row * 64 + col) x) }

/-- The tile that a queued MMA names. -/
def MmaJob.tile (j : MmaJob) : Nat := j.tileBase + blkNat j.blk 24 1

/-- An MMA has been issued for a tile of the core that no MWAIT has observed since; one whose workgroup has ended counts
while it is queued or runs (R282). -/
def State.tileWatched (s : State) (c tile : Nat) : Bool :=
  (s.core c).mq.any (fun j => j.tile = tile) ||
  s.wgs.any fun x => x.2.st = .running && x.2.core = c && x.2.unseen.any fun u => x.2.tileBase + u.1 = tile

/-- The 4-byte word at an offset of a window (R105). -/
def State.windowWord (s : State) (w : Window) (c off : Nat) : Word :=
  match w.win with
  | 0 =>
    let part := off / 0x20000
    let row := off % 0x20000 / 0x80
    match s.rowOwner c part row with
    | some p => (s.group c p).rv (off % 0x80 / 4) (row - (s.group c p).rb)
    | none => (s.core c).rows.get (Config.unheldWord s.clock c (off / 4)) (off / 4)
  | 1 =>
    let g := s.group c (off / 256)
    if g.present then (g.rs (off % 256 / 8) >>> (off % 8 * 8)).setWidth 32 
    else (s.core c).urows.get (Config.unheldWord s.clock c (2 ^ 18 + off / 4)) (off / 4)
  | 3 =>
    if s.tileWatched c (off / 0x4000) then Config.freeWord (s.free + off / 4)
    else (s.core c).tileWord (off / 0x4000) (off % 0x4000 / 256) (off % 256 / 4)
  | 5 => (s.controlRead c (off / 8 * 8) >>> (off % 8 * 8)).setWidth 32
  | _ => 0

/-- Bytes of a window (R105). -/
def State.windowRead (s : State) (pa n : Nat) : List Byte :=
  let w := windowOf pa
  match s.windowCore w with
  | none => List.replicate n 0
  | some c =>
    if w.win = 2 then (s.core c).spadRead w.off n
    else if w.win = 5 ∧ 0x8000 ≤ w.off ∧ w.off < 0x9000 then
      -- the row scales of the slots (R266)
      (List.range n).map fun i =>
        ((s.core c).slots.get {} ((w.off - 0x8000 + i) / 64)).scales.get 0x7F ((w.off - 0x8000 + i) % 64)
    else if w.win = 4 then
      (List.range n).map fun i =>
        (((s.core c).slots.get {} ((w.off + i) / 9216)).bytes.get 0 ((w.off + i) % 9216))
    else
      (List.range n).map fun i =>
        (s.windowWord w c ((w.off + i) / 4 * 4)).extractLsb' (8 * ((w.off + i) % 4)) 8

/-- A 4-byte unit of a slot. -/
def Slot.unitWord (x : Slot) (u : Nat) : Word :=
  BitVec.ofNat 32 (leNat ((List.range 4).map fun i => x.bytes.get 0 (4 * u + i)))

/-- A slot with bytes written: the units touched may be read either way until an MFOP orders the write (R164). -/
def Slot.store (x : Slot) (o : Nat) (bs : List Byte) (writer : SlotWriter) : Slot :=
  if bs.isEmpty then x
  else
    let us := (List.range ((o + bs.length - 1) / 4 - o / 4 + 1)).map (· + o / 4)
    { x with
      bytes := bs.zipIdx.foldl (fun t b => t.set (o + b.2) b.1) x.bytes
      -- a row that is written as a whole holds poison no longer
      poison := x.poison.filter fun r => !(decide (o ≤ 144 * r) && decide (144 * r + 144 ≤ o + bs.length))
      writes := x.writes ++ us.map fun u => { unit := u, old := x.unitWord u, writer } }

/-- A slot with a row scale written; row r's scale is unit 2,304 + r among the slot's writes (R266, R272). -/
def Slot.storeScale (x : Slot) (r : Nat) (b : Byte) (writer : SlotWriter) : Slot :=
  { x with scales := x.scales.set r b
           writes := x.writes ++ [{ unit := 2304 + r, old := zext 32 (x.scales.get 0x7F r), writer }] }

/-- A 4-byte word written through window 0, 1 or 3 (R106). -/
def State.windowPutWord (s : State) (w : Window) (c off : Nat) (x : Word) : State :=
  match w.win with
  | 0 =>
    let part := off / 0x20000
    let row := off % 0x20000 / 0x80
    match s.rowOwner c part row with
    | some p => s.modGroup c p fun g => g.wv (off % 0x80 / 4) (row - g.rb) x
    | none => s.modCore c fun k => { k with rows := k.rows.set (off / 4) x }
  | 1 =>
    let p := off / 256
    if (s.group c p).present then
      s.modGroup c p fun g =>
        let n := off % 256 / 8
        g.ws n (putBits (g.rs n) (off % 8 * 8 + 31) (off % 8 * 8) x.toNat)
    else s.modCore c fun k => { k with urows := k.urows.set (off / 4) x }
  | 3 => s.modCore c fun k => k.setTileWord (off / 0x4000) (off % 0x4000 / 256) (off % 256 / 4) x
  | _ => s

/-- A tile's words become free values (R106, R282). -/
def State.tileUndefined (s : State) (c tile : Nat) : State :=
  let ws := (List.range 4096).map fun i => (i, Config.freeWord (s.free + i))
  { s.modCore c fun k => { k with tiles := k.tiles.set tile ws } with free := s.free + 4096 }

/-- A write to a tile between an MMA and its MWAIT leaves the tile undefined (R282). -/
def State.spoilTile (s : State) (c tile : Nat) : State :=
  if s.tileWatched c tile then
    (s.modCore c fun k => { k with mq := k.mq.map fun j => if j.tile = tile then { j with spoiled := true } else j
      }).tileUndefined c tile
  else s

/-- The elements of a block of a PACK (R84). -/
def EngOp.packPer (o : EngOp) : Nat := sdbGroups ((sdbM (blkNat o.blk 17 1)).getD 7) * 16

/-- The blocks of a row of a PACK that hold elements of the tile; those after them up to the stride are empty (R86). -/
def EngOp.packUsed (o : EngOp) : Nat := (blkNat o.blk 21 1 + o.packPer - 1) / o.packPer

/-- The blocks of a PACK that hold a word of its tile that passes a test, by row and column (R86, R174). -/
def EngOp.packBlocks (o : EngOp) (hit : Nat → Nat → Bool) : List (Nat × Nat) :=
  let per := o.packPer
  let cols := blkNat o.blk 21 1
  (List.range (blkNat o.blk 20 1)).flatMap fun i =>
    ((List.range o.packUsed).filter fun b =>
      (List.range per).any fun k => decide (b * per + k < cols) && hit (blkNat o.blk 19 1 + i) (b * per + k)).map fun b => (i, b)

/-- Copies out of a tile that have not completed give undefined values in the blocks of the words of the tile that are
written (R174). -/
def State.spoilPacks (s : State) (c tile : Nat) (hit : Nat → Nat → Bool) : State :=
  { s with ops := s.ops.map fun o =>
      if o.core = c ∧ o.kind = .pack ∧ (s.wg o.wg).tileBase + blkNat o.blk 16 1 = tile then
        { o with spoiled := o.packBlocks hit ++ o.spoiled, cursor := 0, done := false }
      else o }

/-- A write through a window lands (R106); `who` tells an MFOP of its thread where it came from (R164). -/
def State.windowLand (s : State) (c : Nat) (w : Window) (bs : List Byte) (who : SlotWriter := .other) : State :=
  match w.win with
  | 2 => s.modCore c fun k => k.spadLand w.off bs
  | 4 =>
    -- an access of at most 16 bytes lies in one slot
    s.modCore c fun k =>
      { k with slots := k.slots.set (w.off / 9216) ((k.slots.get {} (w.off / 9216)).store (w.off % 9216) bs who) }
  | 5 =>
    let words := (List.range ((bs.length + 7) / 8)).map fun i => (w.off / 8 * 8 + 8 * i)
    words.foldl (fun s o =>
      -- bytes not written keep the register's value, but bytes of the write-one-to-clear %NUM_EVT are zero
      let old := if o = 0 then 0 else s.controlRead c o
      let new := (List.range 8).foldl (fun (x : Dword) i =>
        if w.off ≤ o + i ∧ o + i < w.off + bs.length then
          putBits x (8 * i + 7) (8 * i) (bs.getD (o + i - w.off) 0).toNat else x) old
      s.controlWrite c o new) s
  | _ =>
    let s := (List.range (bs.length / 4)).foldl (fun s i =>
      s.windowPutWord w c (w.off + 4 * i) (BitVec.ofNat 32 (blkNat bs (4 * i) 4))) s
    if w.win = 3 then (s.spoilTile c (w.off / 0x4000)).spoilPacks c (w.off / 0x4000) fun r k =>
      decide (w.off % 0x4000 ≤ 256 * r + 4 * k ∧ 256 * r + 4 * k < w.off % 0x4000 + bs.length) else s

/-- Writes at an address are held at their source: it leads through a window to a quiesced core (R262). -/
def State.quietAt (s : State) (pa : Nat) : Bool :=
  let w := windowOf pa
  s.place pa = .window && decide (w.win < 5) &&
  match s.windowCore w with
  | none => false
  | some c => (s.core c).quiesced

/-- A write through a window: one that has no source in the module which could hold it waits at a quiesced core until its
release (R262). -/
def State.windowWrite (s : State) (pa : Nat) (bs : List Byte) (who : SlotWriter := .other) : State :=
  let w := windowOf pa
  match s.windowCore w with
  | none => s
  | some c =>
    if w.win ≥ 6 ∨ w.off + bs.length > s.windowSize c w.win then s
    else if (s.core c).quiesced ∧ w.win < 5 then
      s.modCore c fun k => { k with held := k.held ++
        [{ pa, bytes := bs, who }] }
    else s.windowLand c w bs who

/-! ## Any place -/

/-- Bytes at a place, as an agent without an L1 reads them (R106, R252). -/
def State.readAt (s : State) (pa n : Nat) : List Byte :=
  if s.place pa = .window then s.windowRead pa n else s.view pa n

/-- Bytes written at a place by an agent without an L1 (R106, R252, R318). -/
def State.writeAt (s : State) (pa : Nat) (bs : List Byte) (who : SlotWriter := .other) : State :=
  if s.place pa = .window then s.windowWrite pa bs who else s.softWrite pa bs

end Sys2Proof.Machine
end

