-- ==== Sys2Proof/Machine/Access.lean ====
section
/-! DEFINITION. Accesses of threads: the checks of R150, loads from their issue to the moment they take their value
(R151 to R155, R192 to R195), and stores up to the group's store queue (R152, R194). -/

namespace Sys2Proof.Machine

/-! ## Checks -/

/-- Checks 1 to 3 of R150: the cause of the first that fails. -/
def State.check13 (s : State) (core : Nat) (ea : Dword) (size : Nat) (spad : Bool) : Option Nat :=
  if !spad ∧ bitsNat ea 59 57 ≠ 0 then some Cause.noncanonical
  else if ea.toNat % size ≠ 0 then some Cause.alignment
  else if spad ∧ ea.toNat + size > (s.core core).spadSize then some Cause.scratchRange
  else none

/-- The L1 of a core holds the line of an access, which then does not reach the L2 (R97). -/
def State.l1Holds (s : State) (core : Nat) (asid : BitVec 16) (ea : Dword) : Bool :=
  ((s.core core).l1.find? (l1Key (spaceOf asid ea) (lineOf (bitsNat ea 56 0)))).isSome

/-- All the checks of R150. -/
def State.checkAcc (s : State) (core : Nat) (asid : BitVec 16) (ea : Dword) (size : Nat) (spad : Bool) (q : Ask) :
    State × Found :=
  match s.check13 core ea size spad with
  | some c => (s, .trap c)
  | none =>
    if spad then (s, .ok {})
    else
      s.check (dieOf core) asid ea size { q with again := q.again || s.l1Holds core asid ea }

/-- The checks of a MODE 3 access come before check 3's range (R110, R149). -/
def State.ringCheck (s : State) (l : Nat) (ea : Dword) (size : Nat) (a : BitVec 7) (b : BitVec 4) (m : BitVec 2) :
    Option Nat :=
  if m = 3 ∧ ea.toNat % size = 0 ∧ (s.ring (b.toNat % 8) l a size).isNone then some Cause.scratchRange else none

/-- The address register of a MODE 3 access moves on (R110). -/
def State.ringStep (s : State) (l : Nat) (size : Nat) (a : BitVec 7) (b : BitVec 4) (m : BitVec 2) : State :=
  if m = 3 then
    match s.ring (b.toNat % 8) l a size with
    | some (base, len) =>
      s.onHere fun g => g.wv l a.toNat (ringNext base len (s.v l a).toNat size)
    | none => s
  else s

/-- A thread that has passed its segment's flush in a deterministic launch may make no access (R241). -/
def State.flushed (s : State) (l : Nat) : Bool :=
  s.curLaunch.hdr.det && (s.here.thread l).flushed

/-- The address space of the chain's launch. -/
def State.asid (s : State) : BitVec 16 := s.curLaunch.asid

/-- The open region of a thread: its scope and order number (R230). -/
def State.regionTag (s : State) (core place lane : Nat) : Option (Bool × Nat) :=
  let t := s.thread core place lane
  if t.inRegion then
    ((s.inst (instOf core t.far.dieScope)).regions.find? t.far.slot).map fun r => (t.far.dieScope, r.order)
  else none

/-- A thread is in a region that has not continued irrevocably (R233). -/
def State.speculates (s : State) (core place lane : Nat) : Bool :=
  let t := s.thread core place lane
  t.inRegion && !t.far.irrev

/-- A thread waits until its region may continue irrevocably (R233). -/
def State.askIrrevocable (s : State) (core place lane : Nat) : State :=
  s.modThread core place lane fun t =>
    if t.waits.any fun w => w.kind = .irrevocable then t
    else { t with waits := t.waits ++ [{ at_ := t.pos, kind := .irrevocable }] }

/-! ## Requests to other modules -/

/-- The length of the requester's timer, 2 ms, in ns (R261). -/
def remoteTimer : Nat := 2000000

/-- A message to a prefix directory or a holder in a packet (log 18). -/
def prefixBytes : PrefixMsg → List Byte
  | .query h => [0] ++ leBytes 8 h.toNat
  | .publish h a b c => [1] ++ leBytes 8 h.toNat ++ leBytes 2 a ++ leBytes 2 b ++ leBytes 4 c
  | .unpublish h a => [2] ++ leBytes 8 h.toNat ++ leBytes 2 a
  | .fetch h a b c m o => [3] ++ leBytes 8 h.toNat ++ leBytes 2 a ++ leBytes 2 b ++ leBytes 1 c ++ leBytes 2 m ++ leBytes 8 o
  | .release h m o => [5] ++ leBytes 8 h.toNat ++ leBytes 2 m ++ leBytes 8 o
  | .attend h a b x rs => [4] ++ leBytes 8 h.toNat ++ leBytes 2 a ++ leBytes 2 b ++ leBytes 4 x.toNat ++
      leBytes 2 rs.length ++ rs.flatMap fun r => leBytes 2 r.length ++ r.flatMap fun w => leBytes 4 w.toNat

/-- The operation of a request in a packet (log 18). -/
def opBytes : RemoteOp → List Byte
  | .read n => [0] ++ leBytes 2 n
  | .fetch => [11]
  | .write n d => [1] ++ leBytes 2 n ++ leBytes 16 d.toNat
  | .atomic w f b => [2] ++ leBytes 1 w.toNat ++ leBytes 1 f ++ leBytes 8 b.toNat
  | .cas n a b => [3] ++ leBytes 2 n ++ leBytes 16 a.toNat ++ leBytes 16 b.toNat
  | .patom f b => [4] ++ leBytes 1 f ++ leBytes 8 b.toNat
  | .probe n => [5] ++ leBytes 2 n
  | .page => [6]
  | .tagset n => [7] ++ leBytes 4 n
  | .tagget => [8]
  | .prefixDir m => [9] ++ prefixBytes m
  | .signal t b => [10] ++ leBytes 8 t.toNat ++ leBytes 8 b.toNat

/-- A request in a packet; the manual gives packets no layout (log 18). -/
def requestBytes (src seq : Nat) (asid : BitVec 16) (ea : Dword) (op : RemoteOp) (redirected : Bool) : List Byte :=
  leBytes 2 src ++ leBytes 8 seq ++ leBytes 2 asid.toNat ++ leBytes 8 ea.toNat ++ leBytes 1 redirected.toNat ++ opBytes op

/-- A request of this module as a packet. -/
def State.requestPacket (s : State) (id : Nat) (r : RemoteReq) : Packet :=
  { src := s.dev.toNat, core := r.core, dst := r.target, hops := 0, vc := 0, path := 0,
    payload := requestBytes s.dev.toNat id r.asid r.ea r.op false }

/-- A request packet enters the router; it is kept until it has been acknowledged, since it may have to be sent again
(R343). -/
def State.sendRequest (s : State) (name : Nat) (p : Packet) : State :=
  { s with packets := s.packets ++ [p], sent := s.sent ++ [(name, p)] }

/-- A request to another module is sent (R208, R261). -/
def State.openRemote (s : State) (core target : Nat) (op : RemoteOp) (ea : Dword) (asid : BitVec 16) :
    State × Nat :=
  let r : RemoteReq := { target, core, deadline := s.timeNs + remoteTimer, op, ea, asid }
  (({ s with remotes := s.remotes.set s.nextId r, nextId := s.nextId + 1 } : State).sendRequest s.nextId
    (s.requestPacket s.nextId r), s.nextId)

/-! ## A thread's own queued accesses -/

/-- The byte that the latest queued store before a load holds, of the threads that make it (R192); a store of a region
that has aborted holds none (R211). -/
def Group.forward (g : Group) (lanes : List Nat) (serial : Nat) (spad : Bool) (a : Nat) : Option Byte :=
  g.sq.foldl (fun b u =>
    if u.serial < serial ∧ u.spad = spad ∧ u.op = .store then
      u.accs.foldl (fun b x =>
        let o := accAddr spad x.ea
        if u.by x lanes ∧ !x.done ∧ !x.dropped ∧ o ≤ a ∧ a < o + u.size then
          some (BitVec.ofNat 8 (x.data.toNat / 2 ^ (8 * (a - o)))) else b) b
    else b) none

/-- Every byte of a load is one that the thread's own queued stores hold (R192). -/
def Group.forwards (g : Group) (r : LoadReq) : Bool :=
  (List.range r.size).all fun i => (g.forward r.lanes r.serial r.spad (accAddr r.spad r.ea + i)).isSome

/-- The threads have a queued access before a serial that has not performed. -/
def Group.pendingBefore (g : Group) (lanes : List Nat) (serial : Nat) : Bool :=
  g.sq.any fun u => decide (u.serial < serial) && u.accs.any fun x => u.by x lanes && !x.done

/-- The bytes a load takes, with the thread's own queued bytes over them (R192). -/
def Group.merge (g : Group) (r : LoadReq) (bs : List Byte) : List Byte :=
  bs.zipIdx.map fun b => (g.forward r.lanes r.serial r.spad (accAddr r.spad r.ea + b.2)).getD b.1

/-- A load of another module's memory may be sent: the thread's earlier loads of this module have their values, and its
earlier accesses of the same bytes have performed (R193, R194). -/
def State.maySend (s : State) (core : Nat) (r : LoadReq) : Bool :=
  !s.loadsBefore core r true &&
  !(s.group core r.place).owes r.lanes r.serial false (accAddr false r.ea) r.size fun _ => true

/-! ## The issue of a load -/

/-- A load enters the core's list of loads that have not taken their value. -/
def State.pushLoad (s : State) (r : LoadReq) : State :=
  (s.modCore s.cur.core fun k => { k with loads := k.loads ++ [{ r with id := s.nextId }] }).fresh

/-- The request that a load makes of another module. A page of this module that is forwarded is resident (R155). -/
def LoadReq.remoteOp (r : LoadReq) : RemoteOp :=
  match r.dest with
  | .probe _ _ _ => if r.ea.getLsbD 56 then .probe r.size else .read r.size
  | .tag _ => .tagget
  | _ => .read r.size

/-- A probed page is not resident: the destination and the predicate are cleared (R155). -/
def zeroLoad (d : LoadDest) (t : Thread) : Thread :=
  match d with
  | .probe sz d pd =>
    let n := if sz = 6#3 then 4 else if sz = 5#3 then 2 else 1
    let t := (List.range n).foldl (fun t i => t.wv (d + i) 0) t
    { t with p := putPred t.p pd false }
  | _ => t

/-- A load that tells residency instead of parking (R155). -/
def LoadDest.probes : LoadDest → Bool
  | .probe _ _ _ => true
  | _ => false

/-- TAGGET, which compares no tag (R162). -/
def LoadDest.isTag : LoadDest → Bool
  | .tag _ => true
  | _ => false

/-- A lane's load issues: its checks are made, and it waits for its value (R150, R151, R256); `uni` are the lanes of a
load made once for the unit. -/
def State.issueLoad (s : State) (l : Nat) (dest : LoadDest) (ea : Dword) (size : Nat) (spad : Bool)
    (q : Ask) (uni : List Nat) : State :=
  let core := s.cur.core
  let die := dieOf core
  let asid := s.asid
  let tag := if spad then none else s.regionTag core s.cur.place l
  let spec := !spad && s.speculates core s.cur.place l
  let r : LoadReq := { id := s.nextId, place := s.cur.place, lane := l, uni, dest, ea, size, spad, policy := q.policy,
                       asid, serial := s.nextId, issued := s.clock, region := tag, word := s.curWord, unit := s.unitAddr,
                       res := s.chainRes, ready := (l :: uni).foldl (fun n x => max n (s.cur.rd.thread x).since) 0 }
  match s.checkAcc core asid ea size spad q with
  | (s, .trap c) => s.raise l c ea
  | (s, .park m) =>
    if dest.probes ∧ !m then s.onHere fun g => g.modThread l (zeroLoad dest)
    else if s.here.forwards r ∧ !dest.isTag then s.pushLoad r
    else
      let sp := spaceOf asid ea
      (s.parkOn die sp (bitsNat ea 56 0) 1 m).pushLoad { r with park := some (parkKey die sp (bitsNat ea 56 0)) }
  | (s, .remote t) =>
    if spec then (s.pushLoad r).wait l .irrevocable
    else if !s.maySend core r then s.pushLoad r
    else match s.openRemote core t r.remoteOp ea asid with
      | (s, id) => s.pushLoad { r with remote := some id }
  | (s, .ok loc) =>
    let s := s.pushLoad r
    if spec ∧ loc.unspeculable then s.wait l .irrevocable else s

/-! ## The issue of a store -/

/-- A lane's queued access issues: its checks are made, and it joins the unit's accesses (R150, R194, R256). -/
def State.issueAcc (x : State × List SqAcc) (a : SqAcc) (size : Nat) (spad : Bool) (kinds : BitVec 8) (q : Ask) :
    State × List SqAcc :=
  let s := x.1
  let core := s.cur.core
  let die := dieOf core
  let spec := !spad && s.speculates core s.cur.place a.lane
  let a := { a with region := if spad then none else s.regionTag core s.cur.place a.lane }
  match s.checkAcc core s.asid a.ea size spad q with
  | (s, .trap c) => (s.raise a.lane c a.ea, x.2)
  | (s, .park m) =>
    -- behind an earlier access of its queue it walks when it has come to the head (R256)
    if s.here.sq.any fun u => !u.accs.all SqAcc.done then (s, x.2 ++ [a])
    else
      let sp := spaceOf s.asid a.ea
      (s.parkOn die sp (bitsNat a.ea 56 0) kinds m,
        x.2 ++ [{ a with park := some (parkKey die sp (bitsNat a.ea 56 0)) }])
  | (s, .remote _) => (if spec then s.wait a.lane .irrevocable else s, x.2 ++ [a])
  | (s, .ok loc) =>
    (if spec ∧ loc.unspeculable then s.wait a.lane .irrevocable else s, x.2 ++ [a])

/-- A unit of accesses enters the group's store queue (R194). -/
def State.pushUnit (s : State) (u : SqUnit) : State :=
  if u.accs.isEmpty then s
  else
    (s.onHere fun g => { g with sq := g.sq ++ [{ u with
      serial := s.nextId, asid := s.asid, task := s.taskOf s.cur.core s.cur.place, word := s.curWord,
      unit := s.unitAddr, res := s.chainRes, issued := s.clock }] }).fresh

/-! ## Where a value lands -/

/-- The thread with a loaded value written by its size code (R151). -/
def Thread.putLoad (t : Thread) (sz : BitVec 3) (d : Nat) (bs : List Byte) : Thread :=
  let w (i : Nat) : Word := BitVec.ofNat 32 (blkNat bs (4 * i) 4)
  match sz with
  | 0 => t.wv d (BitVec.ofNat 32 (blkNat bs 0 1))
  | 1 => t.wv d (sext 32 (BitVec.ofNat 8 (blkNat bs 0 1)))
  | 2 => t.wv d (BitVec.ofNat 32 (blkNat bs 0 2))
  | 3 => t.wv d (sext 32 (BitVec.ofNat 16 (blkNat bs 0 2)))
  | 5 => (t.wv d (w 0)).wv (d + 1) (w 1)
  | 6 => (((t.wv d (w 0)).wv (d + 1) (w 1)).wv (d + 2) (w 2)).wv (d + 3) (w 3)
  | _ => t.wv d (w 0)

/-- A uniform load's value by its size code (R153). -/
def uniLoad (sz : BitVec 3) (bs : List Byte) : Dword :=
  match sz with
  | 0 => BitVec.ofNat 64 (blkNat bs 0 1)
  | 1 => sext 64 (BitVec.ofNat 8 (blkNat bs 0 1))
  | 2 => BitVec.ofNat 64 (blkNat bs 0 2)
  | 3 => sext 64 (BitVec.ofNat 16 (blkNat bs 0 2))
  | 5 => BitVec.ofNat 64 (blkNat bs 0 8)
  | _ => BitVec.ofNat 64 (blkNat bs 0 4)

/-- A load's value lands in its registers (R151, R153, R155). -/
def State.landLoad (s : State) (core : Nat) (r : LoadReq) (bs : List Byte) : State :=
  match r.dest with
  | .vec sz d => s.landThread core r.place r.lane fun t => if t.live then t.putLoad sz d bs else t
  | .uni sz d => s.modGroup core r.place fun g => g.ws d (uniLoad sz bs)
  | .probe sz d pd => s.landThread core r.place r.lane fun t =>
      if t.live then let t := t.putLoad sz d bs; { t with p := putPred t.p pd true } else t
  | .tag d => s.landThread core r.place r.lane fun t =>
      if t.live then t.wv d (BitVec.ofNat 32 (blkNat bs 0 1)) else t
  | .tile d _ _ => s.landThread core r.place r.lane fun t => if t.live then t.putLoad 5 d bs else t

/-- The thread of a lane of a place. -/
def State.who (s : State) (core place lane : Nat) : Who :=
  { wg := (s.group core place).wg, grp := (s.group core place).index, lane }

/-- A thread has read bytes of memory: completions that a counter there tells of have been observed (R164, R207). -/
def SlotWrite.observe (w : SlotWrite) (t : Who) (ea : Dword) (n : Nat) : SlotWrite :=
  match w.writer with
  | .ended wg grp tag k (some at_) ts =>
    if overlaps (bitsNat at_ 56 0) 8 (bitsNat ea 56 0) n then { w with writer := .ended wg grp tag k (some at_) (t :: ts) } else w
  | _ => w

/-- A thread of a core has read bytes of memory, which may be the counter of an UNPK into a slot of it (R164). -/
def State.observe (s : State) (core : Nat) (t : Who) (spad : Bool) (ea : Dword) (n : Nat) : State :=
  if spad then s
  else s.modCore core fun k => { k with slots := k.slots.mapVals fun _ x =>
    { x with writes := x.writes.map fun w => w.observe t ea n } }

/-! ## The moment a load takes its value -/

/-- A serial above those of all units in the group's queue. -/
def Group.newest (g : Group) : Nat := g.sq.foldl (fun n u => max n (u.serial + 1)) 0

/-- Bytes of the scratchpad that a thread reads as it issues, its own queued stores over them, but for those of the chain
in hand, whose members read before any of them writes (R191, R192). -/
def State.spadSeen (s : State) (core place lane off n : Nat) : List Byte :=
  let g := s.group core place
  let below := if s.cur.active then s.cur.serial else g.newest
  ((s.core core).spadRead off n).zipIdx.map fun b => (g.forward [lane] below true (off + b.2)).getD b.1

/-- What a load finds when it tries to take its value. -/
inductive Got where
  | wait
  | val (bs : List Byte)
  | trap (cause : Nat)
  | park (malformed : Bool)
  | remote (target : Nat)
  deriving DecidableEq, Repr

/-- The data of a line that an L1 serves to a load (R249). -/
def Core.l1Data (k : Core) (key id : Nat) : Option (BitVec 512) :=
  match k.l1.find? key with
  | none => none
  | some l =>
    match l.st with
    | .m | .o | .e | .s | .smAD | .smA | .imA => some l.data
    | .isDI => if l.serve.contains id then some l.data else none
    | _ => none

/-- A hit sets the line's RRPV to 0, but a stream access leaves it, and so does the access it was filled for (R102). -/
def State.l1Hit (s : State) (core key policy id : Nat) : State :=
  match (s.core core).l1.find? key with
  | some l => if policy = 3 ∨ l.filler = id then s else s.setL1 core key (some { l with rrpv := 0 })
  | none => s

/-- The committed bytes of an access: from the L1, requested when absent (R249), or from the home for what is not
allocated (R102, R252). -/
def State.readCommitted (s : State) (core : Nat) (r : LoadReq) (loc : Loc) : State × Option (List Byte) :=
  let key := l1Key loc.asid (lineOf loc.va)
  let part (d : BitVec 512) := ((lineBytes d).drop (loc.va % 64)).take r.size
  match (s.core core).l1Data key r.id with
  | some d => (s.l1Hit core key r.policy r.id, some (part d))
  | none =>
    if s.allocates loc.pa loc.leaf.cls r.policy then
      (s.l1Request core loc.asid (lineOf loc.va) loc.home (loc.pa / 64 * 64) (rrpvOf r.policy loc.leaf.cls) r.id false, none)
    else
      let s := if loc.place = .window then s else s.agentTouch loc.pa r.size
      (s, some (s.readAt loc.pa r.size))

/-- A load of memory takes its value, or waits (R192 to R194, R210, R230 to R233, R238). -/
def State.readMemory (s : State) (core : Nat) (r : LoadReq) (loc : Loc) : State × Got :=
  let g := s.group core r.place
  let line := lineOf loc.va
  let take (s : State) : State × Got :=
    match s.readCommitted core r loc with
    | (s, some bs) => (s, .val (g.merge r bs))
    | (s, none) => (s, .wait)
  if (loc.leaf.cls ≥ 2 ∨ loc.place = .window) ∧ g.pendingBefore r.lanes r.serial then (s, .wait)
  else match s.regionOf core r.region with
  | some (ref, slot, reg) =>
    if s.farHeld (some ref) loc.asid line false then (s, .wait)
    else if reg.irrev then
      match take s with
      | (s, .val bs) => (s.setInst ref ((s.inst ref).hold slot loc.asid line), .val bs)
      | x => x
    else if loc.unspeculable then (s.askIrrevocable core r.place r.lane, .wait)
    else
      let i := s.inst ref
      let o := loc.va % 64
      let srcs := i.sourcesOf slot reg.order loc.asid line o r.size
      if i.tooDeep slot srcs then
        (s.setInst ref { i with regions := i.regions.set slot { reg with waiting := true } }, .wait)
      else match s.readCommitted core r loc with
      | (s, some bs) => (s.farRead ref slot loc.asid line srcs,
          .val (g.merge r (overlay (i.visible slot reg.order loc.asid line) o bs)))
      | (s, none) => (s, .wait)
  | none => if s.farHeld none loc.asid line false then (s, .wait) else take s

/-- A load tries to take its value. The loads of one thread perform in their order, but those of other modules land in
any order among themselves (R194, R208). One whose page has been unmapped is served by the thread's own queued stores,
where they hold all of it (R192, R256). `again` says that it is not its first try (R102). -/
def State.tryLoad (s : State) (core : Nat) (r : LoadReq) (again : Bool := true) : State × Got :=
  let k := s.core core
  let g := s.group core r.place
  let a := accAddr r.spad r.ea
  match r.dest with
  | .tile _ lo hi => (s, .val (leBytes 4 lo.toNat ++ leBytes 4 hi.toNat))
  | _ =>
  if r.park.isSome ∨ r.remote.isSome then (s, .wait)
  else if s.loadsBefore core r (!r.spad && r.ea.getLsbD 56) then (s, .wait)
  else if g.mustWait r.lanes r.serial r.spad a r.size then (s, .wait)
  else if r.spad then
    (s, if k.spadPoisoned a r.size then .trap Cause.fatalMemory else .val (g.merge r (k.spadRead a r.size)))
  else
    let q : Ask := { policy := r.policy, tag := !r.dest.isTag, again := again || s.l1Holds core r.asid r.ea }
    match s.check (dieOf core) r.asid r.ea r.size q with
    | (s, .trap c) => (s, .trap c)
    | (s, .park m) =>
      (s, if g.forwards r ∧ !r.dest.probes ∧ !r.dest.isTag then .val (g.merge r (List.replicate r.size 0)) else .park m)
    | (s, .remote t) =>
      match s.regionOf core r.region with
      | some (_, _, reg) =>
        if !reg.irrev then (s.askIrrevocable core r.place r.lane, .wait)
        else (s, if s.maySend core r then .remote t else .wait)
      | none => (s, if s.maySend core r then .remote t else .wait)
    | (s, .ok loc) =>
      match r.dest with
      | .tag _ => (s, .val [if loc.leaf.tagen then (s.tagAt loc.asid loc.va).setWidth 8 else 0])
      | _ => s.readMemory core r loc

/-- The load leaves the core's list, and the thread's later loads go on; a line that only served waiting loads goes with
the last of them (R194, R250). -/
def State.dropLoad (s : State) (core : Nat) (r : LoadReq) : State :=
  let later (x : LoadReq) : Bool := decide (r.id < x.id) && x.place = r.place && x.accessBy r.lanes && !r.dest.isTile
  let left (k : Core) := (k.loads.filter fun x => x.id ≠ r.id).map fun x => if later x then { x with after := s.clock } else x
  let s := s.modCore core fun k => { k with loads := left k }
  let key := l1Key (spaceOf r.asid r.ea) (lineOf (bitsNat r.ea 56 0))
  match (s.core core).l1.find? key with
  | some l =>
    if l.st = .isDI ∧ !r.spad ∧ !((s.core core).loads.any fun x => l.serve.contains x.id) then s.setL1 core key none else s
  | none => s

/-- The load changed in the core's list. -/
def State.setLoad (s : State) (core : Nat) (r : LoadReq) : State :=
  s.modCore core fun k => { k with loads := k.loads.map fun x => if x.id = r.id then r else x }

/-! ## What a finished access lets go on -/

/-- The accesses of a thread before a serial have performed: its loads have their values and its stores have left
the queue (R199). -/
def State.fenceDone (s : State) (core place lane serial : Nat) : Bool :=
  !(s.group core place).pendingBefore [lane] serial &&
  !(s.core core).loads.any fun r => r.place = place && r.accessBy [lane] && decide (r.serial < serial)

/-- A lane of the chain waits until its earlier accesses have performed (R199). -/
def State.fenceWait (s : State) (l : Nat) : State :=
  if s.fenceDone s.cur.core s.cur.place l s.nextId then s else s.wait l (.fence s.nextId)

/-- A lane arrives at a barrier or a STEP: a release of its earlier accesses, and then a wait (R205). -/
def State.arrive (s : State) (l : Nat) (w : Wait) : State := (s.fenceWait l).wait l w

/-- A memory instruction whose CPOL order makes it an acquire: the lanes that did not trap wait for it (R156,
R199). -/
def State.acquire (s : State) (yes : Bool) : State :=
  if yes then s.each fun s l =>
    if s.cur.effects.any fun e => e.1 = l && (match e.2 with | .trap _ => true | _ => false) then s
    else s.fenceWait l
  else s

/-- Threads of a group whose fence is done continue, and what was held back by it may complete (R158, R205, R330). -/
def State.afterAccess (s : State) (core place : Nat) : State :=
  let s := s.modGroup core place fun g => { g with lanes := g.lanes.mapVals fun l t =>
    if t.waits.isEmpty then t
    else { t with waits := t.waits.filter fun w => match w.kind with
      | .fence n => !s.fenceDone core place l n
      | _ => true } }
  s.settle core place

/-- A thread's access fails away from its unit: the thread is owed the trap (R150, log 20). -/
def State.pendLoad (s : State) (core : Nat) (r : LoadReq) (cause : Nat) : State :=
  (s.dropLoad core r).landThread core r.place r.lane fun t =>
    if t.live then { t with pending := t.pending ++ [{ cause, word := r.word, addr := r.ea, unit := r.unit, res := r.res }] } else t

/-- LOAD_DATA_ARRIVAL (R151): the load takes its value if it can. -/
def State.loadArrives (s : State) (core id : Nat) : State :=
  match (s.core core).loads.find? fun r => r.id = id with
  | none => s
  | some r =>
    match s.tryLoad core r with
    | (s, .wait) => s
    | (s, .val bs) =>
      (((s.dropLoad core r).landLoad core r bs).observe core (s.who core r.place r.lane) r.spad r.ea r.size).afterAccess core r.place
    | (s, .trap c) => (s.pendLoad core r c).afterAccess core r.place
    | (s, .park m) =>
      let sp := spaceOf r.asid r.ea
      let va := bitsNat r.ea 56 0
      -- a probe finds that the page is not resident (R155)
      if r.dest.probes ∧ !m then
        ((s.dropLoad core r).landThread core r.place r.lane fun t => if t.live then zeroLoad r.dest t else t).afterAccess
          core r.place
      else (s.parkOn (dieOf core) sp va 1 m).setLoad core { r with park := some (parkKey (dieOf core) sp va) }
    | (s, .remote t) =>
      match s.openRemote core t r.remoteOp r.ea r.asid with
      | (s, rid) => s.setLoad core { r with remote := some rid }

end Sys2Proof.Machine
end

