-- ==== Sys2Proof/Machine/Hac.lean ====
section
/-! DEFINITION. The home atomic core's RV64IM routines on a locked line (R223, R224). One clock is taken for one
instruction (log 16). -/

namespace Sys2Proof.Machine

/-- The registers, the program counter and the locked line of a routine. -/
structure Hart where
  regs : Tab Dword := []
  pc : Nat := 0
  line : List Byte := []
  deriving DecidableEq, Repr

def Hart.get (h : Hart) (r : Nat) : Dword := if r = 0 then 0 else h.regs.get 0 r
def Hart.put (h : Hart) (r : Nat) (x : Dword) : Hart := if r = 0 then h else { h with regs := h.regs.set r x }
/-- The next instruction. -/
def Hart.step (h : Hart) : Hart := { h with pc := h.pc + 4 }

/-- Signed and unsigned division and remainder with RISC-V's corners. -/
def rvDiv {n : Nat} (a b : BitVec n) : BitVec n :=
  if b = 0 then BitVec.allOnes n else BitVec.ofInt n (a.toInt.tdiv b.toInt)
def rvRem {n : Nat} (a b : BitVec n) : BitVec n := if b = 0 then a else BitVec.ofInt n (a.toInt.tmod b.toInt)
def rvDivu {n : Nat} (a b : BitVec n) : BitVec n := if b = 0 then BitVec.allOnes n else a / b
def rvRemu {n : Nat} (a b : BitVec n) : BitVec n := if b = 0 then a else a % b

/-- OP and OP-IMM of the base set: `alt` is SUB and SRA. -/
def rvAlu {n : Nat} (f3 : Nat) (alt : Bool) (a b : BitVec n) : BitVec n :=
  let sh := b.toNat % n
  match f3 with
  | 0 => if alt then a - b else a + b
  | 1 => a <<< sh
  | 2 => if a.slt b then 1#n else 0#n
  | 3 => if a.ult b then 1#n else 0#n
  | 4 => a ^^^ b
  | 5 => if alt then a.sshiftRight sh else a >>> sh
  | 6 => a ||| b
  | _ => a &&& b

/-- The M extension. -/
def rvMul {n : Nat} (f3 : Nat) (a b : BitVec n) : BitVec n :=
  match f3 with
  | 0 => a * b
  | 1 => BitVec.ofInt n (a.toInt * b.toInt / 2 ^ n)
  | 2 => BitVec.ofInt n (a.toInt * (b.toNat : Int) / 2 ^ n)
  | 3 => BitVec.ofNat n (a.toNat * b.toNat / 2 ^ n)
  | 4 => rvDiv a b
  | 5 => rvDivu a b
  | 6 => rvRem a b
  | _ => rvRemu a b

/-- A condition of a branch. -/
def rvBranch (f3 : Nat) (a b : Dword) : Option Bool :=
  match f3 with
  | 0 => some (a == b)
  | 1 => some (a != b)
  | 4 => some (a.slt b)
  | 5 => some (!a.slt b)
  | 6 => some (a.ult b)
  | 7 => some (!a.ult b)
  | _ => none

/-- A load from the line: naturally aligned and inside it. -/
def Hart.load (h : Hart) (f3 : Nat) (a : Dword) : Option Dword :=
  let n := 2 ^ (f3 % 4)
  if f3 = 7 ∨ a.toNat % n ≠ 0 ∨ a.toNat + n > 64 then none
  else
    let v := blkNat h.line a.toNat n
    some (match f3 with
      | 0 => sext 64 (BitVec.ofNat 8 v)
      | 1 => sext 64 (BitVec.ofNat 16 v)
      | 2 => sext 64 (BitVec.ofNat 32 v)
      | _ => BitVec.ofNat 64 v)

/-- A store into the line. -/
def Hart.store (h : Hart) (f3 : Nat) (a x : Dword) : Option Hart :=
  let n := 2 ^ f3
  if f3 > 3 ∨ a.toNat % n ≠ 0 ∨ a.toNat + n > 64 then none
  else some { h with line := putBytes h.line a.toNat (leBytes n x.toNat) }

/-- A 32-bit result, sign-extended. -/
def rvW (x : Word) : Dword := sext 64 x

/-- One instruction other than `ret`; none where it is not RV64IM or leaves the line. -/
def Hart.exec (h : Hart) (w : Word) : Option Hart :=
  let rd := bitsNat w 11 7
  let f3 := bitsNat w 14 12
  let a := h.get (bitsNat w 19 15)
  let b := h.get (bitsNat w 24 20)
  let f7 := bitsNat w 31 25
  let immI : Dword := sext 64 (w.extractLsb' 20 12)
  let immS : Dword := sext 64 (w.extractLsb' 25 7 ++ w.extractLsb' 7 5)
  let immB : Dword := sext 64 (w.extractLsb' 31 1 ++ w.extractLsb' 7 1 ++ w.extractLsb' 25 6 ++ w.extractLsb' 8 4 ++ 0#1)
  let immU : Dword := sext 64 (w.extractLsb' 12 20 ++ 0#12)
  let immJ : Dword :=
    sext 64 (w.extractLsb' 31 1 ++ w.extractLsb' 12 8 ++ w.extractLsb' 20 1 ++ w.extractLsb' 21 10 ++ 0#1)
  let at_ (off : Dword) : Nat := (BitVec.ofNat 64 h.pc + off).toNat
  match bitsNat w 6 0 with
  | 0x37 => some ((h.put rd immU).step)
  | 0x17 => some ((h.put rd (BitVec.ofNat 64 h.pc + immU)).step)
  | 0x6F => some { h.put rd (BitVec.ofNat 64 (h.pc + 4)) with pc := at_ immJ }
  | 0x67 =>
    if f3 = 0 then
      some { h.put rd (BitVec.ofNat 64 (h.pc + 4)) with pc := ((a + immI) &&& ~~~1#64).toNat }
    else none
  | 0x63 => (rvBranch f3 a b).map fun t => if t then { h with pc := at_ immB } else h.step
  | 0x03 => (h.load f3 (a + immI)).map fun x => (h.put rd x).step
  | 0x23 => (h.store f3 (a + immS) b).map Hart.step
  | 0x13 =>
    if f3 = 1 ∧ f7 / 2 ≠ 0 then none
    else if f3 = 5 ∧ f7 / 2 ≠ 0 ∧ f7 / 2 ≠ 0x10 then none
    else some ((h.put rd (rvAlu f3 (f3 = 5 && f7 / 2 = 0x10) a immI)).step)
  | 0x33 =>
    if f7 = 1 then some ((h.put rd (rvMul f3 a b)).step)
    else if f7 = 0 ∨ (f7 = 0x20 ∧ (f3 = 0 ∨ f3 = 5)) then some ((h.put rd (rvAlu f3 (f7 = 0x20) a b)).step)
    else none
  | 0x1B =>
    if f3 = 0 ∨ (f3 = 1 ∧ f7 = 0) ∨ (f3 = 5 ∧ (f7 = 0 ∨ f7 = 0x20)) then
      some ((h.put rd (rvW (rvAlu f3 (f3 = 5 && f7 = 0x20) (zext 32 a) (zext 32 immI)))).step)
    else none
  | 0x3B =>
    if f7 = 1 ∧ (f3 = 0 ∨ f3 ≥ 4) then some ((h.put rd (rvW (rvMul f3 (zext 32 a) (zext 32 b)))).step)
    else if (f7 = 0 ∧ (f3 = 0 ∨ f3 = 1 ∨ f3 = 5)) ∨ (f7 = 0x20 ∧ (f3 = 0 ∨ f3 = 5)) then
      some ((h.put rd (rvW (rvAlu f3 (f7 = 0x20) (zext 32 a) (zext 32 b)))).step)
    else none
  -- FENCE; FENCE.I is of another extension
  | 0x0F => if f3 = 0 then some h.step else none
  | _ => none

/-- The word `ret`, which ends a routine. -/
def rvRet : Word := 0x00008067

/-- A routine runs until `ret`; none where it exceeds a limit (R224). -/
def Hart.run (code : List Word) (h : Hart) : Nat → Option Hart
  | 0 => none
  | fuel + 1 =>
    if h.pc % 4 ≠ 0 ∨ h.pc / 4 ≥ min 16 code.length then none
    else
      let w := code.getD (h.pc / 4) 0
      if w = rvRet then some h
      else match h.exec w with
        | some h => h.run code fuel
        | none => none

/-- A routine on a line: the new line and the result (R224). -/
def hacRun (code : List Word) (line : List Byte) (ea operand : Dword) (asid : BitVec 16) :
    Option (List Byte × Dword) :=
  let h : Hart := { regs := [(10, ea &&& 0x3F#64), (11, operand), (12, zext 64 asid)], line }
  (h.run code 64).map fun h => (h.line, h.get 10)

end Sys2Proof.Machine
end

