-- ==== Sys2Proof/Machine/Atomic.lean ====
section
/-! DEFINITION. What an atomic does to the bytes at its address (R217, R218), and the draining of store queues
(R192, R194, R210, R219, R222, R249, R252). -/

namespace Sys2Proof.Machine

/-! ## The read-modify-writes (R217) -/

/-- The integer members 0 to 10 on `w` bits. -/
def rmwInt (w member : Nat) (old b : BitVec w) : BitVec w :=
  match member with
  | 0 => old + b
  | 1 => if b.slt old then b else old
  | 2 => if old.slt b then b else old
  | 3 => if b.ult old then b else old
  | 4 => if old.ult b then b else old
  | 5 => old &&& b
  | 6 => old ||| b
  | 7 => old ^^^ b
  | 8 => b
  | 9 => if b.ule old then 0 else old + 1
  | _ => if old = 0 ∨ b.ult old then b else old - 1

/-- FADD, FMIN and FMAX of a format (R76, R81). -/
def rmwFloat (f : Fmt) (member : Nat) (old b : Nat) : FR :=
  match member with
  | 11 => f.add 0 (f.val old) (f.val b)
  | 12 => (f.minmax false old b, 0)
  | _ => (f.minmax true old b, 0)

/-- The new value of an atomic, with its events; `wide` is 64 bits (R217). -/
def rmwValue (member : Nat) (wide : Bool) (old b : Dword) : Dword × List Ev :=
  if member ≤ 10 then
    (if wide then rmwInt 64 member old b else zext 64 (rmwInt 32 member (zext 32 old) (zext 32 b)), [])
  else if member ≤ 13 then
    let r := if wide then rmwFloat .f64 member old.toNat b.toNat
      else rmwFloat .f32 member (old.toNat % 2 ^ 32) (b.toNat % 2 ^ 32)
    (BitVec.ofNat 64 r.1, [r.2])
  else
    let r := packed2 (fun x y _ => Fmt.bf16.add 0 (Fmt.bf16.val x) (Fmt.bf16.val y)) (zext 32 old) (zext 32 b) 0
    (zext 64 r.1, r.2)

/-- What a queued update makes of the old bytes: the new bytes where it writes, the value it returns, its events. -/
def SqOp.apply (op : SqOp) (a : SqAcc) (size : Nat) (old : List Byte) : Option (List Byte) × List Byte × List Ev :=
  match op with
  | .rmw member wide _ =>
    let r := rmwValue member wide (BitVec.ofNat 64 (leNat old)) (a.data.setWidth 64)
    (some (leBytes size r.1.toNat), old, r.2)
  | .cas =>
    (if leNat old = a.cmp.toNat % 2 ^ (8 * size) then some (leBytes size a.data.toNat) else none, old, [])
  | .rsig => (some (leBytes size (leNat old + a.data.toNat)), [], [])
  | _ => (some (leBytes size a.data.toNat), old, [])

/-- The value of the access goes back to a register (R217, R218, R223). -/
def SqOp.returns : SqOp → Bool
  | .rmw _ _ ret => ret
  | .cas | .patom _ => true
  | _ => false

/-- SKIPPED of an address space's fault record rises (R259, R380). -/
def State.noteSkipped (s : State) (asid : BitVec 16) : State :=
  let r := s.faultRec.get (0, 0) asid.toNat
  let x := (putBits r.1 31 0 (min 0xFFFFFFFF (bitsNat r.1 31 0 + 1)), r.2)
  { s with faultRec := s.faultRec.set asid.toNat x }

/-! ## Decrements (R317, R319) -/

/-- A decrement is ignored and counted in HTS_IGN (R317). -/
def State.ignoreDec (s : State) : State :=
  { s with htsIgn := BitVec.ofNat 64 (min 0xFFFFFFFF (bitsNat s.htsIgn 31 0 + 1)) }

/-! ## One access performs -/

/-- What a queued access finds. -/
inductive Done where
  | wait
  | done (ret : List Byte) (es : List Ev)
  | trap (cause : Nat)
  | park (malformed : Bool)
  | remote (target : Nat)
  deriving DecidableEq, Repr

/-- A write to a replicated page waits for the Scraper (R254). -/
def State.askCollapse (s : State) (die : Nat) (asid : BitVec 16) (va : Nat) : State :=
  let k := (pageKey asid va, die)
  if s.collapse.contains k then s else { s with collapse := s.collapse ++ [k] }

/-- A plain store is made directly: in the L1 once the line is in M (R249), at the home where the line is not
allocated (R102), through a window (R106). -/
def State.storeDirect (s : State) (core policy filler : Nat) (loc : Loc) (bs : List Byte) (who : SlotWriter) :
    Option State × State :=
  let key := l1Key loc.asid (lineOf loc.va)
  let line := (s.core core).l1.find? key
  if loc.leaf.repl then (none, s.askCollapse (dieOf core) loc.asid loc.va)
  else if s.quietAt loc.pa then (none, s)
  else if loc.place = .window ∨ loc.leaf.cls ≥ 2 ∨ (policy = 3 ∧ line.isNone) ∨ !(s.recordsAt loc.pa bs.length).isEmpty then
    (some (s.writeAt loc.pa bs who), s)
  else
    match line with
    | some l =>
      if l.st = .m ∨ l.st = .e then
        (some (s.setL1 core key (some { l with
          st := .m, data := patchLine l.data (loc.va % 64) bs, rrpv := if policy = 3 ∨ l.filler = filler then l.rrpv else 0 })), s)
      else (none, s.l1Request core loc.asid (lineOf loc.va) loc.home (loc.pa / 64 * 64) l.rrpv filler true)
    | none =>
      (none, s.l1Request core loc.asid (lineOf loc.va) loc.home (loc.pa / 64 * 64) (rrpvOf policy loc.leaf.cls) filler true)

/-- An update is made at the home of its line (R222, R252). -/
def State.updateDirect (s : State) (core : Nat) (u : SqUnit) (a : SqAcc) (loc : Loc) : State × Done :=
  if loc.leaf.repl then (s.askCollapse (dieOf core) loc.asid loc.va, .wait)
  else match u.op with
  | .patom f =>
    match s.hac.find? f with
    | none => (s, .trap Cause.protection)
    | some code =>
      let base := loc.pa / 64 * 64
      match hacRun code (s.view base 64) a.ea (a.data.setWidth 64) u.asid with
      | none => (s, .trap Cause.fatalMemory)
      | some (line, r) => (s.softWrite base line, .done (leBytes 8 r.toNat) [])
  | op =>
    match op.apply a u.size (s.view loc.pa u.size) with
    | (some bs, ret, es) => (s.softWrite loc.pa bs, .done ret es)
    | (none, ret, es) => (s.agentTouch loc.pa u.size, .done ret es)

/-- An access of an open region (R230 to R233, R238, R254). An atomic performs on the region's version, and its events are
counted then, and stay counted when the region aborts: the model's choice (log 86). -/
def State.regionAcc (s : State) (core place : Nat) (u : SqUnit) (a : SqAcc) (loc : Loc) (ref : InstRef)
    (slot : Nat) (reg : Region) : State × Done :=
  let line := lineOf loc.va
  let i := s.inst ref
  let o := loc.va % 64
  let base := loc.pa / 64 * 64
  let fresh := !i.versions.any fun v => v.slot = slot ∧ v.asid = loc.asid ∧ v.line = line
  if loc.unspeculable ∨ (fresh ∧ i.lines slot ≥ lineLimit ref.1) then
    (s.askIrrevocable core place a.lane, .wait)
  else if loc.leaf.repl then (s.askCollapse (dieOf core) loc.asid loc.va, .wait)
  else match u.op with
  | .store => (s.farWrite ref slot loc.asid line base o (leBytes u.size a.data.toNat), .done [] [])
  | op =>
    let srcs := i.sourcesOf slot reg.order loc.asid line o u.size
    if i.tooDeep slot srcs then
      (s.setInst ref { i with regions := i.regions.set slot { reg with waiting := true } }, .wait)
    else
      let old := overlay (i.visible slot reg.order loc.asid line) o (s.view loc.pa u.size)
      let s := s.farRead ref slot loc.asid line srcs
      match op.apply a u.size old with
      | (some bs, ret, es) => (s.farWrite ref slot loc.asid line base o bs, .done ret es)
      | (none, ret, es) => (s, .done ret es)

/-- Granules gain a tag (R162). -/
def State.tagRange (s : State) (asid : BitVec 16) (va n : Nat) (t : BitVec 4) : State :=
  (List.range n).foldl (fun s i => s.setTag asid (va + 32 * i) t) s

/-- A queued access performs on memory itself, or waits. -/
def State.performAcc (s : State) (core place : Nat) (u : SqUnit) (a : SqAcc) (loc : Loc) (hac : Bool) : State × Done :=
  match u.op with
  | .store =>
    match s.storeDirect core u.policy u.serial loc (leBytes u.size a.data.toNat) (.thread (s.who core place a.lane)) with
    | (some s, _) => (s, .done [] [])
    | (none, s) => (s, .wait)
  | .patom _ => if hac then s.updateDirect core u a loc else (s, .wait)
  | _ => s.updateDirect core u a loc

/-- The access leaves its bytes as they are: a CAS whose comparison fails (R218). -/
def State.onlyReads (s : State) (u : SqUnit) (a : SqAcc) (loc : Loc) : Bool :=
  u.op = .cas && (u.op.apply a u.size (s.view loc.pa u.size)).1.isNone

/-- A queued access of memory performs, or waits (R210, R230 to R233, R237, R238). -/
def State.memoryAcc (s : State) (core place : Nat) (u : SqUnit) (a : SqAcc) (loc : Loc) (hac : Bool) :
    State × Done :=
  let line := lineOf loc.va
  match u.op with
  | .tagset =>
    if !loc.leaf.tagen ∨ !loc.leaf.w then (s, .trap Cause.protection)
    else if loc.leaf.repl then (s.askCollapse (dieOf core) loc.asid loc.va, .wait)
    else (s.tagRange loc.asid loc.va a.data.toNat (a.ea.extractLsb' 60 4), .done [] [])
  | _ =>
    if a.dropped then
      -- the read of an atomic whose region has aborted returns the committed value (R237)
      if s.farHeld none loc.asid line false then (s, .wait)
      else (s.agentTouch loc.pa u.size, .done (s.view loc.pa u.size) [])
    else match s.regionOf core a.region with
    | some (ref, slot, reg) =>
      if s.farHeld (some ref) loc.asid line true then (s, .wait)
      else if !reg.irrev then s.regionAcc core place u a loc ref slot reg
      else
        -- what an irrevocable region writes aborts the later readers of the committed value (R233)
        let hits := if s.onlyReads u a loc then [] else (s.inst ref).antiDep slot reg.order true loc.asid line
        match s.performAcc core place u a loc hac with
        | (s, .done ret es) =>
          ((s.setInst ref ((s.inst ref).hold slot loc.asid line)).abortAll ref hits, .done ret es)
        | r => r
    | none =>
      if s.farHeld none loc.asid line true (some (core, place, a.lane)) then (s, .wait) else s.performAcc core place u a loc hac

/-- An access of the scratchpad, at the port (R109, R163, R222). -/
def State.spadAcc (s : State) (core : Nat) (u : SqUnit) (a : SqAcc) : State × Done :=
  let k := s.core core
  let o := a.ea.toNat
  match u.op with
  | .fullBits v => (s.setCore core (k.setFull o a.data.toNat v), .done [] [])
  | .store => (s.setCore core (k.spadWrite o (leBytes u.size a.data.toNat)), .done [] [])
  | op =>
    if k.spadPoisoned o u.size then (s, .trap Cause.fatalMemory) else
    match op.apply a u.size (k.spadRead o u.size) with
    | (some bs, ret, es) => (s.setCore core (k.spadWrite o bs), .done ret es)
    | (none, ret, es) => (s, .done ret es)

/-- The request that a queued access makes of another module (R222, R261). -/
def SqUnit.remoteOp (u : SqUnit) (a : SqAcc) : RemoteOp :=
  match u.op with
  | .rmw m w _ => .atomic w m (a.data.setWidth 64)
  | .cas => .cas u.size a.cmp a.data
  | .patom f => .patom f (a.data.setWidth 64)
  | .tagset => .tagset a.data.toNat
  | .rsig => if a.cmp = 1 then .signal a.ea (a.data.setWidth 64) else .atomic true 0 (a.data.setWidth 64)
  | _ => .write u.size a.data

/-- The checks that a queued access asks for. -/
def SqOp.ask (op : SqOp) (policy : Nat) : Ask :=
  match op with
  | .store => { write := true, policy }
  | .tagset => { write := true, tag := false, kvm := true }
  | .rsig => { write := true, atomic := true, tag := false }
  | _ => { write := true, atomic := true }

/-- KINDS bits of a parked access (R257); the counter of a signal is an engine's access (R380). -/
def SqOp.kinds : SqOp → BitVec 8
  | .rmw _ _ _ | .cas | .patom _ => 0x8
  | .rsig => 0x10
  | _ => 0x2

/-- A decrement that RSIG names reaches this module's HTS: a task outside the requester's range is not decremented
(R352). -/
def State.takeSignal (s : State) (asid : BitVec 16) (target operand : Dword) : State :=
  let d : Decrement := { task := bitsNat target 17 0, amount := operand.extractLsb' 0 32, err := operand.getLsbD 62 }
  if s.inRange asid d.task then { s with decs := s.decs ++ [d] } else s.ignoreDec

/-- A signal leaves the store queue (R337, R352): a decrement to this module's HTS, or a request to another's; the
addition to a counter is an access. `cmp` tells the kind: 0 a counter, 1 a task of a module, 2 TASKDEC, 3 a task outside
the range (R317). -/
def State.signal (s : State) (u : SqUnit) (a : SqAcc) : Option (State × Done) :=
  if a.cmp = 2 then
    let d : Decrement := { task := bitsNat a.ea 17 0, amount := a.data.extractLsb' 0 32, err := a.ea.getLsbD 63 }
    some ({ s with decs := s.decs ++ [d] }, .done [] [])
  else if a.cmp = 3 then some (s.ignoreDec, .done [] [])
  else if a.cmp = 1 then
    let target := bitsNat a.ea 26 18
    if target = s.dev.toNat then
      let d : Decrement := { task := bitsNat a.ea 17 0, amount := a.data.extractLsb' 0 32, err := a.data.getLsbD 62 }
      some ({ s with decs := s.decs ++ [d] }, .done [] [])
    else some (s, .remote target)
  else none

/-- The accesses of the queue's head try to perform. Loads of the thread that are older come first (R193). -/
def State.tryAcc (s : State) (core place : Nat) (u : SqUnit) (a : SqAcc) (hac : Bool) : State × Done :=
  if a.park.isSome ∨ a.remote.isSome then (s, .wait)
  else if (s.core core).loads.any fun r => r.place = place && r.accessBy (a.lane :: u.uni) &&
      decide (r.serial < u.serial) then (s, .wait)
  else if a.dropped ∧ !u.op.returns then (s, .done [] [])
  else if u.spad then s.spadAcc core u a
  else match if u.op = .rsig then s.signal u a else none with
  | some r => r
  | none =>
    match s.check (dieOf core) u.asid a.ea u.size (if a.dropped then { again := true } else { u.op.ask u.policy with again := true }) with
    | (s, .trap c) => if u.op = .rsig then (s.noteSkipped u.asid, .done [] []) else (s, .trap c)
    | (s, .park m) => (s, .park m)
    | (s, .remote t) => (s, .remote t)
    | (s, .ok loc) => s.memoryAcc core place u a loc hac

/-! ## The queue -/

/-- The access of a unit changed, and the head taken off the queue when all its accesses are done. -/
def State.setAcc (s : State) (core place serial lane : Nat) (f : SqAcc → SqAcc) : State :=
  s.modGroup core place fun g =>
    let sq := g.sq.map fun u =>
      if u.serial = serial then { u with accs := u.accs.map fun a => if a.lane = lane then f a else a } else u
    { g with sq := sq.dropWhile fun u => u.accs.all SqAcc.done }

/-- The ASID fault record counts a dropped access (R259). -/
def State.noteDropped (s : State) (asid : BitVec 16) (ea : Dword) : State :=
  let r := s.faultRec.get (0, 0) asid.toNat
  let n := min 0xFFFFFFFF (bitsNat r.1 63 32 + 1)
  let va := if bitsNat r.1 63 32 = 0 then ea else r.2
  { s with faultRec := s.faultRec.set asid.toNat (putBits r.1 63 32 n, va) }

/-- The thread of a queued access, wherever it is. -/
def State.findThread (s : State) (core place lane : Nat) : Thread :=
  let g := s.group core place
  if g.present then g.thread lane
  else (s.images.findSome? fun i =>
    if i.2.wg = g.wg then some ((i.2.groups.get {} g.index).thread lane) else none).getD {}

/-- The code of R167 for the trap of a failed check (R258). -/
def codeOf (cause : Nat) : Nat :=
  if cause = Cause.protection then 2 else if cause = Cause.tagMismatch then 3 else 1

/-- A queued access fails away from its unit: its thread is owed the trap; when it has ended, the access is dropped
and the launch ends with status 3 (R258, R259). -/
def State.failAcc (s : State) (core place : Nat) (u : SqUnit) (a : SqAcc) (cause : Nat) : State :=
  let live := (s.findThread core place a.lane).live
  let s :=
    if live then s.landThread core place a.lane fun t =>
      { t with pending := t.pending ++ [{ cause, word := u.word, addr := a.ea, unit := u.unit, res := u.res }] }
    else (s.noteDropped u.asid a.ea).noteStatus u.task 3 (codeOf cause) 0
  s.setAcc core place u.serial a.lane fun a => { a with done := true }

/-- Where a queued access comes from. -/
def State.accOrigin (s : State) (core place : Nat) (u : SqUnit) (a : SqAcc) : Origin :=
  let g := s.group core place
  { wg := g.wg, grp := g.index, lane := a.lane, word := u.word, unit := u.unit, issued := u.issued }

/-- The returned value of an access lands (R217, R219). -/
def State.landAcc (s : State) (core place : Nat) (u : SqUnit) (a : SqAcc) (ret : List Byte) : State :=
  let sz : BitVec 3 := if u.size = 16 then 6 else if u.size = 8 then 5 else 4
  let s := if u.op.returns ∧ !ret.isEmpty then
      s.landValue core place a.lane fun t => if t.live then t.putLoad sz a.dest ret else t
    else s
  -- a thread that gets the bytes may learn of a completion from them (R164)
  (if u.op.returns then s.observe core (s.who core place a.lane) u.spad a.ea u.size else s).setAcc core place u.serial a.lane
    fun a => { a with done := true }

/-- The access of a unit that may perform next: the first that is not parked, with no access of a lower lane to bytes of
its own still to perform (R152, R219). -/
def SqUnit.nextAcc (u : SqUnit) : Option SqAcc :=
  let left := u.accs.filter fun a => !a.done
  left.find? fun a => a.park.isNone && !(left.takeWhile fun b => b.lane != a.lane).any fun b =>
    overlaps (accAddr u.spad b.ea) u.size (accAddr u.spad a.ea) u.size

/-- One access of the head of a group's store queue performs if it can (R194, R219). -/
def State.drain (s : State) (core place : Nat) (hac : Bool) : State :=
  match (s.group core place).sq with
  | [] => s
  | u :: _ =>
    match u.nextAcc with
    | none => if u.accs.all SqAcc.done then s.modGroup core place fun g => { g with sq := g.sq.drop 1 } else s
    | some a =>
      let send (s : State) (t : Nat) : State :=
        match s.openRemote core t (if a.dropped then .read u.size else u.remoteOp a) a.ea u.asid with
        | (s, id) => s.setAcc core place u.serial a.lane fun a => { a with remote := some id }
      match s.tryAcc core place u a hac with
      | (s, .wait) => s
      | (s, .done ret es) =>
        let s := s.landAcc core place u a ret
        (s.countAway core (s.accOrigin core place u a) es).afterAccess core place
      | (s, .trap c) => (s.failAcc core place u a c).afterAccess core place
      | (s, .park m) =>
        let sp := spaceOf u.asid a.ea
        let va := bitsNat a.ea 56 0
        (s.parkOn (dieOf core) sp va u.op.kinds m).setAcc core place u.serial a.lane fun a =>
          { a with park := some (parkKey (dieOf core) sp va) }
      | (s, .remote t) =>
        -- an access of an open region waits until the region continues irrevocably (R233)
        match s.regionOf core a.region with
        | some (_, _, reg) => if reg.irrev then send s t else s.askIrrevocable core place a.lane
        | none => send s t

end Sys2Proof.Machine
end

