-- ==== Sys2Proof/Machine/Preempt.lean ====
section
/-! DEFINITION. PREEMPT_REQ in a thread: where it is taken, what it withdraws, and its entry (R118, R120, R239,
R329). -/

namespace Sys2Proof.Machine

/-- A wait that a PREEMPT_REQ withdraws (R329). -/
def Wait.withdrawn : Wait → Bool
  | .waitm _ | .barrier _ | .step | .ldfe _ | .poll _ _ _ | .cpw _ _ | .mwait _ _ | .collw _ _ => true
  | _ => false

/-- The group holds an open region (R239). -/
def Group.inRegion (g : Group) : Bool := g.lanes.any fun t => t.2.live && t.2.inRegion

/-- The workgroups on a core, but for some. -/
def State.coreWgs (s : State) (core : Nat) (without : List Nat) : List Nat :=
  ((s.core core).groups.filterMap fun x =>
    if x.2.present ∧ !without.contains x.2.wg then some x.2.wg else none).eraseDups

/-- The header of the launch that a workgroup belongs to. -/
def State.wgHdr (s : State) (w : Nat) : Header := (s.launch (s.wg w).task).hdr

/-- No thread of the workgroup holds an open region (R239, R331). -/
def State.wgClosed (s : State) (w : Nat) : Bool := (s.wgGroups w).all fun g => !g.2.inRegion

/-- The workgroups that are saved with one: those that share its carve-out (R331). -/
def State.savedWith (s : State) (w : Nat) : List Nat :=
  let c := (s.wg w).core
  if (s.core c).carve ≠ 0 then w :: (s.coreWgs c []).filter (· ≠ w) else [w]

/-- The time of a workgroup to leave by itself is over, or its launch has no handler: it is to be saved by force (R329,
R331). -/
def State.saveDue (s : State) (w : Nat) : Bool :=
  match (s.wg w).preempt with
  | none => false
  | some t => (s.wg w).st = .running && !(s.wgHdr w).det && ((s.wgHdr w).preempt = 0 || decide (t + 40000 ≤ s.timeNs))

/-- A group issues no more, since its workgroup is being saved by force: the deferral of R239 is over for all that are
saved together (R331). -/
def State.saving (s : State) (core place : Nat) : Bool :=
  let ws := s.savedWith (s.group core place).wg
  ws.any s.saveDue && ws.all s.wgClosed

/-- A thread may take its PREEMPT_REQ now: it is not in a handler, its group holds no open region, and it stands at
a packet boundary or at a wait that the request withdraws (R118, R239, R329). -/
def State.preemptible (s : State) (core place lane : Nat) : Bool :=
  let g := s.group core place
  let t := g.thread lane
  t.live && t.preempt && t.handler = .none && !g.inRegion &&
  (if t.waits.isEmpty then t.pos.word = 0
   else t.waits.all (fun w => w.kind.withdrawn || w.kind.isFence) && t.waits.any fun w => w.kind.withdrawn)

/-- The arrival of a thread at its masks is withdrawn (R29, R329). -/
def Group.withdraw (g : Group) (lane : Nat) : Group :=
  { g with arrived := g.arrived.mapVals fun k x =>
      if (g.thread lane).waits.any fun w => w.kind = .waitm k then x &&& ~~~ BitVec.ofNat 32 (2 ^ lane) else x }

/-- A thread enters its pre-emption handler (R118, R120, R329). Without one it waits for the forced save. -/
def State.takePreempt (s : State) (core place lane : Nat) : State :=
  let h := (s.launchOf core place).hdr
  let t := s.thread core place lane
  let res : Pos := match t.waits with
    | w :: _ => w.at_
    | [] => t.pos
  let s := s.modGroup core place fun g => g.withdraw lane
  s.modThread core place lane fun t =>
    if h.preempt = 0 then { t with preempt := false, pos := res, waits := [{ at_ := res, kind := .forcedSave }] }
    else
      { t with preempt := false, waits := [], handler := .preempt,
               trapCause := BitVec.ofNat 32 Cause.preemptReq, trapPc := res.pc, trapWord := 0, trapAddr := 0,
               trapUnit := res.pc, trapRes := res.res,
               pos := { pc := h.entryAt h.preempt, word := 0 }, since := s.clock }

end Sys2Proof.Machine
end

