-- ==== Sys2Proof/Machine/Issue.lean ====
section
/-! DEFINITION. From a thread that is ready to the first word of its chain: the fetch of its code line (R42 to R48),
the decode of the chain and the trap of one that fails (R50 to R56, R63), the scoreboard (R25, R151), and the
portion that issues (R27). -/

namespace Sys2Proof.Machine

/-! ## Code lines (R42 to R46) -/

/-- CRC-13 of a line's first 60 bytes (R44). -/
def crc13 (bs : List Byte) : Nat :=
  bs.foldl (fun crc b => (List.range 8).foldl (fun crc j =>
    let fb := xor (crc / 4096 % 2 = 1) (b.getLsbD (7 - j))
    let c := crc * 2 % 8192
    if fb then Nat.xor c 0x1CF5 else c) crc) 0x1FFF

/-- The 16 words of a line (R39, R42). -/
def lineWords (bs : List Byte) : List Word := (List.range 16).map fun i => BitVec.ofNat 32 (blkNat bs (4 * i) 4)

/-- A trailer: the check, and the one defined line format (R43). -/
def trailer (bs : List Byte) : Word := BitVec.ofNat 32 (crc13 (bs.take 60) * 2 ^ 19 + 2 ^ 15)

/-- The line passes its checks (R45). -/
def lineSound (bs : List Byte) : Bool :=
  let t := BitVec.ofNat 32 (blkNat bs 60 4)
  bitsNat t 18 15 = 1 && bitsNat t 31 19 = crc13 (bs.take 60)

/-- The line that holds a packet. -/
def lineBase (pc : Dword) : Dword := pc &&& ~~~63#64

/-- The three words of a packet in its line (R42). -/
def packetWords (line : List Word) (pc : Dword) : List Word := (line.drop (pc.toNat % 64 / 12 * 3)).take 3

/-- A line as the core holds it. -/
def Core.codeLine (k : Core) (asid : BitVec 16) (va : Dword) : Option (List Word) :=
  (k.code.find? fun c => c.asid = asid && c.va = va).map CodeLine.words

/-- What a fetch gives. -/
inductive Fetched where
  | line (ws : List Word)
  | bad (trailer : Word)
  | trap (cause : Nat)
  | park (malformed : Bool)
  | remote (target : Nat)
  deriving DecidableEq, Repr

/-- The bytes of a line as fetched (R45). -/
def fetched (bs : List Byte) : Fetched :=
  if lineSound bs then .line (lineWords bs) else .bad (BitVec.ofNat 32 (blkNat bs 60 4))

/-- A core fetches a line for execution (R45, R48, R98). -/
def State.fetch (s : State) (core : Nat) (asid : BitVec 16) (va : Dword) : State × Fetched :=
  if bitsNat va 59 57 ≠ 0 then (s, .trap Cause.noncanonical)
  else match s.check (dieOf core) asid va 64 { fetch := true, tag := false } with
    | (s, .trap c) => (s, .trap c)
    | (s, .park m) => (s, .park m)
    | (s, .remote t) => (s, .remote t)
    | (s, .ok loc) => (s, fetched (s.readAt loc.pa 64))

/-- A line that passed its checks is kept by the core, until a TLBI of its page or a new workgroup drops it; the manual
does not say for how long (R46, log 56). -/
def State.keepLine (s : State) (core : Nat) (asid : BitVec 16) (va : Dword) (ws : List Word) : State :=
  s.modCore core fun k => { k with
    code := { asid, va, words := ws } :: k.code.filter fun c => !(c.asid = asid && c.va = va) }

/-- Name of a wait for a line of another module. -/
def remoteFetch (id : Nat) : Nat := 2 ^ 100 + id

/-- A fetch's outcome reaches the threads that need the line (R45, R48, R256). -/
def State.giveLine (s : State) (core : Nat) (asid : BitVec 16) (va : Dword) (who : List (Nat × Nat))
    (f : Fetched) : State :=
  let trapAll (s : State) (cause : Nat) (word : Word) (addr : Option Dword) : State :=
    who.foldl (fun s w =>
      let t := s.thread core w.1 w.2
      let unit := if cause = Cause.lineCheck then t.pos.pc else t.pos.pc + BitVec.ofNat 64 (4 * t.pos.word)
      s.takeTrap core w.1 w.2 { cause, word, addr := addr.getD t.pos.pc, unit } t.pos.pc t.pos) s
  let waitAll (s : State) (key : Nat) : State :=
    who.foldl (fun s w => s.modThread core w.1 w.2 fun t =>
      { t with waits := [{ at_ := t.pos, kind := .fetch key }] }) s
  match f with
  | .line ws => s.keepLine core asid va ws
  | .bad t => trapAll s Cause.lineCheck t (some va)
  | .trap c => trapAll s c 0 none
  | .park m =>
    let sp := spaceOf asid va
    waitAll (s.parkOn (dieOf core) sp (bitsNat va 56 0) 4 m) (parkKey (dieOf core) sp (bitsNat va 56 0))
  | .remote t =>
    match s.openRemote core t .fetch va asid with
    | (s, id) => waitAll s (remoteFetch id)

/-- CODE_LINE_FETCH for some threads. -/
def State.fetchFor (s : State) (core : Nat) (asid : BitVec 16) (va : Dword) (who : List (Nat × Nat)) : State :=
  match s.fetch core asid va with
  | (s, f) => s.giveLine core asid va who f

/-! ## The units of a chain (R40, R49, R53) -/

/-- A unit by the indices of its prefixes and of its instruction word; a trailing-prefix unit has none. -/
structure UnitAt where
  pre : List Nat
  at_ : Option Nat
  deriving DecidableEq, Repr

/-- A prefix word (R39). -/
def isPrefix (w : Word) : Bool := fldNat w 25 6 = 0x3F

/-- The units of the chain that begins at word i of a packet. -/
def unitsFrom (ws : List Word) (pre : List Nat) (i : Nat) : Nat → List UnitAt
  | 0 => if pre.isEmpty then [] else [{ pre, at_ := none }]
  | f + 1 =>
    let w := ws.getD i 0
    if isPrefix w then unitsFrom ws (pre ++ [i]) (i + 1) f
    else { pre, at_ := some i } :: (if chainBit w then unitsFrom ws [] (i + 1) f else [])

/-- Index of a unit's first word. -/
def UnitAt.first (u : UnitAt) : Nat := (u.pre.head?).getD (u.at_.getD 0)

/-- The kind of a prefix word (R54). -/
def prefixKind (w : Word) : Nat := fldNat w 21 4

/-- The major of a word (R39). -/
def major (w : Word) : Nat := fldNat w 25 6

/-- An instruction word accepts a prefix of a kind (R56). -/
def accepts (w : Word) (kind : Nat) : Bool :=
  let m := major w
  let f := fldNat w 0 4
  match kind with
  | 0 =>
    [0x04, 0x06, 0x07, 0x09, 0x0B, 0x0D, 0x15, 0x19, 0x1A, 0x1B].contains m ||
    (m = 0x0A && (f = 0 || f = 2 || f = 4 || f = 6)) || (m = 0x0F && (f = 0 || f = 6)) ||
    (m = 0x13 && f = 0) || (m = 0x16 && f = 0) || (decide (0x1E ≤ m) && decide (m ≤ 0x24))
  | 1 => m ≤ 0x32
  | 2 => (decide (0x1E ≤ m) && decide (m ≤ 0x29)) || m = 0x2B
  | 3 => m = 0x1E
  | 4 => [0x0D, 0x0E, 0x0F, 0x10, 0x11, 0x12].contains m
  | 5 => [0x04, 0x05, 0x06, 0x07, 0x09, 0x14, 0x19, 0x1A].contains m
  | _ => false

/-- A failing word: the rank of its cause in the order of R63, its index, and the first word of its unit. -/
structure Failing where
  rank : Nat
  at_ : Nat
  first : Nat
  deriving DecidableEq, Repr

/-- The cause of a rank (R63). -/
def rankCause (r : Nat) : Nat :=
  [Cause.illegalPrefix, Cause.illegalChain, Cause.reservedOpcode, Cause.illegalEncoding, Cause.privilege,
    Cause.unitAbsent].getD r 0

/-- A prefix word's payload holds a reserved code (R54). -/
def reservedPayload (w : Word) : Bool :=
  match prefixKind w with
  | 2 => fldNat w 0 3 = 7
  | 4 => fldNat w 0 3 ≥ 5
  | _ => false

/-- The failing words among a unit's prefixes (R53, R63). -/
noncomputable def UnitAt.prefixFaults (ws : List Word) (u : UnitAt) : List Failing :=
  u.pre.flatMap fun i =>
    let w := ws.getD i 0
    let refused := match u.at_ with
      | none => true
      | some j => !accepts (ws.getD j 0) (prefixKind w)
    let again := u.pre.any fun k => decide (k < i) && prefixKind (ws.getD k 0) = prefixKind w
    if refused || again || chainBit w || decide (prefixKind w ≥ 6) || reservedPayload w then
      [{ rank := 0, at_ := i, first := u.first }]
    else match decode w with
      | .ok p => if p.legal 128 false then [] else [{ rank := 3, at_ := i, first := u.first }]
      | .error _ => [{ rank := 3, at_ := i, first := u.first }]

/-- The pipes that the map gives a word: VB 0, VA 1, LS 2, SC 3; none for NOP, two where it may choose (R61). -/
def pipesOf (w : Word) : List Nat :=
  let m := major w
  let f := fldNat w 0 4
  if m = 0 then (if fldNat w 18 7 = 0 then [] else [3])
  else if m ≤ 0x03 then [3]
  else if m ≤ 0x0C then [0]
  else if m ≤ 0x0E then (if f ≤ 2 then [0, 1] else if f ≤ 4 then [0] else [1])
  else if m = 0x0F then (if f = 0 ∨ f = 1 ∨ f = 6 then [0, 1] else if f = 4 ∨ f = 5 then [0] else [1])
  else if m = 0x10 ∨ m = 0x12 ∨ m = 0x14 ∨ m = 0x2F then [1]
  else if m = 0x13 then (if f = 1 then [1] else [0])
  else if m = 0x11 ∨ m = 0x15 ∨ m = 0x17 then [0]
  else if m = 0x16 then (if [3, 4, 5, 7, 8, 11, 12].contains f then [3] else [0])
  else if 0x1E ≤ m ∧ m ≤ 0x2C then [2]
  else [3]

/-- The pipes of a chain's members: each that has one pipe takes it; then each that has two, in word order, takes VB if
no member has taken it, and VA otherwise (R50). -/
def assignPipes (ps : List (List Nat)) : List Nat :=
  ps.foldl (fun taken p => if p.length = 2 then (if taken.contains 0 then 1 else 0) :: taken else taken)
    (ps.flatMap fun p => if p.length = 1 then p else [])

/-- The members can be given distinct pipes (R50). -/
def distinctPipes (ps : List (List Nat)) : Bool :=
  let singles := ps.flatMap fun p => if p.length = 1 then p else []
  let flex := (ps.filter fun p => p.length = 2).length
  let taken := flex + (singles.filter fun p => p ≤ 1).length
  singles.Nodup && decide (taken ≤ 2 ∨ flex = 0)

/-- An XIMM prefix stands before the unit's instruction. -/
def UnitAt.ximm (ws : List Word) (u : UnitAt) : Bool := u.pre.any fun i => prefixKind (ws.getD i 0) = 0

/-- The member that a unit's word names, whether or not the rest of the word is in order (R51, R63). -/
noncomputable def UnitAt.member (ws : List Word) (u : UnitAt) : Option Instr :=
  match u.at_ with
  | none => none
  | some i => match decode (ws.getD i 0) with
    | .ok x | .error (.illegalEncoding x) | .error (.haltqMode x) => some x
    | .error _ => none

/-- The instruction of a unit, where its word is one. -/
noncomputable def UnitAt.instr (ws : List Word) (u : UnitAt) : Option Instr :=
  match u.at_ with
  | none => none
  | some i => match decode (ws.getD i 0) with
    | .ok x => some x
    | .error _ => none

/-- The registers that a unit writes, with the predicate of its PROBE (R51, R155). -/
noncomputable def UnitAt.writes (ws : List Word) (u : UnitAt) : List Opnd :=
  match u.member ws with
  | none => []
  | some i => i.writes (u.ximm ws) ++ (u.pre.filterMap fun k =>
      let w := ws.getD k 0
      if prefixKind w = 3 ∧ fldNat w 0 3 ≠ 0 then some (.p (fldNat w 0 3)) else none)

/-- The registers that a unit reads, with the predicate of its GUARD (R26, R55). -/
noncomputable def UnitAt.reads (ws : List Word) (u : UnitAt) : List Opnd :=
  match u.member ws with
  | none => []
  | some i => i.reads (u.ximm ws) ++ (u.pre.filterMap fun k =>
      let w := ws.getD k 0
      if prefixKind w = 1 then some (.p (fldNat w 0 3)) else none)

/-- A unit's word belongs to no instruction of the map. -/
noncomputable def UnitAt.reserved (ws : List Word) (u : UnitAt) : Bool :=
  match u.at_ with
  | none => true
  | some i => match decode (ws.getD i 0) with
    | .error .reservedOpcode => true
    | _ => false

/-- The words of a chain that fail for the chain's own form (R51, R63). -/
noncomputable def chainFaults (ws : List Word) (us : List UnitAt) : List Failing :=
  let known := us.filter fun u => !u.reserved ws
  let pipes := known.map fun u => pipesOf (ws.getD (u.at_.getD 0) 0)
  let word2 := us.filterMap fun u =>
    if u.at_ = some 2 ∧ chainBit (ws.getD 2 0) then some { rank := 1, at_ := 2, first := u.first } else none
  let pipe := ((List.range known.length).find? fun j => !distinctPipes (pipes.take (j + 1))).toList.map fun j =>
    let u := known.getD j { pre := [], at_ := none }
    { rank := 1, at_ := u.at_.getD 0, first := u.first }
  let twice := (List.range known.length).filterMap fun j =>
    let u := known.getD j { pre := [], at_ := none }
    let earlier := (known.take j).flatMap fun e => e.writes ws
    if (u.writes ws).any earlier.contains then some { rank := 1, at_ := u.at_.getD 0, first := u.first } else none
  word2 ++ pipe ++ twice

/-- An instruction whose unit the part lacks (R5). -/
def State.absent (s : State) (i : Instr) : Bool :=
  match i with
  | .patom _ _ _ _ _ => !s.capUnits.getLsbD 2
  | .tkrcv _ _ _ | .tkpost _ _ _ => !s.capUnits.getLsbD 0
  | .farb _ _ sc => sc = 1#1 && !s.capUnits.getLsbD 4
  | _ => false

/-- What fails in a unit's instruction word (R62, R63). -/
noncomputable def State.wordFaults (s : State) (ws : List Word) (vregs : Nat) (priv : Bool) (u : UnitAt) :
    List Failing :=
  match u.at_ with
  | none => []
  | some i =>
    let w := ws.getD i 0
    let f (r : Nat) : Failing := { rank := r, at_ := i, first := u.first }
    let prv := if major w = 0x32 ∧ !priv then [f 4] else []
    match decode w with
    | .error .reservedOpcode => [f 2]
    | .error (.illegalEncoding _) => f 3 :: prv
    | .error .illegalPrefix => [f 0]
    | .error (.haltqMode _) => prv
    | .ok x =>
      (if x.legal vregs (u.ximm ws) then [] else [f 3]) ++ prv ++ (if s.absent x then [f 5] else [])

/-- The first of the failing words, by cause and then by address (R63). -/
def firstFault (fs : List Failing) : Option Failing :=
  fs.foldl (fun b f => match b with
    | none => some f
    | some g => if f.rank < g.rank ∨ (f.rank = g.rank ∧ f.at_ < g.at_) then some f else some g) none

/-- The fault of a chain at decode, if it has one (R63). -/
noncomputable def State.chainFault (s : State) (ws : List Word) (vregs : Nat) (priv : Bool) (us : List UnitAt) :
    Option Failing :=
  firstFault (us.flatMap (UnitAt.prefixFaults ws) ++ chainFaults ws us ++ us.flatMap (s.wordFaults ws vregs priv))

/-! ## The scoreboard (R25, R151, R219) -/

/-- The registers that an outstanding load writes. -/
def LoadDest.regs : LoadDest → List Opnd
  | .vec sz d => (sized sz d).covers
  | .tile d _ _ => (Opnd.pair d).covers
  | .uni _ d => [.s d]
  | .probe sz d pd => .p pd :: (sized sz d).covers
  | .tag d => [.v d]

/-- Something that a lane's registers wait for: the registers, whether it is late (R27), and whether it is parked on a
page (R256). -/
def State.owed (s : State) (core place lane : Nat) : List (List Opnd × Bool × Bool) :=
  let k := s.core core
  let g := s.group core place
  (k.loads.filterMap fun r =>
    if r.place = place ∧ (r.by [lane] ∨ r.dest.uniform) then
      some (r.dest.regs, r.long || r.remote.isSome, r.park.isSome) else none) ++
  (g.sq.flatMap fun u => u.accs.filterMap fun a =>
    if a.lane = lane ∧ !a.done ∧ u.op.returns then
      some ((if u.size = 16 then Opnd.quad a.dest else if u.size = 8 then .pair a.dest else .v a.dest).covers,
        a.remote.isSome, a.park.isSome) else none) ++
  g.busyS.map fun n => ([Opnd.s n], false, false)

/-- How a lane stands to a chain: ready, or waiting, and then late or not: it is late when anything that it waits for
is (R27). -/
def State.laneOwes (s : State) (core place lane : Nat) (regs : List Opnd) : Option Bool :=
  let hits := (s.owed core place lane).filter fun o => o.1.any regs.contains
  if hits.isEmpty then none else some (hits.any fun o => o.2.1)

/-! ## The portion -/

/-- A thread is ready to issue, but for its operands (R22, R123). -/
def Thread.ready (t : Thread) : Bool := t.live && t.waits.isEmpty

/-- The core issues nothing: the module is not running, or HALTQ holds the core (R262, R369). -/
def State.issueHeld (s : State) (core : Nat) : Bool := (s.core core).halted || s.boot != .running

/-- The lanes of a group that stand at a unit (R27). -/
def Group.standing (g : Group) (p : Pos) : List Nat :=
  (List.range 32).filter fun l => (g.thread l).ready && (g.thread l).pos = p

/-- A thread takes a trap where it stands before it issues on (R90, log 20). -/
def Thread.owesTrap (t : Thread) : Bool := t.dueTrap.isSome

/-- Index of the last word of the chain that holds word i of a packet; f words follow it (R40, R49). -/
def chainLast (ws : List Word) (i : Nat) : Nat → Nat
  | 0 => i
  | f + 1 => if isPrefix (ws.getD i 0) || chainBit (ws.getD i 0) then chainLast ws (i + 1) f else i

/-- The chain of a unit in hand for the lanes given: its members read the registers as they are now (R50). -/
def State.chainOf (s : State) (core place : Nat) (lanes : List Nat) (p : Pos) (ws : List Word) : Cur :=
  let k := s.core core
  { active := true, core, place, lanes, pc := p.pc, words := ws, next := p.word, first := p.word,
    last := chainLast ws p.word (2 - p.word), rd := s.group core place, evt := k.numEvt, thr := k.numThr, win := k.numWin, seq := k.seq
    serial := s.nextId }

/-- Every lane of a portion takes the trap of a chain that fails decode (R52, R63, R120). -/
def State.decodeTrap (s : State) (core place : Nat) (lanes : List Nat) (p : Pos) (ws : List Word) (f : Failing) :
    State :=
  let at_ (i : Nat) : Dword := p.pc + BitVec.ofNat 64 (4 * i)
  lanes.foldl (fun s l => s.takeTrap core place l
    { cause := rankCause f.rank, word := ws.getD f.at_ 0, addr := at_ f.at_, unit := at_ f.first } p.pc p) s

end Sys2Proof.Machine
end

