-- ==== Sys2Proof/Machine/Tags.lean ====
section
/-! DEFINITION. What the engines share: completion tags and the threads that wait for them (R167, R280, R348), and
the generation of a node (R171). -/

namespace Sys2Proof.Machine

/-- The tag and the predicate of a wait on a bank: 0 copy, 1 matrix, 2 collective. -/
def Wait.onTag (bank : Nat) : Wait → Option (Nat × Nat)
  | .cpw t p => if bank = 0 then some (t, p) else none
  | .mwait t p => if bank = 1 then some (t, p) else none
  | .collw t p => if bank = 2 then some (t, p) else none
  | _ => none

/-- Threads that wait for a tag whose count is 0 continue, with the predicate of its error flag. -/
def Group.tagRelease (g : Group) (bank t : Nat) : Group :=
  let x := g.tag bank t
  if x.count ≠ 0 then g
  else { g with lanes := g.lanes.mapVals fun _ th =>
    match th.waits.findSome? fun w => (w.kind.onTag bank).bind fun y => if y.1 = t then some y.2 else none with
    | some pd => { th with p := putPred th.p pd (!x.flag)
                           waits := th.waits.filter fun w => (w.kind.onTag bank).isNone
                           seen := if bank = 0 then th.seen.set t x.ended else th.seen }
    | none => th }

/-- An operation starts on a tag. -/
def Group.tagStart (g : Group) (bank t : Nat) : Group := g.modTag bank t fun x => { x with count := x.count + 1 }

/-- An operation of a tag completes: the count falls and the first error code is kept (R167). -/
def Group.tagEnd (g : Group) (bank t code : Nat) : Group :=
  (g.modTag bank t fun x =>
    { ended := x.ended + 1, count := x.count - 1, flag := x.flag || code != 0,
      code := if x.flag || code = 0 then x.code else code }).tagRelease bank t

/-- An error is recorded on a tag that has no operation in flight (R167). -/
def Group.tagError (g : Group) (bank t code : Nat) : Group :=
  g.modTag bank t fun x => { x with flag := true, code := if x.flag then x.code else code }

/-- The word of CPS, MSTAT and the like: flag, code and count (R167). -/
def Tag.word (t : Tag) : Dword := BitVec.ofNat 64 (t.flag.toNat * 2 ^ 16 + t.code % 256 * 2 ^ 8 + t.count % 256)

/-- The tag with its flag and code cleared. -/
def Tag.clear (t : Tag) : Tag := { t with flag := false, code := 0 }

/-- A lane waits for a tag, or goes on at once with its predicate when the count is 0. -/
def State.waitTag (s : State) (bank t pd : Nat) (w : Wait) : State :=
  s.each fun s l =>
    let x := s.here.tag bank t
    if x.count = 0 then s.onHere fun g => (g.wp l pd (!x.flag)).modThread l fun th =>
      if bank = 0 then { th with seen := th.seen.set t x.ended } else th
    else s.wait l w

/-! ## Slots (R164, R271) -/

/-- The slots that an MMA names, as the core numbers them. -/
def MmaJob.slotNames (j : MmaJob) : List Nat :=
  let n := blkNat j.blk 2 1
  ((List.range n).map fun i => j.slotBase + blkNat j.blk (4 + i) 1) ++
    (List.range n).map fun i => j.slotBase + blkNat j.blk (12 + i) 1

/-- The slot that an UNPK or a KVGATH fills, as the core numbers it. -/
def State.opFills (s : State) (o : EngOp) : Option Nat :=
  if o.kind = .unpk then some ((s.wg o.wg).slotBase + blkNat o.blk 16 1) else none

/-- OSREL_TAKE_EFFECT: a release takes effect once no earlier MMA or UNPK of the workgroup names the slot (R271). -/
def State.settleSlots (s : State) (core wg : Nat) : State :=
  let x := s.wg wg
  let n := (s.launch x.task).hdr.slots
  let ops := s.ops.filter fun o => o.wg = wg
  s.modCore core fun k => { k with slots := k.slots.mapVals fun i y =>
    match y.releasing with
    | none => y
    | some name =>
      if i < x.slotBase ∨ x.slotBase + n ≤ i ∨
          k.mq.any (fun j => j.wg = wg && decide (j.serial < name) && j.slotNames.contains i) ∨
          ops.any (fun o => decide (o.id < name) && !o.done && s.opFills o = some i) then y
      else { y with claim := none, releasing := none } }

/-- The writes of an operation that completes: what tells a thread of it (R164, R166). -/
def SlotWrite.endOf (w : SlotWrite) (id : Nat) (told : SlotWriter) : SlotWrite :=
  if w.writer = .engine id then { w with writer := told } else w

/-- An operation has completed: an MFOP may put its writes of slots before an MMA, once that has been observed (R164). -/
def State.slotsTold (s : State) (core id : Nat) (told : SlotWriter) : State :=
  s.modCore core fun k => { k with slots := k.slots.mapVals fun _ x =>
    { x with writes := x.writes.map fun w => w.endOf id told } }

/-- An MFOP of a thread orders a write: its own, or that of an operation whose completion it has observed (R164). -/
def SlotWriter.orderedBy (w : SlotWriter) (t : Who) (seen : Nat → Nat) : Bool :=
  match w with
  | .thread u => u = t
  | .ended wg grp tag n _ ts => (wg = t.wg && grp = t.grp && decide (n < seen tag)) || ts.contains t
  | .engine _ | .other => false

/-- A slot after an MFOP of a thread (R164). -/
def Slot.order (x : Slot) (t : Who) (seen : Nat → Nat) (name : Nat) : Slot :=
  { x with writes := x.writes.map fun w =>
      if w.writer.orderedBy t seen ∧ !w.ordered.any (fun o => o.1 = t) then { w with ordered := (t, name) :: w.ordered } else w }

/-! ## Generations (R171) -/

/-- The must-be-zero bits of a GEN field are zero. -/
def genWell (g : Dword) : Bool := bitsNat g 62 48 = 0 && bitsNat g 31 26 = 0

/-- A generation that is compared and no longer holds (R171, R281). -/
def State.genStale (s : State) (g : Dword) : Bool :=
  g.getLsbD 63 &&
  (match s.seqs.find? (bitsNat g 15 0) with
   | none => true
   | some q => match q.nodes.find? (bitsNat g 25 16) with
     | none => true
     | some n => n.state = 0 || n.state = 4 || n.gen != bitsNat g 47 32)

end Sys2Proof.Machine
end

