-- ==== Sys2Proof/Machine/Engine.lean ====
section
/-! DEFINITION. What every engine does with memory: reads and writes in naturally aligned pieces, with the checks of
R150, parking and requests to other modules (R177, R256, R261); the words the device writes on its own account
(R380); and the completion of an operation (R166). -/

namespace Sys2Proof.Machine

/-- Why a transfer stops, or what it leaves out. -/
inductive Stop where
  | err (code : Nat)
  | wait
  | park (ea : Dword) (malformed : Bool)
  | remote (target : Nat) (op : RemoteOp) (ea : Dword)
  deriving DecidableEq, Repr

/-- An engine's read of one piece of memory, as an agent without an L1 (R252). -/
def State.engPiece (s : State) (die : Nat) (asid : BitVec 16) (got : List (Dword × List Byte)) (ea : Dword) (n : Nat)
    (q : Ask) : State × Except Stop (List Byte) :=
  if bitsNat ea 59 57 ≠ 0 then (s, .error (.err (codeOf Cause.noncanonical)))
  else match s.check die asid ea n q with
    | (s, .trap c) => (s, .error (.err (codeOf c)))
    | (s, .park m) => (s, .error (.park ea m))
    | (s, .remote t) =>
      match got.find? fun g => g.1 = ea && (g.2.length = n || g.2.isEmpty) with
      | some g => if g.2.isEmpty then (s, .error (.err 1)) else (s, .ok g.2)
      | none => (s, .error (.remote t (.read n) ea))
    | (s, .ok loc) =>
      if s.farHeld none loc.asid (lineOf loc.va) false then (s, .error .wait)
      else
        let s := if loc.place = .window then s else s.agentTouch loc.pa n
        (s, .ok (s.readAt loc.pa n))

/-- An engine's read of a range: what has been read before a stop is dropped, and read again later. -/
def State.engRead (die : Nat) (asid : BitVec 16) (got : List (Dword × List Byte)) (q : Ask) :
    List (Nat × Nat) → State → List Byte → State × Except Stop (List Byte)
  | [], s, acc => (s, .ok acc)
  | (a, n) :: ps, s, acc =>
    match s.engPiece die asid got (BitVec.ofNat 64 a) n q with
    | (s, .ok bs) => State.engRead die asid got q ps s (acc ++ bs)
    | (s, .error e) => (s, .error e)

/-- Bytes from memory or from the core's scratchpad. -/
def State.engFrom (s : State) (o : EngOp) (spad : Bool) (ea : Dword) (n policy : Nat) :
    State × Except Stop (List Byte) :=
  if spad then
    if (s.core o.core).spadPoisoned ea.toNat n then (s, .error (.err 1))
    else (s, .ok ((s.core o.core).spadRead ea.toNat n))
  else State.engRead (dieOf o.core) o.asid o.got { policy } (pieces ea.toNat n n) s []

/-- The physical address of a place in a window of a core (R65, R105). -/
def State.windowPa (s : State) (core win off : Nat) : Nat :=
  let die := dieOf core
  let row := core % 72 / 9
  let col := core % 9
  let phys := if col ≥ s.disabledColumn die row then col + 1 else col
  0xF000000000000 + die * 2 ^ 47 + row * 2 ^ 44 + phys * 2 ^ 40 + win * 2 ^ 36 + off

/-- An engine's write of the scratchpad: the data and the full bits, or held while the core is quiesced (R109, R177,
R262). -/
def State.spadPut (s : State) (core off : Nat) (bs : List Byte) : State :=
  if bs.isEmpty then s else s.windowWrite (s.windowPa core 2 off) bs

/-- The thread that issued an operation. -/
def EngOp.who (o : EngOp) : Option ThreadRef := some (o.core, o.place, o.lane)

/-- An engine's write of one piece of memory, for a thread if it has one; `f` gives the bytes from those there now, with
the events. -/
def State.engPut (s : State) (die : Nat) (asid : BitVec 16) (ea : Dword) (n : Nat) (q : Ask)
    (f : List Byte → List Byte × List Ev) (op : RemoteOp) (who : Option ThreadRef := none) :
    State × Except Stop (List Ev) :=
  if bitsNat ea 59 57 ≠ 0 then (s, .error (.err (codeOf Cause.noncanonical)))
  else match s.check die asid ea n q with
    | (s, .trap c) => (s, .error (.err (codeOf c)))
    | (s, .park m) => (s, .error (.park ea m))
    | (s, .remote t) => (s, .error (.remote t op ea))
    | (s, .ok loc) =>
      if s.farHeld none loc.asid (lineOf loc.va) true who then (s, .error .wait)
      else if loc.leaf.repl then (s.askCollapse die loc.asid loc.va, .error .wait)
      else if s.quietAt loc.pa then (s, .error .wait)
      else
        let r := f (s.readAt loc.pa n)
        (s.writeAt loc.pa r.1, .ok r.2)

/-! ## Operations of saved workgroups -/

/-- A core with the scratchpad, the slots and the tiles of another. -/
def Core.mount (k from_ : Core) : Core :=
  { k with carve := from_.carve, spad := from_.spad, full := from_.full, slots := from_.slots, tiles := from_.tiles }

/-- What an operation of a workgroup does to its core while the workgroup is saved: it finds and changes the
scratchpad copy, the slots and the tiles of the full image. A user image holds none of them, and what is written
there is discarded (R333). -/
def State.atImage (s : State) (wg core : Nat) (f : State → State) : State :=
  let w := s.wg wg
  if w.st ≠ .saved then f s
  else
    let k := s.core core
    let mine := List.find? (fun (x : Nat × Image) => x.2.wg = wg && x.2.fullImage) s.images
    match mine with
    | none => (f s).modCore core fun x => x.mount k
    | some (id, i) =>
      let stays := i.manual && k.groups.any fun g => g.2.present && (s.wg g.2.wg).task = w.task
      let copy := if stays then none else
        List.find? (fun (x : Nat × Image) => x.2.core = i.core && x.2.task = i.task && x.2.carve.isSome) s.images
      let (carve, spad, full) : Nat × Tab Byte × List Nat :=
        ((copy.bind fun x => x.2.carve).getD (k.carve, k.spad, k.full))
      let shown : Core := { k with carve, spad, full, slots := i.slots, tiles := i.tiles, quiesced := false }
      let s := f (s.setCore core shown)
      let k' := s.core core
      let keep (n : Nat) (x : Image) : Image :=
        let x := if n = id then { x with slots := k'.slots, tiles := k'.tiles } else x
        if (copy.map Prod.fst) = some n then { x with carve := some (k'.carve, k'.spad, k'.full) } else x
      let back (x : Core) : Core :=
        let y := x.mount k
        let y := if stays then { y with spad := x.spad, full := x.full } else y
        { y with quiesced := k.quiesced }
      { s with images := s.images.mapVals keep }.modCore core back

/-! ## Operations -/

/-- An operation by its name. -/
def State.op (s : State) (id : Nat) : Option EngOp := s.ops.find? fun o => o.id = id

/-- The operation replaced. -/
def State.setOp (s : State) (o : EngOp) : State :=
  { s with ops := s.ops.map fun x => if x.id = o.id then o else x }

/-- The operation removed. -/
def State.dropOp (s : State) (id : Nat) : State := { s with ops := s.ops.filter fun x => x.id ≠ id }

/-- The first error code of an operation is kept. -/
def EngOp.note (o : EngOp) (code : Nat) : EngOp := if o.err = 0 then { o with err := code } else o

/-- An operation stops at a transfer: it parks, waits for another module, or is tried again (R256, R261). -/
def State.opStop (s : State) (o : EngOp) (st : Stop) : State :=
  match st with
  | .err code => s.setOp (o.note code)
  | .wait => s.setOp o
  | .park ea m =>
    let die := dieOf o.core
    let sp := spaceOf o.asid ea
    let va := bitsNat ea 56 0
    -- the counter of a signal that has come from another module (R261, R352)
    let kinds : BitVec 8 := if o.kind = .pgreq ∧ !o.blk.isEmpty then 0x30 else 0x10
    (s.parkOn die sp va kinds m).setOp { o with park := some (parkKey die sp va) }
  | .remote t op ea =>
    match s.openRemote o.core t op ea o.asid with
    | (s, id) => s.setOp { o with remote := some id }

/-- The lanes whose threads issued an operation: all that take part in a CPY, else the one that was elected. -/
def EngOp.lanes (o : EngOp) : List Nat :=
  match o.kind with
  | .cpy _ _ => o.lane :: o.elems.map Prod.fst
  | _ => [o.lane]

/-- The issuing threads' earlier accesses have performed, so that the operation may read (R177, R207). -/
def State.opReady (s : State) (o : EngOp) : Bool :=
  let before (r : LoadReq) : Bool := r.place = o.place && r.accessBy o.lanes && decide (r.serial < o.serial)
  o.park.isNone && o.remote.isNone && !(s.group o.core o.place).pendingBefore o.lanes o.serial &&
    !(s.core o.core).loads.any before && !s.images.any fun i => i.2.wg = o.wg && i.2.loads.any before

/-- An operation that waits for a page or another module no longer does (R299). -/
def EngOp.unheld (o : EngOp) : EngOp := { o with park := none, remote := none }

/-- The generation of an operation has become stale: it writes nothing more and completes with code 5, though it waits
for a page or another module (R171, R299). -/
def EngOp.stale (o : EngOp) : EngOp := { o.unheld with err := 5, done := true }

/-- A command of the chain as an engine operation. -/
def State.newOp (s : State) (l : Nat) (kind : EngKind) (target : Dword) : EngOp :=
  { id := s.nextId, kind, core := s.cur.core, place := s.cur.place, lane := l, wg := s.here.wg, grp := s.here.index,
    task := s.taskOf s.cur.core s.cur.place, asid := s.asid, word := s.curWord, unit := s.unitAddr, res := s.chainRes, issued := s.clock, target,
    serial := s.nextId }

/-- What an operation would write to its own core is held while the core is quiesced (R262). -/
def State.opHeld (s : State) (o : EngOp) : Bool :=
  o.writesCore && (s.core o.core).quiesced && (s.wg o.wg).st ≠ .saved

/-- An operation enters its engine's queue. -/
def State.pushOp (s : State) (o : EngOp) : State := { s with ops := s.ops ++ [o] }.fresh

/-- The thread of an operation is owed a trap, if it still runs (R84, R291). -/
def State.opTrap (s : State) (o : EngOp) (cause : Nat) (addr : Dword) : State :=
  let p : Pending := { cause, word := o.word, addr, unit := o.unit, res := o.res }
  s.landGroup o.wg o.grp fun g => g.modThread o.lane fun t =>
    if t.live then { t with pending := t.pending ++ [p] } else t

/-- Events of an operation are counted at its core (R88, R90). -/
def State.countOp (s : State) (o : EngOp) (es : List Ev) : State :=
  s.countAway o.core { wg := o.wg, grp := o.grp, lane := o.lane, word := o.word, unit := o.unit, issued := o.issued } es

/-! ## Completion (R166, R380) -/

/-- The fields of a completion target. -/
def targetKind (t : Dword) : Nat := bitsNat t 63 62
def targetTag (t : Dword) : Nat := bitsNat t 61 58

/-- A completion target is well formed (R166). -/
def targetWell (t : Dword) : Bool :=
  !t.getLsbD 57 &&
  (match targetKind t with
   | 0 => bitsNat t 56 0 = 0
   | 1 => bitsNat t 56 0 % 8 = 0
   | 2 => bitsNat t 56 18 = 0
   | _ => false)

/-- What becomes of a word that the device writes. -/
inductive DevDone where
  | done
  | skipped (code : Nat)
  | stop (st : Stop)
  deriving DecidableEq, Repr

/-- A word that the device writes for a thread or a task: an add, or a store (R380). -/
def State.devWord (s : State) (die : Nat) (asid : BitVec 16) (ea : Dword) (add : Bool) (x : Dword)
    (who : Option ThreadRef := none) : State × DevDone :=
  let f (old : List Byte) : List Byte × List Ev :=
    (leBytes 8 (if add then BitVec.ofNat 64 (leNat old) + x else x).toNat, [])
  let op : RemoteOp := if add then .atomic true 0 x else .write 8 (zext 128 x)
  match s.engPut die asid ea 8 { write := true, atomic := true, tag := false } f op who with
  | (s, .ok _) => (s, .done)
  | (s, .error (.err c)) => ((s.noteSkipped asid), .skipped c)
  | (s, .error st) => (s, .stop st)

/-- The amount that a counter rises by. -/
def devAmount (err : Bool) : Dword := if err then 0x8000000000000001 else 1

/-- What tells threads that an operation has completed: its tag, and its counter if it has one (R164, R166). -/
def State.toldBy (s : State) (o : EngOp) (bank tag : Nat) : SlotWriter :=
  let w := s.wg o.wg
  let here : Group := if w.st = .running then s.group w.core (w.places.getD o.grp 0)
    else ((List.find? (fun (i : Nat × Image) => i.2.wg = o.wg) s.images).map fun i => i.2.groups.get {} o.grp).getD {}
  .ended o.wg o.grp tag (here.tag bank tag).ended (if targetKind o.target = 1 then some o.target else none) []

/-- The last of an operation: its tag falls, and its name goes (R166). -/
def State.opEnd (s : State) (o : EngOp) (bank tag code : Nat) : State :=
  let s := match o.kind with
    | .unpk | .tt _ => s.slotsTold o.core o.id (s.toldBy o bank tag)
    | _ => s
  ((s.landGroup o.wg o.grp fun g => g.tagEnd bank tag code).dropOp o.id).stamp o.core

/-- The completion of an operation whose transfers are done, on its bank of tags: the counter, the task or the tag
(R166, R348, R380). -/
def State.engComplete (s : State) (o : EngOp) (bank : Nat) : State :=
  let tag := targetTag o.target
  match targetKind o.target with
  | 1 =>
    if o.acked then s.opEnd o bank tag o.err else
    match s.devWord (dieOf o.core) o.asid (o.target &&& 0x1FFFFFFFFFFFFFF#64) true (devAmount (o.err ≠ 0)) o.who with
    | (s, .done) => s.opEnd o bank tag o.err
    | (s, .skipped c) => s.opEnd o bank tag (if o.err = 0 then c else o.err)
    | (s, .stop st) => s.opStop o st
  | 2 =>
    let d : Decrement := { task := bitsNat o.target 17 0, amount := 1, err := o.err ≠ 0 }
    { s.opEnd o bank tag o.err with decs := s.decs ++ [d] }
  | _ => s.opEnd o bank tag o.err

end Sys2Proof.Machine
end

