-- ==== Sys2Proof/Machine/Hts.lean ====
section
/-! DEFINITION. The hardware task scheduler: decrements and readiness (R319 to R321), the launch header (R326, R327), the creation of tasks (R338) and their endings (R327). -/

namespace Sys2Proof.Machine

/-! ## Readiness and decrements (R319 to R321) -/

/-- A task ends: what is to be written, and whether its header is still to be read for DONE (R327). -/
def State.endTask (s : State) (t status detail cause2 : Nat) (phase doneAt : Nat) : State :=
  s.modTask t fun x => { x with phase, status, detail, cause2, doneAt, park := none, cancelled := false, got := [] }

/-- The generation tag of a task is stale (R321). -/
def State.taskStale (s : State) (t : Nat) : Bool := decide (t < s.tsz) && s.genStale (BitVec.ofNat 64 (s.taskNat t 32 8))

/-- TASK_READY (R321). -/
def State.ready (s : State) (t : Nat) : State :=
  let pol := s.taskNat t 7 1
  if s.taskStale t then s.endTask t 5 0 0 4 0
  else if pol / 4 % 2 = 1 ∧ pol % 2 = 1 then s.endTask t 6 0 0 4 0
  else (s.taskPut t 6 1 2).modTask t fun x => { x with phase := 1, readyAt := s.timeNs }

/-- A decrement is applied (R319). A task that is on its way to its end has left STATE 1 behind. -/
def State.applyDec (s : State) (t amount : Nat) (err : Bool) : State :=
  if t ≥ s.tsz then s.ignoreDec
  else if s.taskState t ≠ 1 ∨ (s.task t).phase ≠ 0 then s.ignoreDec
  else
    let s := if err then s.taskPut t 7 1 (s.taskNat t 7 1 ||| 4) else s
    let c := s.taskNat t 0 4 - amount
    let s := s.taskPut t 0 4 c
    (if c = 0 then s.ready t else s).inherit

/-- The word that TASKQ reads (R339). -/
def State.taskWord (s : State) (t : Nat) : Dword :=
  BitVec.ofNat 64 (s.taskNat t 28 1 * 2 ^ 48 + s.taskNat t 5 1 % 8 * 2 ^ 40 + s.taskNat t 6 1 * 2 ^ 32 + s.taskNat t 0 4)

/-! ## The header (R13, R18, R31, R32, R35, R107, R212, R326) -/

/-- Workgroups of a header that an idle core holds (R18, R108). -/
def Header.perCore (h : Header) : Nat :=
  let g := h.groups
  let p := if g = 0 then 0 else 24 / ((g + 7) / 8)
  let cap := min 24 (1024 / max 1 h.vregs)
  ((List.range (p + 1)).filter fun n => (n * g + 7) / 8 ≤ cap && n * h.slots ≤ 64 && n * h.tiles ≤ 32).foldl max 0

/-- Workgroups of a COOP launch that run on its minimum die set (R31, R32). -/
def Header.runningMin (h : Header) : Nat := if h.minDies ≠ h.maxDies then h.total / 2 else h.total

/-- A packet offset of the header (R326). -/
def packetOffset (x : Nat) : Bool := [0, 12, 24, 36, 48].contains (x % 64)

/-- The widths and extents keep the limits of R13. -/
def Header.widWell (h : Header) : Bool :=
  decide ((List.range 6).foldl (fun t k => t + h.wid k) 0 ≤ 64 ∧ 5 ≤ h.wid 0 ∧ h.wid 0 ≤ 10 ∧ 1 ≤ h.wgsize ∧ h.wgsize ≤ 2 ^ h.wid 0) &&
  (List.range 5).all fun k => h.extent (k + 1) ≠ 0 && decide (h.extent (k + 1) ≤ 2 ^ h.wid (k + 1))

/-- The launch's sizes are in range, and a workgroup fits on a core. -/
def Header.sizesWell (h : Header) : Bool :=
  decide (1 ≤ h.wgsize ∧ h.wgsize ≤ 1024 ∧ 8 ≤ h.vregs ∧ h.vregs ≤ 128 ∧ h.vregs % 8 = 0 ∧ 1 ≤ h.sregs ∧ h.sregs ≤ 32 ∧
    h.scratch ≤ 4 ∧ h.slots ≤ 64 ∧ h.tiles ≤ 32 ∧ h.prio ≤ 7 ∧ h.psize ≤ 65536 ∧ 1 ≤ h.perCore)

/-- DIES, the elastic rules, and a COOP launch that can fit. -/
def Header.diesWell (h : Header) (dies : Nat) : Bool :=
  decide (1 ≤ h.minDies ∧ h.minDies ≤ h.maxDies ∧ h.maxDies ≤ 2 ∧ h.minDies ≤ dies) &&
  (h.minDies = h.maxDies || (h.coop && h.total % 2 = 0)) &&
  (!h.coop || decide (h.runningMin ≤ h.perCore * 72 * h.minDies))

/-- The settings of a deterministic launch. -/
def Header.detWell (h : Header) : Bool :=
  if h.det then
    decide (h.minDies = h.maxDies ∧ 1 ≤ h.waves ∧ h.waves ≤ 24 ∧ 1 ≤ h.segBound ∧ h.segBound ≤ 2000 ∧ h.waves ≤ h.perCore)
  else decide (h.waves = 0 ∧ h.segBound = 0)

/-- The first reason for which a header fails (R327). -/
def headerFault (b : List Byte) (addr dies : Nat) : Option Nat :=
  let h : Header := { bytes := b }
  let zero (o n : Nat) : Bool := blkNat b o n = 0
  if blkNat b 0 4 ≠ 0x4D5A3948 then some 1
  else if blkNat b 4 2 ≠ 1 then some 2
  else if !(zero 38 2 && zero 70 2 && zero 96 32) ∨ h.nat 68 1 ≥ 16 then some 3
  else if h.nat 6 2 ≥ 4 then some 4
  else if addr % 64 ≠ 0 ∨ addr % 4096 > 3968 then some 5
  else if h.code % 64 ≠ 0 ∨ !packetOffset h.entry ∨ !packetOffset h.trap ∨ !packetOffset h.preempt then some 6
  else if !h.widWell then some 7
  else if !h.sizesWell then some 8
  else if !h.diesWell dies then some 9
  else if !h.detWell then some 10
  else if h.done % 8 ≠ 0 then some 12
  else none

/-- The address of the DONE list that a header gives, 0 for none (R327). -/
def doneOf (b : List Byte) : Nat :=
  let h : Header := { bytes := b }
  if blkNat b 0 4 = 0x4D5A3948 ∧ blkNat b 4 2 = 1 ∧ h.done % 8 = 0 then h.done else 0

/-! ## Accesses of the HTS -/

/-- An access of the HTS for a task stops: it parks, waits for another module, or is tried again. -/
def State.taskStop (s : State) (t : Nat) (st : Stop) : State :=
  match st with
  | .park ea m =>
    let sp := spaceOf (s.taskAsid t) ea
    let va := bitsNat ea 56 0
    (s.parkOn 0 sp va 0x10 m).modTask t fun x => { x with park := some (parkKey 0 sp va) }
  | .remote target op ea =>
    match s.openRemote 0 target op ea (s.taskAsid t) with
    | (s, id) => s.modTask t fun x => { x with remote := some id }
  | _ => s

/-- Bytes in a task's address space; an access that FLTCAN has ended is an error. -/
def State.taskRead (s : State) (t : Nat) (ea : Dword) (n : Nat) : State × Except Stop (List Byte) :=
  if (s.task t).cancelled then (s, .error (.err 1))
  else State.engRead 0 (s.taskAsid t) (s.task t).got {} (pieces ea.toNat n n) s []

/-- The task waits for an access. -/
def HtsTask.waits (x : HtsTask) : Bool := x.park.isSome || x.remote.isSome

/-- LAUNCH_HEADER_CHECK: the header is read and checked; a launch that passes waits for its places (R327, R328). -/
def State.headerCheck (s : State) (t : Nat) : State :=
  let x := s.task t
  if x.phase ≠ 1 ∨ x.waits then s
  else
    let hdr := s.taskNat t 8 8
    match s.taskRead t (BitVec.ofNat 64 hdr) 128 with
    | (s, .error (.err _)) => s.endTask t 2 (if hdr % 64 ≠ 0 ∨ hdr % 4096 > 3968 then 5 else 11) 0 5 0
    | (s, .error st) => s.taskStop t st
    | (s, .ok b) =>
      match headerFault b hdr s.dies with
      | some r => s.endTask t 2 r 0 5 (if 3 ≤ r ∧ r ≤ 10 then doneOf b else 0)
      | none =>
        let h : Header := { bytes := b }
        let param := s.taskNat t 16 8
        let l : Launch := { hdr := h, asid := s.taskAsid t, priv := s.taskNat t 7 1 / 2 % 2 = 1,
                            param := BitVec.ofNat 64 (if param = 0 then h.params else param),
                            dieset := if h.minDies = 2 then 3 else 1 }
        ({ s with launches := s.launches.set t l }).modTask t fun x => { x with phase := 2, got := [] }

/-! ## Creation (R338) -/

/-- The lowest free record of a range that no TKE has reserved (R338, R358). -/
def State.freeRecord (s : State) (range : Dword) : Option Nat :=
  (List.range s.tsz).find? fun t =>
    s.within range t && s.taskState t = 0 && !s.reservations.any fun x => x.task = t

/-- What a new task takes from outside its template. -/
structure NewTask where
  asid : BitVec 16
  template : Nat
  counter : Nat
  /-- none: the PRIO of the template's launch header -/
  prio : Option Nat
  param : Nat
  gen : Nat
  cword : Nat
  /-- a tokeniser's task copies PRIV -/
  priv : Bool
  deriving DecidableEq, Repr

/-- The PRIO of a template's launch header, or its own when the header cannot be had (R338). -/
def State.headerPrio (s : State) (t : Nat) (got : List (Dword × List Byte)) (cancelled : Bool) :
    State × Except Stop Nat :=
  let own := s.taskNat t 4 1
  if cancelled then (s, .ok own)
  else
    let hdr := s.taskNat t 8 8
    match State.engRead 0 (s.taskAsid t) got {} (pieces hdr 128 128) s [] with
    | (s, .ok b) => (s, .ok (if blkNat b 0 4 = 0x4D5A3948 ∧ blkNat b 4 2 = 1 then blkNat b 67 1 else own))
    | (s, .error (.err _)) => (s, .ok own)
    | (s, .error st) => (s, .error st)

/-- A task is created in a record from its template (R338). -/
def State.createTask (s : State) (t : Nat) (n : NewTask) (prio : Nat) : State :=
  let tpl := s.view (s.taskAddr n.template) 128
  let pol := blkNat tpl 7 1
  let policy := pol % 2 + (if n.priv then pol / 2 % 2 * 2 else 0)
  let rec_ := leBytes 4 n.counter ++ leBytes 1 prio ++ leBytes 1 0 ++ leBytes 1 1 ++ leBytes 1 policy ++
    (tpl.drop 8).take 8 ++ leBytes 8 n.param ++ (tpl.drop 24).take 2 ++ (tpl.drop 26).take 1 ++ leBytes 1 0 ++
    leBytes 4 0 ++ leBytes 8 n.gen ++ leBytes 8 n.cword ++ (tpl.drop 48).take 48 ++ leBytes 32 0
  let s := s.agentWrite (s.taskAddr t) (rec_.take 64)
  let s := s.agentWrite (s.taskAddr t + 64) (rec_.drop 64)
  let s := { s with tasks := s.tasks.erase t }
  (if n.counter = 0 then s.ready t else s).inherit

/-! ## Endings (R327) -/

/-- The completion word (R327). -/
def State.completionWord (s : State) (t : Nat) (x : HtsTask) : Dword :=
  BitVec.ofNat 64 (s.timeNs / 1000 % 2 ^ 32 * 2 ^ 32 + x.cause2 % 256 * 2 ^ 24 + s.taskNat t 7 1 / 4 % 2 * 2 ^ 16 +
    x.detail % 256 * 2 ^ 8 + x.status)

/-- The STATE of a status (R327). -/
def endState (status : Nat) : Nat :=
  match status with
  | 0 => 4
  | 2 => 7
  | 6 => 6
  | _ => 5

/-- STATUS and STATE are written, with the completion word (R323, R327). -/
def State.writeEnd (s : State) (t : Nat) (x : HtsTask) : State :=
  let s := if t < s.tsz then
      (s.taskPut t 28 4 (x.status + x.detail % 256 * 2 ^ 8 + x.cause2 % 256 * 2 ^ 16)).taskPut t 6 1 (endState x.status)
    else s
  (s.modTask t fun x => { x with phase := 6, cancelled := false, got := [] }).inherit

/-- Entries of a successor list of a task, as decrements (R318, R327). -/
def succOf (b : List Byte) (n : Nat) (err : Bool) (from_ : Nat) : List Decrement :=
  (List.range n).map fun i =>
    { task := blkNat b (8 * i) 4 % 2 ^ 18, amount := BitVec.ofNat 32 (blkNat b (8 * i + 4) 4), err, from_ }

/-- TASK_COMPLETION: the next part of a task's ending (R327). -/
def State.completeTask (s : State) (t : Nat) : State :=
  let x := s.task t
  if x.waits then s
  else match x.phase with
  | 4 =>
    match s.taskRead t (BitVec.ofNat 64 (s.taskNat t 8 8)) 128 with
    | (s, .ok b) => s.modTask t fun x => { x with phase := 5, doneAt := doneOf b, got := [] }
    | (s, .error (.err _)) => s.modTask t fun x => { x with phase := 5, doneAt := 0, cancelled := false, got := [] }
    | (s, .error st) => s.taskStop t st
  | 5 =>
    let cword := if t < s.tsz then s.taskNat t 40 8 else 0
    let asid := s.taskAsid t
    if cword = 0 ∨ x.got ≠ [] then s.writeEnd t x
    else if x.cancelled then (s.noteSkipped asid).writeEnd t x
    else match s.devWord 0 asid (BitVec.ofNat 64 cword) false (s.completionWord t x) with
      | (s, .done) => s.writeEnd t x
      | (s, .skipped _) => s.writeEnd t x
      | (s, .stop st) => s.taskStop t st
  | 6 =>
    let err := x.status ≠ 0
    let ds := if t < s.tsz then succOf (s.view (s.taskAddr t + 48) 48) (min 6 (s.taskNat t 26 1)) err (t + 1) else []
    ({ s with decs := s.decs ++ ds, launches := s.launches.erase t }).modTask t fun x => { x with phase := 7 }
  | 7 =>
    let fin (s : State) : State := ({ s with tasks := s.tasks.erase t }).inherit
    if x.doneAt = 0 then fin s
    else match s.taskRead t (BitVec.ofNat 64 x.doneAt) 8 with
      | (s, .error (.err _)) => fin s
      | (s, .error st) => s.taskStop t st
      | (s, .ok b) =>
        let n := min 64 (leNat b)
        match s.taskRead t (BitVec.ofNat 64 (x.doneAt + 8)) (8 * n) with
        | (s, .error (.err _)) => fin s
        | (s, .error st) => s.taskStop t st
        | (s, .ok b) =>
          let ds := succOf b n (x.status ≠ 0) (t + 1)
          let good := ds.filter fun d => s.inRange (s.taskAsid t) d.task
          let s := (ds.filter fun d => !s.inRange (s.taskAsid t) d.task).foldl (fun s _ => s.ignoreDec) s
          fin { s with decs := s.decs ++ good }
  | _ => s

/-- Running launches whose generation has become stale stop (R328). -/
def State.retireStale (s : State) : State :=
  s.launches.foldl (fun s l =>
    if (s.task l.1).phase = 3 ∧ !l.2.stopped ∧ s.taskStale l.1 then s.endLaunch l.1 5 0 0
    else if (s.task l.1).phase = 2 ∧ s.taskStale l.1 then
      s.endTask l.1 5 0 0 5 (doneOf l.2.hdr.bytes)
    else s) s

end Sys2Proof.Machine
end

