-- ==== Sys2Proof/Machine/Sched.lean ====
section
/-! DEFINITION. The scheduler's events: where a workgroup goes (R17, R18, R32, R107, R108, R325), dispatch (R328),
pre-emption and its saves (R324, R329, R331), restores (R332, R334), the change of a die set (R33), the end of a
launch (R11) and of a task (R327). -/

namespace Sys2Proof.Machine

/-! ## Places on a core (R17, R18, R107, R108) -/

/-- The lowest run of n units below a limit that meets none of the runs in use (base, length). -/
def lowestRun (used : List (Nat × Nat)) (n limit : Nat) : Option Nat :=
  (List.range (limit + 1 - n)).find? fun b => used.all fun u => b + n ≤ u.1 || u.1 + u.2 ≤ b

/-- The place and the rows of each group of a workgroup, group by group (R17, R18). -/
def State.groupPlaces (s : State) (core : Nat) (without : List Nat) (vregs base : Nat) :
    List Nat → List (Nat × Nat) → Option (List (Nat × Nat))
  | [], acc => some acc
  | j :: js, acc =>
    let gs := (s.core core).groups
    let part := (base + j) % 8
    let held := gs.filter fun x => x.2.present && x.1 / 24 = part && !without.contains x.2.wg
    let rows := (held.map fun x => (x.2.rb, (s.wgHdr x.2.wg).vregs)) ++
      (acc.filter fun p => p.1 / 24 = part).map fun p => (p.2, vregs)
    let free (i : Nat) : Bool :=
      let g := gs.get {} (24 * part + i)
      (!g.present || without.contains g.wg) && (g.sq.isEmpty || without.contains g.wg) &&
        !acc.any fun p => p.1 = 24 * part + i
    match (List.range 24).find? free, lowestRun rows vregs 1024 with
    | some i, some rb => s.groupPlaces core without vregs base js (acc ++ [(24 * part + i, rb)])
    | _, _ => none

/-- Workgroups that have left the core while a product of theirs is queued, or an operation of theirs on their slots and
tiles goes on: they hold these until then (R264, R271, R279). -/
def State.lingering (s : State) (core : Nat) : List Nat :=
  ((s.core core).mq.map MmaJob.wg ++ s.ops.filterMap fun o =>
    let onCore : Bool := match o.kind with
      | .unpk | .pack | .tt _ => true
      | _ => false
    if onCore ∧ o.core = core ∧ (s.wg o.wg).st = .ended then some o.wg else none).eraseDups

/-- Where a workgroup of a task goes on a core, as if some workgroups had left it (R17, R18, R107, R108). -/
def State.findSpot (s : State) (core task base : Nat) (without : List Nat) : Option Spot :=
  let h := (s.launch task).hdr
  let k := s.core core
  let ws := s.coreWgs core without
  -- a quiesced core takes nothing (R262)
  if k.quiesced ∨ k.carve ≠ h.scratch ∨ (k.carve ≠ 0 ∧ ws.any fun w => (s.wg w).task ≠ task) then none
  else
    let mine := ws.filter fun w => (s.wg w).task = task
    let place := (List.range (24 / max 1 ((h.groups + 7) / 8))).find? fun p => mine.all fun w => (s.wg w).place ≠ p
    let held := ws ++ (s.lingering core).filter fun w => !ws.contains w && !without.contains w
    let slots := lowestRun (held.map fun w => ((s.wg w).slotBase, (s.wgHdr w).slots)) h.slots 64
    let tiles := lowestRun (held.map fun w => ((s.wg w).tileBase, (s.wgHdr w).tiles)) h.tiles 32
    match place, slots, tiles, s.groupPlaces core without h.vregs base (List.range h.groups) [] with
    | some place, some slotBase, some tileBase, some ps =>
      some { base := base % 8, place, places := ps.map Prod.fst, rbs := ps.map Prod.snd, slotBase, tileBase }
    | _, _, _, _ => none

/-- A place for a workgroup at any base partition, the given one first. -/
def State.anySpot (s : State) (core task base : Nat) (without : List Nat) : Option Spot :=
  (List.range 8).findSome? fun i => s.findSpot core task (base + i) without

/-- The launch reserve allows a workgroup of the task on the core (R325). -/
def State.reserveAllows (s : State) (core task : Nat) : Bool :=
  let die := dieOf core
  let idle := (List.range 72).filter fun i => 72 * die + i ≠ core && (s.coreWgs (72 * die + i) []).isEmpty
  s.qprio task = 7 || bitsNat s.htsRes (8 * die + 7) (8 * die) ≤ idle.length

/-- A core that the part has. -/
def State.coreExists (s : State) (core : Nat) : Bool := decide (core < s.coreCount)

/-! ## Which workgroups a launch runs (R32, R212) -/

/-- Waves of a deterministic launch: C·W of them (R212). -/
def Header.waveCount (h : Header) : Nat := 72 * h.minDies * h.waves

/-- Workgroups that a launch starts: its half 0, or all of them; of a deterministic launch all C·W waves (R32, R212). -/
def Launch.startable (l : Launch) : Nat :=
  if l.hdr.det then l.hdr.waveCount
  else if l.elastic ∧ l.dieset ≠ 3 then l.hdr.total / 2
  else l.hdr.total

/-- The die of a set on which a workgroup of an elastic launch runs (R32). -/
def Launch.halfDie (l : Launch) (number : Nat) : Nat :=
  if l.dieset = 2 then 1 else if l.dieset = 3 ∧ l.hdr.total / 2 ≤ number then 1 else 0

/-- The launch may have this workgroup on a core of the die (R32). -/
def Launch.mayRunOn (l : Launch) (number die : Nat) : Bool :=
  if l.elastic then l.halfDie number = die else l.dieset.getLsbD die

/-! ## A workgroup begins (R10, R328) -/

/-- A group as its workgroup begins. -/
def freshGroup (l : Launch) (w j rb clock : Nat) (sq : List SqUnit) : Group :=
  let entry : Dword := l.hdr.entryAt l.hdr.entry
  { present := true, wg := w, index := j, rb, sq, lastIssue := clock, s := [(1, l.param)],
    lanes := ((List.range 32).filter fun i => decide (32 * j + i < l.hdr.wgsize)).map fun i =>
      (i, { present := true, pos := { pc := entry, word := 0 }, since := clock }) }

/-- The groups, slots and tiles of a workgroup as it begins, at the places that it holds. -/
def State.fillWg (s : State) (w : Nat) (rbs : List Nat) : State :=
  let x := s.wg w
  let l := s.launch x.task
  let h := l.hdr
  s.modCore x.core fun k => (x.places.zipIdx).foldl (fun k p =>
      { k.heldRows p.1 (rbs.getD p.2 0) h.vregs with
        groups := k.groups.set p.1 (freshGroup l w p.2 (rbs.getD p.2 0) s.clock (k.groups.get {} p.1).sq) })
    (k.clearShare x.slotBase h.slots x.tileBase h.tiles)

/-- A wave without a workgroup holds its places and has no segment (R212). -/
def State.idleWave (s : State) (w : Nat) : State :=
  let none_ (g : Group) : Group := if g.present ∧ g.wg = w then { g with lanes := [] } else g
  (s.modCore (s.wg w).core fun k => { k with groups := k.groups.mapVals fun _ g => none_ g }).modWg w fun x =>
    { x with st := .ended }

/-- Workgroup `number` of a task starts at a spot of a core; a deterministic launch's is a wave (R212, R328). -/
def State.startWg (s : State) (task core number : Nat) (spot : Spot) : State :=
  let h := (s.launch task).hdr
  let w := s.nextId
  let x : Wg := { task, number, core, base := spot.base, place := spot.place, groups := h.groups,
                  places := spot.places, slotBase := spot.slotBase, tileBase := spot.tileBase, wave := number,
                  segStart := s.timeNs }
  let s := { s with wgs := s.wgs.set w x, nextId := w + 1 }
  let s := (s.modCore core fun k => { k with code := [] }).fillWg w spot.rbs
  if h.det ∧ h.total ≤ number then s.idleWave w else s

/-- A launch whose workgroups are all placed before any of them issues (R31, R212). -/
def Header.together (h : Header) : Bool := h.coop || h.det

/-- A launch whose set is placed begins to issue; its segments begin (R31, R212, R335). -/
def State.launchGo (s : State) (task : Nat) : State :=
  let s := s.modLaunch task fun l => { l with go := true, saveAt := none, started := l.started.or (some s.timeNs) }
  { s with wgs := s.wgs.mapVals fun _ x => if x.task = task then { x with segStart := s.timeNs } else x }

/-- An image of a task that the HTS may restore: its workgroup is saved, not dormant (R32, R332). -/
def State.savedImages (s : State) (task : Nat) : Tab Image :=
  s.images.filter fun x => x.2.task = task && !x.2.manual && (s.wg x.2.wg).st = .saved

/-- The image's geometry word is not the part's (R334). -/
def State.badGeometry (s : State) (i : Image) : Bool := i.fullImage && s.viewNat i.addr 8 ≠ geometryWord

/-- The task heads the ready queues: the highest EPRIO, then the earliest ready, then the lower index (R322). -/
def State.heads (s : State) (task : Nat) : Bool :=
  s.tasks.all fun u =>
    u.2.phase ≠ 2 || u.1 = task || decide (s.eprio u.1 < s.eprio task) ||
    (s.eprio u.1 = s.eprio task && (decide ((s.task task).readyAt < u.2.readyAt) ||
      (u.2.readyAt = (s.task task).readyAt && decide (task < u.1))))

/-- Waves of one logical core share a core, and a core holds those of one logical core only (R212, log 33). -/
def State.waveMay (s : State) (task core wave : Nat) : Bool :=
  let per := max 1 (s.launch task).hdr.waves
  s.wgs.all fun y => y.2.task ≠ task || y.2.st ≠ .running ||
    decide (y.2.core = core) == decide (y.2.wave / per = wave / per)

/-- WORKGROUP_DISPATCH: the next workgroup of a checked launch starts on the core, where it may (R328). -/
def State.dispatch (s : State) (task core base : Nat) : State :=
  let x := s.task task
  let l0 := s.launch task
  let h := l0.hdr
  let n := l0.nextWg
  let l : Launch := if x.phase = 2 ∧ h.minDies = 1 ∧ !l0.elastic then { l0 with dieset := if dieOf core = 1 then 2 else 1 } else l0
  if s.boot ≠ .running ∨ !s.coreExists core ∨ l.stopped ∨ !(x.phase = 2 ∧ s.heads task ∨ x.phase = 3) ∨
      l.startable ≤ n ∨ !l.mayRunOn n (dieOf core) ∨
      (s.savedImages task).any (fun y => !s.badGeometry y.2) ∨ !s.reserveAllows core task ∨
      (h.det ∧ !s.waveMay task core n) then s
  else match s.findSpot core task base [] with
  | none => s
  | some spot =>
    let s := { s with launches := s.launches.set task { l with nextWg := n + 1, begun := if n = 0 then s.timeNs else l.begun } }
    let s := if x.phase = 2 then
        ((s.taskPut task 6 1 3).modTask task fun x => { x with phase := 3 }).inherit
      else s
    let s := s.startWg task core n spot
    if !h.together ∨ n + 1 = l.startable then s.launchGo task else s

/-! ## The carve-out (R107) -/

/-- CARVEOUT_APPLY: a core that holds no workgroup takes another setting: its L1 is written back and invalidated,
its scratchpad is zero and every granule is empty. -/
def State.applyCarve (s : State) (core setting : Nat) : State :=
  if !s.coreExists core ∨ (s.core core).quiesced ∨ 4 < setting ∨ (s.core core).carve = setting ∨ !(s.coreWgs core []).isEmpty then s
  else
    let s := (s.core core).l1.foldl (fun s x => s.l1Evict core x.2.asid x.2.line) s
    s.modCore core fun k => { k with carve := setting, spad := [], full := [], poison := [] }

/-! ## Pre-emption (R324, R329, R331) -/

/-- A pre-emption of a workgroup becomes pending in its live threads (R329). -/
def State.preemptWg (s : State) (w : Nat) : State :=
  let x := s.wg w
  (s.modWg w fun x => { x with preempt := some s.timeNs }).modCore x.core fun k =>
    { k with groups := k.groups.mapVals fun _ g =>
      if g.present ∧ g.wg = w then { g with lanes := g.lanes.mapVals fun _ t => { t with preempt := t.live } } else g }

/-- A wave of a deterministic launch that is still to be saved at the flush selected for it (R335). -/
def State.waveDue (s : State) (w : Nat) : Bool :=
  let x := s.wg w
  let l := s.launch x.task
  l.saveAt.isSome && (x.st = .running || x.st = .ended) && !x.places.isEmpty &&
    decide (x.number + l.hdr.waveCount < l.hdr.total)

/-- Units of the context area that no image takes, and those that pending pre-emptions will take (R332). -/
def State.ctxRoom (s : State) (ws : List Nat) : Bool :=
  let size (h : Header) (fullImage : Bool) : Nat := unitsOf (if fullImage then h.fullBytes else h.userBytes)
  let held := (s.images.map fun x => size (s.launch x.2.task).hdr x.2.fullImage).sum
  let due := (s.wgs.filterMap fun x =>
    if x.2.preempt.isSome || s.waveDue x.1 then some (size (s.wgHdr x.1) true) else none).sum
  decide (held + due + (ws.map fun w => size (s.wgHdr w) true).sum ≤ s.ctxSize / 65536) &&
    ws.all fun w => (s.ctxFree (size (s.wgHdr w) true)).isSome

/-- A pre-emption of the workgroup is under way (R329, R335). -/
def State.leaving (s : State) (w : Nat) : Bool := (s.wg w).preempt.isSome || (s.launch (s.wg w).task).saveAt.isSome

/-- A victim's place in the order of R324: the lower priority first, then the later start. -/
def State.victimKey (s : State) (w : Nat) : Nat :=
  s.qprio (s.wg w).task * 2 ^ 64 + (2 ^ 64 - 1 - (s.launch (s.wg w).task).begun)

/-- The workgroups on a core that the waiting task may pre-empt, in the order in which they are chosen (R324). -/
def State.victims (s : State) (task core : Nat) : List Nat :=
  let vs := (s.coreWgs core []).filter fun w =>
    let x := s.wg w
    x.task ≠ task && !s.leaving w && decide (s.qprio x.task < s.qprio task)
  sortBy s.victimKey vs

/-- As many of the victims as make room for a workgroup of the task, on a core that holds some and that the reserve
leaves to it: all of the core's, when its carve-out is not zero or differs (R324, R325). -/
def State.chosen (s : State) (task core : Nat) : Option (List Nat) :=
  let vs := s.victims task core
  let k := s.core core
  if vs.isEmpty ∨ !s.reserveAllows core task then none
  else if k.carve ≠ 0 ∨ k.carve ≠ (s.launch task).hdr.scratch then
    if (s.coreWgs core []).all vs.contains then some vs else none
  else ((List.range (vs.length + 1)).find? fun n => n ≠ 0 && (s.anySpot core task 0 (vs.take n)).isSome).map vs.take

/-- The waiting task may go onto a core: of its die set, or of the die that its images come from (R32, R332). -/
def State.mayUse (s : State) (task core : Nat) : Bool :=
  let l := s.launch task
  if (s.task task).phase = 3 then (s.savedImages task).any fun y => dieOf y.2.core = dieOf core
  else (l.hdr.minDies = 1 && !l.elastic) || l.mayRunOn l.nextWg (dieOf core)

/-- The place in that order of the last of some victims. -/
def State.cost (s : State) (vs : List Nat) : Nat := vs.foldl (fun m w => max m (s.victimKey w)) 0

/-- Workgroups that are on their way off the core leave room on it for one of the task (R324). -/
def State.roomComing (s : State) (task core : Nat) : Bool :=
  let ws := s.coreWgs core []
  let going := ws.filter s.leaving
  !going.isEmpty && (going.length = ws.length || (s.anySpot core task 0 going).isSome)

/-- PREEMPT_DECISION: a waiting task takes workgroups off one core, that whose victims come first in the order; COOP
and deterministic launches go whole, the latter at their next flush (R324, R332, R335). -/
def State.preemptDecide (s : State) (task core : Nat) : State :=
  let x := s.task task
  let waiting := x.phase = 2 ∨ (x.phase = 3 ∧ !(s.savedImages task).isEmpty)
  let placeable := (List.range s.coreCount).any fun c =>
    s.mayUse task c && ((s.anySpot c task 0 []).isSome && s.reserveAllows c task || s.roomComing task c)
  let better (n : Nat) : Bool := (List.range s.coreCount).any fun c =>
    s.mayUse task c && (s.chosen task c).any fun vs => decide (s.cost vs < n)
  if !waiting ∨ !s.coreExists core ∨ !s.mayUse task core ∨ placeable ∨ s.ctxSize = 0 then s
  else match s.chosen task core with
  | none => s
  | some vs =>
    let whole := (vs.map fun w => (s.wg w).task).eraseDups.filter fun t => (s.launch t).hdr.together
    -- a wave between two segments holds its places too
    let here (y : Wg) : Bool := y.st = .running || (y.st = .ended && (s.launch y.task).hdr.det && !y.places.isEmpty)
    let all := vs ++ (s.wgs.filter fun y => here y.2 && whole.contains y.2.task && !vs.contains y.1).map Prod.fst
    if !s.ctxRoom all ∨ better (s.cost vs) then s
    else all.foldl (fun s w =>
      let t := (s.wg w).task
      if (s.launch t).hdr.det then s.modLaunch t fun l => { l with saveAt := l.saveAt.or (some l.flushes) }
      else if (s.wg w).preempt.isSome then s
      else s.preemptWg w) s

/-- The loads of a workgroup have landed, but for those that wait for a page or another module, and those behind such an
access of their group (R331, R333). -/
def State.wgLanded (s : State) (w : Nat) : Bool :=
  let k := s.core (s.wg w).core
  (s.wgLoads w).all fun r => r.park.isSome || r.remote.isSome ||
    k.loads.any (fun y => y.place = r.place && decide (y.id < r.id) && (y.park.isSome || y.remote.isSome)) ||
    (s.group (s.wg w).core r.place).sq.any fun u => u.accs.any fun a => !a.done && (a.park.isSome || a.remote.isSome)

/-- The workgroup may be saved by force: no region is open, its queued MMAs and the units that it has issued have completed
(R331). -/
def State.wgQuiet (s : State) (w : Nat) : Bool :=
  s.wgClosed w && !s.wgMma w && s.wgLanded w

/-- FORCED_SAVE: a workgroup that has not saved itself within 40 µs, or whose launch has no handler, is written as a
full image, together with the workgroups that share its carve-out (R329, R331). -/
def State.forceSave (s : State) (task w : Nat) : State :=
  let x := s.wg w
  match x.preempt with
  | none => s
  | some _ =>
    let shared := (s.core x.core).carve ≠ 0
    let ws := s.savedWith w
    if x.task ≠ task ∨ s.cur.active ∨ !s.saveDue w ∨ !ws.all s.wgQuiet then s
    else ws.zipIdx.foldl (fun s p => s.forcedSave p.1 (shared && p.2 = 0)) s

/-! ## Restores (R332, R334) -/

/-- A full image's carve-out is applied to an empty core, with the copy (R332). -/
def State.putCarve (s : State) (core : Nat) (i : Image) : State :=
  match i.carve with
  | none => s
  | some (setting, spad, granules) =>
    (s.applyCarve core setting).modCore core fun k => { k with spad, full := granules }

/-- Images put onto a core one after the other; none when one of them does not fit. -/
def State.putImages (s : State) (core : Nat) : List (Nat × Image) → Option State
  | [] => some s
  | (id, i) :: is =>
    match s.anySpot core i.task (s.wg i.wg).base [] with
    | none => none
    | some spot =>
      let s := { s.putImage i core spot with images := s.images.erase id }
      let s := s.modWg i.wg fun x => { x with st := if i.groups.any (fun g => !g.2.live.isEmpty) then .running else .ended }
      -- accesses that a thread waits for may have performed while it was saved
      let s := spot.places.foldl (fun s p => s.afterAccess core p) s
      s.putImages core is

/-- The store queues that groups of a workgroup have left behind are empty (R332). -/
def State.wgDrained (s : State) (w : Nat) : Bool :=
  s.cores.all fun k => k.2.groups.all fun g => g.2.present || g.2.wg ≠ w || g.2.sq.isEmpty

/-- STATUS tells of refused images until the last of them has been restored (R334). -/
def State.tellRefused (s : State) (task : Nat) (refused : List Nat) : State :=
  let before := (s.launch task).refused
  let s := s.modLaunch task fun l => { l with refused }
  if refused = before then s
  else if refused.isEmpty then s.taskPut task 28 4 0
  else s.taskPut task 28 4 (4 + 0x33 * 256)

/-- Images that have been restored are refused no longer (R334). -/
def State.unrefused (s : State) (task : Nat) : State :=
  s.tellRefused task ((s.launch task).refused.filter fun w => (s.wg w).st = .saved)

/-- The workgroups that were saved from one core go onto a core of the same die, together; none where they may not
(R332). -/
def State.putBatch (s : State) (task core : Nat) (batch : List (Nat × Image)) : Option State :=
  let l := s.launch task
  let carved := batch.find? fun x => x.2.carve.isSome
  if batch.any (fun x => dieOf core ≠ dieOf x.2.core || !l.mayRunOn (s.wg x.2.wg).number (dieOf core) || !s.wgDrained x.2.wg) ∨
      !s.reserveAllows core task ∨ (carved.isSome ∧ !(s.coreWgs core []).isEmpty) ∨
      (l.hdr.det ∧ (s.coreWgs core []).any fun w => (s.wg w).task = task) then none
  else
    (match carved with
     | some x => s.putCarve core x.2
     | none => s).putImages core batch

/-- The images of a task by the cores that they were saved from. -/
def batches (imgs : List (Nat × Image)) : List (List (Nat × Image)) :=
  (sortBy (fun c => c) (imgs.map fun x => x.2.core).eraseDups).map fun c => imgs.filter fun x => x.2.core = c

/-- Batches go onto the first cores that take them; none unless all of them find one. -/
def State.putAll (s : State) (task : Nat) (bs : List (List (Nat × Image))) : Option State :=
  bs.foldl (fun (o : Option State) b => o.bind fun s =>
    (List.range s.coreCount).findSome? fun c => s.putBatch task c b) (some s)

/-- CONTEXT_RESTORE: the workgroups that were saved from one core go onto one core of the same die, together; those of a
COOP or a deterministic launch all at once, once all of them have been saved, the first batch onto the core named. Images of another geometry are refused,
and such a launch waits for them (R331, R332, R334, R335). -/
def State.restore (s : State) (task core : Nat) : State :=
  let l := s.launch task
  if s.boot ≠ .running ∨ (s.task task).phase ≠ 3 ∨ l.stopped ∨ !s.coreExists core then s
  else
    let imgs := s.savedImages task
    let bad := imgs.filter fun x => s.badGeometry x.2
    let s := s.tellRefused task (l.refused ++ (bad.map fun x => x.2.wg).filter fun w => !l.refused.contains w)
    let hold := l.hdr.together ∧ (!bad.isEmpty ∨ s.wgs.any fun y =>
      y.2.task = task && (y.2.preempt.isSome || s.waveDue y.1 || s.images.any fun i => i.2.wg = y.1 && i.2.manual))
    match batches (imgs.filter fun x => !s.badGeometry x.2) with
    | [] => s
    | first :: rest =>
      if hold then s
      else match s.putBatch task core first with
      | none => s
      | some s1 =>
        if !l.hdr.together then s1.unrefused task
        else match s1.putAll task rest with
        | none => s
        | some s2 =>
          let s2 := s2.unrefused task
          if l.startable ≤ l.nextWg then s2.launchGo task else s2.modLaunch task fun l => { l with go := false }

/-! ## The die set (R32, R33) -/

/-- The workgroups of the launch that run. -/
def State.runningWgs (s : State) (task : Nat) : List Nat :=
  (s.wgs.filter fun x => x.2.task = task && x.2.st = .running).map Prod.fst

/-- A workgroup of half 1 that has never run goes onto the first core of die 1 that takes it. -/
def State.startHalf (s : State) (task number : Nat) : Option State :=
  (List.range 72).findSome? fun i =>
    if s.reserveAllows (72 + i) task then
      (s.anySpot (72 + i) task 0 []).map fun spot => s.startWg task (72 + i) number spot
    else none

/-- The saved workgroups of half 1, by the core that they were saved from, go onto cores of die 1 where the reserve leaves room,
once their store queues are empty (R33, R325, R332). -/
def State.restoreHalf (s : State) (task : Nat) (batch : List (Nat × Image)) : Option State :=
  if !batch.all fun x => s.wgDrained x.2.wg then none
  else (List.range 72).findSome? fun i =>
    let core := 72 + i
    if !s.reserveAllows core task then none
    else match batch.find? fun x => x.2.carve.isSome with
    | some x => if (s.coreWgs core []).isEmpty then (s.putCarve core x.2).putImages core batch else none
    | none => s.putImages core batch

/-- Die 1 joins the set: half 1 is restored and started; none when a part of it does not fit. -/
def State.addDie (s : State) (task : Nat) : Option State :=
  let l := s.launch task
  let imgs := s.images.filter fun x => x.2.task = task && (s.wg x.2.wg).st = .dormant
  let batches := (imgs.map fun x => x.2.core).eraseDups.map fun c => imgs.filter fun x => x.2.core = c
  let fresh := (List.range l.hdr.total).drop (max l.nextWg (l.hdr.total / 2))
  let s1 := batches.foldl (fun (o : Option State) b => o.bind fun s => s.restoreHalf task b) (some s)
  let s2 := fresh.foldl (fun (o : Option State) n => o.bind fun s => s.startHalf task n) s1
  s2.map fun s => s.modLaunch task fun l => { l with dieset := 3, nextWg := l.hdr.total }

/-- Die 1 leaves the set: each workgroup of half 1 is saved (R33). None when the context area lacks room. -/
def State.dropDie (s : State) (task : Nat) : Option State :=
  let half := (s.runningWgs task).filter fun w => (s.launch task).hdr.total / 2 ≤ (s.wg w).number
  if !s.ctxRoom half ∨ !half.all s.wgQuiet then none
  else
    let save (x : State × List Nat) (w : Nat) : State × List Nat :=
      let c := (x.1.wg w).core
      let s := x.1.release [w] .step
      let s := s.forcedSave w (!x.2.contains c)
      (s.modWg w fun y => { y with st := .dormant }, c :: x.2)
    some ((half.foldl save (s, [])).1.modLaunch task fun l => { l with dieset := 1 })

/-- DIESET_CHANGE: while the STEP barrier holds every running thread of an elastic launch, the HTS changes the die
set where it can, and the barrier completes (R33). -/
def State.diesetChange (s : State) (task : Nat) (add : Bool) : State :=
  let l := s.launch task
  if !l.elastic ∨ l.stopped ∨ !l.go ∨ !s.stepHeld task then s
  else
    let changed :=
      if add then (if l.dieset = 1 ∧ s.dies = 2 then s.addDie task else none)
      else (if l.dieset = 3 then s.dropDie task else none)
    (changed.getD s).stepComplete task

/-! ## The end of a launch and of a task (R11, R327) -/

/-- Nothing that the launch has issued is outstanding (R11, R327). -/
def State.launchDrained (s : State) (task : Nat) : Bool :=
  s.cores.all (fun k =>
    k.2.groups.all (fun g => g.2.sq.all fun u => u.task ≠ task) &&
    k.2.loads.all (fun r => s.taskOf k.1 r.place ≠ task) &&
    k.2.mq.all (fun j => (s.wg j.wg).task ≠ task) &&
    k.2.det.all fun r => s.taskOf k.1 r.place ≠ task) &&
  s.ops.all fun o => o.task ≠ task

/-- LAUNCH_END: every workgroup has ended and what the launch issued has drained; workgroups that are dormant do not
count (R11, R32, log 29). -/
def State.launchEnd (s : State) (task : Nat) : State :=
  let l := s.launch task
  let ended := s.wgs.all fun x => x.2.task ≠ task || x.2.st = .ended || x.2.st = .dormant
  let last := l.stopped || decide (l.startable ≤ l.nextWg)
  let waves := l.stopped || !l.hdr.det || s.wgs.all fun x =>
    x.2.task ≠ task || decide (l.hdr.total ≤ x.2.number + l.hdr.waveCount) && x.2.places.isEmpty
  if (s.task task).phase ≠ 3 ∨ !ended ∨ !last ∨ !waves ∨ !s.launchDrained task then s
  else
    let s := { s with wgs := s.wgs.filter fun x => x.2.task ≠ task
                      images := s.images.filter fun x => x.2.task ≠ task }
    s.endTask task (if l.status = 4 then 0 else l.status) l.detail l.cause2 5 (doneOf l.hdr.bytes)

/-! ## Watchdogs (R328, R335) -/

/-- A running thread raises WATCHDOG where it stands; a wait that a pre-emption would withdraw is withdrawn (R328,
log 20). -/
def State.watchdogTrap (s : State) (core place lane : Nat) (addr : Dword) : State :=
  let t := s.thread core place lane
  let unit (p : Pos) : Dword := p.pc + BitVec.ofNat 64 (4 * p.word)
  let trap (p : Pos) : Pending := { cause := Cause.watchdog, word := 0, addr, unit := unit p }
  if !t.live then s
  else match t.waits with
  | [] => s.pend core place lane (trap t.pos)
  | w :: _ =>
    if t.waits.all fun w => w.kind.withdrawn || w.kind.isFence then
      let s := s.modGroup core place fun g => g.withdraw lane
      s.takeTrap core place lane (trap w.at_) w.at_.pc w.at_
    else s.pend core place lane (trap w.at_)

/-- Every live thread of a workgroup raises WATCHDOG. -/
def State.watchdogWg (s : State) (w : Nat) (addr : Dword) : State :=
  let x := s.wg w
  (s.wgPlaces w).foldl (fun s p => (s.group x.core p).live.foldl (fun s l => s.watchdogTrap x.core p l addr) s) s

/-- Running time of a launch in ns (R328). -/
def State.runTime (s : State) (l : Launch) : Nat := l.ran + (l.started.map fun t => s.timeNs - t).getD 0

/-- LAUNCH_WATCHDOG (R328). -/
def State.launchWatchdog (s : State) (task : Nat) : State :=
  let l := s.launch task
  if (s.task task).phase ≠ 3 ∨ l.stopped ∨ l.watchdog ∨ l.hdr.watchdog = 0 ∨ s.runTime l ≤ l.hdr.watchdog * 1000 then s
  else
    let ws := s.runningWgs task
    ws.foldl (fun s w => s.watchdogWg w 1) (s.modLaunch task fun l => { l with watchdog := true })

/-! ## The events -/

/-- WORKGROUP_DISPATCH (R328). -/
def execWorkgroupDispatch (task core base : Nat) (s : State) : Out := .next (s.dispatch task core base)

/-- CARVEOUT_APPLY (R107). -/
def execCarveoutApply (core setting : Nat) (s : State) : Out := .next (s.applyCarve core setting)

/-- PREEMPT_DECISION (R324). -/
def execPreemptDecision (task core : Nat) (s : State) : Out := .next (s.preemptDecide task core)

/-- PREEMPT_REQ: a thread takes the request (R118, R239, R329). -/
def execPreemptReq (core place lane : Nat) (s : State) : Out :=
  .next (if s.preemptible core place lane then s.takePreempt core place lane else s)

/-- FORCED_SAVE (R331). -/
def execForcedSave (task wg : Nat) (s : State) : Out := .next (s.forceSave task wg)

/-- CONTEXT_RESTORE (R332). -/
def execContextRestore (task core : Nat) (s : State) : Out := .next (s.restore task core)

/-- DIESET_CHANGE (R33). -/
def execDiesetChange (task : Nat) (add : Bool) (s : State) : Out := .next (s.diesetChange task add)

/-- LAUNCH_WATCHDOG (R328). -/
def execLaunchWatchdog (task : Nat) (s : State) : Out := .next (s.launchWatchdog task)

/-- LAUNCH_END (R11). -/
def execLaunchEnd (task : Nat) (s : State) : Out := .next (s.launchEnd task)

/-- LAUNCH_HEADER_CHECK (R327). -/
def execLaunchHeaderCheck (task : Nat) (s : State) : Out := .next (s.headerCheck task)

/-- TASK_COMPLETION (R327). -/
def execTaskCompletion (task : Nat) (s : State) : Out := .next (s.completeTask task)

/-- AGING_TICK: AGED rises by one for each full 500 µs in STATE 2, up to 6 (R322). -/
def execAgingTick (task : Nat) (s : State) : Out :=
  let x := s.task task
  let aged := min 6 ((s.timeNs - x.readyAt) / 500000)
  .next (if s.taskState task = 2 ∧ x.aged < aged then (s.modTask task fun x => { x with aged }).inherit else s)

/-- The first decrement of a list that passes a test and is not behind another of the task that sends it (R327), and the
others. -/
def takeDec (p : Decrement → Bool) (seen : List Nat) : List Decrement → Option (Decrement × List Decrement)
  | [] => none
  | d :: ds =>
    if p d ∧ !seen.contains d.from_ then some (d, ds)
    else (takeDec p (if d.from_ = 0 then seen else d.from_ :: seen) ds).map fun r => (r.1, d :: r.2)

/-- TASK_DECREMENT: a decrement on its way reaches its task (R319). -/
def execTaskDecrement (task : Nat) (amount : BitVec 32) (err : Bool) (s : State) : Out :=
  .next (match takeDec (fun d => d.task = task && d.amount = amount && d.err = err) [] s.decs with
    | some (d, ds) => { s with decs := ds }.applyDec d.task d.amount.toNat d.err
    | none => s)

/-- COUNTER_WINDOW_WRITE: a write of the host to a word of the counter window, which answers outside recovery only
(R320, R353, R369). -/
def execCounterWindowWrite (task nbytes : Nat) (val : BitVec 64) (s : State) : Out :=
  .next (
    if s.boot ≠ .running ∨ nbytes ≠ 8 then s
    else if bitsNat val 63 33 ≠ 0 then s.ignoreDec
    else s.applyDec task (bitsNat val 31 0) (val.getLsbD 32))

/-- A host read of a word of the counter window: the word of TASKQ, all ones at or above HTS_TSZ (R320). -/
def State.counterRead (s : State) (task : Nat) : Dword :=
  if s.tsz ≤ task then 0xFFFFFFFFFFFFFFFF#64 else s.taskWord task

/-- YIELD_EXPIRY: the clocks of a YIELD have elapsed (R121). -/
def execYieldExpiry (core place lane : Nat) (s : State) : Out :=
  .next (s.modThread core place lane fun t =>
    { t with waits := t.waits.filter fun w => match w.kind with
        | .yield till => decide (s.clock < till)
        | _ => true })

end Sys2Proof.Machine
end

