-- ==== Sys2Proof/Machine/Active.lean ====
section
/-! DEFINITION. The active set of a partition: its exchanges, and the entry that is selected ahead of every other
(R21 to R23, R25). -/

namespace Sys2Proof.Machine

/-- The places of a partition that hold a group, active or pending. -/
def State.partPlaces (s : State) (core part : Nat) (active : Bool) : List Nat :=
  (List.range 24).filterMap fun i =>
    let g := s.group core (24 * part + i)
    if g.present && g.active = active then some (24 * part + i) else none

/-- The best of some places by a measure; the lower place among equals. -/
def bestBy (better : Nat → Nat → Bool) (f : Nat → Nat) : List Nat → Option Nat
  | [] => none
  | p :: ps => match bestBy better f ps with
    | none => some p
    | some q => if better (f q) (f p) then some q else some p

/-- The ready pending group that has been ready longest (R22). -/
def State.nextPending (s : State) (core part : Nat) : Option Nat :=
  bestBy (fun a b => decide (b < a)) (fun p => (s.group core p).waited)
    ((s.partPlaces core part false).filter fun p => (s.group core p).ready)

/-- A group enters the active set. -/
def State.enter (s : State) (core place : Nat) : State :=
  s.modGroup core place fun g => { g with active := true, parked := false, blocked := false, waited := 0 }

/-- A group leaves the active set. -/
def State.leave (s : State) (core place : Nat) : State :=
  s.modGroup core place fun g => { g with active := false, ready := false, waited := 0 }

/-- The core exists and is not held. -/
def State.partRuns (s : State) (core part : Nat) : Bool :=
  s.coreExists core && decide (part < 8) && !s.issueHeld core

/-- A free place of the active set goes to the ready pending group that has been ready longest (R22). -/
def State.fill (s : State) (core part : Nat) : State :=
  if 8 ≤ (s.partPlaces core part true).length then s
  else match s.nextPending core part with
    | some p => s.enter core p
    | none => s

/-- ACTIVE_SET_EXCHANGE: while a ready pending group exists every parked group leaves the active set, and the free
places are filled (R22). -/
def State.exchange (s : State) (core part : Nat) : State :=
  if !s.partRuns core part || (s.nextPending core part).isNone then s
  else
    let s := ((s.partPlaces core part true).filter fun q => (s.group core q).parked).foldl (fun s q => s.leave core q) s
    (List.range 8).foldl (fun s _ => s.fill core part) s

/-- ACTIVE_SET_EXCHANGE (R22). -/
def execActiveSetExchange (core part : Nat) (s : State) : Out := .next (s.exchange core part)

/-- An exchange is due: a ready pending group exists, and a place is free or a group is parked (R22). -/
def State.exchangeDue (s : State) (core part : Nat) : Bool :=
  s.partRuns core part && (s.nextPending core part).isSome &&
  (decide ((s.partPlaces core part true).length < 8) ||
    (s.partPlaces core part true).any fun q => (s.group core q).parked)

/-- A forced exchange is due: a ready pending group has waited 1,984 clocks, and the partition has made none in this
clock (R23). -/
def State.forceDue (s : State) (core part : Nat) : Bool :=
  s.partRuns core part && (s.core core).forced.find? part ≠ some s.clock &&
  match s.nextPending core part with
  | some p => decide (1984 ≤ (s.group core p).waited)
  | none => false

/-- FORCED_EXCHANGE: the active group that has gone longest without issuing gives its place to the ready pending group
that has waited longest (R23). -/
def State.forceExchange (s : State) (core part : Nat) : State :=
  if !s.forceDue core part then s
  else
    let s := s.modCore core fun k => { k with forced := k.forced.set part s.clock }
    let act := s.partPlaces core part true
    match s.nextPending core part, bestBy (fun a b => decide (a < b)) (fun q => (s.group core q).lastIssue) act with
    | some p, some q => ((if act.length < 8 then s else s.leave core q).enter core p)
    | some p, none => s.enter core p
    | none, _ => s

/-- FORCED_EXCHANGE (R23). -/
def execForcedExchange (core part : Nat) (s : State) : Out := .next (s.forceExchange core part)

/-- An entry has been passed over on 64 clocks on which it was eligible (R25). -/
def EntryNote.starved (n : EntryNote) : Bool := decide (64 ≤ n.missed) && !n.first

/-- ISSUE_STARVATION_PRIORITY: the entries passed over on 64 clocks go ahead of every other from now on (R25). -/
def State.prefer (s : State) (core part : Nat) : State :=
  s.modCore core fun k => match k.entries.find? part with
    | some ns => { k with entries := k.entries.set part (ns.map fun n => { n with first := n.first || decide (64 ≤ n.missed) }) }
    | none => k

/-- ISSUE_STARVATION_PRIORITY (R25). -/
def execIssueStarvationPriority (core part : Nat) (s : State) : Out := .next (s.prefer core part)

end Sys2Proof.Machine
end

