-- ==== Sys2Proof/Machine/LoadStore.lean ====
section
/-! DEFINITION. LD, ST, LDS, STS, LDFE, SLD and SST (R148 to R156, R110). -/

namespace Sys2Proof.Machine

/-- A lane may make an access: not after its segment's flush (R241), else `f`. -/
def State.unlessFlushed (s : State) (l : Nat) (f : State → State) : State :=
  if s.flushed l then s.raise l Cause.detViolation 0 else f s

/-- The cause of the first check that a scratchpad access of a lane fails (R110, R150). -/
def State.spadFault (s : State) (l : Nat) (ea : Dword) (size : Nat) (a : BitVec 7) (b : BitVec 4) (m : BitVec 2) :
    Option Nat :=
  (s.ringCheck l ea size a b m).or (s.check13 s.cur.core ea size true)

/-- The low bytes of a register, a pair or a quad, by a size code (R152). -/
def State.source (s : State) (l : Nat) (z : BitVec 3) (d : BitVec 7) : Qword :=
  if z = 6#3 then s.v128 l d.toNat else if z = 5#3 then zext 128 (s.v64 l d) else zext 128 (s.v l d)

/-! ## Global memory -/

/-- LD: each lane's load, or a probe (R151, R155). -/
def execLd (c : Bool) (d a : BitVec 7) (b : BitVec 4) (z : BitVec 3) (m r : BitVec 2) (s : State) : Out :=
  let dest : LoadDest := match s.cur.pfx.probe with
    | some p => .probe z d.toNat p
    | none => .vec z d.toNat
  let s' := s.each fun s l => s.unlessFlushed l fun s =>
    s.issueLoad l dest (s.ea l a b z m) (sizeOf z) false { policy := s.policy r.toNat } []
  endUnit c (s'.acquire (s.order ≠ 0))

/-- ST: the lanes' stores enter the group's store queue as one unit (R152, R194). -/
def execSt (c : Bool) (d a : BitVec 7) (b : BitVec 4) (z : BitVec 3) (m r : BitVec 2) (s : State) : Out :=
  let q : Ask := { write := true, policy := s.policy r.toNat }
  let x := s.E.foldl (fun (x : State × List SqAcc) l =>
    if x.1.flushed l then (x.1.raise l Cause.detViolation 0, x.2)
    else State.issueAcc x { lane := l, ea := s.ea l a b z m, data := s.source l z d } (sizeOf z) false 2 q) (s, [])
  endUnit c (x.1.pushUnit { op := .store, size := sizeOf z, policy := s.policy r.toNat, accs := x.2 })

/-! ## The scratchpad -/

/-- LDS (R108, R151, R154). -/
def execLds (c : Bool) (d a : BitVec 7) (b : BitVec 4) (z : BitVec 3) (m : BitVec 2) (s : State) : Out :=
  let size := sizeOf z
  let s' := s.each fun s l => s.unlessFlushed l fun s =>
    let ea := s.ea l a b z m
    match s.spadFault l ea size a b m with
    | some x => s.raise l x ea
    | none => (s.issueLoad l (.vec z d.toNat) ea size true {} []).ringStep l size a b m
  endUnit c (s'.acquire (s.order ≠ 0))

/-- STS; full bits are left as they are (R109, R152). -/
def execSts (c : Bool) (d a : BitVec 7) (b : BitVec 4) (z : BitVec 3) (m : BitVec 2) (s : State) : Out :=
  let size := sizeOf z
  let x := s.E.foldl (fun (x : State × List SqAcc) l =>
    let ea := s.ea l a b z m
    if x.1.flushed l then (x.1.raise l Cause.detViolation 0, x.2)
    else match s.spadFault l ea size a b m with
      | some t => (x.1.raise l t ea, x.2)
      | none => (x.1.ringStep l size a b m, x.2 ++ [{ lane := l, ea, data := s.source l z d }])) (s, [])
  endUnit c (x.1.pushUnit { op := .store, size, spad := true, accs := x.2 })

/-! ## Waiting loads -/

/-- The lane waits in LDFE with this access. -/
def Thread.ldfe? (t : Thread) : Option (Pos × WaitAcc) :=
  t.waits.findSome? fun w => match w.kind with
    | .ldfe a => some (w.at_, a)
    | _ => none

/-- The granules of two scratchpad accesses meet. -/
def WaitAcc.meets (a b : WaitAcc) : Bool :=
  (granules a.ea.toNat a.size).any (granules b.ea.toNat b.size).contains

/-- A lane's LDFE may take its data: its granules are full, its earlier loads have their values, its earlier writes
of those bytes have performed, what it releases has performed, and no lower lane of its unit waits for one of the
granules (R154, R194, R199). -/
def State.ldfeReady (s : State) (core place lane : Nat) (at_ : Pos) (a : WaitAcc) : Bool :=
  let k := s.core core
  let g := s.group core place
  (granules a.ea.toNat a.size).all k.full.contains &&
  !(k.loads.any fun r => r.place = place && r.accessBy [lane]) &&
  !((g.thread lane).waits.any fun w => match w.kind with | .fence _ => true | _ => false) &&
  !(g.sq.any fun u => u.spad && u.accs.any fun x =>
      u.by x [lane] && !x.done && overlaps x.ea.toNat (if u.op = .fullBits true ∨ u.op = .fullBits false then
        x.data.toNat else u.size) a.ea.toNat a.size) &&
  (List.range lane).all fun l => match (g.thread l).ldfe? with
    | some (p, b) => p ≠ at_ || !a.meets b
    | none => true

/-- A lane's LDFE takes its data and, with .clr, empties its granules (R154). -/
def State.tryLdfe (s : State) (core place lane : Nat) : State :=
  match (s.thread core place lane).ldfe? with
  | none => s
  | some (at_, a) =>
    if !s.ldfeReady core place lane at_ a then s
    else if (s.core core).spadPoisoned a.ea.toNat a.size then
      let p : Pending := { cause := Cause.fatalMemory, word := a.word, addr := a.ea,
                           unit := at_.pc + BitVec.ofNat 64 (4 * at_.word),
                           res := (s.thread core place lane).pos }
      s.modThread core place lane fun t =>
        { t with waits := t.waits.filter fun w => w.kind ≠ .ldfe a, pending := t.pending ++ [p] }
    else
      let bs := (s.core core).spadRead a.ea.toNat a.size
      let s := if a.clear then s.modCore core fun k => k.setFull a.ea.toNat a.size false else s
      s.modThread core place lane fun t =>
        let t := match a.ring with
          | some (r, x) => t.wv r x
          | none => t
        { t.putLoad a.sz a.dest bs with waits := t.waits.filter fun w => w.kind ≠ .ldfe a }

/-- Name of a lane's waiting LDFE, for the moment its data arrives. -/
def ldfeName (place lane : Nat) : Nat := 2 ^ 64 + 32 * place + lane

/-- LDFE: each lane waits until its granules are full; LOAD_DATA_ARRIVAL under its name takes the data (R154). With .clr
and an order it is a release too: it comes after the lane's earlier accesses (R156, R199). -/
def execLdfe (c : Bool) (d a : BitVec 7) (b : BitVec 4) (z : BitVec 3) (m : BitVec 2) (k : BitVec 1) (s : State) :
    Out :=
  let size := sizeOf z
  endUnit c (s.each fun s l => s.unlessFlushed l fun s =>
    let ea := s.ea l a b z m
    if (s.here.thread l).inRegion then s.raise l Cause.farIllegal 0
    else match s.spadFault l ea size a b m with
      | some x => s.raise l x ea
      | none =>
        let ring := if m = 3#2 then
            (s.ring (b.toNat % 8) l a size).map fun r => (a.toNat, ringNext r.1 r.2 (s.v l a).toNat size)
          else none
        let s := if k = 1#1 ∧ s.order ≠ 0 then s.fenceWait l else s
        s.wait l (.ldfe { ea, size, sz := z, dest := d.toNat, clear := k = 1#1, spad := true, ring, word := s.curWord }))

/-! ## Uniform accesses -/

/-- SLD: one load for the unit, checked for its lowest lane (R150, R153). -/
def execSld (c : Bool) (d a : BitVec 5) (b : BitVec 4) (z : BitVec 3) (m r : BitVec 2) (s : State) : Out :=
  match s.E with
  | [] => endUnit c s
  | l :: _ =>
    let s' := s.unlessFlushed l fun s =>
      s.issueLoad l (.uni z d.toNat) (s.eaUniform a b z m) (sizeOf z) false { policy := s.policy r.toNat } s.E
    endUnit c (s'.acquire (s.order ≠ 0))

/-- SST: one store for the unit (R150, R153). -/
def execSst (c : Bool) (d a : BitVec 5) (b : BitVec 4) (z : BitVec 3) (m r : BitVec 2) (s : State) : Out :=
  let q : Ask := { write := true, policy := s.policy r.toNat }
  match s.E with
  | [] => endUnit c s
  | l :: _ =>
    if s.flushed l then endUnit c (s.raise l Cause.detViolation 0)
    else
      let x := State.issueAcc (s, []) { lane := l, ea := s.eaUniform a b z m, data := zext 128 (s.sr d) } (sizeOf z)
        false 2 q
      endUnit c (x.1.pushUnit { op := .store, size := sizeOf z, policy := s.policy r.toNat, accs := x.2,
                                  uni := s.E })

end Sys2Proof.Machine
end

