-- ==== Sys2Proof/Machine/AtomicOps.lean ====
section
/-! DEFINITION. ATOM, ATOM64, RED, CAS and PATOM (R215 to R224, R242). -/

namespace Sys2Proof.Machine

/-- The atomic of a deterministic launch that its buffer cannot hold (R242). -/
def SqOp.unbuffered : SqOp → Bool
  | .cas | .patom _ => true
  | _ => false

/-- A record of a deterministic launch's atomic (R213, R242): the destination of a returning one is marked. -/
def State.detRecord (s : State) (l : Nat) (op : SqOp) (size : Nat) (ea : Dword) (dest : Nat) (b : Dword) : State :=
  let core := s.cur.core
  if (s.core core).det.length ≥ 4096 then s.raise l Cause.detViolation ea
  else match s.checkAcc core s.asid ea size false { write := true, atomic := true } with
    | (s, .trap x) => s.raise l x ea
    | (s, .remote _) => s.raise l Cause.detViolation ea
    | (s, _) =>
      let g := s.here
      let t := g.thread l
      let w := s.wg g.wg
      let (member, wide) := match op with
        | .rmw m wide _ => (m, wide)
        | _ => (0, false)
      let r : DetRec := { wave := w.wave, block := w.number, thread := 32 * g.index + l, seq := t.detSeq, ea,
                          asid := s.asid, member, wide, operand := b, place := s.cur.place, lane := l,
                          word := s.curWord, unit := s.unitAddr, res := s.chainRes,
                          issued := s.clock }
      let ms := if op.returns then (if size = 8 then [dest, dest + 1] else [dest]) else []
      (s.modCore core fun k => { k with det := k.det ++ [r] }).onHere fun g => g.modThread l fun t =>
        { t with detSeq := t.detSeq + 1, marks := ms ++ t.marks.filter fun n => !ms.contains n }

/-- A programmable atomic whose routine firmware has not loaded raises PROTECTION (R223). -/
def State.routineMissing (s : State) (op : SqOp) (ea : Dword) : Bool :=
  match op with
  | .patom f => !ea.getLsbD 56 && (s.hac.find? f).isNone
  | _ => false

/-- An atomic of the chain: its lanes pass their checks and enter the store queue as one unit, in ascending lane
order (R216, R219); in a deterministic launch a global one becomes records (R242). -/
def State.issueAtomic (s : State) (op : SqOp) (size : Nat) (a : BitVec 7) (dest : Nat) (data cmp : Nat → Qword) :
    State :=
  let spad := atomSpad a
  let det := s.curLaunch.hdr.det && !spad
  let x := s.E.foldl (fun (x : State × List SqAcc) l =>
    let ea := s.atomEa l a
    if x.1.flushed l ∨ (det ∧ (op.unbuffered ∨ ea.getLsbD 56)) then (x.1.raise l Cause.detViolation ea, x.2)
    else if det then (x.1.detRecord l op size ea dest ((data l).setWidth 64), x.2)
    else if s.routineMissing op ea ∧ (s.checkAcc s.cur.core s.asid ea size spad (op.ask 0)).2 matches .ok _ then
      (x.1.raise l Cause.protection ea, x.2)
    else State.issueAcc x { lane := l, ea, data := data l, cmp := cmp l, dest } size spad 8 (op.ask 0)) (s, [])
  (x.1.pushUnit { op, size, spad, accs := x.2 }).acquire (op.returns && (s.order = 1 || s.order = 3))

/-- ATOM, member 0 (R217). -/
def execAtomAdd (c : Bool) (d a b : BitVec 7) (s : State) : Out :=
  endUnit c (s.issueAtomic (.rmw 0 false true) 4 a d.toNat (fun l => zext 128 (s.v l b)) fun _ => 0)

/-- ATOM, member 1 (R217). -/
def execAtomMin (c : Bool) (d a b : BitVec 7) (s : State) : Out :=
  endUnit c (s.issueAtomic (.rmw 1 false true) 4 a d.toNat (fun l => zext 128 (s.v l b)) fun _ => 0)

/-- ATOM, member 2 (R217). -/
def execAtomMax (c : Bool) (d a b : BitVec 7) (s : State) : Out :=
  endUnit c (s.issueAtomic (.rmw 2 false true) 4 a d.toNat (fun l => zext 128 (s.v l b)) fun _ => 0)

/-- ATOM, member 3 (R217). -/
def execAtomMinN (c : Bool) (d a b : BitVec 7) (s : State) : Out :=
  endUnit c (s.issueAtomic (.rmw 3 false true) 4 a d.toNat (fun l => zext 128 (s.v l b)) fun _ => 0)

/-- ATOM, member 4 (R217). -/
def execAtomMaxN (c : Bool) (d a b : BitVec 7) (s : State) : Out :=
  endUnit c (s.issueAtomic (.rmw 4 false true) 4 a d.toNat (fun l => zext 128 (s.v l b)) fun _ => 0)

/-- ATOM, member 5 (R217). -/
def execAtomAnd (c : Bool) (d a b : BitVec 7) (s : State) : Out :=
  endUnit c (s.issueAtomic (.rmw 5 false true) 4 a d.toNat (fun l => zext 128 (s.v l b)) fun _ => 0)

/-- ATOM, member 6 (R217). -/
def execAtomOr (c : Bool) (d a b : BitVec 7) (s : State) : Out :=
  endUnit c (s.issueAtomic (.rmw 6 false true) 4 a d.toNat (fun l => zext 128 (s.v l b)) fun _ => 0)

/-- ATOM, member 7 (R217). -/
def execAtomXor (c : Bool) (d a b : BitVec 7) (s : State) : Out :=
  endUnit c (s.issueAtomic (.rmw 7 false true) 4 a d.toNat (fun l => zext 128 (s.v l b)) fun _ => 0)

/-- ATOM, member 8 (R217). -/
def execAtomExch (c : Bool) (d a b : BitVec 7) (s : State) : Out :=
  endUnit c (s.issueAtomic (.rmw 8 false true) 4 a d.toNat (fun l => zext 128 (s.v l b)) fun _ => 0)

/-- ATOM, member 9 (R217). -/
def execAtomIncw (c : Bool) (d a b : BitVec 7) (s : State) : Out :=
  endUnit c (s.issueAtomic (.rmw 9 false true) 4 a d.toNat (fun l => zext 128 (s.v l b)) fun _ => 0)

/-- ATOM, member 10 (R217). -/
def execAtomDecw (c : Bool) (d a b : BitVec 7) (s : State) : Out :=
  endUnit c (s.issueAtomic (.rmw 10 false true) 4 a d.toNat (fun l => zext 128 (s.v l b)) fun _ => 0)

/-- ATOM, member 11 (R217). -/
def execAtomFaddF32 (c : Bool) (d a b : BitVec 7) (s : State) : Out :=
  endUnit c (s.issueAtomic (.rmw 11 false true) 4 a d.toNat (fun l => zext 128 (s.v l b)) fun _ => 0)

/-- ATOM, member 12 (R217). -/
def execAtomFminF32 (c : Bool) (d a b : BitVec 7) (s : State) : Out :=
  endUnit c (s.issueAtomic (.rmw 12 false true) 4 a d.toNat (fun l => zext 128 (s.v l b)) fun _ => 0)

/-- ATOM, member 13 (R217). -/
def execAtomFmaxF32 (c : Bool) (d a b : BitVec 7) (s : State) : Out :=
  endUnit c (s.issueAtomic (.rmw 13 false true) 4 a d.toNat (fun l => zext 128 (s.v l b)) fun _ => 0)

/-- ATOM, member 14 (R217). -/
def execAtomFaddBf16x2 (c : Bool) (d a b : BitVec 7) (s : State) : Out :=
  endUnit c (s.issueAtomic (.rmw 14 false true) 4 a d.toNat (fun l => zext 128 (s.v l b)) fun _ => 0)

/-- ATOM64, member 0 (R217). -/
def execAtom64Add (c : Bool) (d a b : BitVec 7) (s : State) : Out :=
  endUnit c (s.issueAtomic (.rmw 0 true true) 8 a d.toNat (fun l => zext 128 (s.v64 l b)) fun _ => 0)

/-- ATOM64, member 1 (R217). -/
def execAtom64Min (c : Bool) (d a b : BitVec 7) (s : State) : Out :=
  endUnit c (s.issueAtomic (.rmw 1 true true) 8 a d.toNat (fun l => zext 128 (s.v64 l b)) fun _ => 0)

/-- ATOM64, member 2 (R217). -/
def execAtom64Max (c : Bool) (d a b : BitVec 7) (s : State) : Out :=
  endUnit c (s.issueAtomic (.rmw 2 true true) 8 a d.toNat (fun l => zext 128 (s.v64 l b)) fun _ => 0)

/-- ATOM64, member 3 (R217). -/
def execAtom64MinN (c : Bool) (d a b : BitVec 7) (s : State) : Out :=
  endUnit c (s.issueAtomic (.rmw 3 true true) 8 a d.toNat (fun l => zext 128 (s.v64 l b)) fun _ => 0)

/-- ATOM64, member 4 (R217). -/
def execAtom64MaxN (c : Bool) (d a b : BitVec 7) (s : State) : Out :=
  endUnit c (s.issueAtomic (.rmw 4 true true) 8 a d.toNat (fun l => zext 128 (s.v64 l b)) fun _ => 0)

/-- ATOM64, member 5 (R217). -/
def execAtom64And (c : Bool) (d a b : BitVec 7) (s : State) : Out :=
  endUnit c (s.issueAtomic (.rmw 5 true true) 8 a d.toNat (fun l => zext 128 (s.v64 l b)) fun _ => 0)

/-- ATOM64, member 6 (R217). -/
def execAtom64Or (c : Bool) (d a b : BitVec 7) (s : State) : Out :=
  endUnit c (s.issueAtomic (.rmw 6 true true) 8 a d.toNat (fun l => zext 128 (s.v64 l b)) fun _ => 0)

/-- ATOM64, member 7 (R217). -/
def execAtom64Xor (c : Bool) (d a b : BitVec 7) (s : State) : Out :=
  endUnit c (s.issueAtomic (.rmw 7 true true) 8 a d.toNat (fun l => zext 128 (s.v64 l b)) fun _ => 0)

/-- ATOM64, member 8 (R217). -/
def execAtom64Exch (c : Bool) (d a b : BitVec 7) (s : State) : Out :=
  endUnit c (s.issueAtomic (.rmw 8 true true) 8 a d.toNat (fun l => zext 128 (s.v64 l b)) fun _ => 0)

/-- ATOM64, member 9 (R217). -/
def execAtom64Incw (c : Bool) (d a b : BitVec 7) (s : State) : Out :=
  endUnit c (s.issueAtomic (.rmw 9 true true) 8 a d.toNat (fun l => zext 128 (s.v64 l b)) fun _ => 0)

/-- ATOM64, member 10 (R217). -/
def execAtom64Decw (c : Bool) (d a b : BitVec 7) (s : State) : Out :=
  endUnit c (s.issueAtomic (.rmw 10 true true) 8 a d.toNat (fun l => zext 128 (s.v64 l b)) fun _ => 0)

/-- ATOM64, member 11 (R217). -/
def execAtom64FaddF64 (c : Bool) (d a b : BitVec 7) (s : State) : Out :=
  endUnit c (s.issueAtomic (.rmw 11 true true) 8 a d.toNat (fun l => zext 128 (s.v64 l b)) fun _ => 0)

/-- ATOM64, member 12 (R217). -/
def execAtom64FminF64 (c : Bool) (d a b : BitVec 7) (s : State) : Out :=
  endUnit c (s.issueAtomic (.rmw 12 true true) 8 a d.toNat (fun l => zext 128 (s.v64 l b)) fun _ => 0)

/-- ATOM64, member 13 (R217). -/
def execAtom64FmaxF64 (c : Bool) (d a b : BitVec 7) (s : State) : Out :=
  endUnit c (s.issueAtomic (.rmw 13 true true) 8 a d.toNat (fun l => zext 128 (s.v64 l b)) fun _ => 0)

/-- RED at either width (R215, R220). -/
def State.issueRed (s : State) (member : Nat) (w : BitVec 1) (a b : BitVec 7) : State :=
  if w = 1#1 then s.issueAtomic (.rmw member true false) 8 a 0 (fun l => zext 128 (s.v64 l b)) fun _ => 0
  else s.issueAtomic (.rmw member false false) 4 a 0 (fun l => zext 128 (s.v l b)) fun _ => 0

/-- RED, member 0 (R217, R220). -/
def execRedAdd (c : Bool) (w : BitVec 1) (a b : BitVec 7) (s : State) : Out :=
  endUnit c (s.issueRed 0 w a b)

/-- RED, member 1 (R217, R220). -/
def execRedMin (c : Bool) (w : BitVec 1) (a b : BitVec 7) (s : State) : Out :=
  endUnit c (s.issueRed 1 w a b)

/-- RED, member 2 (R217, R220). -/
def execRedMax (c : Bool) (w : BitVec 1) (a b : BitVec 7) (s : State) : Out :=
  endUnit c (s.issueRed 2 w a b)

/-- RED, member 3 (R217, R220). -/
def execRedMinN (c : Bool) (w : BitVec 1) (a b : BitVec 7) (s : State) : Out :=
  endUnit c (s.issueRed 3 w a b)

/-- RED, member 4 (R217, R220). -/
def execRedMaxN (c : Bool) (w : BitVec 1) (a b : BitVec 7) (s : State) : Out :=
  endUnit c (s.issueRed 4 w a b)

/-- RED, member 5 (R217, R220). -/
def execRedAnd (c : Bool) (w : BitVec 1) (a b : BitVec 7) (s : State) : Out :=
  endUnit c (s.issueRed 5 w a b)

/-- RED, member 6 (R217, R220). -/
def execRedOr (c : Bool) (w : BitVec 1) (a b : BitVec 7) (s : State) : Out :=
  endUnit c (s.issueRed 6 w a b)

/-- RED, member 7 (R217, R220). -/
def execRedXor (c : Bool) (w : BitVec 1) (a b : BitVec 7) (s : State) : Out :=
  endUnit c (s.issueRed 7 w a b)

/-- RED, member 8 (R217, R220). -/
def execRedExch (c : Bool) (w : BitVec 1) (a b : BitVec 7) (s : State) : Out :=
  endUnit c (s.issueRed 8 w a b)

/-- RED, member 9 (R217, R220). -/
def execRedIncw (c : Bool) (w : BitVec 1) (a b : BitVec 7) (s : State) : Out :=
  endUnit c (s.issueRed 9 w a b)

/-- RED, member 10 (R217, R220). -/
def execRedDecw (c : Bool) (w : BitVec 1) (a b : BitVec 7) (s : State) : Out :=
  endUnit c (s.issueRed 10 w a b)

/-- RED, member 11 (R217, R220). -/
def execRedFadd (c : Bool) (w : BitVec 1) (a b : BitVec 7) (s : State) : Out :=
  endUnit c (s.issueRed 11 w a b)

/-- RED, member 12 (R217, R220). -/
def execRedFmin (c : Bool) (w : BitVec 1) (a b : BitVec 7) (s : State) : Out :=
  endUnit c (s.issueRed 12 w a b)

/-- RED, member 13 (R217, R220). -/
def execRedFmax (c : Bool) (w : BitVec 1) (a b : BitVec 7) (s : State) : Out :=
  endUnit c (s.issueRed 13 w a b)

/-- RED.FADD.bf16x2 (R217, R220). -/
def execRedFaddBf16x2 (c : Bool) (a b : BitVec 7) (s : State) : Out :=
  endUnit c (s.issueRed 14 0#1 a b)

/-- CAS.b32 (R218). -/
def execCasB32 (c : Bool) (d a b : BitVec 7) (s : State) : Out :=
  endUnit c (s.issueAtomic .cas 4 a d.toNat (fun l => zext 128 (s.v l b)) fun l => zext 128 (s.v l d))

/-- CAS.b64 (R218). -/
def execCasB64 (c : Bool) (d a b : BitVec 7) (s : State) : Out :=
  endUnit c (s.issueAtomic .cas 8 a d.toNat (fun l => zext 128 (s.v64 l b)) fun l => zext 128 (s.v64 l d))

/-- CAS.b128 (R218). -/
def execCasB128 (c : Bool) (d a b : BitVec 7) (s : State) : Out :=
  endUnit c (s.issueAtomic .cas 16 a d.toNat (fun l => s.v128 l b.toNat) fun l => s.v128 l d.toNat)

/-- PATOM: the routine runs at the home (R223, R224). -/
def execPatom (c : Bool) (d : BitVec 7) (a : BitVec 6) (b : BitVec 7) (f : BitVec 4) (s : State) : Out :=
  endUnit c (s.issueAtomic (.patom f.toNat) 8 (a ++ 0#1) d.toNat (fun l => zext 128 (s.v64 l b)) fun _ => 0)

end Sys2Proof.Machine
end

