-- ==== Sys2Proof/Machine/Copy.lean ====
section
/-! DEFINITION. The copy engine: CPY, the CPYT members but KVCP, CPW and CPS (R166 to R175, R177). -/

namespace Sys2Proof.Machine

/-! ## Parameter blocks (R170) -/

/-- A field of a block as a 64-bit value. -/
def EngOp.word64 (o : EngOp) (off : Nat) : Dword := BitVec.ofNat 64 (blkNat o.blk off 8)

/-- Rows of a strided side that lie in the scratchpad stay inside the carve-out. -/
def rowsInside (size base : Nat) (stride : Int) (rows n : Nat) : Bool :=
  rows = 0 || n = 0 ||
    (let last : Int := base + stride * ((rows : Int) - 1)
     decide ((base : Int) + n ≤ size ∧ 0 ≤ last ∧ last + n ≤ size))

/-- A pointer that fails check 1 of R150. -/
def badPointer (x : Nat) : Bool := x / 2 ^ 57 % 8 ≠ 0

/-- A completion target that the command may not name: malformed, a tag that the bank has not, or a task outside the
range of the address space (R166, R316, R348). -/
def State.targetFault (s : State) (bank : Nat) (t : Dword) : Option Nat :=
  if !targetWell t ∨ (bank = 2 ∧ 8 ≤ targetTag t) then some Cause.format
  else if targetKind t = 2 ∧ !s.inRange s.asid (bitsNat t 17 0) then some Cause.protection
  else none

/-- The lane's command with its block: the address of the block, the block's own checks, the completion target, and
then its place in the engine's queue (R166, R167, R170). -/
def State.issueBlock (s : State) (l : Nat) (kind : EngKind) (bank : Nat) (off target : Dword)
    (fault : List Byte → Option Nat) : State :=
  let k := s.core s.cur.core
  let b := s.spadSeen s.cur.core s.cur.place l off.toNat 64
  if s.flushed l then s.raise l Cause.detViolation 0
  else if off.toNat % 64 ≠ 0 then s.raise l Cause.alignment off
  else if off.toNat + 64 > k.spadSize then s.raise l Cause.scratchRange off
  else if k.spadPoisoned off.toNat 64 then s.raise l Cause.fatalMemory off
  else match fault b with
    | some cause => s.raise l cause off
    | none =>
      match s.targetFault bank target with
      | some cause => s.raise l cause 0
      | none =>
        (s.pushOp { s.newOp l kind target with blk := b, blkOff := off }).onHere fun g =>
          g.tagStart bank (targetTag target)

/-- The block checks of TILE (R172). -/
def tileFault (size : Nat) (b : List Byte) : Option Nat :=
  let rows := blkNat b 16 4
  let n := blkNat b 20 4
  let src := blkNat b 0 8
  let dst := blkNat b 8 8
  if rows > 65536 ∨ n > 2 ^ 24 ∨ n % 4 ≠ 0 ∨ blkNat b 24 8 % 4 ≠ 0 ∨ blkNat b 32 8 % 4 ≠ 0 ∨
      blkNat b 40 1 ≥ 64 ∨ !blkZero b 41 15 ∨ !genWell (BitVec.ofNat 64 (blkNat b 56 8)) then some Cause.format
  else if (!blkFlag b 0 ∧ badPointer src) ∨ (!blkFlag b 1 ∧ badPointer dst) then some Cause.noncanonical
  else if src % 4 ≠ 0 ∨ dst % 4 ≠ 0 then some Cause.alignment
  else if (blkFlag b 0 ∧ !rowsInside size src (blkInt b 24 8) rows n) ∨
      (blkFlag b 1 ∧ !rowsInside size dst (blkInt b 32 8) rows n) then some Cause.scratchRange
  else none

/-- The block checks of GATH and SCAT (R175). -/
def gathFault (scat : Bool) (size : Nat) (b : List Byte) : Option Nat :=
  let rows := blkNat b 16 4
  let n := blkNat b 20 4
  let src := blkNat b 0 8
  let dst := blkNat b 8 8
  if rows > 65536 ∨ n < 4 ∨ n > 65536 ∨ n % 4 ≠ 0 ∨ blkNat b 24 8 % 4 ≠ 0 ∨ blkNat b 32 8 % 4 ≠ 0 ∨
      blkNat b 40 1 ≥ 64 ∨ (!scat ∧ blkNat b 40 1 / 4 % 4 ≠ 0) ∨ !blkZero b 41 3 ∨ blkNat b 44 4 % 4 ≠ 0 ∨
      !blkZero b 48 8 ∨ !genWell (BitVec.ofNat 64 (blkNat b 56 8)) then some Cause.format
  else if (!blkFlag b 0 ∧ badPointer src) ∨ (!blkFlag b 1 ∧ badPointer dst) then some Cause.noncanonical
  else if src % 4 ≠ 0 ∨ dst % 4 ≠ 0 then some Cause.alignment
  else if (rows ≠ 0 ∧ blkNat b 44 4 + 4 * rows > size) ∨
      (scat ∧ blkFlag b 0 ∧ !rowsInside size src (blkInt b 24 8) rows n) ∨
      (!scat ∧ blkFlag b 1 ∧ !rowsInside size dst (blkInt b 32 8) rows n) then some Cause.scratchRange
  else none

/-- Elements of a row of a slot format (R265). -/
def slotRow (fmt : Nat) : Nat := [128, 128, 64, 64, 128, 192, 288].getD fmt 0

/-- Bytes of an element of a float source of UNPK (R173). -/
def unpkElem (sfmt : Nat) : Nat := [1, 1, 1, 2, 2, 4].getD sfmt 1

/-- The block checks of UNPK; `claim` is the claim of a slot of the workgroup (R173, R264). -/
def unpkFault (size slots : Nat) (claim : Nat → Option Nat) (b : List Byte) : Option Nat :=
  let slot := blkNat b 16 1
  let rows := blkNat b 18 1
  let sfmt := blkNat b 19 1
  let n := blkNat b 20 4
  let src := blkNat b 0 8
  if blkNat b 8 8 ≠ 0 ∨ slot > 63 ∨ blkNat b 17 1 > 63 ∨ rows < 1 ∨ rows > 64 ∨ blkNat b 17 1 + rows > 64 ∨
      sfmt > 5 ∨ n = 0 ∨ (sfmt = 0 ∧ blkNat b 24 8 % 64 ≠ 0) ∨ !blkZero b 32 8 ∨ blkNat b 40 1 > 1 ∨ !blkZero b 41 15 ∨
      !genWell (BitVec.ofNat 64 (blkNat b 56 8)) then some Cause.format
  else if slot ≥ slots then some Cause.slotState
  else match claim slot with
    | none => some Cause.slotState
    | some fmt =>
      let bytes := if sfmt = 0 then sdbStride n else n * unpkElem sfmt
      if n > slotRow fmt then some Cause.format
      else if !blkFlag b 0 ∧ badPointer src then some Cause.noncanonical
      else if src % (if sfmt = 0 then 64 else unpkElem sfmt) ≠ 0 then some Cause.alignment
      else if blkFlag b 0 ∧ !rowsInside size src (blkInt b 24 8) rows bytes then some Cause.scratchRange
      else none

/-- The block checks of PACK (R174, R264). -/
def packFault (size tiles : Nat) (b : List Byte) : Option Nat :=
  let rows := blkNat b 20 1
  let cols := blkNat b 21 1
  let dst := blkNat b 8 8
  let stride := blkInt b 24 8
  if blkNat b 0 8 ≠ 0 ∨ blkNat b 16 1 > 31 ∨ blkNat b 17 1 < 1 ∨ blkNat b 17 1 > 3 ∨ blkNat b 19 1 > 63 ∨ rows < 1 ∨
      rows > 64 ∨ blkNat b 19 1 + rows > 64 ∨ cols < 1 ∨ cols > 64 ∨ !blkZero b 22 2 ∨ blkNat b 24 8 % 64 ≠ 0 ∨
      stride < sdbStride cols ∨ !blkZero b 32 8 ∨ blkFlag b 0 ∨ blkFlag b 2 ∨ blkFlag b 3 ∨ blkNat b 40 1 ≥ 64 ∨
      !blkZero b 41 15 ∨ !genWell (BitVec.ofNat 64 (blkNat b 56 8)) then some Cause.format
  else if blkNat b 16 1 ≥ tiles then some Cause.slotState
  else if !blkFlag b 1 ∧ badPointer dst then some Cause.noncanonical
  else if dst % 64 ≠ 0 then some Cause.alignment
  else if blkFlag b 1 ∧ !rowsInside size dst stride rows (sdbStride cols) then some Cause.scratchRange
  else none

/-! ## Issue -/

/-- The lanes of a CPY that pass checks 1 to 3 on both addresses; the others take their traps (R169). The destination is
checked before the source: the model's choice (log 41). -/
def State.cpyLanes (s : State) (a b : BitVec 7) (k size : Nat) : State × List (Nat × Dword × Dword) :=
  s.E.foldl (fun (x : State × List (Nat × Dword × Dword)) l =>
    let s := x.1
    let dst := s.v64 l a
    let src := s.v64 l b
    if s.flushed l then (s.raise l Cause.detViolation 0, x.2)
    else match s.check13 s.cur.core dst size (k = 1 || k = 3) with
      | some c => (s.raise l c dst, x.2)
      | none => match s.check13 s.cur.core src size (k = 2 || k = 3) with
        | some c => (s.raise l c src, x.2)
        | none => (s, x.2 ++ [(l, dst, src)])) (s, [])

/-- CPY: one operation for the lanes that pass (R168, R169). The target is checked before any lane's addresses: the model's
choice (log 41). -/
def execCpy (c : Bool) (d : BitVec 5) (a b : BitVec 7) (k z : BitVec 2) (s : State) : Out :=
  let target := s.sr d
  match s.E with
  | [] => endUnit c s
  | l :: _ =>
    match s.targetFault 0 target with
    | some cause => endUnit c (s.each fun s l => s.raise l cause 0)
    | none =>
      let size := 4 * 2 ^ z.toNat
      let x := s.cpyLanes a b k.toNat size
      if x.2.isEmpty then endUnit c x.1
      else
        let o : EngOp := { x.1.newOp l (.cpy size k.toNat) target with elems := x.2, policy := x.1.policy 0 }
        endUnit c ((x.1.pushOp o).onHere fun g => g.tagStart 0 (targetTag target))

/-- Each lane of E issues a command of its own, in ascending lane order (R30). -/
def State.issueBlocks (s : State) (kind : EngKind) (a b : BitVec 5) (fault : List Byte → Option Nat) : State :=
  s.each fun s l => s.issueBlock l kind 0 (s.sr a) (s.sr b) fault

/-- TILE (R172). -/
def execTile (c : Bool) (a b : BitVec 5) (s : State) : Out :=
  endUnit c (s.issueBlocks .tile a b (tileFault (s.core s.cur.core).spadSize))

/-- UNPK (R173). -/
def execUnpk (c : Bool) (a b : BitVec 5) (s : State) : Out :=
  let k := s.core s.cur.core
  let claim (n : Nat) : Option Nat := (k.slots.get {} ((s.wg s.here.wg).slotBase + n)).claim
  endUnit c (s.issueBlocks .unpk a b (unpkFault k.spadSize s.curLaunch.hdr.slots claim))

/-- PACK (R174). -/
def execPack (c : Bool) (a b : BitVec 5) (s : State) : Out :=
  endUnit c (s.issueBlocks .pack a b (packFault (s.core s.cur.core).spadSize s.curLaunch.hdr.tiles))

/-- GATH (R175). -/
def execGath (c : Bool) (a b : BitVec 5) (s : State) : Out :=
  endUnit c (s.issueBlocks .gath a b (gathFault false (s.core s.cur.core).spadSize))

/-- SCAT (R175). -/
def execScat (c : Bool) (a b : BitVec 5) (s : State) : Out :=
  endUnit c (s.issueBlocks .scat a b (gathFault true (s.core s.cur.core).spadSize))

/-- CPW (R167). -/
def execCpw (c : Bool) (t : BitVec 4) (p : BitVec 3) (s : State) : Out :=
  endUnit c (s.waitTag 0 t.toNat p.toNat (.cpw t.toNat p.toNat))

/-- CPS (R167). -/
def execCps (c : Bool) (a : BitVec 5) (t : BitVec 4) (s : State) : Out :=
  endUnit c ((s.sset a.toNat (s.here.tag 0 t.toNat).word).once fun s =>
    s.onHere fun g => g.modTag 0 t.toNat Tag.clear)

/-! ## The reads -/

/-- Rows are read in order; a row that fails is left out, and any other stop leaves the operation as `o` was. -/
def State.readRows (o0 : EngOp) (spad : Bool) (n policy : Nat) :
    List (Nat × Dword) → State → EngOp → State × Option EngOp
  | [], s, o => (s, some o)
  | (i, src) :: rs, s, o =>
    match s.engFrom o0 spad src n policy with
    | (s, .ok bs) => State.readRows o0 spad n policy rs s { o with buf := o.buf ++ bs }
    | (s, .error (.err code)) =>
      State.readRows o0 spad n policy rs s
        { o.note code with skip := i :: o.skip, buf := o.buf ++ List.replicate n 0 }
    | (s, .error st) => (s.opStop o0 st, none)

/-- A row of a gather or scatter lies beyond the carve-out: it is left out with code 2 (R170). -/
def EngOp.outside (o : EngOp) (rows : List (Nat × Dword)) (size n : Nat) : EngOp :=
  rows.foldl (fun o r =>
    if r.2.toNat + n > size then { o.note 2 with skip := r.1 :: o.skip } else o) o

/-- The rows of a TILE, a GATH or a SCAT: their index, destination and source (R172, R175). -/
def EngOp.rows (o : EngOp) (idx : List Nat) : List (Nat × Dword × Dword) :=
  let src := o.word64 0
  let dst := o.word64 8
  let ss := o.word64 24
  let ds := o.word64 32
  (List.range (blkNat o.blk 16 4)).map fun i =>
    let x := BitVec.ofNat 64 (idx.getD i 0)
    let y := BitVec.ofNat 64 i
    (i, dst + (if o.kind = .scat then x else y) * ds, src + (if o.kind = .gath then x else y) * ss)

/-- The index list of a GATH or a SCAT; none where it holds poison (R371). -/
def State.indexList (s : State) (o : EngOp) : Option (List Nat) :=
  let k := s.core o.core
  let at_ := blkNat o.blk 44 4
  let n := blkNat o.blk 16 4
  if o.kind = .tile then some []
  else if k.spadPoisoned at_ (4 * n) then none
  else some ((List.range n).map fun i => blkNat (k.spadRead at_ (4 * n)) (4 * i) 4)

/-- The reads of a TILE, a GATH or a SCAT; an index list that holds poison ends it with code 1 (R371). -/
def State.readTile (s : State) (o : EngOp) : State :=
  let size := (s.core o.core).spadSize
  let n := blkNat o.blk 20 4
  match s.indexList o with
  | none => s.setOp { o.note 1 with started := true, done := true }
  | some idx =>
  let rows := o.rows idx
  let srcs := rows.map fun r => (r.1, r.2.2)
  let o' := { o with elems := rows }
  let o' := if o.kind = .gath ∧ blkFlag o.blk 0 then o'.outside srcs size n else o'
  let o' := if o.kind = .scat ∧ blkFlag o.blk 1 then o'.outside (rows.map fun r => (r.1, r.2.1)) size n else o'
  let policy := if o.kind = .tile then blkNat o.blk 40 1 / 4 % 4 else blkNat o.blk 40 1 / 16 % 4
  let reads := srcs.map fun r => if o'.skip.contains r.1 then (r.1, (0 : Dword)) else r
  match State.readRows o (blkFlag o.blk 0 ) n policy reads s o' with
  | (s, some o') => s.setOp { o' with started := true }
  | (s, none) => s

/-- The reads of a CPY. -/
def State.readCpy (s : State) (o : EngOp) (size k : Nat) : State :=
  match State.readRows o (k = 2 || k = 3) size o.policy (o.elems.map fun e => (e.1, e.2.2)) s o with
  | (s, some o) => s.setOp { o with started := true }
  | (s, none) => s

/-! ## UNPK (R173) -/

/-- The blocks of a source row are read until they hold the elements wanted, or one has a reserved format. A row that holds
too few is read on past its stride, and after 4,096 blocks the row fails with code 4: the model's choice (log 41). -/
def State.readBlocks (o : EngOp) (spad : Bool) : Nat → State → Dword → Nat → List (List Byte) →
    State × Except Stop (List (List Byte))
  | 0, s, _, _, _ => (s, .error (.err 4))
  | f + 1, s, ea, n, acc =>
    if n = 0 then (s, .ok acc)
    else match s.engFrom o spad ea 64 0 with
      | (s, .error e) => (s, .error e)
      | (s, .ok b) =>
        match sdbBlock b with
        | none => (s, .error (.err 4))
        | some es => State.readBlocks o spad f s (ea + 64) (n - es.length) (acc ++ [b])

/-- A group of a block with its block's format and scale: magnitude bits, scale and bits. -/
structure SrcGroup where
  m : Nat
  scale : Nat
  bits : Nat
  deriving DecidableEq, Repr

/-- The groups of the blocks of a row. -/
def srcGroups (bs : List (List Byte)) : List SrcGroup :=
  bs.flatMap fun b =>
    match sdbM (blkNat b 0 1) with
    | none => []
    | some m => (List.range (sdbGroups m)).map fun j =>
        { m, scale := blkNat b 1 1, bits := sdbPayload b / 2 ^ (j * sdbG m) % 2 ^ sdbG m }

/-- A group in a slot of `m` magnitude bits at a row scale, with `n` elements kept; taken exactly, or re-encoded when
its format is wider. -/
def SrcGroup.into (g : SrcGroup) (m sr n : Nat) : Nat × List Ev :=
  if g.m ≤ m then
    let off := g.bits % 256 + (sr - g.scale)
    let es := (List.range 16).map fun e =>
      let x := g.bits / 2 ^ (16 + e * (1 + g.m)) % 2 ^ (1 + g.m)
      if e < n then (decide (x / 2 ^ g.m = 1), x % 2 ^ g.m * 2 ^ (m - g.m)) else (false, 0)
    if off > 255 then (0, List.replicate (es.filter fun e => e.2 ≠ 0).length 0x40)
    else (sdbPack m off ((List.range 8).map fun i => g.bits / 2 ^ (8 + i) % 2) es, [])
  else
    let xs := (List.range 16).map fun e => if e < n then sdbElem g.m g.scale g.bits e else .fin false 0 0
    let r := encodeGroup m sr xs
    (r.bits, sdbEvents r.flushed (if r.ovf then r.clamped else 0))

/-- A row of a slot: its bytes from the row's start, its row scale where it has one, and its events. -/
structure SlotRow where
  bytes : List Byte
  scale : Option Nat
  evs : List Ev
  deriving DecidableEq, Repr

/-- Magnitude bits and bytes of a group, and groups of a row, of an N-format slot (R265). -/
def slotGroups (fmt : Nat) : Nat × Nat × Nat :=
  match fmt with
  | 4 => (7, 18, 8)
  | 5 => (4, 12, 12)
  | _ => (2, 8, 18)

/-- An N-format slot row from its groups. -/
def packSlot (fmt sr : Nat) (gs : List (Nat × List Ev)) : SlotRow :=
  let p := slotGroups fmt
  { bytes := (List.range p.2.2).flatMap fun j => leBytes p.2.1 ((gs.map Prod.fst).getD j 0)
    scale := some sr
    evs := gs.flatMap Prod.snd }

/-- A float slot's format. -/
def slotFmt (fmt : Nat) : Fmt := [Fmt.e4m3, .e5m2, .bf16, .f16].getD fmt .e4m3

/-- A float slot row from exact values. -/
def floatSlot (fmt : Nat) (xs : List Fl) : SlotRow :=
  let f := slotFmt fmt
  let w := f.w / 8
  let rs := xs.map f.ofFl
  { bytes := (List.range (slotRow fmt)).flatMap fun i => leBytes w ((rs.map Prod.fst).getD i 0)
    scale := none
    evs := rs.map Prod.snd }

/-- A slot row from the blocks of an SDB row (R173). -/
def rowOfBlocks (fmt n : Nat) (bs : List (List Byte)) : SlotRow :=
  if fmt < 4 then floatSlot fmt ((bs.flatMap fun b => (sdbBlock b).getD []).take n)
  else
    let sr := ((bs.filter fun b => blkNat b 0 1 ≠ 0).map fun b => blkNat b 1 1).foldl max 0
    let gs := (srcGroups bs).take ((n + 15) / 16)
    packSlot fmt sr (gs.zipIdx.map fun g => g.1.into (slotGroups fmt).1 sr (n - 16 * g.2))

/-- A slot row from the elements of a float row (R173). A row that holds a NaN or an infinity has scale 0xFF and is encoded
at it: an infinity exceeds every magnitude, that of a NaN is a free value (R87, log 64). -/
def rowOfFloats (fmt sfmt n : Nat) (bs : List Byte) : SlotRow :=
  let w := unpkElem sfmt
  let f := [Fmt.e4m3, .e4m3, .e5m2, .f16, .bf16, .f32].getD sfmt .f32
  let xs := (List.range n).map fun i => f.val (blkNat bs (w * i) w)
  if fmt < 4 then
    if slotFmt fmt = f then
      { bytes := bs ++ List.replicate (slotRow fmt * w - bs.length) 0, scale := none, evs := [] }
    else floatSlot fmt xs
  else
    let sr := chooseScale xs
    packSlot fmt sr ((List.range ((n + 15) / 16)).map fun j =>
      let r := encodeGroup (slotGroups fmt).1 sr ((xs.drop (16 * j)).take 16)
      (r.bits, sdbEvents r.flushed (if r.ovf then r.clamped else 0)))

/-- One row of an UNPK is read. -/
def State.unpkRow (s : State) (o : EngOp) (fmt i : Nat) : State × Except Stop SlotRow :=
  let sfmt := blkNat o.blk 19 1
  let n := blkNat o.blk 20 4
  let ea := o.word64 0 + BitVec.ofNat 64 i * o.word64 24
  if sfmt = 0 then
    match State.readBlocks o (blkFlag o.blk 0) 4096 s ea n [] with
    | (s, .ok bs) => (s, .ok (rowOfBlocks fmt n bs))
    | (s, .error e) => (s, .error e)
  else match s.engFrom o (blkFlag o.blk 0) ea (n * unpkElem sfmt) 0 with
    | (s, .ok bs) => (s, .ok (rowOfFloats fmt sfmt n bs))
    | (s, .error e) => (s, .error e)

/-- The rows of an UNPK are read; each lies in the buffer as 146 bytes: its 144 bytes, whether it has a row scale,
and the scale. A row's bytes that its format does not use are written as the slot holds them. -/
def State.readUnpk (o0 : EngOp) (fmt : Nat) (slot : Slot) : List Nat → State → EngOp → List Ev → State
  | [], s, o, es => (s.setOp { o with started := true }).countOp o es
  | i :: is, s, o, es =>
    match s.unpkRow o0 fmt i with
    | (s, .ok r) =>
      let keep := (List.range 144).map fun k => slot.bytes.get 0 (144 * (blkNat o0.blk 17 1 + i) + k)
      State.readUnpk o0 fmt slot is s
        { o with buf := o.buf ++ r.bytes ++ keep.drop r.bytes.length ++ leBytes 1 r.scale.isSome.toNat ++
                        leBytes 1 (r.scale.getD 0) } (es ++ r.evs)
    | (s, .error (.err code)) =>
      State.readUnpk o0 fmt slot is (if code = 4 then s.opTrap o0 Cause.format 0 else s)
        { o.note code with skip := i :: o.skip, buf := o.buf ++ List.replicate 146 0 } es
    | (s, .error st) => s.opStop o0 st

/-- The slot of an UNPK, as the core numbers it. -/
def State.opSlot (s : State) (o : EngOp) : Nat := (s.wg o.wg).slotBase + blkNat o.blk 16 1

/-- Rows of an UNPK that one transfer of 4 KiB writes (R171). -/
def State.writeUnpk (s : State) (o : EngOp) : State :=
  let rows := ((List.range (blkNat o.blk 18 1)).drop o.cursor).take 28
  let s := rows.foldl (fun s i =>
    if o.skip.contains i then s
    else
      let b := (o.buf.drop (146 * i)).take 146
      let r := blkNat o.blk 17 1 + i
      let x := ((s.core o.core).slots.get {} (s.opSlot o)).store (144 * r) (b.take 144) (.engine o.id)
      let x := if blkNat b 144 1 = 1 then x.storeScale r (b.getD 145 0) (.engine o.id) else x
      s.modCore o.core fun k => { k with slots := k.slots.set (s.opSlot o) x }) s
  let o := { o with cursor := o.cursor + 28 }
  s.setOp { o with done := decide (o.cursor ≥ blkNat o.blk 18 1) }

/-! ## PACK (R174) -/

/-- The tile of a PACK is read and encoded; between an MMA and its MWAIT its values are undefined. -/
def State.readPack (s : State) (o : EngOp) : State :=
  let k := s.core o.core
  let tile := (s.wg o.wg).tileBase + blkNat o.blk 16 1
  let scale := blkNat o.blk 18 1
  let open_ := s.tileWatched o.core tile
  let rows := (List.range (blkNat o.blk 20 1)).map fun i =>
    let xs := (List.range (blkNat o.blk 21 1)).map fun c =>
      Fmt.f32.val (if open_ then Config.freeWord (s.free + 64 * i + c)
        else k.tileWord tile (blkNat o.blk 19 1 + i) c).toNat
    encodeRow (blkNat o.blk 17 1) (if scale = 0xFF then none else some scale) xs
  let n := sdbStride (blkNat o.blk 21 1)
  let elems := (List.range (blkNat o.blk 20 1)).map fun i =>
    (i, o.word64 8 + BitVec.ofNat 64 i * o.word64 24, (0 : Dword))
  -- a poisoned row that is read ends the copy with code 1 (R371)
  if (List.range (blkNat o.blk 20 1)).any fun i => k.tilePoisoned tile (blkNat o.blk 19 1 + i) then
    s.setOp { o.note 1 with started := true, done := true }
  else
  let o := { o with started := true, elems, buf := rows.flatMap fun r => (r.bytes ++ List.replicate n 0).take n,
                    reason := if open_ then 1 else o.reason }
  (({ s with free := s.free + 4096 } : State).setOp o).countOp o (rows.flatMap SdbEnc.evs)

/-! ## The writes -/

/-- The moves that one transfer of 4 KiB makes (R171). -/
def takeMoves : List Move → Nat → List Move
  | [], _ => []
  | m :: ms, left => if m.n ≤ left then m :: takeMoves ms (left - m.n) else []

/-- A combining add of SCAT on the 4 bytes at an element (R175). -/
def combine (mode : Nat) (old new : List Byte) : List Byte × List Ev :=
  let x := blkNat old 0 4
  let y := blkNat new 0 4
  match mode with
  | 1 => let r := Fmt.f32.add 0 (Fmt.f32.val x) (Fmt.f32.val y); (leBytes 4 r.1, [r.2])
  | 2 => (leBytes 4 (x + y), [])
  | _ =>
    let half (a b : Nat) : FR := Fmt.bf16.add 0 (Fmt.bf16.val a) (Fmt.bf16.val b)
    let lo := half (x % 65536) (y % 65536)
    let hi := half (x / 65536) (y / 65536)
    (leBytes 2 lo.1 ++ leBytes 2 hi.1, [lo.2, hi.2])

/-- The bytes of a move: undefined where a TILE's destination lies in its source, and in the spoiled blocks of a PACK, or
in all that hold elements of an unobserved tile (R86, R172, R174). The tag of a pointer names no place (R103). -/
def State.moveBytes (s : State) (o : EngOp) (w : HowWrite) (m : Move) : List Byte :=
  let bs := (o.buf.drop m.off).take m.n
  let free (i : Nat) : Byte := Config.freeByte (s.free + m.off + i)
  if o.kind = .pack then
    let n := sdbStride (blkNat o.blk 21 1)
    let used := o.packUsed
    bs.zipIdx.map fun b =>
      let block := (m.off + b.2) % n / 64
      if (o.reason = 1 ∧ block < used) ∨ o.spoiled.contains (m.row, block) then free b.2 else b.1
  else if o.kind = .tile ∧ w.spad = blkFlag o.blk 0 then
    bs.zipIdx.map fun b =>
      let a := m.addr % 2 ^ 57 + b.2
      if o.elems.any fun e => bitsNat e.2.2 56 0 ≤ a ∧ a < bitsNat e.2.2 56 0 + blkNat o.blk 20 4 then free b.2 else b.1
  else bs

/-- One move. -/
def State.oneMove (s : State) (o : EngOp) (w : HowWrite) (m : Move) : State × Except Stop (List Ev) :=
  let bs := s.moveBytes o w m
  if w.spad then
    let k := s.core o.core
    if w.mode ≠ 0 ∧ k.spadPoisoned m.addr m.n then (s, .error (.err 1))
    else
      let r := if w.mode = 0 then (bs, []) else combine w.mode (k.spadRead m.addr m.n) bs
      (s.spadPut o.core m.addr r.1, .ok r.2)
  else
    let val : Qword := BitVec.ofNat 128 (leNat bs)
    let op : RemoteOp := match w.mode with
      | 0 => .write m.n val
      | 1 => .atomic false 11 (val.setWidth 64)
      | 2 => .atomic false 0 (val.setWidth 64)
      | _ => .atomic false 14 (val.setWidth 64)
    let ask : Ask := { write := true, atomic := w.mode != 0, policy := w.policy }
    s.engPut (dieOf o.core) o.asid (BitVec.ofNat 64 m.addr) m.n ask
      (fun old => if w.mode = 0 then (bs, []) else combine w.mode old bs) op o.who

/-- The moves of a transfer in their order; one that fails is left out with its code, any other stop ends it. -/
def State.runMoves (w : HowWrite) : List Move → State → EngOp → State
  | [], s, o => s.setOp o
  | m :: ms, s, o =>
    if o.skip.contains m.row then State.runMoves w ms s { o with cursor := o.cursor + 1 }
    else match s.oneMove o w m with
      | (s, .ok es) => State.runMoves w ms (s.countOp o es) { o with cursor := o.cursor + 1 }
      | (s, .error (.err code)) => State.runMoves w ms s { o.note code with cursor := o.cursor + 1 }
      | (s, .error st) => s.opStop o st

/-- A transfer of up to 4 KiB (R171); the last one ends the writes. -/
def State.writeMoves (s : State) (o : EngOp) : State :=
  let w := o.writing
  let left := w.2.drop o.cursor
  let s := { State.runMoves w.1 (takeMoves left 4096) s o with free := s.free + o.buf.length }
  match s.op o.id with
  | some o => if o.cursor ≥ w.2.length then s.setOp { o with done := true } else s
  | none => s

/-- A transfer of a CPY or of a CPYT command but KVCP (R169 to R177). A stale generation ends it with code 5. -/
def State.copyStep (s : State) (o : EngOp) : State :=
  if o.done then s
  else if s.genStale (o.word64 56) then s.setOp o.stale
  else if !s.opReady o then s
  else if o.started then
    if o.kind = .unpk then s.writeUnpk o else s.writeMoves o
  else match o.kind with
    | .cpy size k => s.readCpy o size k
    | .unpk =>
      let slot := (s.core o.core).slots.get {} (s.opSlot o)
      State.readUnpk o (slot.claim.getD 0) slot (List.range (blkNat o.blk 18 1)) s o []
    | .pack => s.readPack o
    | _ => s.readTile o

end Sys2Proof.Machine
end

