-- ==== Sys2Proof/Machine/Coll.lean ====
section
/-! DEFINITION. The collective engine: COLL, COLLW and the completion of a collective (R346 to R351). -/

namespace Sys2Proof.Machine

/-! ## The group table (R346) -/

/-- NRANK of a group. -/
def State.nrank (s : State) (g : Nat) : Nat := blkNat (s.groups.get [] g) 0 2

/-- The module of a rank. -/
def State.rankModule (s : State) (g r : Nat) : Nat := blkNat (s.groups.get [] g) (4 + 2 * r) 2

/-- This module's rank in a group. -/
def State.myRank (s : State) (g : Nat) : Option Nat :=
  (List.range (min 320 (s.nrank g))).find? fun r => s.rankModule g r = s.dev.toNat

/-! ## The block (R348) -/

/-- Bytes of an element of a type. -/
def collElem (ty : Nat) : Nat := if ty = 1 then 2 else if ty = 3 then 8 else 4

/-- Bytes that a rank brings, and bytes that it receives. -/
def collSrc (op n c e : Nat) : Nat := if op = 3 ∨ op = 4 then n * c * e else c * e
def collDst (op n c e : Nat) : Nat := if op = 2 ∨ op = 4 then n * c * e else c * e

/-- The block checks of COLL; `rank` says that the module is a rank of a group. -/
def collFault (rank : Nat → Bool) (b : List Byte) : Option Nat :=
  let e := collElem (blkNat b 1 1)
  let src := blkNat b 8 8
  let dst := blkNat b 16 8
  if 4 < blkNat b 0 1 ∨ 3 < blkNat b 1 1 ∨ 255 < blkNat b 2 2 ∨ !blkZero b 4 4 ∨ !blkZero b 32 24 ∨
      2 ^ 32 < blkNat b 24 8 ∨ !genWell (BitVec.ofNat 64 (blkNat b 56 8)) ∨ !rank (blkNat b 2 2) ∨
      src / 2 ^ 56 % 2 = 1 ∨ dst / 2 ^ 56 % 2 = 1 then some Cause.format
  else if badPointer src ∨ badPointer dst then some Cause.noncanonical
  else if src % e ≠ 0 ∨ dst % e ≠ 0 then some Cause.alignment
  else none

/-- The k-th COLL of the module on its group takes its number (R350). -/
def State.numberColl (s : State) (before : Nat) : State :=
  match s.ops.getLast? with
  | some o =>
    if s.ops.length = before then s
    else
      let g := blkNat o.blk 2 2
      { s with
        ops := s.ops.dropLast ++ [{ o with order := s.collSeq.get 0 g }]
        collSeq := s.collSeq.set g (s.collSeq.get 0 g + 1) }
  | none => s

/-- COLL: each executing thread issues one collective (R30, R348). -/
def execColl (c : Bool) (a b : BitVec 5) (s : State) : Out :=
  let rank (g : Nat) : Bool := (s.myRank g).isSome
  endUnit c (s.each fun s l =>
    (s.issueBlock l .coll 2 (s.sr a) (s.sr b) (collFault rank)).numberColl s.ops.length)

/-- COLLW (R351). -/
def execCollw (c : Bool) (t p : BitVec 3) (s : State) : Out :=
  endUnit c (s.waitTag 2 t.toNat p.toNat (.collw t.toNat p.toNat))

/-! ## The reduction (R349) -/

/-- COMB on two elements of a type, with its events. -/
def collComb (max_ : Bool) (ty : Nat) (a b : Nat) : Nat × List Ev :=
  let fl (f : Fmt) : Nat × List Ev :=
    if max_ then (f.minmax true a b, []) else let r := f.add 0 (f.val a) (f.val b); (r.1, [r.2])
  match ty with
  | 0 => fl .f32
  | 1 => fl .bf16
  | 3 => fl .f64
  | _ =>
    let x : Word := BitVec.ofNat 32 a
    let y : Word := BitVec.ofNat 32 b
    ((if max_ then (if x.slt y then y else x) else x + y).toNat, [])

/-- One level of COLL_TREE: neighbours combine, an odd one is carried. -/
def pairUp (f : Nat → Nat → Nat × List Ev) : List Nat → List Nat × List Ev
  | a :: b :: r =>
    let x := f a b
    let rest := pairUp f r
    (x.1 :: rest.1, x.2 ++ rest.2)
  | r => (r, [])

/-- COLL_TREE: levels until one value is left. -/
def collTree (f : Nat → Nat → Nat × List Ev) (xs : List Nat) : Nat → List Ev → Nat × List Ev
  | 0, es => (xs.headD 0, es)
  | n + 1, es =>
    if xs.length ≤ 1 then (xs.headD 0, es)
    else
      let r := pairUp f xs
      collTree f r.1 n (es ++ r.2)

/-- What a rank receives from the data of all ranks, in the order of the ranks, with the events (R348, R349). -/
def collResult (op ty n k c : Nat) (datas : List (List Byte)) : List Byte × List Ev :=
  let e := collElem ty
  let elem (d : List Byte) (i : Nat) : Nat := blkNat d (e * i) e
  let reduce (base : Nat) : List Byte × List Ev :=
    let rs := (List.range c).map fun i =>
      collTree (collComb (op = 1) ty) (datas.map fun d => elem d (base + i)) n []
    (rs.flatMap fun r => leBytes e r.1, rs.flatMap fun r => r.2)
  match op with
  | 2 => (datas.flatMap fun d => (d ++ List.replicate (c * e) 0).take (c * e), [])
  | 3 => reduce (k * c)
  | 4 => (datas.flatMap fun d => (d.drop (k * c * e) ++ List.replicate (c * e) 0).take (c * e), [])
  | _ => reduce 0

/-! ## The engine (R350) -/

/-- A packet of a collective to each other rank: whether this rank is lost, its block, and its data (R342, log 18). -/
def State.collSend (s : State) (o : EngOp) (lost : Bool) (bs : List Byte) : State :=
  let g := blkNat o.blk 2 2
  let others := (List.range (s.nrank g)).filter fun r => s.rankModule g r ≠ s.dev.toNat
  others.foldl (fun s r => (s.sendRequest s.nextId
    { src := s.dev.toNat, core := o.core, dst := s.rankModule g r, hops := 0, vc := 0, path := 0,
      payload := leBytes 8 s.nextId ++ leBytes 1 lost.toNat ++ o.blk ++ bs }).fresh) s

/-- This rank ends its collective without a result: the other ranks have lost it (R350, log 74). -/
def State.collLose (s : State) (o : EngOp) : State :=
  (s.setOp { o with started := true, done := true }).collSend o true []

/-- The engine reads this rank's SRC, after the thread's earlier accesses, and sends it to the other ranks. A generation
that has become stale ends the collective here with code 5 at any stage (R171, R350). -/
def State.collRead (s : State) (o : EngOp) : State :=
  let g := blkNat o.blk 2 2
  let n := s.nrank g
  let c := blkNat o.blk 24 8
  let e := collElem (blkNat o.blk 1 1)
  if o.done then s
  else if s.genStale (o.word64 56) then s.collLose o.stale
  else if !s.opReady o ∨ o.started then s
  else match s.engFrom o false (o.word64 8) (collSrc (blkNat o.blk 0 1) n c e) 0 with
    | (s, .ok bs) => (s.setOp { o with started := true, buf := bs }).collSend o false bs
    | (s, .error (.err code)) => s.collLose (o.note code)
    | (s, .error st) => s.opStop o st

/-- Bytes of DST that the collective also reads hold undefined values, but where DST is SRC in an all-reduce (R350). -/
def State.collOverlap (s : State) (o : EngOp) (srcLen : Nat) (bs : List Byte) : List Byte :=
  let src := (o.word64 8).toNat
  let dst := (o.word64 16).toNat
  if src = dst ∧ blkNat o.blk 0 1 ≤ 1 then bs
  else bs.zipIdx.map fun b =>
    if src ≤ dst + b.2 ∧ dst + b.2 < src + srcLen then Config.freeByte (s.free + b.2) else b.1

/-- The collective is matched with the blocks of the other ranks: its result is ready to be written, or it ends with
code 8 or 9. Without the block of a rank that has not failed it waits (R348, R350). -/
def State.collMatch (s : State) (o : EngOp) (ranks : List CollBlock) : State :=
  let g := blkNat o.blk 2 2
  let n := s.nrank g
  let op := blkNat o.blk 0 1
  let ty := blkNat o.blk 1 1
  let c := blkNat o.blk 24 8
  let e := collElem ty
  let k := (s.myRank g).getD 0
  let of (r : Nat) : Option CollBlock := ranks.find? fun x => x.rank = r
  let rs := (List.range n).filter (· ≠ k)
  if rs.any fun r => match of r with
      | some x => x.lost
      | none => s.failed.contains (s.rankModule g r) then
    s.setOp { o.note 9 with done := true }
  else if rs.any fun r => (of r).isNone then s
  else if (rs.filterMap of).any fun x => x.op ≠ op || x.ty ≠ ty || x.count ≠ c then
    let len := collDst op n c e
    { s.setOp { o.note 8 with reason := 1, buf := (List.range len).map fun i => Config.freeByte (s.free + i) } with
      free := s.free + len }
  else
    let datas := (List.range n).map fun r => if r = k then o.buf else ((of r).map CollBlock.data).getD []
    let r := collResult op ty n k c datas
    let out := s.collOverlap o (collSrc op n c e) r.1
    ({ s with free := s.free + out.length }.setOp { o with reason := 1, buf := out }).countOp
      { o with reason := 1, buf := out } r.2

/-- DST is written piece by piece; a piece that fails is left out with its code. -/
def State.collPut : List (Nat × Nat) → State → EngOp → State
  | [], s, o => s.setOp { o with done := true }
  | (a, n) :: ps, s, o =>
    let bs := (o.buf.drop (a - (o.word64 16).toNat)).take n
    match s.engPut (dieOf o.core) o.asid (BitVec.ofNat 64 a) n { write := true } (fun _ => (bs, []))
        (.write n (BitVec.ofNat 128 (leNat bs))) o.who with
    | (s, .ok _) => State.collPut ps s { o with cursor := o.cursor + 1 }
    | (s, .error (.err code)) => State.collPut ps s { o.note code with cursor := o.cursor + 1 }
    | (s, .error st) => s.opStop o st

/-- The result is written. -/
def State.collWrite (s : State) (o : EngOp) : State :=
  let dst := (o.word64 16).toNat
  if !s.opReady o then s else State.collPut ((pieces dst o.buf.length o.buf.length).drop o.cursor) s o

/-- An operation goes one stage on, if it is still there. -/
def State.withOp (s : State) (id : Nat) (f : State → EngOp → State) : State :=
  match s.op id with
  | some o => f s o
  | none => s

/-- COLL_COMPLETE: the oldest collective of the group is matched, writes DST and signals its tag (R348, R350). -/
def State.collComplete (s : State) (group : Nat) (ranks : List CollBlock) : State :=
  let mine := s.ops.filter fun o => o.kind = .coll && blkNat o.blk 2 2 = group
  match sortBy EngOp.order mine with
  | [] => s
  | o :: _ =>
    let s := s.withOp o.id State.collRead
    let s := s.withOp o.id fun s o => if o.started ∧ !o.done ∧ o.reason = 0 then s.collMatch o ranks else s
    let s := s.withOp o.id fun s o => if o.reason = 1 ∧ !o.done then s.collWrite o else s
    s.withOp o.id fun s o => if o.done ∧ o.park.isNone ∧ o.remote.isNone then s.engComplete o 2 else s

/-- COLL_COMPLETE (R350). -/
def execCollComplete (group : Nat) (ranks : List CollBlock) (s : State) : Out := .next (s.collComplete group ranks)

end Sys2Proof.Machine
end

