-- ==== Sys2Proof/Machine/Ctl.lean ====
section
/-! DEFINITION. CTL, BR, BRX and CONV: ends, traps, waits, branches, convergence and barriers (R29, R33, R121 to
R128, R237). -/

namespace Sys2Proof.Machine

/-- A member that a thread in an open region may not execute: FAR_ILLEGAL there (R237), else `f`. -/
def State.unlessRegion (s : State) (l : Nat) (f : State → State) : State :=
  if (s.here.thread l).inRegion then s.raise l Cause.farIllegal 0 else f s

/-- A launch is co-resident (R16). -/
def State.coop (s : State) : Bool := s.curLaunch.hdr.coop

/-! ## CTL -/

/-- NOP (R121). -/
def execNop (c : Bool) (s : State) : Out := endUnit c s

/-- EXIT: the threads end after the chain (R11, R122); in an open region it is FAR_ILLEGAL (R237). -/
def execExit (c : Bool) (s : State) : Out :=
  endUnit c (s.each fun s l => s.unlessRegion l fun s => s.effect l (.exit s.unitPos))

/-- TRAP: USER with the code (R120, R121). -/
def execTrap (c : Bool) (k : BitVec 14) (s : State) : Out :=
  endUnit c (s.each fun s l => s.raise l Cause.user (zext 64 k))

/-- YIELD: 32 clocks without issue (R121, R123). -/
def execYield (c : Bool) (s : State) : Out :=
  endUnit c (s.each fun s l => s.wait l (.yield (s.clock + 32)))

/-- STEP: arrives at the launch's STEP barrier (R16, R33). -/
def execStep (c : Bool) (s : State) : Out :=
  endUnit c (s.each fun s l =>
    if !s.coop then s.raise l Cause.illegalEncoding 0
    else s.unlessRegion l fun s => s.arrive l .step)

/-- The snapshot registers of a core latch (R124, R375). -/
def State.latchCore (s : State) (c : Nat) : State :=
  (s.modCore c fun k =>
    { k with snapshot := some (k.seq, (k.groups.map fun g => g.2.live.length).sum) }).stamp c

/-- BRK: while debug is enabled the threads stop until the agent releases them (R124). -/
def execBrk (c : Bool) (s : State) : Out :=
  endUnit c (if (s.core s.cur.core).dbgCtl.getLsbD 0 then
      s.once fun s => (s.latchCore s.cur.core).each fun s l => s.wait l .brk
    else s)

/-- TRET: leaves the handler (R121, R123). -/
def execTret (c : Bool) (s : State) : Out :=
  endUnit c (s.each fun s l =>
    if (s.here.thread l).handler = .none then s.raise l Cause.illegalEncoding 0 else s.trapReturn l)

/-- YDONE: the thread's part of the save is done; in a handler entered for a restore it is TRET (R123, R330). -/
def execYdone (c : Bool) (s : State) : Out :=
  endUnit c (s.each fun s l =>
    match (s.here.thread l).handler with
    | .preempt => s.unlessRegion l fun s => s.wait l .ydone
    | .restore => s.unlessRegion l fun s => s.trapReturn l
    | _ => s.raise l Cause.illegalEncoding 0)

/-- SNAP: fires an armed trigger, once for the unit (R124, R375). -/
def execSnap (c : Bool) (k : BitVec 14) (s : State) : Out :=
  endUnit c (s.once fun s => s.shoot 1 (some k.toNat))

/-! ## BR and BRX -/

/-- The target of a relative branch (R125). -/
def State.relative (s : State) (d : BitVec 18) : Dword := s.target (s.pi + sext 32 d)

/-- The lanes of E that pass a test branch to an address. -/
def State.branch (s : State) (taken : Nat → Bool) (to_ : Nat → Dword) : State :=
  s.each fun s l => if taken l then s.effect l (.jump (to_ l)) else s

/-- BRA (R125). -/
def execBra (c : Bool) (d : BitVec 18) (s : State) : Out := endUnit c (s.branch (fun _ => true) fun _ => s.relative d)

/-- BRT (R125). -/
def execBrt (c : Bool) (p : BitVec 3) (d : BitVec 18) (s : State) : Out :=
  endUnit c (s.branch (fun l => s.pr l p) fun _ => s.relative d)

/-- BRF (R125). -/
def execBrf (c : Bool) (p : BitVec 3) (d : BitVec 18) (s : State) : Out :=
  endUnit c (s.branch (fun l => !s.pr l p) fun _ => s.relative d)

/-- CALL: v126 gets the index of the next packet (R125). -/
def execCall (c : Bool) (d : BitVec 18) (s : State) : Out :=
  endUnit c ((s.vset 126 fun _ => s.pi + 1).branch (fun _ => true) fun _ => s.relative d)

/-- BRANY: taken by all when any executing thread has the predicate (R125). -/
def execBrany (c : Bool) (p : BitVec 3) (d : BitVec 18) (s : State) : Out :=
  endUnit c (s.branch (fun _ => s.E.any fun x => s.pr x p) fun _ => s.relative d)

/-- BRALL: taken by all when every executing thread has the predicate (R125). -/
def execBrall (c : Bool) (p : BitVec 3) (d : BitVec 18) (s : State) : Out :=
  endUnit c (s.branch (fun _ => s.E.all fun x => s.pr x p) fun _ => s.relative d)

/-- BRI (R126). -/
def execBri (c : Bool) (a : BitVec 7) (s : State) : Out :=
  endUnit c (s.branch (fun _ => true) fun l => s.target (s.v l a))

/-- CALLI: the link goes to v(D), the target is read before (R126). -/
def execCalli (c : Bool) (d a : BitVec 7) (s : State) : Out :=
  endUnit c ((s.vset d.toNat fun _ => s.pi + 1).branch (fun _ => true) fun l => s.target (s.v l a))

/-- RET (R126). -/
def execRet (c : Bool) (a : BitVec 7) (s : State) : Out :=
  endUnit c (s.branch (fun _ => true) fun l => s.target (s.v l a))

/-! ## CONV -/

/-- JOIN: m gains E (R29). -/
def execJoin (c : Bool) (m : BitVec 4) (s : State) : Out :=
  endUnit c (s.once fun s => s.onHere fun g => g.wm m.toNat (g.rm m.toNat ||| laneMask s.E))

/-- LEAVE: m loses E, and a release may follow (R29). -/
def execLeave (c : Bool) (m : BitVec 4) (s : State) : Out :=
  endUnit c (s.once fun s => s.onHere fun g =>
    (g.wm m.toNat (g.rm m.toNat &&& ~~~ laneMask s.E)).releaseCheck m.toNat)

/-- A thread of the mask arrives at it and waits; the release is checked at the end of the chain (R29). -/
def State.arriveMask (s : State) (l m : Nat) : State :=
  (s.onHere fun g => { g with arrived := g.arrived.set m (g.arrived.get 0 m ||| BitVec.ofNat 32 (2 ^ l)) }).wait l
    (.waitm m)

/-- WAITM: the threads of E in m arrive and wait, the others go on (R29). -/
def execWaitm (c : Bool) (m : BitVec 4) (s : State) : Out :=
  endUnit c (s.each fun s l => s.unlessRegion l fun s =>
    if (s.here.rm m.toNat).getLsbD l then s.arriveMask l m.toNat else s)

/-- MRD (R127). -/
def execMrd (c : Bool) (d : BitVec 5) (m : BitVec 4) (s : State) : Out :=
  endUnit c (s.sset d.toNat (zext 64 (s.here.rm m.toNat)))

/-- MWR: the mask keeps live lanes only, and a release may follow (R127). -/
def execMwr (c : Bool) (a : BitVec 5) (m : BitVec 4) (s : State) : Out :=
  endUnit c (s.once fun s => s.onHere fun g =>
    (g.wm m.toNat ((s.sr a).setWidth 32 &&& laneMask g.live)).releaseCheck m.toNat)

/-- MACT (R127). -/
def execMact (c : Bool) (d : BitVec 5) (s : State) : Out := endUnit c (s.sset d.toNat (zext 64 (laneMask s.E)))

/-- Arrival of E at the barrier of a level (R128); a level above 0 needs a co-resident launch (R16). -/
def State.arriveBarrier (s : State) (level : Nat) : State :=
  s.each fun s l =>
    if level ≠ 0 ∧ !s.coop ∨ 6 ≤ level then s.raise l Cause.illegalEncoding 0
    else s.unlessRegion l fun s => s.arrive l (.barrier level)

/-- BAR: the workgroup barrier (R128). -/
def execBar (c : Bool) (s : State) : Out := endUnit c (s.arriveBarrier 0)

/-- BARL: the barrier of a level (R128). -/
def execBarl (c : Bool) (k : BitVec 3) (s : State) : Out := endUnit c (s.arriveBarrier k.toNat)

end Sys2Proof.Machine
end

