-- ==== Sys2Proof/Machine/Stoat.lean ====
section
/-! DEFINITION. The Stoat generator and the sampling value (R91 to R93). -/

namespace Sys2Proof.Machine

/-- The ten rounds of STOAT. -/
def stoatGo (a b x y : Word) : Nat → Word
  | 0 => a ^^^ b
  | n + 1 =>
    let a := (a + b.rotateLeft 5) ^^^ x
    let b := (b.rotateLeft 11 ^^^ a) + y
    stoatGo a b (x + 0x9E3779B9) (y + 0xBB67AE85) n

/-- STOAT(k, c) (R91). -/
def stoat (k c : Dword) : Word :=
  stoatGo (c.setWidth 32) (c.extractLsb' 32 32) (k.setWidth 32) (k.extractLsb' 32 32) 10

/-- UNIFORM(k, c) = (2h + 1) · 2^−24, as an f32 pattern (R92). -/
def uniform (k c : Dword) : Word :=
  BitVec.ofNat 32 (Fmt.f32.round 0 false (2 * (stoat k c).toNat.shiftRight 9 + 1) (-24)).1

/-- NEG(LOG2(u)), RNE. -/
def negLog2 (u : Word) : Word :=
  let r := (log2F32 0 (f32v u)).1
  BitVec.ofNat 32 (if (Fmt.f32.val r).isNan then r else (r + 0x80000000) % 0x100000000)

/-- G2(u) (R93). -/
def g2 (u : Word) : Word := negLog2 (negLog2 u)

/-- SAMPLE_VAL of a score, a weight and a counter (R93): the value and its events. -/
def sampleVal (key c : Dword) (z w : Word) : Word × Ev :=
  FR.word (Fmt.f32.fma 0 false (f32v z) (f32v w) (f32v (g2 (uniform key c))))

/-- The order of selection (R81, R93): a NaN is below every number. -/
def selBelow (a b : Word) : Bool :=
  let x := f32v a
  let y := f32v b
  if x.isNan then !y.isNan else !y.isNan && x.below y

end Sys2Proof.Machine
end

