-- ==== Sys2Proof/Machine/Sample.lean ====
section
/-! DEFINITION. The SMPL instructions (R314, R315). -/

namespace Sys2Proof.Machine

/-- The block checks of a SMPL member: 0 SAMPLE, 1 RNG, 2 RNGF, 3 ARGMAX (R290, R314). -/
def smplFault (sub size : Nat) (b : List Byte) : Option Nat :=
  let n := blkNat b 16 4
  let flag (k : Nat) : Bool := blkNat b 28 1 / 2 ^ k % 2 = 1
  let reads := sub = 0 ∨ sub = 3
  let side := blkNat b (if reads then 0 else 8) 8
  let spad := flag (if reads then 1 else 2)
  if n < 1 ∨ n > 16777216 ∨ (sub ≠ 3 ∧ blkNat b 20 4 > n) ∨ blkNat b 28 1 > 7 ∨ !blkZero b 29 3 ∨ !blkZero b 48 8 ∨
      blkNat b 0 8 % 4 ≠ 0 ∨ blkNat b 8 8 % 4 ≠ 0 ∨ !genWell (BitVec.ofNat 64 (blkNat b 56 8)) then some Cause.format
  else if !spad ∧ badPointer side then some Cause.noncanonical
  else if spad ∧ side + 4 * n > size then some Cause.scratchRange
  else none

/-- A lane's SMPL command issues: later units wait for s(B) (R314). -/
def State.issueSmpl (s : State) (l sub : Nat) (off : Dword) (sreg : Nat) : State :=
  let k := s.core s.cur.core
  let b := s.spadSeen s.cur.core s.cur.place l off.toNat 64
  if s.flushed l then s.raise l Cause.detViolation 0
  else if off.toNat % 64 ≠ 0 then s.raise l Cause.alignment off
  else if off.toNat + 64 > k.spadSize then s.raise l Cause.scratchRange off
  else if k.spadPoisoned off.toNat 64 then s.raise l Cause.fatalMemory off
  else match smplFault sub k.spadSize b with
    | some cause => s.raise l cause off
    | none =>
      (s.pushOp { s.newOp l (.smpl sub sreg) 0 with blk := b, blkOff := off }).onHere fun g =>
        if sreg = 0 then g else { g with busyS := g.busyS ++ [sreg] }

/-- SAMPLE (R314, R315). -/
def execSample (c : Bool) (a b : BitVec 5) (s : State) : Out :=
  endUnit c (s.each fun s l => s.issueSmpl l 0 (s.sr a) b.toNat)
/-- RNG (R314, R315). -/
def execRng (c : Bool) (a b : BitVec 5) (s : State) : Out :=
  endUnit c (s.each fun s l => s.issueSmpl l 1 (s.sr a) b.toNat)
/-- RNGF (R314, R315). -/
def execRngf (c : Bool) (a b : BitVec 5) (s : State) : Out :=
  endUnit c (s.each fun s l => s.issueSmpl l 2 (s.sr a) b.toNat)
/-- ARGMAX (R314, R315). -/
def execArgmax (c : Bool) (a b : BitVec 5) (s : State) : Out :=
  endUnit c (s.each fun s l => s.issueSmpl l 3 (s.sr a) b.toNat)

/-! ## The engine -/

/-- The element with the largest value, the lowest index of equals; the lowest index kept when every value is NaN, also
where a top-k cut leaves index 0 out (R93, log 65). -/
def selectMax : List (Nat × Word) → Nat × Word
  | [] => (0, 0)
  | v :: vs => vs.foldl (fun best x => if selBelow best.2 x.2 then x else best) v

/-- The indices of the k largest scores, ties to the lower index; all of them for k = 0 (R93, R315). -/
def topK (zs : List Word) (k : Nat) : List (Word × Nat) :=
  if k = 0 then zs.zipIdx
  else zs.zipIdx.filter fun z =>
    (zs.zipIdx.filter fun y => selBelow z.1 y.1 || (!selBelow y.1 z.1 && decide (y.2 < z.2))).length < k

/-- The result of SAMPLE or ARGMAX over its scores, and its events (R315): the elements that a top-k cut leaves out form no
value and count nothing (log 65). -/
def sampleResult (sub : Nat) (b : List Byte) (zs : List Word) : Dword × List Ev :=
  let greedy := sub = 3 ∨ blkNat b 28 1 % 2 = 1
  let kept := topK zs (if sub = 3 then 0 else blkNat b 20 4)
  let key := BitVec.ofNat 64 (blkNat b 32 8)
  let vals := kept.map fun z =>
    if greedy then (z.2, (z.1, (0 : Ev)))
    else (z.2, sampleVal key (BitVec.ofNat 64 (blkNat b 40 8 + z.2)) z.1 (BitVec.ofNat 32 (blkNat b 24 4)))
  let r := selectMax (vals.map fun v => (v.1, v.2.1))
  (r.2 ++ BitVec.ofNat 32 r.1, vals.map fun v => v.2.2)

/-- What a SMPL command that comes to its end writes to s(B). -/
def EngOp.smplEnd (o : EngOp) (x : Dword) : EngOp := { o with out := leBytes 8 x.toNat, done := true }

/-- Element i of RNG or RNGF (R91, R92). -/
def rngWord (sub : Nat) (b : List Byte) (i : Nat) : Word :=
  let key := BitVec.ofNat 64 (blkNat b 32 8)
  let c := BitVec.ofNat 64 (blkNat b 40 8 + i)
  if sub = 1 then stoat key c else uniform key c

/-- Elements of RNG or RNGF are written in order; a failed access ends the command (R314). -/
def State.rngWrite (sub : Nat) : List Nat → State → EngOp → State
  | [], s, o => s.setOp o
  | i :: is, s, o =>
    let bs := leBytes 4 (rngWord sub o.blk i).toNat
    let ea := o.word64 8 + BitVec.ofNat 64 (4 * i)
    if blkNat o.blk 28 1 / 4 % 2 = 1 then
      State.rngWrite sub is (s.spadPut o.core ea.toNat bs) { o with cursor := o.cursor + 1 }
    else
      match s.engPut (dieOf o.core) o.asid ea 4 { write := true } (fun _ => (bs, []))
          (.write 4 (BitVec.ofNat 128 (leNat bs))) o.who with
      | (s, .ok _) => State.rngWrite sub is s { o with cursor := o.cursor + 1 }
      | (s, .error (.err _)) => s.setOp (o.smplEnd 0xFFFFFFFFFFFFFFFE#64)
      | (s, .error st) => s.opStop o st

/-- A step of a SMPL command (R314, R315). -/
def State.smplStep (s : State) (o : EngOp) (sub : Nat) : State :=
  let n := blkNat o.blk 16 4
  if o.done then s
  else if s.genStale (o.word64 56) then s.setOp (o.unheld.smplEnd 0xFFFFFFFFFFFFFFFF#64)
  else if !s.opReady o then s
  else if o.err ≠ 0 then s.setOp (o.smplEnd 0xFFFFFFFFFFFFFFFE#64)
  else if sub = 0 ∨ sub = 3 then
    match s.engFrom o (blkNat o.blk 28 1 / 2 % 2 = 1) (o.word64 0) (4 * n) 0 with
    | (s, .ok bs) =>
      let r := sampleResult sub o.blk ((List.range n).map fun i => BitVec.ofNat 32 (blkNat bs (4 * i) 4))
      (s.setOp (o.smplEnd r.1)).countOp o r.2
    | (s, .error (.err _)) => s.setOp (o.smplEnd 0xFFFFFFFFFFFFFFFE#64)
    | (s, .error st) => s.opStop o st
  else
    let s := State.rngWrite sub (((List.range n).drop o.cursor).take 1024) s { o with started := true }
    match s.op o.id with
    | some o => if !o.done ∧ o.cursor ≥ n then s.setOp (o.smplEnd (BitVec.ofNat 64 n)) else s
    | none => s

/-- The result goes to s(B); of several lanes' commands the highest lane's is written last (R314). -/
def State.smplComplete (s : State) (id : Nat) : State :=
  match s.op id with
  | none => s
  | some o =>
    match o.kind with
    | .smpl _ r =>
      let before := s.ops.any fun x =>
        decide (x.id < id) && x.wg = o.wg && x.grp = o.grp &&
        (match x.kind with | .smpl _ r' => r' = r | _ => false)
      if !o.done ∨ before then s
      else
        ((s.landGroup o.wg o.grp fun g =>
          { g.ws r (BitVec.ofNat 64 (leNat o.out)) with busyS := g.busyS.erase r }).dropOp id).stamp o.core
    | _ => s

/-- SMPL_COMPLETE (R314). -/
def execSmplComplete (_core id : Nat) (s : State) : Out := .next (s.smplComplete id)

end Sys2Proof.Machine
end

