-- ==== Sys2Proof/Machine/Sync.lean ====
section
/-! DEFINITION. SYNC (R157 to R165, R225 to R242): fences, POLL, regions, the flush of a deterministic launch,
residency requests, cache operations, tags, operand-memory order and full bits. -/

namespace Sys2Proof.Machine

/-- FENCE: each thread waits until its earlier accesses have performed (R158, R199). -/
def execFence (c : Bool) (_o : BitVec 2) (_sc : BitVec 3) (s : State) : Out := endUnit c (s.each State.fenceWait)

/-! ## POLL (R225, R226) -/

/-- The condition of POLL: eq, ne, ge.n, any (R225). -/
def pollHolds (cond : Nat) (m b : Nat) : Bool :=
  match cond with
  | 0 => m = b
  | 1 => m ≠ b
  | 2 => b ≤ m
  | _ => Nat.land m b ≠ 0

/-- The access of a lane's POLL. -/
def State.pollAcc (s : State) (l : Nat) (a b : BitVec 7) (x w : BitVec 1) (k : BitVec 2) : WaitAcc :=
  { ea := if x = 1#1 then zext 64 (s.v l a) else s.v64 l a
    size := if w = 1#1 then 8 else 4
    spad := x = 1#1
    cond := k.toNat
    operand := if w = 1#1 then s.v64 l b else zext 64 (s.v l b)
    word := s.curWord }

/-- A read of a POLL, by its name. -/
def State.pollLoad (s : State) (core place lane : Nat) (a : WaitAcc) : LoadReq :=
  let id := a.read.getD s.nextId
  { id, place, lane, dest := .vec 5 0, ea := a.ea, size := a.size, spad := a.spad,
    asid := (s.launchOf core place).asid, serial := id, issued := s.clock }

/-- POLL: each thread waits for its location; POLL_REREAD makes the reads, the first of which is due at once. It is
checked here; one of another module is sent when the thread's earlier accesses allow it (R193, R194). -/
def execPoll (c : Bool) (a b : BitVec 7) (x w : BitVec 1) (k : BitVec 2) (s : State) : Out :=
  endUnit c (s.each fun s l => s.unlessFlushed l fun s => s.unlessRegion l fun s =>
    let p := s.pollAcc l a b x w k
    match s.checkAcc s.cur.core s.asid p.ea p.size p.spad {} with
    | (s, .trap cause) => s.raise l cause p.ea
    | (s, .park m) =>
      let sp := spaceOf s.asid p.ea
      let va := bitsNat p.ea 56 0
      (s.parkOn (dieOf s.cur.core) sp va 1 m).wait l
        (.poll { p with park := some (parkKey (dieOf s.cur.core) sp va) } s.clock 64)
    | (s, .remote t) =>
      if !s.maySend s.cur.core (s.pollLoad s.cur.core s.cur.place l p) then
        s.fresh.wait l (.poll { p with read := some s.nextId } s.clock 64)
      else match s.openRemote s.cur.core t (.read p.size) p.ea s.asid with
      | (s, id) => s.wait l (.poll { p with remote := some id } s.clock 64)
    | (s, .ok _) => s.fresh.wait l (.poll { p with read := some s.nextId } s.clock 64))

/-- The POLL that a thread waits in. -/
def Thread.poll? (t : Thread) : Option (WaitAcc × Nat × Nat) :=
  t.waits.findSome? fun w => match w.kind with
    | .poll a due b => some (a, due, b)
    | _ => none

/-- The thread's POLL changed, or ended. -/
def Thread.setPoll (t : Thread) (p : Option (WaitAcc × Nat × Nat)) : Thread :=
  { t with waits := t.waits.filterMap fun w => match w.kind with
      | .poll _ _ _ => p.map fun x => { w with kind := .poll x.1 x.2.1 x.2.2 }
      | _ => some w }

/-- The line that a POLL reads, as the core's L1 holds it; not one of the CXL pool (R226). -/
def State.pollLine (s : State) (core place : Nat) (a : WaitAcc) : Option L1Line :=
  match (s.core core).l1.find? (l1Key (spaceOf (s.launchOf core place).asid a.ea) (lineOf (bitsNat a.ea 56 0))) with
  | some l => if s.place l.pa = .pool then none else some l
  | none => none

/-- What a POLL remembers of the bytes it has read: nothing of a location that the core does not hold (R226). -/
def State.pollSeen (s : State) (core place : Nat) (a : WaitAcc) (bs : List Byte) : Option (List Byte) :=
  if a.spad ∨ (s.pollLine core place a).isSome then some bs else none

/-- The location of a POLL has been written in the core's L1 or scratchpad since it was read, or its line has been
invalidated: it is read again at once (R226). -/
def State.pollStale (s : State) (core place : Nat) (a : WaitAcc) : Bool :=
  match a.seen with
  | none => false
  | some bs =>
    if a.spad then (s.core core).spadRead a.ea.toNat a.size != bs
    else match s.pollLine core place a with
      | none => true
      | some l => ((lineBytes l.data).drop (bitsNat a.ea 5 0)).take a.size != bs

/-- The bytes that a POLL has read: it ends when its condition holds, else the next read is due after the back-off,
which doubles up to 4,096 clocks (R226). -/
def State.pollBytes (s : State) (core place lane : Nat) (a : WaitAcc) (backoff : Nat) (bs : List Byte) : State :=
  let s := s.observe core (s.who core place lane) a.spad a.ea a.size
  let a := { a with park := none, remote := none, read := none, seen := s.pollSeen core place a bs }
  if pollHolds a.cond (leNat bs) a.operand.toNat then
    (s.modThread core place lane fun t => t.setPoll none).settle core place
  else s.modThread core place lane fun t => t.setPoll (some (a, s.clock + backoff, min 4096 (2 * backoff)))

/-- Where a POLL that waits stands, in case it fails (R150). -/
def Thread.pollPos (t : Thread) : Pos :=
  (t.waits.findSome? fun w => match w.kind with
    | .poll _ _ _ => some w.at_
    | _ => none).getD t.pos

/-- A POLL fails: its thread is owed the trap. -/
def State.pollFails (s : State) (core place lane : Nat) (a : WaitAcc) (cause : Nat) : State :=
  let p := (s.thread core place lane).pollPos
  let unit := p.pc + BitVec.ofNat 64 (4 * p.word)
  (s.modThread core place lane fun t => t.setPoll none).pend core place lane
    { cause, word := a.word, addr := a.ea, unit, res := (s.thread core place lane).pos }

/-- POLL_REREAD: a read of the location, when it is due, or at once when its line has been invalidated or written
(R226). -/
def State.pollReread (s : State) (core place lane : Nat) : State :=
  match (s.thread core place lane).poll? with
  | none => s
  | some (a, due, backoff) =>
    if a.park.isSome ∨ a.remote.isSome ∨ (s.clock < due ∧ !s.pollStale core place a) then s
    else
      let asid := (s.launchOf core place).asid
      let r := s.pollLoad core place lane a
      -- each read is an access of its own; a try that repeats one is no new hit (R102)
      match (if a.read.isNone then s.fresh else s).tryLoad core r a.read.isSome with
      | (s, .wait) => s.modThread core place lane fun t => t.setPoll (some ({ a with read := some r.id }, due, backoff))
      | (s, .val bs) => s.pollBytes core place lane a backoff bs
      | (s, .trap cause) => s.pollFails core place lane a cause
      | (s, .park m) =>
        let sp := spaceOf asid a.ea
        let va := bitsNat a.ea 56 0
        (s.parkOn (dieOf core) sp va 1 m).modThread core place lane fun t =>
          t.setPoll (some ({ a with park := some (parkKey (dieOf core) sp va) }, due, backoff))
      | (s, .remote t) =>
        match s.openRemote core t (.read a.size) a.ea asid with
          | (s, id) => s.modThread core place lane fun t =>
              t.setPoll (some ({ a with remote := some id }, due, backoff))

/-! ## Regions (R227 to R240) -/

/-- A member that a deterministic launch may not execute (R240). -/
def State.unlessDet (s : State) (l : Nat) (f : State → State) : State :=
  if s.curLaunch.hdr.det then s.raise l Cause.detViolation 0 else f s

/-- A region begins in a lane: the lowest free slot and the next order number of its instance. With no free slot
the thread stays at the unit (R229). -/
def State.farBegin (s : State) (l : Nat) (target : Dword) (die : Bool) : State :=
  let ref := instOf s.cur.core die
  let i := s.inst ref
  match leastFree i.regions.keys 0 (slotCount die) with
  | none => s.effect l (.resume s.unitPos)
  | some slot =>
    let r : Region := { order := i.next, core := s.cur.core, place := s.cur.place, lane := l }
    let s := s.setInst ref { i with next := i.next + 1, regions := i.regions.set slot r }
    s.onHere fun g => g.modThread l fun t =>
      { t with farTarget := target, farSince := s.clock,
               far := { order := BitVec.ofNat 32 i.next, cause := t.far.cause, dieScope := die, slot, state := 1 } }

/-- FARB (R227, R229). -/
def execFarb (c : Bool) (d : BitVec 14) (sc : BitVec 1) (s : State) : Out :=
  endUnit c (s.each fun s l => s.unlessDet l fun s => s.unlessRegion l fun s =>
    -- while a PREEMPT_REQ of the group is pending, the thread stays at the unit (R239)
    if s.here.lanes.any fun t => t.2.live && t.2.preempt then s.effect l (.resume s.unitPos)
    else s.farBegin l (s.target (s.pi + sext 32 d)) (sc = 1#1))

/-- FARE (R234). -/
def execFare (c : Bool) (p : BitVec 3) (s : State) : Out :=
  endUnit c (s.each fun s l => s.unlessDet l fun s =>
    match (s.here.thread l).far.state with
    | 1 => (s.onHere fun g => g.modThread l fun t => { t with far := { t.far with state := 2 } }).wait l (.fare p.toNat)
    | 4 => s.onHere fun g => (g.wp l p.toNat false).modThread l fun t => { t with far := { t.far with state := 5 } }
    | _ => s.raise l Cause.farIllegal 0)

/-- FARX: the region aborts with cause 3; an irrevocable one commits, and the thread traps (R235). STATE is what it was
before the unit: a lane whose region a lower lane's FARX has taken along has aborted already (R232). -/
def execFarx (c : Bool) (s : State) : Out :=
  let before := s
  endUnit c (s.each fun s l => s.unlessDet l fun s =>
    let t := s.here.thread l
    let ref := instOf s.cur.core t.far.dieScope
    if !(before.here.thread l).inRegion then s.raise l Cause.farIllegal 0
    else if !t.inRegion then s
    else if t.far.irrev then (s.farCommit ref t.far.slot).raise l Cause.farIllegal 0
    else s.farAbort ref t.far.slot 3)

/-- FARS: the pair gets %FAR_STATUS (R227, R228). -/
def execFars (c : Bool) (a : BitVec 7) (s : State) : Out :=
  endUnit c (s.each fun s l => s.unlessDet l fun s =>
    s.onHere fun g => g.wv64 l a.toNat (g.thread l).far.word)

/-! ## DFLUSH (R241) -/

/-- DFLUSH: arrival at the segment's flush; NOP in a launch that is not deterministic. -/
def execDflush (c : Bool) (s : State) : Out :=
  endUnit c (s.each fun s l => s.unlessFlushed l fun s => s.unlessRegion l fun s =>
    if s.curLaunch.hdr.det then
      let k := (s.wg s.here.wg).segment
      (s.onHere fun g => g.modThread l fun t => { t with flushed := true }).arrive l (.dflush k)
    else s)

/-! ## Residency (R159, R160) -/

/-- The pages of a PGREQ, each once: the address space and the address of the first lane that names it. -/
def distinctPages (asid : BitVec 16) (eas : List Dword) : List (BitVec 16 × Dword) :=
  eas.foldl (fun acc ea =>
    -- a domain-window access carries the requester's address space (R95)
    let a := spaceOf asid ea
    if acc.any fun x => x.1 = a && x.2.extractLsb' 16 41 = ea.extractLsb' 16 41 then acc else acc ++ [(a, ea)]) []

/-- One page of a PGREQ: what is still to be serviced for it; its entry parks nothing (R159, R256). -/
def State.askPage (x : State × List (Nat × Dword × Dword)) (core : Nat) (asid : BitVec 16) (ea : Dword) :
    State × List (Nat × Dword × Dword) :=
  let s := x.1
  if ea.getLsbD 56 then
    match s.openRemote core (bitsNat ea 55 47) .page ea asid with
    | (s, id) => (s, x.2 ++ [(1, BitVec.ofNat 64 id, 0)])
  else
    let va := bitsNat ea 56 0
    match s.xlate (dieOf core) asid va with
    | (s, .leaf _) => (s, x.2)
    | (s, .fault m) =>
      (s.faultOn (dieOf core) asid va 0x40 m 0, x.2 ++ [(0, BitVec.ofNat 64 (parkKey (dieOf core) asid va), 0)])

/-- PGREQ: one request for each page; its status word is written when all of them have been serviced (R159). -/
def execPgreq (c : Bool) (a : BitVec 7) (b : BitVec 5) (s : State) : Out :=
  match s.E with
  | [] => endUnit c s
  | l :: _ =>
    let word := s.sr b
    if s.flushed l then endUnit c (s.each fun s l => s.raise l Cause.detViolation 0)
    else if bitsNat word 59 57 ≠ 0 then endUnit c (s.raise l Cause.noncanonical word)
    else if word.toNat % 8 ≠ 0 then endUnit c (s.raise l Cause.alignment word)
    else
      let canonical (l : Nat) : Bool := bitsNat (s.v64 l a) 59 57 = 0
      let sound (l : Nat) : Bool := canonical l && (!(s.v64 l a).getLsbD 56 || s.routed (bitsNat (s.v64 l a) 55 47))
      let s' := s.each fun s l => if sound l then s
        else s.raise l (if canonical l then Cause.protection else Cause.noncanonical) (s.v64 l a)
      let x := (distinctPages s.asid ((s.E.filter sound).map fun l => s.v64 l a)).foldl
        (fun x p => State.askPage x s.cur.core p.1 p.2) (s', [])
      let op : EngOp := { id := x.1.nextId, kind := .pgreq, core := s.cur.core, place := s.cur.place, lane := l,
                          wg := s.here.wg, grp := s.here.index, task := s.taskOf s.cur.core s.cur.place, asid := s.asid,
                          word := s.curWord, unit := s.unitAddr, res := s.chainRes, issued := s.clock, target := word, elems := x.2 }
      endUnit c (if word = 0 then x.1 else { x.1 with ops := x.1.ops ++ [op] }.fresh)

/-- PREF: a fill of the line, where a load of it would pass its checks; nothing else (R160). -/
def execPref (c : Bool) (a : BitVec 7) (l2 : BitVec 1) (p : BitVec 2) (s : State) : Out :=
  endUnit c (s.each fun s l => s.unlessFlushed l fun s =>
    let ea := s.v64 l a
    if bitsNat ea 59 57 ≠ 0 then s.raise l Cause.noncanonical ea
    else
      let core := s.cur.core
      match s.check (dieOf core) s.asid ea 1 { policy := p.toNat } with
      | (s', .ok loc) =>
        if !s'.allocates loc.pa loc.leaf.cls p.toNat then s
        else if l2 = 1#1 then s'
        else s'.l1Request core loc.asid (lineOf loc.va) loc.home (loc.pa / 64 * 64) (rrpvOf p.toNat loc.leaf.cls) 0 false
      | _ => s)

/-! ## Cache operations (R161) -/

/-- A line of an L1 or an L2, by its key, lies in a range of addresses of the thread: private lines under its address
space, shared ones under ASID 0 (R95, R97, R161). -/
def State.inCacheRange (s : State) (va n key : Nat) : Bool :=
  let line := key % 2 ^ 51
  decide (va / 64 ≤ line ∧ line ≤ (va + n - 1) / 64) &&
    key / 2 ^ 51 % 2 ^ 16 = (if line / 2 ^ 49 % 2 = 1 then 0 else s.asid.toNat)

/-- Physical lines that the caches hold of a range of addresses. -/
def State.cachedLines (s : State) (va n : Nat) : List Nat :=
  ((s.l2.filterMap fun x => if s.inCacheRange va n (x.1 % 2 ^ 67) then some x.2.pa else none) ++
    s.cores.flatMap fun k => k.2.l1.filterMap fun x => if s.inCacheRange va n x.1 then some x.2.pa else none).eraseDups

/-- An L2 line leaves with its directory entry, unless its home is in a transaction. -/
def State.dropL2 (s : State) (pa : Nat) : State :=
  (s.homesOf pa).foldl (fun s key =>
    if (s.dirAt key).transient then s
    else s.l2Evict key pa) s

/-- CWB and CINV over a range: dirty data goes to memory, and `inv` drops the lines (R161). -/
def State.cacheOp (s : State) (ea : Dword) (n : Dword) (inv : Bool) : State :=
  if n = 0 then s
  else (s.cachedLines (bitsNat ea 56 0) n.toNat).foldl (fun s pa =>
    let s := s.recall pa inv
    if inv then s.dropL2 pa else s) s

/-- CINV (R161). -/
def execCinv (c : Bool) (a b : BitVec 5) (s : State) : Out :=
  match s.E with
  | [] => endUnit c s
  | l :: _ => endUnit c (s.unlessFlushed l fun s => s.cacheOp (s.sr a) (s.sr b) true)

/-- CWB (R161). -/
def execCwb (c : Bool) (a b : BitVec 5) (s : State) : Out :=
  match s.E with
  | [] => endUnit c s
  | l :: _ => endUnit c (s.unlessFlushed l fun s => s.cacheOp (s.sr a) (s.sr b) false)

/-! ## Tags (R162) -/

/-- A lane's TAGSET: its checks, and its place in the store queue. -/
def State.issueTagset (x : State × List SqAcc) (l : Nat) (ea : Dword) (n : Nat) : State × List SqAcc :=
  let s := x.1
  let q : Ask := { write := true, tag := false, kvm := true }
  if s.flushed l then (s.raise l Cause.detViolation 0, x.2)
  else if bitsNat ea 59 57 ≠ 0 then (s.raise l Cause.noncanonical ea, x.2)
  else if ea.toNat % 32 ≠ 0 ∨ ea.toNat % 65536 + 32 * n > 65536 then (s.raise l Cause.alignment ea, x.2)
  else if n = 0 then x
  else match (s.checkAcc s.cur.core s.asid ea 32 false q).2 with
    | .ok loc =>
      if !loc.leaf.tagen then (s.raise l Cause.protection ea, x.2)
      else State.issueAcc x { lane := l, ea, data := BitVec.ofNat 128 n } 32 false 2 q
    | _ => State.issueAcc x { lane := l, ea, data := BitVec.ofNat 128 n } 32 false 2 q

/-- TAGSET (R162). -/
def execTagset (c : Bool) (a b : BitVec 7) (s : State) : Out :=
  let x := s.E.foldl (fun x l => State.issueTagset x l (s.v64 l a) (s.v l b).toNat) (s, [])
  endUnit c (x.1.pushUnit { op := .tagset, size := 32, accs := x.2 })

/-- TAGGET: ordered as a load, of one byte (R162). -/
def execTagget (c : Bool) (a b : BitVec 7) (s : State) : Out :=
  endUnit c (s.each fun s l => s.unlessFlushed l fun s =>
    s.issueLoad l (.tag b.toNat) (s.v64 l a) 1 false { tag := false } [])

/-! ## Operand memory, full bits and event numbers (R163 to R165) -/

/-- MFOP: the thread's earlier writes of operand memory, and those of UNPKs whose completion it has observed, come before
its later MMAs; its stores through window 4 have performed (R164). -/
def execMfop (c : Bool) (s : State) : Out :=
  endUnit c ((s.each fun s l =>
    (s.modCore s.cur.core fun k =>
      { k with slots := k.slots.mapVals fun _ x =>
          x.order (s.who s.cur.core s.cur.place l) ((s.here.thread l).seen.get 0) s.nextId }).fenceWait l).fresh)

/-- A lane's FESET or FECLR (R163). -/
def State.fullCheck (s : State) (o n : Nat) : Option Nat :=
  if o % 16 ≠ 0 ∨ n % 16 ≠ 0 then some Cause.alignment
  else if o + n > (s.core s.cur.core).spadSize then some Cause.scratchRange
  else none

/-- FESET and FECLR: one unit of the store queue, after the thread's earlier stores (R109, R163). -/
def State.fullUnit (s : State) (a b : BitVec 7) (value : Bool) : State :=
  let x := s.E.foldl (fun (x : State × List SqAcc) l =>
    let ea : Dword := zext 64 (s.v l a)
    if x.1.flushed l then (x.1.raise l Cause.detViolation 0, x.2)
    else match s.fullCheck (s.v l a).toNat (s.v l b).toNat with
      | some t => (x.1.raise l t ea, x.2)
      | none => if s.v l b = 0 then x else (x.1, x.2 ++ [{ lane := l, ea, data := zext 128 (s.v l b) }])) (s, [])
  x.1.pushUnit { op := .fullBits value, size := 16, spad := true, accs := x.2 }

/-- FESET (R163). -/
def execFeset (c : Bool) (a b : BitVec 7) (s : State) : Out := endUnit c (s.fullUnit a b true)

/-- FECLR (R163). -/
def execFeclr (c : Bool) (a b : BitVec 7) (s : State) : Out := endUnit c (s.fullUnit a b false)

/-- SEQR: the highest number among the events that have landed (R165). -/
def execSeqr (c : Bool) (a : BitVec 5) (s : State) : Out :=
  endUnit c (s.sset a.toNat (BitVec.ofNat 64 (s.core s.cur.core).landed))

/-- POLL_REREAD (R226). -/
def execPollReread (core place lane : Nat) (s : State) : Out := .next (s.pollReread core place lane)

end Sys2Proof.Machine
end

