-- ==== Sys2Proof/Machine/Svc.lean ====
section
/-! DEFINITION. The SVC members that speak to schedulers and to the text path: RSIG (R352), TASKDEC, TASKNEW and
TASKQ (R336 to R339), TKRCV and TKPOST (R365 to R367). -/

namespace Sys2Proof.Machine

/-! ## Signals (R337, R352) -/

/-- Each executing thread sends a signal, in ascending lane order, where `fault` finds nothing; `kind` tells the
kinds apart in the store queue: 0 a counter, 1 a task of a module, 2 TASKDEC, 3 a task of this module outside the range
that the address space has at the issue. -/
def State.signals (s : State) (kind : Nat) (a b : Dword) (fault : Option (Nat × Dword)) : State :=
  let x := s.E.foldl (fun (x : State × List SqAcc) l =>
    if x.1.flushed l then (x.1.raise l Cause.detViolation 0, x.2)
    else match fault with
      | some (cause, addr) => (x.1.raise l cause addr, x.2)
      | none => (x.1, x.2 ++ [{ lane := l, ea := a, data := zext 128 b, cmp := BitVec.ofNat 128 kind }])) (s, [])
  x.1.pushUnit { op := .rsig, size := 8, accs := x.2 }

/-- What refuses a RSIG at issue (R341, R352). -/
def State.rsigFault (s : State) (a b : Dword) : Option (Nat × Dword) :=
  if b.getLsbD 63 then
    if bitsNat a 63 27 ≠ 0 ∨ bitsNat b 61 32 ≠ 0 then some (Cause.format, 0)
    else if !s.routed (bitsNat a 26 18) then some (Cause.protection, 0)
    else none
  else if bitsNat a 59 57 ≠ 0 then some (Cause.noncanonical, a)
  else if a.toNat % 8 ≠ 0 then some (Cause.alignment, a)
  else if a.getLsbD 56 ∧ !s.routed (bitsNat a 55 47) then some (Cause.protection, a)
  else none

/-- RSIG (R352). -/
def execRsig (c : Bool) (a b : BitVec 5) (s : State) : Out :=
  let out := bitsNat (s.sr a) 26 18 = s.dev.toNat ∧ !s.inRange s.asid (bitsNat (s.sr a) 17 0)
  let kind := if !(s.sr b).getLsbD 63 then 0 else if out then 3 else 1
  endUnit c (s.signals kind (s.sr a) (if (s.sr b).getLsbD 63 then s.sr b else s.sr b &&& 0x7FFFFFFFFFFFFFFF#64)
    (s.rsigFault (s.sr a) (s.sr b)))

/-- What refuses a TASKDEC (R337). -/
def State.taskdecFault (s : State) (a b : Dword) : Option (Nat × Dword) :=
  if bitsNat a 62 18 ≠ 0 ∨ bitsNat b 63 32 ≠ 0 then some (Cause.format, 0)
  else if !s.inRange s.asid (bitsNat a 17 0) then some (Cause.protection, 0)
  else none

/-- The lanes in an open region trap; the others go on (R237). -/
def State.outsideRegion (s : State) (f : State → State) : State :=
  let inside (l : Nat) : Bool := (s.here.thread l).inRegion
  let ls := s.E.filter inside
  let s := ls.foldl (fun s l => s.raise l Cause.farIllegal 0) s
  let barred := s.cur.barred
  let s := f { s with cur := { s.cur with barred := barred ++ ls } }
  { s with cur := { s.cur with barred } }

/-- TASKDEC (R337). -/
def execTaskdec (c : Bool) (a b : BitVec 5) (s : State) : Out :=
  endUnit c (s.outsideRegion fun s => s.signals 2 (s.sr a) (s.sr b) (s.taskdecFault (s.sr a) (s.sr b)))

/-! ## TASKNEW and TASKQ (R338, R339) -/

/-- The block checks of TASKNEW. -/
def State.tasknewFault (s : State) (b : List Byte) : Option Nat :=
  if (7 < blkNat b 8 1 ∧ blkNat b 8 1 ≠ 0xFF) ∨ !blkZero b 9 7 ∨ !blkZero b 24 8 ∨ !blkZero b 48 16 ∨
      !genWell (BitVec.ofNat 64 (blkNat b 32 8)) then some Cause.format
  else if blkNat b 40 8 / 2 ^ 57 % 8 ≠ 0 then some Cause.noncanonical
  else if blkNat b 40 8 % 8 ≠ 0 then some Cause.alignment
  else if !s.inRange s.asid (blkNat b 0 4) then some Cause.protection
  else none

/-- A lane's TASKNEW issues, with the range that its address space has then: later units wait for s(A) (R317, R338). -/
def State.issueTasknew (s : State) (l : Nat) (off : Dword) (sreg : Nat) : State :=
  let k := s.core s.cur.core
  let b := s.spadSeen s.cur.core s.cur.place l off.toNat 64
  if s.flushed l then s.raise l Cause.detViolation 0
  else if off.toNat % 64 ≠ 0 then s.raise l Cause.alignment off
  else if off.toNat + 64 > k.spadSize then s.raise l Cause.scratchRange off
  else if k.spadPoisoned off.toNat 64 then s.raise l Cause.fatalMemory off
  else match s.tasknewFault b with
    | some cause => s.raise l cause off
    | none =>
      (s.pushOp { s.newOp l (.tasknew sreg) (s.taskRange s.asid) with blk := b, blkOff := off }).onHere fun g =>
        if sreg = 0 then g else { g with busyS := g.busyS ++ [sreg] }

/-- TASKNEW (R338). -/
def execTasknew (c : Bool) (a b : BitVec 5) (s : State) : Out :=
  endUnit c (s.outsideRegion fun s => s.each fun s l => s.issueTasknew l (s.sr b) a.toNat)

/-- The creation ends with a value in s(A). -/
def State.tasknewEnd (s : State) (o : EngOp) (sreg : Nat) (x : Dword) : State :=
  (s.landGroup o.wg o.grp fun g => { g.ws sreg x with busyS := g.busyS.erase sreg }).dropOp o.id

/-- The HTS creates the task; commands of one unit follow each other (R338). -/
def State.tasknewStep (s : State) (o : EngOp) (sreg : Nat) : State :=
  let before := s.ops.any fun x => decide (x.id < o.id) && x.wg = o.wg && x.grp = o.grp &&
    (match x.kind with | .tasknew _ => true | _ => false)
  let template := blkNat o.blk 0 4
  if o.park.isSome ∨ o.remote.isSome ∨ before then s
  else match s.freeRecord o.target with
  | none => s.tasknewEnd o sreg 0xFFFFFFFFFFFFFFFF#64
  | some t =>
    if !s.within o.target template ∨ s.taskState template ≠ 8 then s.tasknewEnd o sreg 0xFFFFFFFFFFFFFFFF#64
    else
      let asked := blkNat o.blk 8 1
      let prio : State × Except Stop Nat :=
        if asked = 0xFF then s.headerPrio template o.got (o.err ≠ 0) else (s, .ok asked)
      match prio with
      -- the HTS translates through the XCs of die 0 (R256)
      | (s, .error (.park ea m)) =>
        let sp := spaceOf (s.taskAsid template) ea
        let va := bitsNat ea 56 0
        (s.parkOn 0 sp va 0x10 m).setOp { o with park := some (parkKey 0 sp va) }
      | (s, .error st) => s.opStop o st
      | (s, .ok prio) =>
        let n : NewTask := { asid := o.asid, template, counter := blkNat o.blk 4 4, prio := none,
                             param := blkNat o.blk 16 8, gen := blkNat o.blk 32 8, cword := blkNat o.blk 40 8,
                             priv := false }
        (s.createTask t n prio).tasknewEnd o sreg (BitVec.ofNat 64 t)

/-- TASKQ (R339). -/
def execTaskq (c : Bool) (a b : BitVec 5) (s : State) : Out :=
  let x := s.sr b
  let t := bitsNat x 17 0
  let word := if bitsNat x 63 18 ≠ 0 ∨ !s.inRange s.asid t then 0xFFFFFFFFFFFFFFFF#64 else s.taskWord t
  endUnit c (s.sset a.toNat word)

/-! ## The text path (R365 to R367) -/

/-- Uniform registers from a number up are written in order. -/
def Group.wsAll (g : Group) (n : Nat) (xs : List Dword) : Group :=
  xs.zipIdx.foldl (fun g x => g.ws (n + x.2) x.1) g

/-- The five words of a claimed request (R366). -/
def TextReq.words (r : TextReq) : List Dword :=
  [BitVec.ofNat 64 (r.count * 2 ^ 32 + r.seq), r.slotVa,
   BitVec.ofNat 64 (r.session * 2 ^ 32 + r.port * 2 ^ 16 + r.slot),
   BitVec.ofNat 64 (r.maxtok * 2 ^ 48 + r.topk * 2 ^ 32 + r.w.toNat), r.key]

/-- TKRCV: the oldest request of the model is claimed (R366). -/
def execTkrcv (c : Bool) (a b : BitVec 5) (s : State) : Out :=
  let m := bitsNat (s.sr b) 7 0
  let x := s.models.get {} m
  match s.E with
  | [] => endUnit c s
  | l :: _ =>
    if s.flushed l then endUnit c (s.raise l Cause.detViolation 0)
    else if bitsNat (s.sr b) 63 8 ≠ 0 ∨ !x.valid ∨ x.asid ≠ s.asid then endUnit c (s.raise l Cause.format 0)
    else match x.queue with
    | [] => endUnit c (s.onHere fun g => g.wsAll a.toNat [0xFFFFFFFF#64, 0, 0, 0, 0])
    | r :: rs =>
      let s := { s with models := s.models.set m { x with queue := rs } }
      endUnit c (s.onHere fun g => g.wsAll a.toNat r.words)

/-- A post that is dropped is counted (R367). -/
def State.dkeDrop (s : State) (port : Nat) : State :=
  let p := s.ports.get {} port
  { s with ports := s.ports.set port { p with drop := BitVec.ofNat 32 (min 0xFFFFFFFF (p.drop.toNat + 1)) } }

/-- TKPOST: an id for a session; a handle that names no session drops it (R367). -/
def State.tkpost (s : State) (handle x : Dword) : State :=
  let port := bitsNat handle 19 16
  let slot := bitsNat handle 15 0
  let p := s.ports.get {} port
  match p.sessions.find? slot with
  | some y =>
    if port < 4 ∧ bitsNat handle 31 20 = 0 ∧ y.session = bitsNat handle 63 32 ∧ !y.ended then
      let y := { y with posts := y.posts ++ [(bitsNat x 31 0, x.getLsbD 63)], order := y.order ++ [s.nextId] }
      ({ s with ports := s.ports.set port { p with sessions := p.sessions.set slot y } } : State).fresh
    else s.dkeDrop (port % 4)
  | none => s.dkeDrop (port % 4)

/-- TKPOST (R367). -/
def execTkpost (c : Bool) (a b : BitVec 5) (s : State) : Out :=
  match s.E with
  | [] => endUnit c s
  | l :: _ =>
    if s.flushed l then endUnit c (s.raise l Cause.detViolation 0)
    else if bitsNat (s.sr b) 62 32 ≠ 0 then endUnit c (s.raise l Cause.format 0)
    else endUnit c (s.tkpost (s.sr a) (s.sr b))

end Sys2Proof.Machine
end

