-- ==== Sys2Proof/Machine/Badger.lean ====
section
/-! DEFINITION. Badger's pools, sequences, nodes and pages (R284 to R288, R301), the row images of KV pages (R285),
and the changes that commands make to them (R294 to R301). -/

namespace Sys2Proof.Machine

/-! ## Pools and rows (R284, R285) -/

/-- A pool whose descriptor keeps its limits. -/
structure Pool where
  idx : Nat
  fmt : Nat
  P : Nat
  L : Nat
  H : Nat
  DH : Nat
  npages : Nat
  pageb : Nat
  base : Nat
  asid : BitVec 16
  ns : Dword
  deriving DecidableEq, Repr

/-- Bytes of a row image (R285). -/
def rowBytes (fmt dh : Nat) : Nat := if fmt = 0 then 2 * dh else if fmt = 1 then dh else sdbStride dh

/-- The pool of a descriptor; none when it breaks a limit (R284). -/
def poolOf (idx : Nat) (b : List Byte) : Option Pool :=
  let fmt := blkNat b 0 1
  let plog := blkNat b 1 1
  let L := blkNat b 2 1
  let H := blkNat b 3 1
  let dh := blkNat b 4 2
  let np := blkNat b 8 4
  let area := 2 * L * H * 2 ^ plog * rowBytes fmt dh
  if fmt ≤ 3 ∧ [2, 4, 5, 6, 7].contains plog ∧ 1 ≤ L ∧ 1 ≤ H ∧ H ≤ 64 ∧ 16 ≤ dh ∧ dh ≤ 256 ∧ dh % 16 = 0 ∧
      1 ≤ np ∧ np ≤ 2 ^ 24 ∧ blkNat b 12 4 = (area + 65535) / 65536 * 65536 ∧ blkNat b 16 8 % 65536 = 0 ∧
      blkZero b 6 2 ∧ blkZero b 26 6 ∧ blkZero b 40 24 then
    some { idx, fmt, P := 2 ^ plog, L, H, DH := dh, npages := np, pageb := blkNat b 12 4, base := blkNat b 16 8,
           asid := BitVec.ofNat 16 (blkNat b 24 2), ns := BitVec.ofNat 64 (blkNat b 32 8) }
  else none

/-- A pool of the table. -/
def State.pool (s : State) (i : Nat) : Option Pool := (s.pools.find? i).bind (poolOf i)

def Pool.rb (p : Pool) : Nat := rowBytes p.fmt p.DH

/-- The SDB format of an N-format pool. -/
def Pool.sdb (p : Pool) : Nat := if p.fmt = 2 then 3 else 2

/-- The pool stores self-describing blocks. -/
def Pool.n (p : Pool) : Bool := 2 ≤ p.fmt

/-- The offset of a row in its page (R285). -/
def Pool.rowOff (p : Pool) (l h part slot : Nat) : Nat := (((l * p.H + h) * 2 + part) * p.P + slot) * p.rb

/-- The address of a byte of a page. -/
def Pool.addr (p : Pool) (page off : Nat) : Nat := (p.base + page * p.pageb + off) % 2 ^ 64

/-! ## Pages (R288) -/

/-- Key of a page. -/
def pageName (pool page : Nat) : Nat := pool * 2 ^ 24 + page

def State.page (s : State) (pool page : Nat) : Page := s.pages.get {} (pageName pool page)

def State.setPage (s : State) (pool page : Nat) (x : Page) : State :=
  { s with pages := s.pages.set (pageName pool page) x }

/-- The lowest sequence that is free, and that no TKE has reserved (R292, R358). -/
def State.freeSeq (s : State) : Option Nat := leastFree (s.seqs.keys ++ s.reservations.map TkeRes.seq) 0 65536

/-- Pages of a pool that are not free: referenced, or in a reader's snapshot (R288). -/
def State.takenPages (s : State) (pool : Nat) : List Nat :=
  (s.pages.filterMap fun x => if x.1 / 2 ^ 24 = pool ∧ x.2.refs ≠ 0 then some (x.1 % 2 ^ 24) else none) ++
  s.ops.flatMap fun o => o.snap.filterMap fun x => if x.1 = pool then some x.2 else none

/-- The lowest free page of a pool. -/
def State.freePage (s : State) (p : Pool) : Option Nat := leastFree (s.takenPages p.idx) 0 p.npages

/-- A reference goes; with the last one the page is free, and its scale stays for a reader that holds it in a snapshot
(R288, R310). The flag says that it went. -/
def State.dropRef (s : State) (pool page : Nat) : State × Bool :=
  let x := s.page pool page
  if x.refs ≤ 1 then (s.setPage pool page { x with refs := 0 }, true)
  else (s.setPage pool page { x with refs := x.refs - 1 }, false)

/-- References of a list of pages go; the count of pages that became free. -/
def State.dropRefs (s : State) (pool : Nat) (ps : List Nat) : State × Nat :=
  ps.foldl (fun x n => let r := x.1.dropRef pool n; (r.1, x.2 + r.2.toNat)) (s, 0)

/-! ## Reading and writing pages -/

/-- What Badger's own access of a page stops at; a page at another module cannot be one. -/
def pageStop : Stop → Stop
  | .remote _ _ _ => .err 2
  | st => st

/-- Bytes of a page. -/
def State.pageRead (s : State) (die : Nat) (p : Pool) (page off n : Nat) : State × Except Stop (List Byte) :=
  match State.engRead die p.asid [] { kvm := true } (pieces (p.addr page off) n n) s [] with
  | (s, .ok bs) => (s, .ok bs)
  | (s, .error st) => (s, .error (pageStop st))

/-- Pieces of bytes are written one after another. -/
def State.putPieces (die : Nat) (asid : BitVec 16) (base : Nat) (bs : List Byte) :
    List (Nat × Nat) → State → State × Except Stop Unit
  | [], s => (s, .ok ())
  | (a, n) :: ps, s =>
    let b := (bs.drop (a - base)).take n
    match s.engPut die asid (BitVec.ofNat 64 a) n { write := true, kvm := true } (fun _ => (b, []))
        (.write n (BitVec.ofNat 128 (leNat b))) with
    | (s, .ok _) => State.putPieces die asid base bs ps s
    | (s, .error st) => (s, .error (pageStop st))

/-- Bytes of a page are written. -/
def State.pageWrite (s : State) (die : Nat) (p : Pool) (page off : Nat) (bs : List Byte) : State × Except Stop Unit :=
  State.putPieces die p.asid (p.addr page off) bs (pieces (p.addr page off) bs.length bs.length) s

/-! ## Results of commands (R291) -/

/-- What a command comes to: its outputs (bytes 4 to 15) and events, a failure with its reason and access code, or a
stop at an access. -/
inductive TtRes where
  | ok (s : State) (out : List Byte) (es : List Ev)
  | fail (reason code : Nat)
  | stop (st : Stop)
  deriving DecidableEq, Repr

/-- An access that stops a command: an error fails it with reason 13. -/
def TtRes.ofStop : Stop → TtRes
  | .err c => .fail 13 c
  | st => .stop st

/-- Bytes of the scratchpad that a command reads; poison fails it with code 1 (R371). -/
def State.ttSpad (s : State) (o : EngOp) (off n : Nat) : TtRes ⊕ List Byte :=
  let k := s.core o.core
  if k.spadPoisoned off n then .inl (.fail 13 1) else .inr (k.spadRead off n)

/-- The code of a reason (R291). -/
def statusOf (reason code : Nat) : Nat :=
  match reason with
  | 0 => 0
  | 11 => 5
  | 13 => code
  | _ => 7

/-- Twelve output bytes. -/
def outs (bs : List Byte) : List Byte := (bs ++ List.replicate 12 0).take 12

/-! ## Sequences and nodes -/

/-- A node of a sequence that is not free. -/
def Seq.node (q : Seq) (n : Nat) : Option Node := q.nodes.find? n

/-- The sequence with a node replaced. -/
def Seq.setNode (q : Seq) (n : Nat) (x : Node) : Seq := { q with nodes := q.nodes.set n x }

/-- The state with a sequence replaced. -/
def State.setSeq (s : State) (id : Nat) (q : Seq) : State := { s with seqs := s.seqs.set id q }

/-- Key of a node slot's generation. -/
def slotKey (seq node : Nat) : Nat := seq * 1024 + node

/-- Free node slots of a sequence, ascending (R287). -/
def State.freeNodes (s : State) (id : Nat) (q : Seq) : List Nat :=
  (List.range 1024).filter fun n => (q.node n).isNone && decide (s.slotGen.get 0 (slotKey id n) < 0xFFFF)

/-- A node slot is allocated with the next generation. -/
def State.newGen (s : State) (id n : Nat) : State × Nat :=
  let g := s.slotGen.get 0 (slotKey id n) + 1
  ({ s with slotGen := s.slotGen.set (slotKey id n) g }, g)

/-- The node accepts an append (R287). -/
def Node.appends (n : Node) : Bool := n.state = 1 || (n.state = 3 && n.nchild = 0)

/-- The node is in the tree: LIVE, SEALED or TRUNK. -/
def Node.standing (n : Node) : Bool := 1 ≤ n.state && n.state ≤ 3

/-- The ring index of a root position of a windowed sequence (R301). -/
def Seq.ringIndex (q : Seq) (pos : Nat) : Nat := (pos - q.sink) % q.window

/-- The position of a page in the list that holds it, and its list. -/
def Seq.pageOf (q : Seq) (P n : Nat) (x : Node) (pos : Nat) : Option Nat :=
  if q.windowed ∧ n = 0 then
    (if pos < q.sink then q.ring[pos / P]? else q.ring[q.sink / P + q.ringIndex pos / P]?)
  else x.pages[pos / P - x.first / P]?

/-- The slot of a position in its page. -/
def Seq.slotOf (q : Seq) (P n pos : Nat) : Nat :=
  if q.windowed ∧ n = 0 ∧ q.sink ≤ pos then q.ringIndex pos % P else pos % P

/-- A position that a node holds. -/
def Node.has (x : Node) (pos : Nat) : Bool := x.first ≤ pos && pos < x.first + x.count

/-- A root position of a windowed sequence is current (R301). -/
def Seq.current (q : Seq) (n pos : Nat) : Bool :=
  !q.windowed || n ≠ 0 || pos < q.sink ||
    (match q.node 0 with
     | none => false
     | some r => decide (r.count ≤ pos + q.window) && q.wrap.get 0 (q.ringIndex pos) = (pos - q.sink) / q.window)

/-- The chain from a node to the root. -/
def Seq.chain (q : Seq) (n : Nat) : Nat → List Nat
  | 0 => []
  | f + 1 =>
    match q.node n with
    | none => []
    | some x => n :: (if x.parent = 0xFFFF then [] else q.chain x.parent f)

/-- The nodes below a node, with it. -/
def Seq.subtree (q : Seq) (n : Nat) : List Nat := q.nodes.keys.filter fun k => (q.chain k 256).contains n

/-! ## Allocation and copy-on-write (R285, R296) -/

/-- A fresh page for a node; in N formats its blocks are empty. Reason 4 when the pool has none. -/
def State.allocPage (s : State) (die : Nat) (p : Pool) (owner : Nat × Nat) : State × Except Stop (Option Nat) :=
  match s.freePage p with
  | none => (s, .ok none)
  | some n =>
    let s := s.setPage p.idx n { refs := 1, owner := some owner }
    if p.n then
      match s.pageWrite die p n 0 (List.replicate p.pageb 0) with
      | (s, .ok _) => (s, .ok (some n))
      | (s, .error st) => (s, .error st)
    else (s, .ok (some n))

/-- The page is shared beyond its sealed owner (R296). -/
def State.shared (s : State) (p : Pool) (page : Nat) : Bool :=
  let x := s.page p.idx page
  let o := match x.owner with
    | none => 0
    | some (sq, n) =>
      match (s.seqs.find? sq).bind fun q => q.node n with
      | some y => if y.standing && y.pages.contains page && decide (y.nchild > 0) then 1 else 0
      | none => 0
  decide (x.refs - o > 1)

/-- What copying a shared page gives: the page to use, and whether it was copied. -/
inductive Cow where
  | page (n : Nat) (copied : Bool)
  | noPage
  | stop (st : Stop)
  deriving DecidableEq, Repr

/-- Copy-on-write of the page at index i of a node's list (R296). -/
def State.cow (s : State) (die : Nat) (p : Pool) (id n i page : Nat) : State × Cow :=
  if !s.shared p page then (s, .page page false)
  else
    match s.freePage p with
    | none => (s, .noPage)
    | some q =>
      match s.pageRead die p page 0 p.pageb with
      | (s, .error st) => (s, .stop st)
      | (s, .ok bs) =>
        match s.pageWrite die p q 0 bs with
        | (s, .error st) => (s, .stop st)
        | (s, .ok _) =>
          let s := s.setPage p.idx q { refs := 1, owner := some (id, n), scale := (s.page p.idx page).scale }
          let s := (s.dropRef p.idx page).1
          match s.seqs.find? id with
          | none => (s, .page q true)
          | some sq =>
            match sq.node n with
            | none => (s, .page q true)
            | some x => (s.setSeq id (sq.setNode n { x with pages := x.pages.set i q }), .page q true)

/-! ## TAPP (R296, R301) -/

/-- The pages of an append, page index by page index. -/
def State.appendPages (die : Nat) (p : Pool) (id n : Nat) : List Nat → State → Bool → State × Except Stop (Option Bool)
  | [], s, copied => (s, .ok (some copied))
  | i :: is, s, copied =>
    match (s.seqs.find? id).bind fun q => q.node n with
    | none => (s, .ok none)
    | some x =>
      match x.pages[i]? with
      | some page =>
        match s.cow die p id n i page with
        | (s, .page _ c) => State.appendPages die p id n is s (copied || c)
        | (s, .noPage) => (s, .ok none)
        | (s, .stop st) => (s, .error st)
      | none =>
        match s.allocPage die p (id, n) with
        | (s, .error st) => (s, .error st)
        | (s, .ok none) => (s, .ok none)
        | (s, .ok (some page)) =>
          match s.seqs.find? id with
          | none => (s, .ok none)
          | some q =>
            State.appendPages die p id n is
              (s.setSeq id (q.setNode n { x with pages := x.pages ++ [page] })) copied

/-- `k` positions are appended to a node that accepts them. -/
def State.append (s : State) (die : Nat) (p : Pool) (id n k : Nat) : State × Except Stop (Option Bool) :=
  match s.seqs.find? id with
  | none => (s, .ok none)
  | some q =>
    match q.node n with
    | none => (s, .ok none)
    | some x =>
      let e := x.first + x.count
      let grow (s : State) : State :=
        match s.seqs.find? id with
        | none => s
        | some q =>
          match q.node n with
          | none => s
          | some x =>
            let wrap := if q.windowed ∧ n = 0 then
                (List.range k).foldl (fun w i =>
                  if e + i < q.sink then w else w.set (q.ringIndex (e + i)) ((e + i - q.sink) / q.window)) q.wrap
              else q.wrap
            s.setSeq id { q.setNode n { x with count := x.count + k } with wrap }
      if q.windowed ∧ n = 0 then (grow s, .ok (some false))
      else
        let i0 := e / p.P - x.first / p.P
        let i1 := (e + k - 1) / p.P - x.first / p.P
        match State.appendPages die p id n ((List.range (i1 + 1 - i0)).map (· + i0)) s false with
        | (s, .ok (some c)) => (grow s, .ok (some c))
        | r => r

/-! ## Rows (R297) -/

/-- The exact values of a row image (R285); none for a reserved block format. -/
def Pool.decode (p : Pool) (bs : List Byte) : Option (List Fl) :=
  if p.fmt = 0 then some ((List.range p.DH).map fun i => Fmt.bf16.val (blkNat bs (2 * i) 2))
  else if p.fmt = 1 then some ((bs.take p.DH).map fun b => Fmt.e4m3.val b.toNat)
  else sdbRow bs p.DH (p.rb / 64 + 1)

/-- A value of a KV row in BF16 or E4M3 (R297). -/
def kvFloat (f : Fmt) (x : Fl) : FR := if x.isNan then (0, Ev.invalid) else f.cvt 0 true x true

/-- The values of an N-format row at a scale: NaN is +0 and an infinity the largest magnitude (R297). -/
def kvValues (m S : Nat) (xs : List Fl) : List Fl :=
  xs.map fun x => match x with
    | .nan => .fin false 0 0
    | .inf neg => .fin neg (2 ^ m - 1) ((S : Int) - 127 - (m - 1 : Nat))
    | x => x

/-- The events of the values themselves. -/
def kvEvents (xs : List Fl) : List Ev :=
  xs.filterMap fun x => if x.isNan then some Ev.invalid else if x.isInf then some Ev.sat else none

/-- The smallest rise of the scale with which the row encodes; up to 254 (R297). -/
def kvRise (fmt m : Nat) (xs : List Fl) (S : Nat) : Nat → Nat
  | 0 => 0
  | f + 1 =>
    if S ≥ 254 ∨ !(encodeRow fmt (some S) (kvValues m S xs)).ovf then 0 else kvRise fmt m xs (S + 1) f + 1

/-- Every non-empty block of a page gains δ (R297): the blocks of a page, one after another, with the events. -/
def rescaleBlocks (delta : Nat) : List (List Byte) → List Byte × List Ev
  | [] => ([], [])
  | b :: bs =>
    let r := if blkNat b 0 1 = 0 then (b, 0) else rescaleBlock b delta
    let t := rescaleBlocks delta bs
    (r.1 ++ t.1, List.replicate r.2 0x40 ++ t.2)

/-- A page is rescaled by δ: all of it at once, and one rescale event (R297). -/
def State.rescalePage (s : State) (die : Nat) (p : Pool) (page delta : Nat) : State × Except Stop (List Ev) :=
  if delta = 0 then (s, .ok [])
  else
    let area := 2 * p.L * p.H * p.P * p.rb
    match s.pageRead die p page 0 area with
    | (s, .error st) => (s, .error st)
    | (s, .ok bs) =>
      let r := rescaleBlocks delta ((List.range (area / 64)).map fun i => (bs.drop (64 * i)).take 64)
      match s.pageWrite die p page 0 r.1 with
      | (s, .error st) => (s, .error st)
      | (s, .ok _) =>
        let x := s.page p.idx page
        (s.setPage p.idx page { x with scale := x.scale.map (· + delta) }, .ok (0x80 :: r.2))

/-- One row is written to its page: its events and the rise of the page's scale (R297). -/
def State.kvRow (s : State) (die : Nat) (p : Pool) (page off : Nat) (xs : List Fl) :
    State × Except Stop (List Ev × Nat) :=
  if !p.n then
    let f := if p.fmt = 0 then Fmt.bf16 else Fmt.e4m3
    let rs := xs.map (kvFloat f)
    match s.pageWrite die p page off (rs.flatMap fun r => leBytes (f.w / 8) r.1) with
    | (s, .ok _) => (s, .ok (rs.map Prod.snd, 0))
    | (s, .error st) => (s, .error st)
  else
    let m := (sdbM p.sdb).getD 7
    let x := s.page p.idx page
    let first := chooseScale (xs.filter fun x => !x.isNan && !x.isInf)
    let s := if x.scale.isNone then s.setPage p.idx page { x with scale := some first } else s
    let S := x.scale.getD first
    let rise := kvRise p.sdb m xs S 256
    match s.rescalePage die p page rise with
    | (s, .error st) => (s, .error st)
    | (s, .ok es) =>
      let r := encodeRow p.sdb (some (S + rise)) (kvValues m (S + rise) xs)
      match s.pageWrite die p page off r.bytes with
      | (s, .ok _) => (s, .ok (es ++ kvEvents xs ++ r.evs, rise))
      | (s, .error st) => (s, .error st)

/-! ## Forks and prunes (R295, R299) -/

/-- A reference is added to a page, below the limit of 0xFFFF (R288). -/
def State.addRef (s : State) (pool page : Nat) : Option State :=
  let x := s.page pool page
  if x.refs ≥ 0xFFFF then none else some (s.setPage pool page { x with refs := x.refs + 1 })

/-- The tail page that a fork shares (R288). -/
def Seq.tail (q : Seq) (P n : Nat) (x : Node) : Option Nat :=
  if (q.windowed ∧ n = 0) ∨ (x.first + x.count) % P = 0 then none else q.pageOf P n x (x.first + x.count - 1)

/-- Children are made at a node's end, in the slots given (R295). -/
def State.makeChildren (p : Pool) (id n : Nat) : List Nat → State → Option State
  | [], s => some s
  | c :: cs, s =>
    match s.seqs.find? id with
    | none => none
    | some q =>
      match q.node n with
      | none => none
      | some x =>
        let tail := q.tail p.P n x
        let s' := match tail with
          | some t => s.addRef p.idx t
          | none => some s
        match s' with
        | none => none
        | some s =>
          let g := s.newGen id c
          let y : Node := { parent := n, depth := x.depth + 1, state := 1, first := x.first + x.count,
                            gen := g.2, pages := tail.toList }
          let x := { x with nchild := x.nchild + 1, state := if x.state = 1 then 2 else x.state }
          State.makeChildren p id n cs (g.1.setSeq id ((q.setNode n x).setNode c y))

/-- A node is divided at a position: node `m` takes what comes from there on (R295). -/
def State.splitNode (s : State) (p : Pool) (id n m at_ : Nat) : Option State :=
  match s.seqs.find? id with
  | none => none
  | some q =>
    match q.node n with
    | none => none
    | some x =>
      let g := s.newGen id m
      let i := at_ / p.P - x.first / p.P
      let keep := (at_ - 1) / p.P - x.first / p.P + 1
      let s' := if at_ % p.P = 0 then some g.1
        else match x.pages[i]? with
          | some t => g.1.addRef p.idx t
          | none => some g.1
      s'.map fun s =>
        let below := (q.subtree n).filter (· ≠ n)
        let y : Node := { x with parent := n, depth := x.depth + 1, first := at_, count := x.first + x.count - at_,
                                 gen := g.2, pages := x.pages.drop i }
        let x' : Node := { x with count := at_ - x.first, state := 2, nchild := 1, pages := x.pages.take keep }
        let nodes := q.nodes.mapVals fun k z =>
          if below.contains k then
            { z with depth := z.depth + 1, parent := if z.parent = n then m else z.parent } else z
        let q := (({ q with nodes }).setNode n x').setNode m y
        (x.pages.drop keep).foldl (fun s t => s.setPage p.idx t { s.page p.idx t with owner := some (id, m) })
          (s.setSeq id q)

/-- A node is pruned: its generation rises and its references go; the count of pages freed (R299). -/
def State.pruneNode (s : State) (pool id n : Nat) : State × Nat :=
  match s.seqs.find? id with
  | none => (s, 0)
  | some q =>
    match q.node n with
    | none => (s, 0)
    | some x =>
      if x.state = 4 then (s, 0)
      else
        let gen := min 0xFFFF (x.gen + 1)
        let s := s.setSeq id (q.setNode n { x with state := 4, gen, pages := [] })
        ({ s with slotGen := s.slotGen.set (slotKey id n) gen }).dropRefs pool x.pages

/-- A subtree is pruned: nodes and pages (R299). -/
def State.pruneTree (s : State) (pool id n : Nat) : State × Nat × Nat :=
  match s.seqs.find? id with
  | none => (s, 0, 0)
  | some q =>
    let ns := (q.subtree n).filter fun k => ((q.node k).map Node.standing).getD false
    let r := ns.foldl (fun x k => let y := x.1.pruneNode pool id k; (y.1, x.2 + y.2)) (s, 0)
    let s := match (q.node n).map Node.parent with
      | some par =>
        match r.1.seqs.find? id with
        | none => r.1
        | some q =>
          match q.node par with
          | some y => r.1.setSeq id (q.setNode par { y with nchild := y.nchild - 1 })
          | none => r.1
      | none => r.1
    (s, ns.length, r.2)

end Sys2Proof.Machine
end

