-- ==== Sys2Proof/Machine/Matrix.lean ====
section
/-! DEFINITION. The matrix engine: slots and tiles, the MX instructions, and the array (R82, R264 to R283). -/

namespace Sys2Proof.Machine

/-! ## Formats (R265) -/

/-- Elements of a row, and elements of a step, of a slot format. -/
def krow (fmt : Nat) : Nat := [128, 128, 64, 64, 128, 192, 288].getD fmt 0
def kstep (fmt : Nat) : Nat := [4, 4, 2, 2, 4, 8, 16].getD fmt 1

/-- The values of a row of 144 bytes with its row scale (R265 to R267). -/
def rowValues (fmt : Nat) (bs : List Byte) (rs : Nat) : List Fl :=
  let half (f : Fmt) : List Fl := (List.range 64).map fun i => f.val (blkNat bs (2 * i) 2)
  let groups (m n g : Nat) : List Fl :=
    (List.range n).flatMap fun j => (List.range 16).map fun e => sdbElem m rs (blkNat bs (g * j) g) e
  match fmt with
  | 0 => (bs.take 128).map fun b => Fmt.e4m3.val b.toNat
  | 1 => (bs.take 128).map fun b => Fmt.e5m2.val b.toNat
  | 2 => half .bf16
  | 3 => half .f16
  | 4 => groups 7 8 18
  | 5 => groups 4 12 12
  | _ => groups 2 18 8

/-! ## The cell (R82) -/

/-- A finite value as a multiple of 2^k. -/
def Fl.at (a : Fl) (k : Int) : Int :=
  match a with
  | .fin n m e => scaled n m e k
  | _ => 0

/-- An exact product of two values that are not NaN, and no 0 × ∞. -/
def Fl.times (a b : Fl) : Fl :=
  match a, b with
  | .fin n1 m1 e1, .fin n2 m2 e2 => .fin (n1 != n2) (m1 * m2) (e1 + e2)
  | a, b => .inf (a.negative != b.negative)

/-- The exact sum of some values and some products, rounded once to f32 with RNE; a sum of zero has the sign that R77
gives its addends (R82, R309). R82 does not mark which NaN results count as invalid. The model's choice is that 0 × ∞
does beside a NaN too, and that infinities of both signs do where no NaN is among the operands (log 8). -/
def roundSum (lead : List Fl) (ps : List (Fl × Fl)) : FR :=
  let nanIn := lead.any Fl.isNan || ps.any fun p => p.1.isNan || p.2.isNan
  let zeroInf := ps.any fun p => (p.1.isZero && p.2.isInf) || (p.1.isInf && p.2.isZero)
  let ts := lead ++ (ps.filter fun p => !(p.1.isNan || p.2.isNan)).map fun p => p.1.times p.2
  let pos := ts.any (· = .inf false)
  let neg := ts.any (· = .inf true)
  if nanIn ∨ zeroInf ∨ (pos ∧ neg) then
    (Fmt.f32.nanBits, (if zeroInf || (!nanIn && pos && neg) then Ev.invalid else 0) ||| (if nanIn then 0 else Ev.nan))
  else if pos ∨ neg then (Fmt.f32.infinite neg, 0)
  else
    let k : Int := ts.foldl (fun k t => min k t.exp) 0
    let x : Int := ts.foldl (fun x t => x + t.at k) 0
    if x = 0 then Fmt.f32.zero (ts.all fun t => t.isZero && t.negative)
    else Fmt.f32.round 0 (x < 0) x.natAbs k

/-- CELL_ROUND of the accumulator plus a step's products (R82). -/
def cellStep (acc : Nat) (ps : List (Fl × Fl)) : FR := roundSum [Fmt.f32.val acc] ps

/-- A cell over its products, k at a step (R82): the accumulator, and at most one event of each class. -/
def cellRun (k : Nat) (acc : FR) (ps : List (Fl × Fl)) : Nat → FR
  | 0 => acc
  | f + 1 =>
    match ps with
    | [] => acc
    | _ =>
      let r := cellStep acc.1 (ps.take k)
      cellRun k (r.1, acc.2 ||| r.2) (ps.drop k) f

/-! ## The parameter block (R274, R275) -/

/-- The block's fields are within their limits (R274). -/
def mmaWell (b : List Byte) : Bool :=
  let mode := blkNat b 0 1
  let fmt := blkNat b 1 1
  let na := blkNat b 2 1
  decide (mode ≤ 1) && decide (fmt ≤ 6) && (if mode = 0 then decide (1 ≤ na ∧ na ≤ 8) else na = 4) &&
  blkNat b 3 1 = na && blkZero b (4 + na) (8 - na) && blkZero b (12 + na) (8 - na) &&
  blkNat b 20 4 = (if mode = 0 then na * krow fmt else krow fmt) &&
  decide (blkNat b 24 1 ≤ 31) && decide (blkNat b 25 1 ≤ 1) && decide (blkNat b 26 1 ≤ 15) && blkZero b 27 29 &&
  genWell (BitVec.ofNat 64 (blkNat b 56 8))

/-- The checks of an MMA block (R275): the cause of the first that fails. -/
def State.mmaFault (s : State) (off : Nat) (b : List Byte) : Option Nat :=
  let k := s.core s.cur.core
  let h := s.curLaunch.hdr
  let w := s.wg s.here.wg
  let n := blkNat b 2 1
  let names := ((List.range n).map fun i => blkNat b (4 + i) 1) ++ (List.range n).map fun i => blkNat b (12 + i) 1
  if off % 64 ≠ 0 then some Cause.alignment
  else if off + 64 > k.spadSize then some Cause.scratchRange
  else if !mmaWell b then some Cause.format
  else if blkNat b 24 1 ≥ h.tiles ∨
      names.any (fun n => decide (n ≥ h.slots) || (k.slots.get {} (w.slotBase + n)).claim != some (blkNat b 1 1)) then
    some Cause.slotState
  else none

/-! ## What the array computes -/

/-- The thread that issued an MMA. -/
def MmaJob.who (j : MmaJob) : Who := { wg := j.wg, grp := j.grp, lane := j.lane }

/-- An MFOP of its thread has put a write before an MMA (R164). -/
def SlotWrite.before (w : SlotWrite) (j : MmaJob) : Bool :=
  w.ordered.any fun o => o.1 = j.who && decide (o.2 < j.serial)

/-- The units that an MMA may read of a slot: the value now, and what the writes since the last one ordered before it
have replaced (R164, R282). -/
def Slot.choices (x : Slot) (unit : Nat) (j : MmaJob) : List Word :=
  let now : Word := if unit < 2304 then x.unitWord unit else zext 32 (x.scales.get 0x7F (unit - 2304))
  now :: (x.writes.foldl (fun ws w => if w.unit ≠ unit then ws else if w.before j then [] else ws ++ [w.old]) [])

/-- One unit as the array reads it: a free choice among what it may read (log 5). -/
def Slot.pick (x : Slot) (unit : Nat) (j : MmaJob) (free : Nat) : Word :=
  let cs := x.choices unit j
  cs.getD ((Config.freeWord (free + unit)).toNat % cs.length) 0

/-- The rows of a slot as the array reads them. -/
def Slot.rows (x : Slot) (fmt : Nat) (j : MmaJob) (free : Nat) : List (List Fl) :=
  (List.range 64).map fun r =>
    rowValues fmt ((List.range 36).flatMap fun i => leBytes 4 (x.pick (36 * r + i) j free).toNat)
      ((x.pick (2304 + r) j free).toNat % 256)

/-- The rows of every slot of a list of a full-mode block, one after another. -/
def chainRows (rs : List (List (List Fl))) : List (List Fl) :=
  (List.range 64).map fun r => rs.flatMap fun s => s.getD r []

/-- The tile after an MMA, element by element, with the events of each cell (R277, R278). -/
def State.mmaResult (s : State) (core : Nat) (j : MmaJob) : List FR :=
  let k := s.core core
  let fmt := blkNat j.blk 1 1
  let na := blkNat j.blk 2 1
  let slot (n : Nat) : List (List Fl) := (k.slots.get {} (j.slotBase + n)).rows fmt j (s.free + 4096 * n)
  let as := (List.range na).map fun i => slot (blkNat j.blk (4 + i) 1)
  let bs := (List.range na).map fun i => slot (blkNat j.blk (12 + i) 1)
  let start (r c : Nat) : FR := (if blkNat j.blk 25 1 = 1 then (k.tileWord j.tile r c).toNat else 0, 0)
  let cell (r c : Nat) (a b : List Fl) : FR := cellRun (kstep fmt) (start r c) (a.zip b) (a.length + 1)
  if blkNat j.blk 0 1 = 0 then
    let ar := chainRows as
    let br := chainRows bs
    ar.zipIdx.flatMap fun a => br.zipIdx.map fun b => cell a.2 b.2 a.1 b.1
  else
    (List.range 64).flatMap fun r => (List.range 64).map fun c =>
      let b := r / 16 * 4 + c / 16
      let h := 16 * (b % 4)
      cell r c (((as.getD (b / 4) []).getD (h + r % 16)) []) (((bs.getD (b / 4) []).getD (h + c % 16)) [])

/-- An operand of an MMA, or the tile that it adds to, holds poison (R371). -/
def State.mmaPoisoned (s : State) (core : Nat) (j : MmaJob) : Bool :=
  let k := s.core core
  let operand (i : Nat) : Bool := !(k.slots.get {} (j.slotBase + blkNat j.blk i 1)).poison.isEmpty
  (List.range (blkNat j.blk 2 1)).any (fun i => operand (4 + i) || operand (12 + i)) ||
    (blkNat j.blk 25 1 = 1 && (List.range 64).any (k.tilePoisoned j.tile))

/-! ## The array -/

/-- A product enters the matrix queue: its group's tag rises (R276, R280). -/
def State.enterMma (s : State) (core : Nat) (j : MmaJob) : State :=
  let tag := blkNat j.blk 26 1
  let s := s.modWg j.wg fun x => { x with unseen := (blkNat j.blk 24 1, j.grp, tag) :: x.unseen }
  (s.modCore core fun k => { k with mq := k.mq.map fun x => if x.serial = j.serial then { x with entered := true } else x
    }).landGroup j.wg j.grp fun g => g.tagStart 1 tag

/-- Products in the matrix queue: they have entered it and have not started (R276). -/
def Core.mmaQueued (k : Core) : Nat := (k.mq.filter fun j => j.entered && !j.started).length

/-- The threads of units whose products have all entered the queue go on (R276). -/
def State.freeMmaWaits (s : State) (core : Nat) : State :=
  let more (g : Group) : Bool := (s.core core).mq.any fun j => !j.entered && j.wg = g.wg && j.grp = g.index
  let free (g : Group) : Group :=
    { g with lanes := g.lanes.mapVals fun _ t => { t with waits := t.waits.filter fun w => w.kind ≠ .mmaq } }
  let waits (g : Group) : Bool := g.lanes.any fun t => t.2.waits.any fun w => w.kind = .mmaq
  s.modCore core fun k => { k with groups := k.groups.mapVals fun _ g => if g.present && waits g && !more g then free g else g }

/-- Products enter the queue in the order of their lanes while it has room for them (R30, R276). -/
def State.admitMma (s : State) (core : Nat) : State :=
  let room := 16 - (s.core core).mmaQueued
  let next := ((s.core core).mq.filter fun j => !j.entered).take room
  (next.foldl (fun s j => s.enterMma core j) s).freeMmaWaits core

/-- The array retires or finishes an MMA: the tag of the group that issued it falls, and what waited for it goes on
(R279, R280). -/
def State.mmaEnd (s : State) (core : Nat) (j : MmaJob) (code : Nat) : State :=
  let tag := blkNat j.blk 26 1
  let waits (s : State) : Bool := (s.wgGroups j.wg).any fun g => g.1 = j.grp && g.2.lanes.any fun t =>
    t.2.waits.any fun w => (w.kind.onTag 1).map Prod.fst = some tag
  let t := (s.modCore core fun k => { k with mq := k.mq.filter fun x => x.serial ≠ j.serial }).landGroup j.wg j.grp
    fun g => g.tagEnd 1 tag code
  let t := if waits s && !waits t then
      t.modWg j.wg fun w => { w with unseen := w.unseen.filter fun u => !(u.2.1 = j.grp && u.2.2 = tag) }
    else t
  let t := (((t.admitMma core).settleSlots core j.wg).stamp core)
  if (t.wg j.wg).st = .running then t.settle core ((t.wg j.wg).places.getD j.grp 0) else t

/-- MMA_START: the first queued MMA starts, when no other has started within its own interval of K/k clocks; one whose
generation is stale is retired (R276, R281). -/
def State.mmaStart (s : State) (core : Nat) : State :=
  let mq := (s.core core).mq
  let soon (j : MmaJob) : Bool :=
    j.started && decide (s.clock < j.startedAt + blkNat j.blk 20 4 / kstep (blkNat j.blk 1 1))
  match mq.find? fun j => !j.started with
  | none => s
  | some j =>
    if !j.entered || mq.any soon then s
    else if s.genStale (BitVec.ofNat 64 (blkNat j.blk 56 8)) then s.mmaEnd core j 5
    else (s.modCore core fun k => { k with mq := k.mq.map fun x =>
      if x.serial = j.serial then { x with started := true, startedAt := s.clock } else x }).admitMma core

/-- MMA_COMPLETE: the running MMA writes its tile, counts its events and ends (R277 to R280); one that reads poison writes
nothing and ends with code 1 (R371). -/
def State.mmaComplete (s : State) (core : Nat) : State :=
  match (s.core core).mq with
  | [] => s
  | j :: _ =>
    if !j.started then s
    else if s.mmaPoisoned core j then s.mmaEnd core j 1
    else
      let r := s.mmaResult core j
      let s := s.modCore core fun k =>
        { k with tiles := k.tiles.set j.tile (r.zipIdx.map fun x => (x.2, BitVec.ofNat 32 x.1.1)) }
      let s := { s with free := s.free + 4096 * 64 }
      let s := if j.spoiled then s.tileUndefined core j.tile else s
      let s := s.countAway core { wg := j.wg, grp := j.grp, lane := j.lane, word := j.word, unit := j.unit, issued := j.issued }
        (r.map Prod.snd)
      s.mmaEnd core j 0

/-- MMA_START (R276, R281). -/
def execMmaStart (core : Nat) (s : State) : Out := .next (s.mmaStart core)

/-- MMA_COMPLETE (R279, R280). -/
def execMmaComplete (core : Nat) (s : State) : Out := .next (s.mmaComplete core)

/-! ## Claims (R271) -/

/-- A slot of the workgroup, as the core numbers it; none when it is outside the allocation (R264). -/
def State.slotName (s : State) (n : Nat) : Option Nat :=
  if n < s.curLaunch.hdr.slots then some ((s.wg s.here.wg).slotBase + n) else none

/-- A tile of the workgroup, as the core numbers it (R264). -/
def State.tileName (s : State) (n : Nat) : Option Nat :=
  if n < s.curLaunch.hdr.tiles then some ((s.wg s.here.wg).tileBase + n) else none

/-- The core's slot changed. -/
def State.modSlot (s : State) (core n : Nat) (f : Slot → Slot) : State :=
  s.modCore core fun k => { k with slots := k.slots.set n (f (k.slots.get {} n)) }

/-- OSCLM (R271). -/
def execOsclm (c : Bool) (n : BitVec 6) (f : BitVec 4) (s : State) : Out :=
  endUnit c (s.each fun s l =>
    match s.slotName n.toNat with
    | none => s.raise l Cause.slotState 0
    | some k =>
      if ((s.core s.cur.core).slots.get {} k).claim.isSome then s.raise l Cause.slotState 0
      else s.modSlot s.cur.core k fun x => { x with claim := some f.toNat })

/-- OSREL (R271). -/
def execOsrel (c : Bool) (n : BitVec 6) (s : State) : Out :=
  endUnit c (s.each fun s l =>
    match s.slotName n.toNat with
    | none => s.raise l Cause.slotState 0
    | some k =>
      let x := (s.core s.cur.core).slots.get {} k
      if x.claim.isNone then s.raise l Cause.slotState 0
      else if x.releasing.isSome then s
      else ((s.modSlot s.cur.core k fun x => { x with releasing := some s.nextId }).fresh).settleSlots s.cur.core s.here.wg)

/-! ## Rows (R270, R272, R273) -/

/-- The fields of a place word. -/
structure PlaceWord where
  part : Nat
  num : Nat
  row : Nat
  deriving DecidableEq, Repr

/-- A place word, checked for slots or for tiles (R270). -/
def placeWord (tile : Bool) (w : Dword) : Option PlaceWord :=
  let p : PlaceWord := { part := bitsNat w 17 16, num := bitsNat w 13 8, row := bitsNat w 5 0 }
  if bitsNat w 63 18 ≠ 0 ∨ bitsNat w 15 14 ≠ 0 ∨ bitsNat w 7 6 ≠ 0 ∨ p.part = 3 ∨
      (tile ∧ (p.part ≠ 0 ∨ p.num ≥ 32)) then none
  else some p

/-- Each lane of E acts on a claimed slot's row (R270, R272). -/
def State.onSlot (s : State) (b : BitVec 5) (f : State → Nat → PlaceWord → Nat → State) : State :=
  s.each fun s l =>
    match placeWord false (s.sr b) with
    | none => s.raise l Cause.format (s.sr b)
    | some p =>
      match s.slotName p.num with
      | none => s.raise l Cause.slotState 0
      | some k => if ((s.core s.cur.core).slots.get {} k).claim.isNone then s.raise l Cause.slotState 0 else f s l p k

/-- Each lane of E acts on a tile's row (R270, R273). -/
def State.onTile (s : State) (b : BitVec 5) (f : State → Nat → PlaceWord → Nat → State) : State :=
  s.each fun s l =>
    match placeWord true (s.sr b) with
    | none => s.raise l Cause.format (s.sr b)
    | some p =>
      match s.tileName p.num with
      | none => s.raise l Cause.slotState 0
      | some k => f s l p k

/-- The offset in a slot of a lane's 4 bytes of a row, for parts 0 and 1 (R272). -/
def PlaceWord.offset (p : PlaceWord) (l : Nat) : Option Nat :=
  if p.part = 0 then some (144 * p.row + 4 * l)
  else if p.part = 1 ∧ l < 4 then some (144 * p.row + 128 + 4 * l)
  else none

/-- OSST (R272). -/
def execOsst (c : Bool) (a : BitVec 7) (b : BitVec 5) (s : State) : Out :=
  endUnit c (s.onSlot b fun s l p k =>
    let who : SlotWriter := .thread (s.who s.cur.core s.cur.place l)
    match p.offset l with
    | some o => s.modSlot s.cur.core k fun x => x.store o (leBytes 4 (s.v l a).toNat) who
    | none =>
      if p.part = 2 ∧ l = 0 then s.modSlot s.cur.core k fun x => x.storeScale p.row ((s.v l a).setWidth 8) who
      else s)

/-- OSLD (R272). -/
def execOsld (c : Bool) (a : BitVec 7) (b : BitVec 5) (s : State) : Out :=
  endUnit c (s.onSlot b fun s l p k =>
    let x := (s.core s.cur.core).slots.get {} k
    let v : Word := match p.offset l with
      | some o => x.unitWord (o / 4)
      | none => if p.part = 2 ∧ l = 0 then zext 32 (x.scales.get 0x7F p.row) else 0
    if x.poison.contains p.row then s.raise l Cause.fatalMemory 0 else s.onHere fun g => g.wv l a.toNat v)

/-- ACZ (R273, R282). -/
def execAcz (c : Bool) (n : BitVec 5) (s : State) : Out :=
  endUnit c (s.each fun s l =>
    match s.tileName n.toNat with
    | none => s.raise l Cause.slotState 0
    | some k =>
      ((s.modCore s.cur.core fun x => { x with tiles := x.tiles.erase k }).spoilTile s.cur.core k).spoilPacks
        s.cur.core k fun _ _ => true)

/-- ACLD (R273, R282). -/
def execAcld (c : Bool) (a : BitVec 7) (b : BitVec 5) (s : State) : Out :=
  endUnit c (s.onTile b fun s l p k =>
    let core := s.cur.core
    ((s.modCore core fun x =>
      (x.setTileWord k p.row (2 * l) (s.v l a)).setTileWord k p.row (2 * l + 1) (s.v l (a + 1))).spoilTile
        core k).spoilPacks core k fun r n => r = p.row && n / 2 = l)

/-- A lane's read of a pair of columns waits for its data (R273). -/
def State.issueTileRead (s : State) (l d : Nat) (lo hi : Word) : State :=
  s.pushLoad { id := s.nextId, place := s.cur.place, lane := l, dest := .tile d lo hi, size := 8, spad := true, asid := s.asid,
               serial := s.nextId, issued := s.clock, word := s.curWord, unit := s.unitAddr, res := s.chainRes }

/-- ACST reads the tile as it issues, and its pair is written when the data arrives; between an MMA and its MWAIT the
values are undefined (R273, R282). -/
def execAcst (c : Bool) (a : BitVec 7) (b : BitVec 5) (s : State) : Out :=
  endUnit c (s.onTile b fun s l p k =>
    let core := s.cur.core
    if (s.core core).tilePoisoned k p.row then s.raise l Cause.fatalMemory 0
    else if s.tileWatched core k then
      ((s.issueTileRead l a.toNat (Config.freeWord s.free) (Config.freeWord (s.free + 1))).draw).draw
    else
      let x := s.core core
      s.issueTileRead l a.toNat (x.tileWord k p.row (2 * l)) (x.tileWord k p.row (2 * l + 1)))

/-! ## MMA and its tags (R274 to R280) -/

/-- A lane's MMA: checked, then put behind those of the lower lanes (R30, R241, R275). -/
def State.issueMma (s : State) (l off : Nat) : State :=
  let core := s.cur.core
  let b := s.spadSeen core s.cur.place l off 64
  if s.flushed l then s.raise l Cause.detViolation 0
  else if off % 64 = 0 ∧ off + 64 ≤ (s.core core).spadSize ∧ (s.core core).spadPoisoned off 64 then
    s.raise l Cause.fatalMemory (BitVec.ofNat 64 off)
  else match s.mmaFault off b with
  | some cause => s.raise l cause (BitVec.ofNat 64 off)
  | none =>
    let w := s.here.wg
    let j : MmaJob := { place := s.cur.place, lane := l, wg := w, blk := b, slotBase := (s.wg w).slotBase,
                        tileBase := (s.wg w).tileBase, word := s.curWord, unit := s.unitAddr, serial := s.nextId,
                        grp := s.here.index, issued := s.clock, entered := false }
    (s.modCore core fun k => { k with mq := k.mq ++ [j] }).fresh

/-- MMA: the products of the unit enter the matrix queue in ascending lane order; while it has no room for all of them
the threads of the unit wait (R30, R274 to R276). -/
def execMma (c : Bool) (a : BitVec 5) (s : State) : Out :=
  let s' := (s.each fun s l => s.issueMma l (s.sr a).toNat).admitMma s.cur.core
  endUnit c (if (s'.core s.cur.core).mq.all MmaJob.entered then s' else s'.each fun s l => s.wait l .mmaq)

/-- MWAIT: waits for the tag, and then its tiles' values are those of its MMAs (R280, R282). -/
def execMwait (c : Bool) (t : BitVec 4) (p : BitVec 3) (s : State) : Out :=
  let s' := s.waitTag 1 t.toNat p.toNat (.mwait t.toNat p.toNat)
  endUnit c (s'.once fun s =>
    if (s.here.tag 1 t.toNat).count = 0 then
      s.modWg s.here.wg fun w =>
        { w with unseen := w.unseen.filter fun u => !(u.2.1 = s.here.index && u.2.2 = t.toNat) }
    else s)

/-- MSTAT (R280). -/
def execMstat (c : Bool) (a : BitVec 5) (t : BitVec 4) (s : State) : Out :=
  let q := (s.core s.cur.core).mmaQueued
  let x := s.here.tag 1 t.toNat
  endUnit c ((s.sset a.toNat (x.word + BitVec.ofNat 64 (q * 2 ^ 24))).once fun s =>
    s.onHere fun g => g.modTag 1 t.toNat Tag.clear)

end Sys2Proof.Machine
end

