-- ==== Sys2Proof/Machine/Tree.lean ====
section
/-! DEFINITION. The TT instructions (R289 to R311), their arrival at Badger and their completion, the prefix
directory (R307 to R309), and KVCP (R176). -/

namespace Sys2Proof.Machine

/-! ## The parameter block (R290, R292) -/

def EngOp.seqId (o : EngOp) : Nat := blkNat o.blk 0 4
def EngOp.nodeId (o : EngOp) : Nat := blkNat o.blk 4 2
def EngOp.gen (o : EngOp) : Dword := o.word64 56
/-- FLAGS[1] of a TT block. -/
def EngOp.flag1 (o : EngOp) : Bool := blkNat o.blk 6 1 / 2 % 2 = 1

/-- Members that have FLAGS[1] (R292). -/
def ttFlagged (sub : Nat) : Bool := [2, 4, 6, 9, 12].contains sub

/-- The bytes of a member's fields that must be zero: offset and length (R292). -/
def ttZero (sub : Nat) : List (Nat × Nat) :=
  match sub with
  | 0 => [(10, 2), (20, 28)]
  | 2 => [(9, 3), (16, 32)]
  | 3 => [(12, 36)]
  | 4 => [(24, 24)]
  | 8 => [(15, 33)]
  | 9 => [(20, 1), (38, 10)]
  | 10 => [(13, 3), (22, 2), (28, 20)]
  | 11 => [(20, 28)]
  | 12 => [(24, 24)]
  | 13 => [(23, 1), (32, 16)]
  | 14 => [(13, 35)]
  | _ => [(8, 40)]

/-- The common fields are within their limits (R290). -/
def ttCommon (sub : Nat) (b : List Byte) : Bool :=
  let gen := BitVec.ofNat 64 (blkNat b 56 8)
  let res := blkNat b 48 4
  decide (blkNat b 0 4 ≤ 65535) && (!(sub = 0 || sub = 13) || blkZero b 0 4) && decide (blkNat b 4 2 ≤ 1023) &&
  decide (blkNat b 6 1 ≤ if ttFlagged sub then 3 else 1) && blkZero b 7 1 && blkZero b 52 4 &&
  (res = 0xFFFFFFFF || res % 16 = 0) && genWell gen &&
  (!gen.getLsbD 63 || (bitsNat gen 25 16 = blkNat b 4 2 && bitsNat gen 15 0 = blkNat b 0 4)) &&
  (ttZero sub).all fun z => blkZero b z.1 z.2

/-- The member's own fields are within the limits that the block alone decides (R290, R292). -/
def ttFields (sub : Nat) (b : List Byte) : Bool :=
  let nq := decide (1 ≤ blkNat b 12 1 ∧ blkNat b 12 1 ≤ 64) && decide (blkNat b 8 4 % 8 = 0)
  match sub with
  | 0 => decide (blkNat b 9 1 ≤ 1)
  | 2 => decide (1 ≤ blkNat b 8 1 ∧ blkNat b 8 1 ≤ 5)
  | 3 => decide (1 ≤ blkNat b 8 4 ∧ blkNat b 8 4 ≤ 65536)
  | 4 => decide (1 ≤ blkNat b 14 1 ∧ blkNat b 15 1 ≤ 1 ∧ blkNat b 16 8 % 4 = 0)
  | 8 => decide (blkNat b 14 1 ≤ 1)
  | 9 => nq && decide (blkNat b 15 1 ≤ 1 ∧ blkNat b 21 1 ≤ 63 ∧ blkNat b 22 2 % 16 = 0)
  | 10 => nq && decide (blkNat b 20 1 ≤ 1 ∧ (blkNat b 20 1 = 0 → blkNat b 24 4 % 16 = 0))
  | 13 => decide (1 ≤ blkNat b 20 1 ∧ blkNat b 20 1 ≤ 64)
  | 14 => decide (1 ≤ blkNat b 12 1)
  | _ => true

/-- The slot format of a pool (R305). -/
def poolSlot (fmt : Nat) : Nat := [2, 0, 4, 5].getD fmt 2

/-- The checks of a KVGATH's slot at issue (R305): its claim, and the sizes that its format limits. -/
def gathSlotFault (slots : Nat) (claim : Nat → Option Nat) (pool : Option Nat) (b : List Byte) : Option Nat :=
  let slot := blkNat b 21 1
  if slot ≥ slots then some Cause.slotState
  else match claim slot with
    | none => some Cause.slotState
    | some f =>
      let nch := blkNat b 24 2
      let nkey := blkNat b 26 2
      let good := if blkNat b 15 1 = 0 then decide (1 ≤ nkey ∧ nkey ≤ 64 ∧ nch ≤ krow f)
        else decide (1 ≤ nch ∧ nch ≤ 64 ∧ nkey ≤ krow f)
      if (pool.map poolSlot).getD f ≠ f then some Cause.slotState
      else if !good then some Cause.format
      else none

/-- The checks of a TT block at issue (R290). -/
def State.ttFault (s : State) (sub : Nat) (b : List Byte) : Option Nat :=
  let k := s.core s.cur.core
  let h := s.curLaunch.hdr
  let base := (s.wg s.here.wg).slotBase
  let size := k.spadSize
  let res := blkNat b 48 4
  if !ttCommon sub b ∨ !ttFields sub b then some Cause.format
  else if (res ≠ 0xFFFFFFFF ∧ res + 16 > size) ∨
      ((sub = 9 ∨ sub = 10) ∧ blkNat b 8 4 + 8 * blkNat b 12 1 > size) ∨
      (sub = 10 ∧ blkNat b 20 1 = 0 ∧ blkNat b 24 4 + 512 > size) then some Cause.scratchRange
  else if sub = 4 ∧ blkNat b 6 1 / 2 = 0 ∧ badPointer (blkNat b 16 8) then some Cause.noncanonical
  else if sub = 10 ∧ blkNat b 20 1 = 1 ∧ blkNat b 21 1 ≥ h.tiles then some Cause.slotState
  else if sub = 9 then
    gathSlotFault h.slots (fun n => (k.slots.get {} (base + n)).claim)
      (((s.seqs.find? (blkNat b 0 4)).bind fun q => s.pool q.pool).map Pool.fmt) b
  else none

/-- A lane's TT command issues. -/
def State.issueTt (s : State) (sub : Nat) (a b : BitVec 5) : State :=
  s.issueBlocks (.tt sub) a b (s.ttFault sub)

/-- SEQNEW (R294). -/
def execSeqnew (c : Bool) (a b : BitVec 5) (s : State) : Out := endUnit c (s.issueTt 0 a b)
/-- SEQFREE (R294). -/
def execSeqfree (c : Bool) (a b : BitVec 5) (s : State) : Out := endUnit c (s.issueTt 1 a b)
/-- TFORK (R295). -/
def execTfork (c : Bool) (a b : BitVec 5) (s : State) : Out := endUnit c (s.issueTt 2 a b)
/-- TAPP (R296). -/
def execTapp (c : Bool) (a b : BitVec 5) (s : State) : Out := endUnit c (s.issueTt 3 a b)
/-- KVWR (R297). -/
def execKvwr (c : Bool) (a b : BitVec 5) (s : State) : Out := endUnit c (s.issueTt 4 a b)
/-- TPRUNE (R299). -/
def execTprune (c : Bool) (a b : BitVec 5) (s : State) : Out := endUnit c (s.issueTt 5 a b)
/-- TCOMMIT (R300). -/
def execTcommit (c : Bool) (a b : BitVec 5) (s : State) : Out := endUnit c (s.issueTt 6 a b)
/-- TQRY (R302). -/
def execTqry (c : Bool) (a b : BitVec 5) (s : State) : Out := endUnit c (s.issueTt 7 a b)
/-- TWALK (R302). -/
def execTwalk (c : Bool) (a b : BitVec 5) (s : State) : Out := endUnit c (s.issueTt 8 a b)
/-- KVGATH (R305). -/
def execKvgath (c : Bool) (a b : BitVec 5) (s : State) : Out := endUnit c (s.issueTt 9 a b)
/-- TMASK (R306). -/
def execTmask (c : Bool) (a b : BitVec 5) (s : State) : Out := endUnit c (s.issueTt 10 a b)
/-- PFXQ (R308). -/
def execPfxq (c : Bool) (a b : BitVec 5) (s : State) : Out := endUnit c (s.issueTt 11 a b)
/-- PFXPUB (R308). -/
def execPfxpub (c : Bool) (a b : BitVec 5) (s : State) : Out := endUnit c (s.issueTt 12 a b)
/-- PFXATT (R309). -/
def execPfxatt (c : Bool) (a b : BitVec 5) (s : State) : Out := endUnit c (s.issueTt 13 a b)
/-- KVRESC (R298). -/
def execKvresc (c : Bool) (a b : BitVec 5) (s : State) : Out := endUnit c (s.issueTt 14 a b)

/-! ## Members that change the tree -/

/-- A failure without an access. -/
def TtRes.no (reason : Nat) : TtRes := .fail reason 0

/-- What follows an access that may stop. -/
def thenTt {α : Type} (r : State × Except Stop α) (f : State → α → TtRes) : TtRes :=
  match r with
  | (s, .ok x) => f s x
  | (_, .error st) => .ofStop st

/-- The pages of a windowed sequence's sink and ring are allocated (R294). -/
def State.ringPages (die : Nat) (p : Pool) (id : Nat) : Nat → State → List Nat → State × Except Stop (Option (List Nat))
  | 0, s, acc => (s, .ok (some acc))
  | f + 1, s, acc =>
    match s.allocPage die p (id, 0) with
    | (s, .ok (some n)) => State.ringPages die p id f s (acc ++ [n])
    | (s, .ok none) => (s, .ok none)
    | (s, .error st) => (s, .error st)

/-- SEQNEW is applied (R294). -/
def State.applySeqnew (s : State) (o : EngOp) : TtRes :=
  let sink := blkNat o.blk 12 4
  let win := blkNat o.blk 16 4
  let windowed := blkNat o.blk 9 1 = 1
  match s.pool (blkNat o.blk 8 1) with
  | none => .no 8
  | some p =>
    if windowed ∧ (sink % p.P ≠ 0 ∨ sink > 65536 ∨ win % p.P ≠ 0 ∨ win < p.P ∨ win > 1048576) then .no 12
    else match s.freeSeq with
      | none => .no 6
      | some id =>
        -- a root slot whose generation has run out makes the table full for this id
        if s.slotGen.get 0 (slotKey id 0) ≥ 0xFFFF then .no 6
        else
          let n := if windowed then (sink + win) / p.P else 0
          thenTt (State.ringPages (dieOf o.core) p id n s []) fun s ps =>
            match ps with
            | none => .no 4
            | some ring =>
              let g := s.newGen id 0
              let q : Seq := { pool := p.idx, windowed, sink := if windowed then sink else 0,
                               window := if windowed then win else 0, nodes := [(0, { state := 1, gen := g.2 })], ring }
              .ok (g.1.setSeq id q) (leBytes 4 id) []

/-- SEQFREE is applied: every node is pruned; the rest goes when the command completes (R294, R299). -/
def State.applySeqfree (s : State) (o : EngOp) (q : Seq) : TtRes :=
  .ok (s.pruneTree q.pool o.seqId 0).1 [] []

/-- TFORK is applied (R295). -/
def State.applyTfork (s : State) (o : EngOp) (q : Seq) (p : Pool) : TtRes :=
  let id := o.seqId
  let n := o.nodeId
  let split := o.flag1
  let at_ := blkNat o.blk 12 4
  match q.node n with
  | none => .no 2
  | some x =>
    let below := (q.subtree n).filter (· ≠ n)
    let deep := (x.depth :: if split then below.filterMap fun k => (q.node k).map Node.depth else []).foldl max 0
    let free := s.freeNodes id q
    let need := blkNat o.blk 8 1 + split.toNat
    if !x.standing ∨ (split ∧ q.windowed ∧ n = 0) then .no 2
    else if split ∧ !(x.first < at_ ∧ at_ < x.first + x.count) then .no 3
    else if deep + 1 > 255 then .no 5
    else if free.length < need then .no 6
    else
      let m := free.getD 0 0
      let kids := (if split then free.drop 1 else free).take (blkNat o.blk 8 1)
      match if split then s.splitNode p id n m at_ else some s with
      | none => .no 7
      | some s =>
        match State.makeChildren p id n kids s with
        | none => .no 7
        | some s =>
          let ids := (List.range 5).flatMap fun i => leBytes 2 (kids.getD i 0xFFFF)
          .ok s (leBytes 2 (if split then m else 0xFFFF) ++ ids) []

/-- TAPP is applied (R296). -/
def State.applyTapp (s : State) (o : EngOp) (q : Seq) (p : Pool) : TtRes :=
  match q.node o.nodeId with
  | none => .no 1
  | some x =>
    let k := blkNat o.blk 8 4
    if !x.appends then .no 2
    else thenTt (s.append (dieOf o.core) p o.seqId o.nodeId k) fun s r =>
      match r with
      | none => .no 4
      | some copied => .ok s (leBytes 4 (x.first + x.count) ++ leBytes 4 (x.count + k) ++ leBytes 1 copied.toNat) []

/-- The page of a position for a writer: shared pages are copied first (R296, R297); reason 4 without a page. -/
def State.ownPage (s : State) (o : EngOp) (q : Seq) (p : Pool) (n : Nat) (x : Node) (pos : Nat)
    (f : State → Nat → Bool → TtRes) : TtRes :=
  match q.pageOf p.P n x pos with
  | none => .no 3
  | some page =>
    if q.windowed ∧ n = 0 then f s page false
    else match s.cow (dieOf o.core) p o.seqId n (pos / p.P - x.first / p.P) page with
      | (s, .page page copied) => f s page copied
      | (_, .noPage) => .no 4
      | (_, .stop st) => .ofStop st

/-- The rows of a KVWR, head after head: the rise of the scale and the events add up (R297). -/
def State.kvRows (die : Nat) (p : Pool) (page layer part slot : Nat) :
    List (Nat × List Fl) → State → Nat → List Ev → State × Except Stop (Nat × List Ev)
  | [], s, d, es => (s, .ok (d, es))
  | (h, xs) :: rs, s, d, es =>
    match s.kvRow die p page (p.rowOff layer h part slot) xs with
    | (s, .ok r) => State.kvRows die p page layer part slot rs s (d + r.2) (es ++ r.1)
    | (s, .error st) => (s, .error st)

/-- KVWR is applied (R297). A position that a split has moved to another node is told before the node's state (R295). -/
def State.applyKvwr (s : State) (o : EngOp) (q : Seq) (p : Pool) : TtRes :=
  let n := o.nodeId
  let pos := blkNat o.blk 8 4
  let layer := blkNat o.blk 12 1
  let head0 := blkNat o.blk 13 1
  let nhead := blkNat o.blk 14 1
  let part := blkNat o.blk 15 1
  let bytes := 4 * nhead * p.DH
  match q.node n with
  | none => .no 1
  | some x =>
    if !x.standing then .no 2
    else if !x.has pos then .no 3
    else if !x.appends then .no 2
    else if layer ≥ p.L ∨ head0 + nhead > p.H ∨ (o.flag1 ∧ blkNat o.blk 16 8 + bytes > (s.core o.core).spadSize) then
      .no 12
    else if !q.current n pos then .no 9
    else thenTt (s.engFrom o o.flag1 (o.word64 16) bytes 0) fun s src =>
      s.ownPage o q p n x pos fun s page copied =>
        let rows := (List.range nhead).map fun i =>
          (head0 + i, (List.range p.DH).map fun e => Fmt.f32.val (blkNat src (4 * (i * p.DH + e)) 4))
        thenTt (State.kvRows (dieOf o.core) p page layer part (q.slotOf p.P n pos) rows s 0 []) fun s r =>
          .ok s (leBytes 1 r.1 ++ leBytes 1 copied.toNat ++ leBytes 1 ((s.page p.idx page).scale.getD 0)) r.2

/-- KVRESC is applied (R298). -/
def State.applyKvresc (s : State) (o : EngOp) (q : Seq) (p : Pool) : TtRes :=
  let n := o.nodeId
  let pos := blkNat o.blk 8 4
  let delta := blkNat o.blk 12 1
  match q.node n with
  | none => .no 1
  | some x =>
    if !x.standing then .no 2
    else if !p.n then .no 8
    else if !x.has pos then .no 3
    else if !q.current n pos then .no 9
    else match (q.pageOf p.P n x pos).bind fun g => (s.page p.idx g).scale with
      | none => .no 3
      | some sc =>
        if sc + delta > 254 then .no 12
        else s.ownPage o q p n x pos fun s page copied =>
          thenTt (s.rescalePage (dieOf o.core) p page delta) fun s es =>
            .ok s (leBytes 1 (sc + delta) ++ leBytes 1 copied.toNat) es

/-- TPRUNE is applied (R299). -/
def State.applyTprune (s : State) (o : EngOp) (q : Seq) : TtRes :=
  match q.node o.nodeId with
  | none => .no 1
  | some x =>
    if o.nodeId = 0 ∨ !x.standing then .no 2
    else
      let r := s.pruneTree q.pool o.seqId o.nodeId
      .ok r.1 (leBytes 4 r.2.1 ++ leBytes 4 r.2.2) []

/-- Several subtrees are pruned: the count of nodes. -/
def State.pruneAll (s : State) (pool id : Nat) (ns : List Nat) : State × Nat :=
  ns.foldl (fun x n => let r := x.1.pruneTree pool id n; (r.1, x.2 + r.2.1)) (s, 0)

/-- A row of one page becomes a row of another at the other's scale; the destination takes the source's scale when it
has none, and is rescaled when the source's is larger (R301, log 27). -/
def State.moveRow (s : State) (die : Nat) (p : Pool) (src srcOff dst dstOff : Nat) : State × Except Stop (List Ev) :=
  match s.pageRead die p src srcOff p.rb with
  | (s, .error st) => (s, .error st)
  | (s, .ok bs) =>
    if !p.n then
      match s.pageWrite die p dst dstOff bs with
      | (s, .error st) => (s, .error st)
      | (s, .ok _) => (s, .ok [])
    else
      match (s.page p.idx src).scale with
      | none =>
        match s.pageWrite die p dst dstOff bs with
        | (s, .error st) => (s, .error st)
        | (s, .ok _) => (s, .ok [])
      | some a =>
        let y := s.page p.idx dst
        let s := if y.scale.isNone then s.setPage p.idx dst { y with scale := some a } else s
        let b := y.scale.getD a
        match s.rescalePage die p dst (a - b) with
        | (s, .error st) => (s, .error st)
        | (s, .ok es) =>
          let r := if a < b then
              rescaleBlocks (b - a) ((List.range (p.rb / 64)).map fun i => (bs.drop (64 * i)).take 64)
            else (bs, [])
          match s.pageWrite die p dst dstOff r.1 with
          | (s, .error st) => (s, .error st)
          | (s, .ok _) => (s, .ok (es ++ r.2))

/-- Every row of a position moves from a page's slot to another's. -/
def State.moveToken (die : Nat) (p : Pool) (src srcSlot dst dstSlot : Nat) :
    List (Nat × Nat × Nat) → State → List Ev → State × Except Stop (List Ev)
  | [], s, es => (s, .ok es)
  | (l, h, part) :: rs, s, es =>
    match s.moveRow die p src (p.rowOff l h part srcSlot) dst (p.rowOff l h part dstSlot) with
    | (s, .error st) => (s, .error st)
    | (s, .ok e) => State.moveToken die p src srcSlot dst dstSlot rs s (es ++ e)

/-- The layers, heads and parts of a pool in the order of their rows. -/
def Pool.lanes (p : Pool) : List (Nat × Nat × Nat) :=
  (List.range p.L).flatMap fun l => (List.range p.H).flatMap fun h => [(l, h, 0), (l, h, 1)]

/-- The tokens of a path below the root are appended to the root of a windowed sequence (R301). -/
def State.commitTokens (o : EngOp) (p : Pool) : List (Nat × Nat) → State → List Ev → State × Except Stop (List Ev)
  | [], s, es => (s, .ok es)
  | (n, pos) :: ts, s, es =>
    match s.seqs.find? o.seqId with
    | none => (s, .ok es)
    | some q =>
      match q.node n, q.node 0 with
      | some x, some r =>
        let src := q.pageOf p.P n x pos
        let slot := q.slotOf p.P n pos
        match s.append (dieOf o.core) p o.seqId 0 1 with
        | (s, .error st) => (s, .error st)
        | (s, .ok _) =>
          match src, q.pageOf p.P 0 r (r.first + r.count) with
          | some src, some dst =>
            match State.moveToken (dieOf o.core) p src slot dst (q.slotOf p.P 0 (r.first + r.count)) p.lanes s es with
            | (s, .error st) => (s, .error st)
            | (s, .ok es) => State.commitTokens o p ts s es
          | _, _ => State.commitTokens o p ts s es
      | _, _ => (s, .ok es)

/-- TCOMMIT is applied (R300, R301). -/
def State.applyTcommit (s : State) (o : EngOp) (q : Seq) (p : Pool) : TtRes :=
  let id := o.seqId
  match q.node o.nodeId with
  | none => .no 1
  | some x =>
    if !x.standing then .no 2
    else
      let path := q.chain o.nodeId 256
      if q.windowed then
        let tokens := (path.filter (· ≠ 0)).reverse.flatMap fun n =>
          match q.node n with
          | some y => (List.range y.count).map fun i => (n, y.first + i)
          | none => []
        thenTt (State.commitTokens o p tokens s []) fun s es =>
          let kids := q.nodes.filterMap fun y => if y.2.parent = 0 ∧ y.2.standing then some y.1 else none
          let r := s.pruneAll p.idx id kids
          match (r.1.seqs.find? id).bind fun q => (q.node 0).map fun y => (q, y) with
          | none => .ok r.1 (leBytes 4 r.2) es
          | some (q, y) => .ok (r.1.setSeq id (q.setNode 0 { y with state := 1 })) (leBytes 4 r.2) es
      else
        let nodes := q.nodes.mapVals fun n y => if path.contains n then { y with state := 3 } else y
        let sibs := if o.flag1 then
            q.nodes.filterMap fun y =>
              if y.2.standing ∧ path.contains y.2.parent ∧ !path.contains y.1 then some y.1 else none
          else []
        let r := (s.setSeq id { q with nodes }).pruneAll p.idx id sibs
        .ok r.1 (leBytes 4 r.2) []

/-! ## Members that read the tree -/

/-- A member whose completion waits for a prune. -/
def EngOp.prunes (o : EngOp) (q : Seq) : Bool :=
  o.kind = .tt 1 || o.kind = .tt 5 || (o.kind = .tt 6 && (o.flag1 || q.windowed))

/-- No prune or SEQFREE of the sequence is incomplete (R299). -/
def State.pruneDone (s : State) (id : Nat) (q : Seq) : Bool :=
  !s.ops.any fun o => o.arrived && o.seqId = id && o.prunes q && (!o.done || o.err = 0)

/-- TQRY is applied (R302). -/
def State.applyTqry (s : State) (o : EngOp) (q : Seq) : TtRes :=
  let pd := if s.pruneDone o.seqId q then 0x80 else 0
  match q.node o.nodeId with
  | none => .ok s (leBytes 2 0 ++ leBytes 1 0 ++ leBytes 1 pd) []
  | some x =>
    .ok s (leBytes 2 x.parent ++ leBytes 1 x.depth ++ leBytes 1 (x.state + pd) ++ leBytes 4 x.first ++
      leBytes 4 x.count) []

/-- The node of a chain that holds a position. -/
def Seq.holder (q : Seq) (n pos : Nat) : Option (Nat × Node) :=
  (q.chain n 256).findSome? fun k => match q.node k with
    | some x => if x.has pos then some (k, x) else none
    | none => none

/-- TWALK is applied (R302, R301). -/
def State.applyTwalk (s : State) (o : EngOp) (q : Seq) (p : Pool) : TtRes :=
  let pos := blkNat o.blk 8 4
  let layer := blkNat o.blk 12 1
  let head := blkNat o.blk 13 1
  match q.node o.nodeId with
  | none => .no 1
  | some x =>
    if !x.standing then .no 2
    else if layer ≥ p.L ∨ head ≥ p.H then .no 12
    else match q.holder o.nodeId pos with
      | none => .no 3
      | some (n, y) =>
        if !q.current n pos then .no 9
        else match q.pageOf p.P n y pos with
          | none => .no 3
          | some page =>
            let slot := q.slotOf p.P n pos
            .ok s (leBytes 2 n ++ leBytes 2 slot ++
              leBytes 8 (p.addr page (p.rowOff layer head (blkNat o.blk 14 1) slot))) []

/-- A query list: node and position of each query (R303). -/
def State.queryList (s : State) (o : EngOp) : TtRes ⊕ List (Nat × Nat) :=
  match s.ttSpad o (blkNat o.blk 8 4) (8 * blkNat o.blk 12 1) with
  | .inl r => .inl r
  | .inr bs => .inr ((List.range (blkNat o.blk 12 1)).map fun i => (blkNat bs (8 * i) 2, blkNat bs (8 * i + 4) 4))

/-- A query entry stands on a position of its node. -/
def Seq.queryWell (q : Seq) (e : Nat × Nat) : Bool :=
  match q.node e.1 with
  | some x => x.standing && x.has e.2
  | none => false

/-- The key enumeration of a query list: node and position of each key (R303). -/
def Seq.keys (q : Seq) (ql : List (Nat × Nat)) : List (Nat × Nat) :=
  let ns := (ql.flatMap fun e => q.chain e.1 256).eraseDups
  let key (n : Nat) : Nat := (((q.node n).map Node.first).getD 0) * 1024 + n
  (sortBy key ns).flatMap fun n =>
    match q.node n with
    | none => []
    | some x => ((List.range x.count).map (· + x.first)).filterMap fun pos =>
        if q.current n pos then some (n, pos) else none

/-- Key k is visible to query e (R304). -/
def Seq.visible (q : Seq) (e k : Nat × Nat) : Bool :=
  (q.chain e.1 256).contains k.1 && decide (k.2 ≤ e.2) &&
  (!q.windowed || k.1 ≠ 0 || (q.current 0 k.2 && (decide (k.2 < q.sink) || decide (e.2 - k.2 < q.window))))

/-- TMASK is applied (R306). -/
def State.applyTmask (s : State) (o : EngOp) (q : Seq) : TtRes :=
  match s.queryList o with
  | .inl r => r
  | .inr ql =>
  if !ql.all q.queryWell then .no 3
  else
    let all := q.keys ql
    let ks := (all.drop (blkNat o.blk 16 4)).take 64
    let vis (i j : Nat) : Bool :=
      match ql[i]?, ks[j]? with
      | some e, some k => q.visible e k
      | _, _ => false
    let s :=
      if blkNat o.blk 20 1 = 0 then
        let row (i : Nat) : List Byte :=
          leBytes 8 ((List.range 64).foldl (fun x j => if vis i j then x + 2 ^ j else x) 0)
        s.spadPut o.core (blkNat o.blk 24 4) ((List.range 64).flatMap row)
      else
        let tile := (s.wg o.wg).tileBase + blkNat o.blk 21 1
        let s := s.modCore o.core fun k =>
          (List.range 4096).foldl (fun k n =>
            if vis (n / 64) (n % 64) then k else k.setTileWord tile (n / 64) (n % 64) 0xFF800000#32) k
        (s.spoilTile o.core tile).spoilPacks o.core tile fun i j => !vis i j
    .ok s (leBytes 4 all.length) []

/-! ## The prefix directory (R307 to R309) -/

/-- PFXHASH (R307). -/
def pfxHash (parent : Dword) (toks : List Nat) : Dword :=
  toks.foldl (fun h t =>
    let h := (h.rotateLeft 23 ^^^ BitVec.ofNat 64 t) * 0x9E3779B97F4A7C15#64
    h ^^^ (h >>> 29)) parent

/-- The module of a hash's directory entry (R307). -/
def State.pfxHome (s : State) (h : Dword) : Nat := s.pfxMap.get 0 (bitsNat h 63 55)

/-- The entry that tells where a block is. -/
def State.pfxFind (s : State) (h : Dword) : Option PfxEntry := s.pfxDir.find? fun e => e.hash = h && !e.gone

/-- The block that this module holds. -/
def State.pfxHeld (s : State) (h : Dword) : Option PfxEntry :=
  s.pfxDir.find? fun e => e.hash = h && e.holder = s.dev.toNat && !e.gone

/-- The page of a position-aligned block, its slot of a row and its scale. -/
def State.blockRows (s : State) (die : Nat) (p : Pool) (page layer head part : Nat) :
    State × Except Stop (List Byte) :=
  s.pageRead die p page (p.rowOff layer head part 0) (p.P * p.rb)

/-- Sums of one query over a block's keys (R309): the scaled scores. -/
def attScores (scl : Nat) (q : List Fl) (ks : List (List Fl)) : List FR :=
  ks.map fun k =>
    let t := roundSum [] (q.zip k)
    let u := Fmt.f32.mul 0 (Fmt.f32.val t.1) (Fmt.f32.val scl)
    (u.1, t.2 ||| u.2)

/-- The partial attention of a query over a block: m, l and o, with the events (R309). An element of the result counts a
class once, however many of its roundings meet it (log 65). -/
def attRow (scl : Nat) (q : List Fl) (ks vs : List (List Fl)) : List Byte × List Ev :=
  let ts := attScores scl q ks
  let m := match ts with
    | [] => Fmt.f32.nanBits
    | t :: r => r.foldl (fun m t => Fmt.f32.minmax true m t.1) t.1
  let es := ts.map fun t =>
    let d := Fmt.f32.sub 0 (Fmt.f32.val t.1) (Fmt.f32.val m)
    let e := exp2F32 0 (Fmt.f32.val d.1)
    (e.1, t.2 ||| d.2 ||| e.2)
  let l := match es with
    | [] => ((0, 0) : FR)
    | e :: r => r.foldl (fun (x : FR) (e : FR) =>
        let y := Fmt.f32.add 0 (Fmt.f32.val x.1) (Fmt.f32.val e.1)
        (y.1, x.2 ||| y.2)) (e.1, 0)
  let o := (List.range q.length).map fun d =>
    (es.zip vs).foldl (fun (x : FR) ev =>
      let y := Fmt.f32.fma 0 false (Fmt.f32.val ev.1.1) (ev.2.getD d (.fin false 0 0)) (Fmt.f32.val x.1)
      (y.1, x.2 ||| y.2)) (0, 0)
  (leBytes 4 m ++ leBytes 4 l.1 ++ o.flatMap fun x => leBytes 4 x.1, es.map Prod.snd ++ [l.2] ++ o.map Prod.snd)

/-- The values of a row image; none when a block of it has a reserved format (R84). A row whose blocks hold fewer elements
than the head dimension is filled with zeros: the model's choice (log 41). -/
def Pool.row (p : Pool) (bs : List Byte) : Option (List Fl) :=
  (p.decode bs).map fun xs => xs ++ List.replicate (p.DH - xs.length) (.fin false 0 0)

/-- The values of the rows of a block. -/
def Pool.values (p : Pool) (bs : List Byte) : Option (List (List Fl)) :=
  (List.range p.P).mapM fun i => p.row ((bs.drop (i * p.rb)).take p.rb)

/-- A lease of a block ends, and a fetch under it that is still parked goes; an unpublished block goes with its last
lease (R305, R308). -/
def State.pfxRelease (s : State) (h : Dword) (who : Nat × Nat) : State :=
  let asks (r : RemoteIn) : Bool :=
    match r.msg.op with
    | .prefixDir (.fetch h' _ _ _ m c) => h' = h && (m, c) = who
    | _ => false
  let s := { s with remoteIn := s.remoteIn.filter fun x => !asks x.2 }
  match s.pfxDir.find? fun e => e.hash = h && e.leases.contains who with
  | none => s
  | some e =>
    let left := e.leases.erase who
    if e.gone ∧ left.isEmpty then
      (({ s with pfxDir := s.pfxDir.erase e } : State).dropRef e.pool e.page).1
    else { s with pfxDir := s.pfxDir.map fun (x : PfxEntry) => if x = e then { x with leases := left } else x }

/-- A lease of a block that this module holds begins (R305). -/
def State.pfxLease (s : State) (h : Dword) (who : Nat × Nat) : State :=
  match s.pfxHeld h with
  | none => s
  | some e =>
    let held := who :: e.leases.erase who
    { s with pfxDir := s.pfxDir.map fun (x : PfxEntry) => if x = e then { x with leases := held } else x }

/-- What this module answers to a request of the prefix directory. The first byte tells the outcome: 1 found or held,
0 not, 2 beyond the pool's limits, 3 a block of a reserved format (log 18). -/
def State.pfxServe (s : State) (die : Nat) (m : PrefixMsg) : State × Except Stop (List Byte) :=
  match m with
  | .query h =>
    match s.pfxFind h with
    | some e => (s, .ok (leBytes 1 1 ++ leBytes 2 e.holder))
    | none => (s, .ok (leBytes 3 0))
  | .publish h holder pool page =>
    match s.pfxFind h with
    | some _ => (s, .ok (leBytes 1 1))
    | none => ({ s with pfxDir := s.pfxDir ++ [{ hash := h, holder, pool, page }] }, .ok (leBytes 1 0))
  | .unpublish h holder =>
    let mine (e : PfxEntry) : Bool := e.hash = h && e.holder = holder && holder != s.dev.toNat
    ({ s with pfxDir := s.pfxDir.filter fun e => !mine e }, .ok (leBytes 1 1))
  | .release h m c => (s.pfxRelease h (m, c), .ok (leBytes 1 1))
  | .fetch h layer head part m c =>
    match s.pfxHeld h with
    | none => (s, .ok (leBytes 1 0))
    | some e =>
      match s.pool e.pool with
      | none => (s, .ok (leBytes 1 0))
      | some p =>
        if layer ≥ p.L ∨ head ≥ p.H then (s, .ok (leBytes 1 2))
        else
          let sc := (s.page e.pool e.page).scale
          match s.blockRows die p e.page layer head part with
          | (s, .error st) => (s, .error st)
          | (s, .ok bs) =>
            (s.pfxLease h (m, c), .ok (leBytes 1 1 ++ leBytes 1 p.fmt ++ leBytes 1 sc.isSome.toNat ++ leBytes 1 (sc.getD 0) ++
              leBytes 2 p.DH ++ leBytes 2 p.P ++ bs))
  | .attend h layer head scl rows =>
    match s.pfxHeld h with
    | none => (s, .ok (leBytes 1 0))
    | some e =>
      match s.pool e.pool with
      | none => (s, .ok (leBytes 1 0))
      | some p =>
        if layer ≥ p.L ∨ head ≥ p.H then (s, .ok (leBytes 1 2))
        else if rows.isEmpty then (s, .ok (leBytes 1 1 ++ leBytes 2 p.DH ++ leBytes 2 p.P))
        else match s.blockRows die p e.page layer head 0 with
          | (s, .error st) => (s, .error st)
          | (s, .ok kb) =>
            match s.blockRows die p e.page layer head 1 with
            | (s, .error st) => (s, .error st)
            | (s, .ok vb) =>
              match p.values kb, p.values vb with
              | some ks, some vs =>
                let r := rows.map fun q => attRow scl.toNat (q.map f32v) ks vs
                let es := r.flatMap Prod.snd
                (s, .ok (leBytes 1 1 ++ ((List.range 8).flatMap fun k => leBytes 4 (evCount es k)) ++
                  r.flatMap Prod.fst))
              | _, _ => (s, .ok (leBytes 1 3))

/-- PREFIX_DIRECTORY_REQUEST (R305, R307 to R309): the request is served here. -/
def execPrefixDirectoryRequest (r : PrefixMsg) (s : State) : Out := .next (s.pfxServe 0 r).1

/-- A request of the prefix directory from a command: to this module, or to another, whose answer is kept under a key
of the command's own. -/
def State.pfxAsk (s : State) (o : EngOp) (key target : Nat) (m : PrefixMsg) : State × Except Stop (List Byte) :=
  if target = s.dev.toNat then s.pfxServe (dieOf o.core) m
  else match o.got.find? fun g => g.1 = BitVec.ofNat 64 key with
    | some g => if g.2.isEmpty then (s, .error (.err 1)) else (s, .ok g.2)
    | none =>
      if s.routed target then (s, .error (.remote target (.prefixDir m) (BitVec.ofNat 64 key)))
      else (s, .error (.err 2))

/-- The tokens of a block in the scratchpad; the command fails when they lie beyond the carve-out. -/
def State.blockTokens (s : State) (o : EngOp) (P : Nat) : TtRes ⊕ List Nat :=
  let tok := blkNat o.blk 16 4
  if tok + 4 * P > (s.core o.core).spadSize then .inl (.no 12)
  else match s.ttSpad o tok (4 * P) with
    | .inl r => .inl r
    | .inr bs => .inr ((List.range P).map fun i => blkNat bs (4 * i) 4)

/-- PFXQ is applied (R308). -/
def State.applyPfxq (s : State) (o : EngOp) (p : Pool) : TtRes :=
  match s.blockTokens o p.P with
  | .inl r => r
  | .inr ts =>
    let h := pfxHash (o.word64 8) ts
    thenTt (s.pfxAsk o 0 (s.pfxHome h) (.query h)) fun s r =>
      .ok s ((r.take 1) ++ leBytes 1 0 ++ ((r.drop 1).take 2) ++ leBytes 8 h.toNat) []

/-- PFXPUB is applied: publishing, or with UNPUB withdrawing (R308). -/
def State.applyPfxpub (s : State) (o : EngOp) (q : Seq) (p : Pool) : TtRes :=
  let dev := s.dev.toNat
  let bpos := blkNat o.blk 20 4
  match s.blockTokens o p.P with
  | .inl r => r
  | .inr ts =>
    let h := pfxHash (o.word64 8) ts
    let out (found : Nat) : List Byte := leBytes 1 found ++ leBytes 3 0 ++ leBytes 8 h.toNat
    if o.flag1 then
      match s.pfxHeld h with
      | none => .ok s (out 0) []
      | some e =>
        let gone (s : State) : State :=
          if e.leases.isEmpty then
            let dir := s.pfxDir.erase e
            (({ s with pfxDir := dir } : State).dropRef e.pool e.page).1
          else { s with pfxDir := s.pfxDir.map fun (x : PfxEntry) => if x = e then { x with gone := true } else x }
        if s.pfxHome h = dev then .ok (gone s) (out 1) []
        else thenTt (s.pfxAsk o 0 (s.pfxHome h) (.unpublish h dev)) fun s _ => .ok (gone s) (out 1) []
    else
      match q.node o.nodeId with
      | none => .no 1
      | some x =>
        if !x.standing then .no 2
        else if bpos % p.P ≠ 0 then .no 12
        else if !(List.range p.P).all fun i => (q.holder o.nodeId (bpos + i)).isSome then .no 3
        else match q.holder o.nodeId (bpos + p.P - 1) with
          | none => .no 3
          | some (n, y) =>
            if q.windowed ∧ n = 0 then .no 2
            else match q.pageOf p.P n y (bpos + p.P - 1) with
              | none => .no 3
              | some page =>
                if (s.page p.idx page).refs ≥ 0xFFFF then
                  thenTt (s.pfxAsk o 1 (s.pfxHome h) (.query h)) fun s r =>
                    if blkNat r 0 1 = 1 then .ok s (out 1) [] else .no 7
                else thenTt (s.pfxAsk o 0 (s.pfxHome h) (.publish h dev p.idx page)) fun s r =>
                  if blkNat r 0 1 = 1 then .ok s (out 1) []
                  else
                    let s := (s.addRef p.idx page).getD s
                    let e : PfxEntry := { hash := h, holder := dev, pool := p.idx, page }
                    let s := if s.pfxHome h = dev then s else { s with pfxDir := s.pfxDir ++ [e] }
                    .ok s (out 0) []

/-! ## Gathers (R305) -/

/-- A key that a KVGATH takes: its page and slot, and its node and position in one number. -/
def Seq.gathered (q : Seq) (P key0 nkey : Nat) (all : List (Nat × Nat)) : List (Nat × Dword × Dword) :=
  ((all.drop key0).take nkey).map fun k =>
    let name := BitVec.ofNat 64 (k.1 + 1024 * k.2)
    match q.node k.1 with
    | some x => ((q.pageOf P k.1 x k.2).getD 0, BitVec.ofNat 64 (q.slotOf P k.1 k.2), name)
    | none => (0, 0, name)

/-- The rows of a gather as the holder of their pages stores them: image, and scale of the page; none where a ring
position has been overwritten since the snapshot, which reads as a zero row (R301). -/
abbrev RowImage := Option (List Byte × Option Nat)

/-- The position of a gathered key may still be read (R301). -/
def State.keyCurrent (s : State) (id : Nat) (key : Dword) : Bool :=
  match s.seqs.find? id with
  | some q => q.current (key.toNat % 1024) (key.toNat / 1024)
  | none => true

/-- The rows of the gathered keys are read. -/
def State.readKeys (o : EngOp) (p : Pool) (layer head part : Nat) :
    List (Nat × Dword × Dword) → State → List RowImage → State × Except Stop (List RowImage)
  | [], s, acc => (s, .ok acc)
  | (page, slot, key) :: ks, s, acc =>
    if !s.keyCurrent o.seqId key then State.readKeys o p layer head part ks s (acc ++ [none])
    else match s.pageRead (dieOf o.core) p page (p.rowOff layer head part slot.toNat) p.rb with
    | (s, .error st) => (s, .error st)
    | (s, .ok bs) => State.readKeys o p layer head part ks s (acc ++ [some (bs, (s.page p.idx page).scale)])

/-- Row n of a K gather: channels of key n (R305). A page without a scale gives the row the free scale `free`. -/
def gathK (fmt slotFmt m ch0 nch free : Nat) (r : RowImage) : SlotRow :=
  match r with
  | none => { bytes := [], scale := some 0, evs := [] }
  | some r =>
    if fmt < 2 then
      let w := if fmt = 0 then 2 else 1
      { bytes := (r.1.drop (w * ch0)).take (w * nch), scale := none, evs := [] }
    else
      let sr := r.2.getD 0
      let blocks := (List.range (r.1.length / 64)).map fun i => (r.1.drop (64 * i)).take 64
      let gs := ((srcGroups blocks).drop (ch0 / 16)).take ((nch + 15) / 16)
      { packSlot slotFmt sr (gs.zipIdx.map fun g => g.1.into m sr (nch - 16 * g.2)) with scale := some (r.2.getD free) }

/-- Row d of a V gather: one channel of every key, as elements (R305). -/
def gathV (p : Pool) (slotFmt m ch free : Nat) (rs : List RowImage) : SlotRow :=
  if p.fmt < 2 then
    let w := if p.fmt = 0 then 2 else 1
    { bytes := rs.flatMap fun r => (((r.map Prod.fst).getD (List.replicate p.rb 0)).drop (w * ch)).take w
      scale := none, evs := [] }
  else
    match (rs.filterMap fun r => r.bind Prod.snd).max? with
    | none => { bytes := [], scale := some free, evs := [] }
    | some sr =>
      let xs := rs.map fun r => (((r.bind fun r => p.row r.1)).getD []).getD ch (.fin false 0 0)
      packSlot slotFmt sr ((List.range ((xs.length + 15) / 16)).map fun j =>
        let g := encodeGroup m sr ((xs.drop (16 * j)).take 16)
        (g.bits, sdbEvents g.flushed (if g.ovf then g.clamped else 0)))

/-- The 64 rows that a KVGATH writes, as 146 bytes each: 144 bytes, whether the row has a scale, and the scale. What lies
beyond the rows filled is zero, the scale too. -/
def gathRows (p : Pool) (b : List Byte) (free : Nat) (rs : List RowImage) : List Byte × List Ev :=
  let sf := poolSlot p.fmt
  let m := (slotGroups sf).1
  let ch0 := blkNat b 22 2
  let nch := blkNat b 24 2
  let rows : List SlotRow := if blkNat b 15 1 = 0 then rs.map (gathK p.fmt sf m ch0 nch free)
    else (List.range nch).map fun d => gathV p sf m (ch0 + d) free rs
  let row (i : Nat) : List Byte :=
    match rows[i]? with
    | some r => (r.bytes ++ List.replicate 144 0).take 144 ++ leBytes 1 p.n.toNat ++ leBytes 1 (r.scale.getD 0)
    | none => List.replicate 144 0 ++ leBytes 1 p.n.toNat ++ leBytes 1 0
  ((List.range 64).flatMap row, rows.flatMap SlotRow.evs)

/-- A pool as a holder's answer describes it, with what a gather needs of it. -/
def remotePool (p : Pool) (fmt dh P : Nat) : Pool := { p with fmt, DH := dh, P }

/-- The pages of a KVGATH that reads this module's tree, at its arrival: the snapshot (R288, R293). -/
def State.snapKeys (s : State) (o : EngOp) (q : Seq) (p : Pool) : TtRes ⊕ EngOp :=
  let nch := blkNat o.blk 24 2
  if blkNat o.blk 13 1 ≥ p.L ∨ blkNat o.blk 14 1 ≥ p.H ∨ blkNat o.blk 22 2 + nch > p.DH then .inl (.no 12)
  else if o.flag1 then .inr o
  else
    match s.queryList o with
    | .inl r => .inl r
    | .inr ql =>
    if !ql.all q.queryWell then .inl (.no 3)
    else
      let all := q.keys ql
      let ks := q.gathered p.P (blkNat o.blk 16 4) (blkNat o.blk 26 2) all
      .inr { o with elems := ks
                    snap := ks.map fun k => (p.idx, k.1)
                    out := leBytes 4 all.length ++ leBytes 4 ks.length }

/-- The rows of a KVGATH are read, from this module's pages or from the holder of a published block. A block of a reserved
format is not decoded: the command fails with code 4 (R84, log 73). -/
def State.gathRead (s : State) (o : EngOp) (p : Pool) : TtRes ⊕ (State × EngOp) :=
  let layer := blkNat o.blk 13 1
  let head := blkNat o.blk 14 1
  let part := blkNat o.blk 15 1
  let finish (s : State) (p : Pool) (rs : List RowImage) (out : List Byte) : TtRes ⊕ (State × EngOp) :=
    if rs.any fun r => r.any fun r => (p.row r.1).isNone then .inl (.fail 13 4)
    else
      let r := gathRows p o.blk (Config.freeByte s.free).toNat rs
      let o := { o with buf := r.1, out, reason := 1 }
      .inr ((s.draw.setOp o).countOp o r.2, o)
  if o.flag1 then
    match s.pfxAsk o 0 (blkNat o.blk 36 2) (.fetch (o.word64 28) layer head part s.dev.toNat o.id) with
    | (_, .error st) => .inl (.ofStop st)
    | (s, .ok r) =>
      match blkNat r 0 1 with
      | 0 => .inl (.no 10)
      | 1 =>
        let rp := remotePool p (blkNat r 1 1) (blkNat r 4 2) (blkNat r 6 2)
        if rp.fmt ≠ p.fmt ∨ rp.DH ≠ p.DH then .inl (.no 8)
        else
          let sc := if blkNat r 2 1 = 1 then some (blkNat r 3 1) else none
          let rows := (((List.range rp.P).map fun i => some (((r.drop 8).drop (i * rp.rb)).take rp.rb, sc)).drop
            (blkNat o.blk 16 4)).take (blkNat o.blk 26 2)
          finish s rp rows (leBytes 4 rp.P ++ leBytes 4 rows.length)
      | _ => .inl (.no 12)
  else
    match State.readKeys o p layer head part o.elems s [] with
    | (_, .error st) => .inl (.ofStop st)
    | (s, .ok rs) => finish s p rs o.out

/-- Rows of a KVGATH that one transfer of 4 KiB writes (R305). -/
def State.gathWrite (s : State) (o : EngOp) : State :=
  let slot := (s.wg o.wg).slotBase + blkNat o.blk 21 1
  let s := (((List.range 64).drop o.cursor).take 28).foldl (fun s i =>
    let b := (o.buf.drop (146 * i)).take 146
    let x := ((s.core o.core).slots.get {} slot).store (144 * i) (b.take 144) (.engine o.id)
    let x := if blkNat b 144 1 = 1 then x.storeScale i (b.getD 145 0) (.engine o.id) else x
    s.modCore o.core fun k => { k with slots := k.slots.set slot x }) s
  let o := { o with cursor := o.cursor + 28 }
  s.setOp { o with done := decide (o.cursor ≥ 64), reason := if o.cursor ≥ 64 then 0 else o.reason }

/-! ## PFXATT (R309) -/

/-- The rows of a PFXATT's answer are asked for: none until the holder and its head dimension are known. -/
def State.attRead (s : State) (o : EngOp) : TtRes ⊕ (State × EngOp) :=
  let h := o.word64 8
  let layer := blkNat o.blk 21 1
  let head := blkNat o.blk 22 1
  let scl := BitVec.ofNat 32 (blkNat o.blk 24 4)
  let nq := blkNat o.blk 20 1
  let size := (s.core o.core).spadSize
  match s.pfxAsk o 0 (s.pfxHome h) (.query h) with
  | (_, .error st) => .inl (.ofStop st)
  | (s, .ok r) =>
    if blkNat r 0 1 = 0 then .inl (.no 10)
    else
      let holder := blkNat r 1 2
      match s.pfxAsk o 1 holder (.attend h layer head scl []) with
      | (_, .error st) => .inl (.ofStop st)
      | (s, .ok r) =>
        if blkNat r 0 1 = 0 then .inl (.no 10)
        else if blkNat r 0 1 = 2 then .inl (.no 12)
        else
          let dh := blkNat r 1 2
          let qoff := blkNat o.blk 16 4
          if qoff + 4 * nq * dh > size ∨ blkNat o.blk 28 4 + nq * (8 + 4 * dh) > size then .inl (.no 12)
          else match s.ttSpad o qoff (4 * nq * dh) with
          | .inl r => .inl r
          | .inr bs =>
            let rows := (List.range nq).map fun i => (List.range dh).map fun d =>
              BitVec.ofNat 32 (blkNat bs (4 * (i * dh + d)) 4)
            match s.pfxAsk o 2 holder (.attend h layer head scl rows) with
            | (_, .error st) => .inl (.ofStop st)
            | (s, .ok x) =>
              if blkNat x 0 1 = 3 then .inl (.fail 13 4)
              else if blkNat x 0 1 ≠ 1 then .inl (.no 10)
              else
                let o := { o with buf := x.drop 33, out := leBytes 4 (blkNat r 3 2), reason := 1 }
                let s := (List.range 8).foldl (fun s k =>
                  match s.count o.core k (blkNat x (1 + 4 * k) 4) with
                  | (s, true) => s.opTrap o Cause.numericThreshold (BitVec.ofNat 64 k)
                  | (s, false) => s) s
                .inr (s.setOp o, o)

/-- A transfer of 4 KiB of a PFXATT's results. -/
def State.attWrite (s : State) (o : EngOp) : State :=
  let s := s.spadPut o.core (blkNat o.blk 28 4 + o.cursor) ((o.buf.drop o.cursor).take 4096)
  let o := { o with cursor := o.cursor + 4096 }
  s.setOp { o with done := decide (o.cursor ≥ o.buf.length),
                   reason := if o.cursor ≥ o.buf.length then 0 else o.reason }

/-! ## Commands at Badger (R291, R293) -/

/-- The members that check a generation (R292). -/
def ttChecksGen (sub : Nat) : Bool := [2, 3, 4, 5, 6, 8, 9, 10, 12, 14].contains sub

/-- The members that change a sequence (R293). -/
def ttChanges (sub : Nat) : Bool := [1, 2, 3, 4, 5, 6, 12, 14].contains sub

/-- An earlier changing command of the sequence has not been applied, or its SEQFREE has not completed (R293). -/
def State.ttBlocked (s : State) (o : EngOp) (sub : Nat) : Bool :=
  ttChanges sub && s.ops.any fun x =>
    x.id ≠ o.id && x.arrived && x.seqId = o.seqId &&
    (match x.kind with
     | .tt k => ttChanges k && decide (x.cursor < o.cursor) && (!x.done || (k = 1 && x.err = 0))
     | _ => false)

/-- A member applied to its sequence. -/
def State.applyTt (s : State) (o : EngOp) (sub : Nat) (q : Seq) (p : Pool) : TtRes :=
  match sub with
  | 1 => s.applySeqfree o q
  | 2 => s.applyTfork o q p
  | 3 => s.applyTapp o q p
  | 4 => s.applyKvwr o q p
  | 5 => s.applyTprune o q
  | 6 => s.applyTcommit o q p
  | 7 => s.applyTqry o q
  | 8 => s.applyTwalk o q p
  | 10 => s.applyTmask o q
  | 11 => s.applyPfxq o p
  | 12 => s.applyPfxpub o q p
  | _ => s.applyKvresc o q p

/-- The sequence and pool of a command, or the reason why it has none (R290, R292). A reading command that has arrived goes
by what it found then (R293). -/
def State.ttSeq (s : State) (o : EngOp) (sub : Nat) : Nat ⊕ (Seq × Pool) :=
  let seq := s.seqs.find? o.seqId
  match (if o.arrived then o.pool else none).orElse fun _ => seq.map Seq.pool with
  | none => .inl 1
  | some k =>
    match s.pool k with
    | none => .inl 8
    | some p => if ttChecksGen sub ∧ s.genStale o.gen then .inl 11 else .inr (seq.getD {}, p)

/-- The pool that a reading command keeps from its arrival on (R293). -/
def State.ttPool (s : State) (o : EngOp) (sub : Nat) : Option Nat :=
  match s.ttSeq o sub with
  | .inr (_, p) => if ttChanges sub then none else some p.idx
  | .inl _ => none

/-- A command has come to its end: its result is kept until it is signalled (R291). -/
def State.ttEnd (s : State) (o : EngOp) (reason code : Nat) (out : List Byte) : State :=
  let status := statusOf reason code
  let sid := if o.kind = .tt 0 then blkNat out 0 4 else o.seqId
  let gen := if (s.seqs.find? sid).isNone then 0
    else if o.kind = .tt 0 ∧ reason ≠ 0 then 0
    else s.slotGen.get 0 (slotKey sid (if o.kind = .tt 0 then 0 else o.nodeId))
  s.setOp { o with done := true, err := status, reason, out := leBytes 2 gen ++ outs out, snap := o.snap }

/-- What a command comes to, on the state before it: a failure changes nothing (R291); its thread is owed FORMAT for a
block of a reserved format (R84). -/
def State.ttTake (s : State) (o : EngOp) (r : TtRes) : State :=
  match r with
  | .ok s' out es => (s'.countOp o es).ttEnd o 0 0 out
  | .fail reason code =>
    (if reason = 13 ∧ code = 4 then s.opTrap o Cause.format 0 else s).ttEnd o reason code []
  | .stop st => s.opStop o st

/-- A command that a prune retires although it has not reached Badger, or waits for a page, another module or an earlier
command (R299). -/
def State.ttRetired (s : State) (o : EngOp) (sub : Nat) : Bool :=
  s.genStale o.gen && (!o.arrived || o.park.isSome || o.remote.isSome || s.ttBlocked o sub)

/-- A step of a TT command that has reached Badger (R293), or that a prune retires. -/
def State.ttStep (s : State) (o : EngOp) (sub : Nat) : State :=
  if o.done then s
  else if s.ttRetired o sub then s.ttEnd o.unheld 11 0 []
  else if !o.arrived ∨ o.park.isSome ∨ o.remote.isSome ∨ s.ttBlocked o sub then s
  else if o.reason = 1 then
    if sub = 9 ∧ s.genStale o.gen then s.ttEnd { o with reason := 0 } 11 0 []
    else
      let s' := if sub = 9 then s.gathWrite o else s.attWrite o
      match s'.op o.id with
      | some x => if x.done then s'.ttEnd x 0 0 x.out else s'
      | none => s'
  else match sub with
    | 0 => s.ttTake o (s.applySeqnew o)
    | 13 =>
      match s.attRead o with
      | .inl r => s.ttTake o r
      | .inr x => x.1
    | 9 =>
      match s.ttSeq o sub with
      | .inl reason => s.ttEnd o reason 0 []
      | .inr (q, p) =>
        match if o.started then .inr o else s.snapKeys o q p with
        | .inl r => s.ttTake o r
        | .inr o =>
          let o := { o with started := true }
          let s := s.setOp o
          match s.gathRead o p with
          | .inl r => s.ttTake o r
          | .inr x => x.1
    | _ =>
      match s.ttSeq o sub with
      | .inl reason => s.ttEnd o reason 0 []
      | .inr (q, p) => s.ttTake o (s.applyTt o sub q p)

/-- A command reaches Badger, after the earlier ones of its thread (R293). -/
def State.ttArrive (s : State) (id : Nat) : State :=
  match s.op id with
  | none => s
  | some o =>
    match o.kind with
    | .tt sub =>
      let before := s.ops.any fun x =>
        decide (x.id < id) && !x.arrived && x.wg = o.wg && x.grp = o.grp && x.lane = o.lane &&
        (match x.kind with | .tt _ => true | _ => false)
      if o.arrived ∨ !s.opReady o ∨ before then s
      else
        let o := { o with arrived := true, cursor := if ttChanges sub then s.nextId else 0, pool := s.ttPool o sub }
        (s.setOp o).fresh.ttStep o sub
    | _ => s

/-! ## Completion (R291, R299) -/

/-- Nothing tagged with a stale generation of the sequence is still to run (R299). -/
def State.pruneQuiet (s : State) (o : EngOp) : Bool :=
  let stale (g : Dword) : Bool := bitsNat g 15 0 = o.seqId && s.genStale g
  (!s.ops.any fun x => x.id ≠ o.id && !x.done && stale x.gen) &&
  !s.cores.any fun k => k.2.mq.any fun j => !j.started && stale (BitVec.ofNat 64 (blkNat j.blk 56 8))

/-- Pruned node slots become free; a freed sequence goes with its sink and ring (R294, R299). -/
def State.pruneFinish (s : State) (o : EngOp) (q : Seq) : State :=
  if o.kind = .tt 1 then
    let s := (s.dropRefs q.pool q.ring).1
    { s with seqs := s.seqs.erase o.seqId }
  else s.setSeq o.seqId { q with nodes := q.nodes.filter fun n => n.2.state ≠ 4 }

/-- The trap of a STATUS under TRAPE (R291). -/
def statusCause (status : Nat) : Option Nat :=
  match status with
  | 7 => some Cause.treeInvalid
  | 5 => some Cause.staleGeneration
  | 1 => some Cause.fatalMemory
  | 2 => some Cause.protection
  | 3 => some Cause.tagMismatch
  | _ => none

/-- The lease of a KVGATH of a published block ends, here or at its holder (R305). -/
def State.endLease (s : State) (o : EngOp) : State :=
  let holder := blkNat o.blk 36 2
  let h := o.word64 28
  if holder = s.dev.toNat then s.pfxRelease h (holder, o.id)
  else if s.routed holder then (s.openRemote o.core holder (.prefixDir (.release h s.dev.toNat o.id)) 0 o.asid).1
  else s

/-- The result record, the end of a prune, the completion and the trap of a command (R291). -/
def State.ttComplete (s : State) (id : Nat) : State :=
  match s.op id with
  | none => s
  | some o =>
    match o.kind with
    | .tt _ =>
      let q := s.seqs.find? o.seqId
      let prunes := o.err = 0 && (match q with | some q => o.prunes q | none => false)
      if !o.done ∨ o.park.isSome ∨ o.remote.isSome ∨ (prunes ∧ !s.pruneQuiet o) then s
      else
        -- the record is written once, though the completion's word may wait
        let s := if o.skip = [1] then s
          else
            let res := blkNat o.blk 48 4
            let s := if res = 0xFFFFFFFF then s
              else s.spadPut o.core res (leBytes 1 o.err ++ leBytes 1 o.reason ++ o.out)
            let s := if o.kind = .tt 9 ∧ o.flag1 ∧ o.started then s.endLease o else s
            match q with
            | some q => if prunes then s.pruneFinish o q else s
            | none => s
        let o := { o with started := true, skip := [1] }
        let s := (s.setOp o).engComplete o 0
        if (s.op id).isNone ∧ blkNat o.blk 6 1 % 2 = 1 then
          match statusCause o.err with
          | some c => s.opTrap o c o.blkOff
          | none => s
        else s
    | _ => s

/-- PAGE_FREE (R288): a page without references is in the free list as soon as no snapshot holds it; only its owner and
scale, which no command reads, go. -/
def execPageFree (pool page : Nat) (s : State) : Out :=
  .next (if (s.page pool page).refs = 0 ∧ !(s.takenPages pool).contains page then
    { s with pages := s.pages.erase (pageName pool page) } else s)

/-! ## KVCP (R176) -/

/-- Bytes of the linear buffer of a KVCP of a pool (R176). -/
def kvcpBytes (p : Pool) (b : List Byte) : Nat :=
  blkNat b 20 4 * p.L * p.H * (blkNat b 25 1 % 2 + blkNat b 25 1 / 2) * p.rb

/-- The block checks of KVCP; `pool` is that of the sequence that GEN names, and `size` the carve-out (R170). -/
def kvcpFault (size : Nat) (pool : Option Pool) (b : List Byte) : Option Nat :=
  let lin := if blkNat b 24 1 = 0 then blkNat b 8 8 else blkNat b 0 8
  let gen := BitVec.ofNat 64 (blkNat b 56 8)
  if blkNat b 20 4 > 65536 ∨ blkNat b 24 1 > 1 ∨ blkNat b 25 1 = 0 ∨ blkNat b 25 1 > 3 ∨ !blkZero b 26 14 ∨
      blkNat b 40 1 > 1 ∨ !blkZero b 41 15 ∨ !genWell gen ∨ !gen.getLsbD 63 then some Cause.format
  else if !blkFlag b 0 ∧ badPointer lin then some Cause.noncanonical
  else match pool with
    | some p =>
      if blkFlag b 0 ∧ kvcpBytes p b ≠ 0 ∧ lin + kvcpBytes p b > size then some Cause.scratchRange else none
    | none => none

/-- KVCP (R176). -/
def execKvcp (c : Bool) (a b : BitVec 5) (s : State) : Out :=
  endUnit c (s.issueBlocks .kvcp a b fun b =>
    kvcpFault (s.core s.cur.core).spadSize ((s.seqs.find? (blkNat b 56 2)).bind fun q => s.pool q.pool) b)

/-- A row of a KVCP: position, layer, head and part, in the order of the linear buffer. -/
def EngOp.kvcpRows (o : EngOp) (p : Pool) (first : Nat) : List (Nat × Nat × Nat × Nat) :=
  let parts := (if blkNat o.blk 25 1 % 2 = 1 then [0] else []) ++ (if blkNat o.blk 25 1 ≥ 2 then [1] else [])
  (List.range (blkNat o.blk 20 4)).flatMap fun i =>
    (List.range p.L).flatMap fun l => (List.range p.H).flatMap fun h =>
      parts.map fun part => (first + blkNat o.blk 16 4 + i, l, h, part)

/-- The rows of the pages are read, one after another; a row that cannot be is left out. -/
def State.kvcpRead (o0 : EngOp) (q : Seq) (p : Pool) (n : Nat) (x : Node) :
    List (Nat × Nat × Nat × Nat × Nat) → State → EngOp → State
  | [], s, o => s.setOp { o with started := true }
  | (i, pos, l, h, part) :: rs, s, o =>
    let lost (code : Nat) : EngOp :=
      { o.note code with skip := i :: o.skip, buf := o.buf ++ List.replicate p.rb 0 }
    let at_ := (o0.word64 8).toNat + i * p.rb
    match if x.has pos ∧ q.current n pos then q.pageOf p.P n x pos else none with
    | none => State.kvcpRead o0 q p n x rs s (lost 7)
    | some page =>
      if blkFlag o0.blk 0 ∧ at_ + p.rb > (s.core o0.core).spadSize then State.kvcpRead o0 q p n x rs s (lost 2)
      else
        match s.pageRead (dieOf o0.core) p page (p.rowOff l h part (q.slotOf p.P n pos)) p.rb with
        | (s, .ok bs) => State.kvcpRead o0 q p n x rs s { o with buf := o.buf ++ bs }
        | (s, .error (.err c)) => State.kvcpRead o0 q p n x rs s (lost c)
        | (s, .error st) => s.opStop o0 st

/-- One row of a KVCP into the pages, as KVWR writes it; what is left out has a code. -/
def State.kvcpRow (s : State) (o : EngOp) (q : Seq) (p : Pool) (n : Nat) (x : Node) (i : Nat)
    (r : Nat × Nat × Nat × Nat) : TtRes :=
  let (pos, l, h, part) := r
  let ea := o.word64 0 + BitVec.ofNat 64 (i * p.rb)
  if !x.has pos ∨ !x.appends ∨ !q.current n pos then .fail 13 7
  else if blkFlag o.blk 0 ∧ ea.toNat + p.rb > (s.core o.core).spadSize then .fail 13 2
  else thenTt (s.engFrom o (blkFlag o.blk 0) ea p.rb 0) fun s bs =>
    match p.decode bs with
    | none => .fail 13 4
    | some xs =>
      s.ownPage o q p n x pos fun s page _ =>
        let xs := xs ++ List.replicate (p.DH - xs.length) (.fin false 0 0)
        thenTt (s.kvRow (dieOf o.core) p page (p.rowOff l h part (q.slotOf p.P n pos)) xs) fun s r => .ok s [] r.1

/-- The sequence that a generation names. -/
def EngOp.seqOfGen (o : EngOp) : Nat := bitsNat o.gen 15 0

/-- Rows of a KVCP into the pages, up to 4 KiB of them. -/
def State.kvcpWrite (n : Nat) : List (Nat × Nat × Nat × Nat × Nat) → State → EngOp → State
  | [], s, o => s.setOp o
  | (i, r) :: rs, s, o =>
    match s.seqs.find? o.seqOfGen with
    | none => s.setOp o.stale
    | some q =>
      match s.pool q.pool, q.node n with
      | some p, some x =>
        match s.kvcpRow o q p n x i r with
        | .ok s _ es => State.kvcpWrite n rs (s.countOp o es) { o with cursor := o.cursor + 1 }
        | .fail _ c =>
          let s := if c = 4 then s.opTrap o Cause.format 0 else s
          State.kvcpWrite n rs s { o.note (if c = 0 then 7 else c) with cursor := o.cursor + 1 }
        | .stop st => s.opStop o st
      | _, _ => s.setOp { o.note 7 with done := true }

/-- A step of a KVCP (R171, R176). -/
def State.kvcpStep (s : State) (o : EngOp) : State :=
  let n := bitsNat o.gen 25 16
  if o.done then s
  else if s.genStale o.gen then s.setOp o.stale
  else if !s.opReady o then s
  else match (s.seqs.find? o.seqOfGen).bind fun q => (q.node n).bind fun x => (s.pool q.pool).map fun p => (q, x, p) with
    | none => s.setOp { o.note 7 with done := true }
    | some (q, x, p) =>
      let rows := (o.kvcpRows p x.first).zipIdx.map fun r => (r.2, r.1)
      if blkNat o.blk 24 1 = 0 then
        if o.started then s.writeMoves o
        else
          let elems := rows.map fun r => (r.1, o.word64 8 + BitVec.ofNat 64 (r.1 * p.rb), (0 : Dword))
          State.kvcpRead o q p n x rows s { o with elems }
      else
        let left := rows.drop o.cursor
        let s := State.kvcpWrite n (left.take (max 1 (4096 / p.rb))) s o
        match s.op o.id with
        | some o => if o.cursor ≥ rows.length then s.setOp { o with done := true } else s
        | none => s

end Sys2Proof.Machine
end

