-- ==== Sys2Proof/Machine/EngStep.lean ====
section
/-! DEFINITION. The steps of engine operations: a transfer of an operation in flight, the arrival of a command at
Badger, and completions (R159, R166, R171, R177, R291, R293). A workgroup that has been saved meanwhile keeps its
operations: they find its scratchpad, slots and tiles in its image (R333). -/

namespace Sys2Proof.Machine

/-- One transfer of an operation, by its kind. -/
def State.engineStep (s : State) (o : EngOp) : State :=
  match o.kind with
  | .cpy _ _ | .tile | .unpk | .pack | .gath | .scat => s.copyStep o
  | .kvcp => s.kvcpStep o
  | .tt sub => s.ttStep o sub
  | .smpl sub _ => s.smplStep o sub
  | .coll => s.collRead o
  | .tasknew sreg => s.tasknewStep o sreg
  | .pgreq => s

/-- An operation of a core by its name acts, where its workgroup is; a release may have waited for it (R271). -/
def State.engineAct (s : State) (core id : Nat) (f : State → EngOp → State) : State :=
  match s.op id with
  | some o =>
    if o.core = core then s.atImage o.wg core fun s => if s.opHeld o then s else (f s o).settleSlots core o.wg else s
  | none => s

/-- ENGINE_WRITE (R171, R177). Generations that become stale stop their launches (R328). -/
def execEngineWrite (core id : Nat) (s : State) : Out := .next (s.engineAct core id State.engineStep).retireStale

/-- A copy operation whose writes are done completes (R166). -/
def State.copyComplete (s : State) (o : EngOp) : State :=
  match o.kind with
  | .cpy _ _ | .tile | .unpk | .pack | .gath | .scat | .kvcp =>
    if o.done ∧ o.park.isNone ∧ o.remote.isNone then s.engComplete o 0 else s
  | _ => s

/-- COPY_COMPLETE (R166). -/
def execCopyComplete (core id : Nat) (s : State) : Out := .next (s.engineAct core id State.copyComplete)

/-- BADGER_COMMAND_ARRIVAL (R290, R293). -/
def execBadgerCommandArrival (id : Nat) (s : State) : Out :=
  .next (match s.op id with
    | some o => (s.atImage o.wg o.core fun s => if s.opHeld o then s else s.ttArrive id).retireStale
    | none => s)

/-- TT_COMPLETE (R291). -/
def execTtComplete (id : Nat) (s : State) : Out :=
  .next (match s.op id with
    | some o => s.atImage o.wg o.core fun s => if s.opHeld o then s else s.ttComplete id
    | none => s)

/-- The pages of a PGREQ have been serviced: its status word rises by one, with the error flag where one of them could
not be (R159, R380). A signal that has arrived adds its operand in the same way (R352). -/
def State.pgreqComplete (s : State) (o : EngOp) : State :=
  if o.kind ≠ .pgreq ∨ !o.elems.isEmpty ∨ o.park.isSome ∨ o.remote.isSome then s
  else if o.acked then s.dropOp o.id
  else
    let amount := if o.blk.isEmpty then devAmount (o.err ≠ 0) else BitVec.ofNat 64 (leNat o.blk)
    match s.devWord (dieOf o.core) o.asid o.target true amount o.who with
    | (s, .stop st) => s.opStop { o with done := true } st
    | (s, _) => (s.dropOp o.id).stamp o.core

/-- PGREQ_COMPLETE (R159). -/
def execPgreqComplete (id : Nat) (s : State) : Out :=
  .next (match s.op id with
    | some o => s.pgreqComplete o
    | none => s)

end Sys2Proof.Machine
end

