-- ==== Sys2Proof/Machine/Remote.lean ====
section
/-! DEFINITION. Accesses between modules: a request of another module served here (R95, R260, R261, R344), and a
reply, a notice or a timeout of a request that this module has made (R208, R261, R345). -/

namespace Sys2Proof.Machine

/-! ## Requests of other modules -/

/-- What a request comes to here. -/
inductive Served where
  | reply (err : RemoteErr) (redirected : Bool) (data : List Byte)
  | park (kinds : BitVec 8) (malformed : Bool)
  | forward (peer : Nat)
  | wait
  deriving DecidableEq, Repr

/-- The answer for the trap of a failed check. -/
def errOf (cause : Nat) : RemoteErr :=
  if cause = Cause.protection then .protection else if cause = Cause.tagMismatch then .tagMismatch
  else if cause = Cause.alignment then .alignment else .fatal

/-- The size and the checks that a request asks for. -/
def remoteAsks : RemoteOp → Nat × Ask
  | .read n | .probe n => (n, {})
  | .fetch => (64, { fetch := true, tag := false })
  | .write n _ => (n, { write := true })
  | .atomic wide _ _ => (if wide then 8 else 4, { write := true, atomic := true })
  | .cas n _ _ => (n, { write := true, atomic := true })
  | .patom _ _ => (8, { write := true, atomic := true })
  | .page => (1, { tag := false })
  | .tagset _ => (32, { write := true, tag := false, kvm := true })
  | .tagget => (1, { tag := false })
  | .prefixDir _ | .signal _ _ => (1, {})

/-- KINDS bits of a parked request (R257). -/
def remoteKinds : RemoteOp → BitVec 8
  | .write _ _ | .tagset _ => 0x22
  | .atomic _ _ _ | .cas _ _ _ | .patom _ _ => 0x28
  | .page => 0x60
  | .fetch => 0x24
  | _ => 0x21

/-- The pointer of a request in this module's private space (R95). -/
def remoteEa (m : RemoteMsg) : Dword := BitVec.ofNat 64 (m.tag.toNat * 2 ^ 60 + m.va.toNat)

/-- A request performs at its home (R208, R222, R223). -/
def State.remotePerform (s : State) (m : RemoteMsg) (loc : Loc) (n : Nat) : State × Served :=
  let via := m.redirected || loc.leaf.fwd
  let ok (s : State) (data : List Byte) : State × Served := (s, .reply .none via data)
  let changes := (remoteAsks m.op).2.write
  if s.farHeld none loc.asid (lineOf loc.va) changes then (s, .wait)
  else if changes ∧ loc.leaf.repl then (s.askCollapse 0 loc.asid loc.va, .wait)
  else
    let bytes := s.readAt loc.pa n
    match m.op with
    | .read _ | .probe _ | .fetch => ok (if loc.place = .window then s else s.agentTouch loc.pa n) bytes
    | .write _ data =>
      if s.quietAt loc.pa then (s, .wait) else ok (s.writeAt loc.pa (leBytes n data.toNat)) []
    | .atomic wide member b =>
      let r := rmwValue member wide (BitVec.ofNat 64 (leNat bytes)) b
      ok (s.softWrite loc.pa (leBytes n r.1.toNat)) bytes
    | .cas _ old new =>
      ok (if leNat bytes = old.toNat % 2 ^ (8 * n) then s.softWrite loc.pa (leBytes n new.toNat)
          else s.agentTouch loc.pa n) bytes
    | .patom f b =>
      if !s.capUnits.getLsbD 2 then (s, .reply .unitAbsent via [])
      else match s.hac.find? f with
      | none => (s, .reply .protection via [])
      | some code =>
        let base := loc.pa / 64 * 64
        match hacRun code (s.view base 64) (remoteEa m) b m.asid with
        | none => (s, .reply .fatal via [])
        | some (line, r) => ok (s.softWrite base line) (leBytes 8 r.toNat)
    | .tagset k =>
      if !loc.leaf.tagen ∨ !loc.leaf.w then (s, .reply .protection via [])
      else ok (s.tagRange loc.asid loc.va k m.tag) []
    | .tagget => ok s [if loc.leaf.tagen then (s.tagAt loc.asid loc.va).setWidth 8 else 0]
    | _ => ok s []

/-- The page that a request names has FWD = 1 (R101, R260). -/
def State.redirects (s : State) (m : RemoteMsg) : Bool :=
  let sp := spaceOf m.asid (remoteEa m)
  let va := m.va.toNat
  match (s.l2Hit 0 sp va).map fun l => Walked.leaf l.leaf with
  | some (.leaf l) => l.fwd
  | _ => match ((s.xc.find? (parkKey 0 sp va)).map Walked.leaf).getD (s.walk sp va) with
    | .leaf l => l.fwd
    | .fault _ => false

/-- A request is translated, checked and performed, redirected or parked (R95, R101, R155, R159, R260, R344). -/
def State.serve (s : State) (m : RemoteMsg) : State × Served :=
  match m.op with
  | .prefixDir p =>
    match s.pfxServe 0 p with
    | (s, .ok bs) => (s, .reply .none false bs)
    | (s, .error (.err _)) => (s, .reply .fatal false [])
    | (s, .error (.park _ x)) => (s, .park 0x30 x)
    | (s, .error _) => (s, .wait)
  | .signal t b => (s.takeSignal m.asid t b, .reply .none m.redirected [])
  | .page =>
    match s.xlate 0 m.asid m.va.toNat with
    | (s, .leaf _) => (s, .reply .none m.redirected [])
    | (s, .fault x) => (s, .park (remoteKinds m.op) x)
  | op =>
    let (n, q) := remoteAsks op
    let fwd := s.redirects m
    if m.redirected ∧ fwd then (s, .reply .fatal true [])
    else match s.check 0 m.asid (remoteEa m) n q with
    | (s, .trap c) => (s, .reply (errOf c) (m.redirected || fwd) [])
    | (s, .park x) =>
      let probe := match op with
        | .probe _ => !x
        | _ => false
      if probe then (s, .reply .notResident m.redirected []) else (s, .park (remoteKinds op) x)
    | (s, .remote peer) => if m.redirected then (s, .reply .fatal true []) else (s, .forward peer)
    | (s, .ok loc) => s.remotePerform m loc n

/-- The request that a module passes on to the peer of a FWD page, which is resident (R155, R260). -/
def passedOn : RemoteOp → RemoteOp
  | .probe n => .read n
  | op => op

/-- The code of an answer in a packet; the manual gives packets no layout (log 18). -/
def errCode : RemoteErr → Nat
  | .none => 0 | .fatal => 1 | .protection => 2 | .tagMismatch => 3 | .unitAbsent => 4 | .notResident => 5
  | .alignment => 6

/-- A packet of this module leaves for another (R342). -/
def State.sendPacket (s : State) (dst vc : Nat) (payload : List Byte) : State :=
  { s with packets := s.packets ++ [{ src := s.dev.toNat, dst, hops := 0, vc, path := 0, payload }] }

/-- The request is answered, and what the module kept of it goes. -/
def State.answer (s : State) (id : Option Nat) (m : RemoteMsg) (x : Served) : State :=
  let keep (s : State) (park : Nat) : State :=
    let r : RemoteIn := { msg := m, park, notice := s.timeNs }
    match id with
    | some id => { s with remoteIn := s.remoteIn.set id r }
    | none => { s with remoteIn := s.remoteIn.set s.nextId r, nextId := s.nextId + 1 }
  let gone (s : State) : State := match id with
    | some id => { s with remoteIn := s.remoteIn.erase id }
    | none => s
  match x with
  | .reply err redirected data =>
    -- the request's number, and this module's number of the event (R344, log 18)
    ((gone s).sendPacket m.src 1 (leBytes 8 m.seq ++ leBytes 8 s.nextId ++ leBytes 1 (errCode err) ++
      [if redirected then 1 else 0] ++ data)).fresh
  | .park kinds malformed => keep (s.parkOn 0 m.asid m.va.toNat kinds malformed) (parkKey 0 m.asid m.va.toNat)
  | .forward peer =>
    -- kept under a name of its own until it is acknowledged (R343)
    let p : Packet := { src := s.dev.toNat, dst := peer, hops := 0, vc := 0, path := 0,
                        payload := requestBytes m.src m.seq m.asid (remoteEa m) (passedOn m.op) true }
    ((gone s).sendRequest s.nextId p).fresh
  | .wait => keep s 0

/-- REMOTE_REQUEST: a request arrives, or one that waits here is tried again; a duplicate of one that has arrived is
discarded (R261, R343, R344). -/
def State.remoteRequest (s : State) (m : RemoteMsg) : State :=
  let name := (m.src, m.seq, m.redirected)
  match List.find? (fun (x : Nat × RemoteIn) => x.2.msg = m) s.remoteIn with
  | some (id, r) =>
    if r.park ≠ 0 then s else match s.serve m with
      | (s, x) => s.answer (some id) m x
  | none =>
    if s.heard.contains name then s
    else match ({ s with heard := name :: s.heard } : State).serve m with
      | (s, x) => s.answer none m x

/-- Every request to a module that it has not acknowledged is sent again, in the original order, before anything else of
its class (R343). -/
def State.resendTo (s : State) (target : Nat) : State :=
  let again := (s.sent.filter fun x => x.2.dst = target).map Prod.snd
  { s with packets := again ++ s.packets.filter fun p => !again.contains p }

/-- KEEP_WAITING_NOTICE: every 100 µs the requester of a parked request is told (R261). -/
def State.keepWaiting (s : State) (id : Nat) : State :=
  match s.remoteIn.find? id with
  | some r =>
    if s.timeNs < r.notice + 100000 then s
    else { s with remoteIn := s.remoteIn.set id { r with notice := s.timeNs } }.sendPacket r.msg.src 1 [0xFF#8]
  | none => s

/-! ## Replies to this module -/

/-- The trap of an answer (R103, R150, R223, R261). -/
def errCause : RemoteErr → Nat
  | .protection => Cause.protection
  | .tagMismatch => Cause.tagMismatch
  | .unitAbsent => Cause.unitAbsent
  | .alignment => Cause.alignment
  | _ => Cause.fatalMemory

/-- What ends a request: data, an error with its trap and its code of R167, or a page that is not resident. -/
inductive Ending where
  | data (bs : List Byte)
  | fails (cause code : Nat)
  | absent
  deriving DecidableEq, Repr

/-- Bytes of an answer, as many as were asked for. -/
def fit (n : Nat) (bs : List Byte) : List Byte := (bs ++ List.replicate n 0).take n

/-- A load's request ends (R151, R155, R208). -/
def State.endLoad (s : State) (core : Nat) (r : LoadReq) (x : Ending) : State :=
  match x with
  | .data bs => ((s.dropLoad core r).landLoad core r ((s.group core r.place).merge r (fit r.size bs))).afterAccess core r.place
  | .fails cause _ => (s.pendLoad core r cause).afterAccess core r.place
  | .absent =>
    ((s.dropLoad core r).landThread core r.place r.lane fun t => if t.live then zeroLoad r.dest t else t).afterAccess
      core r.place

/-- A load of a saved workgroup ends in its image (R333). -/
def Image.endLoad (i : Image) (places : List Nat) (r : LoadReq) (x : Ending) : Image :=
  let j := (places.findIdx? (· = r.place)).getD 0
  let g := i.groups.get {} j
  let owe (t : Thread) (cause : Nat) : Thread :=
    { t with pending := t.pending ++ [{ cause, word := r.word, addr := r.ea, unit := r.unit, res := r.res }] }
  let g := match x, r.dest with
    | .data bs, .uni sz d => g.ws d (uniLoad sz (fit r.size bs))
    | .data bs, .vec sz d => g.modThread r.lane fun t => if t.live then t.putLoad sz d (fit r.size bs) else t
    | .data bs, .probe sz d pd => g.modThread r.lane fun t =>
        if t.live then let t := t.putLoad sz d (fit r.size bs); { t with p := putPred t.p pd true } else t
    | .data bs, .tile d _ _ => g.modThread r.lane fun t => if t.live then t.putLoad 5 d (fit r.size bs) else t
    | .data bs, .tag d => g.modThread r.lane fun t => if t.live then t.wv d (BitVec.ofNat 32 (blkNat bs 0 1)) else t
    | .fails cause _, _ => g.modThread r.lane fun t => if t.live then owe t cause else t
    | .absent, d => g.modThread r.lane fun t => if t.live then zeroLoad d t else t
  { i with loads := i.loads.filter fun y => y.id ≠ r.id, groups := i.groups.set j g }

/-- A queued access's request ends. What was sent as a read, its region having aborted, counts no event (R88). A signal that fails is lost; a store that times out after its thread has ended
leaves no status (R219, R258, R261, R352). -/
def State.endAcc (s : State) (core place : Nat) (u : SqUnit) (a : SqAcc) (x : Ending) : State :=
  let s := match x with
    | .data bs =>
      let es := if bs.isEmpty ∨ a.dropped then [] else (u.op.apply a u.size (fit u.size bs)).2.2
      (s.landAcc core place u a bs).countAway core (s.accOrigin core place u a) es
    | .fails cause _ =>
      if u.op = SqOp.rsig ∨ (cause = Cause.remoteTimeout ∧ !(s.findThread core place a.lane).live) then
        s.setAcc core place u.serial a.lane fun a => { a with done := true }
      else s.failAcc core place u a cause
    | .absent => s.failAcc core place u a Cause.fatalMemory
  s.afterAccess core place

/-- The operation is still at its reads. -/
def EngOp.reading (o : EngOp) : Bool :=
  match o.kind with
  | .tt _ => !o.done && o.reason != 1
  | _ => !o.done && !o.started

/-- An engine operation's request ends (R167, R261). A command that times out ends with code 6. -/
def State.endOp (s : State) (id : Nat) (o : EngOp) (r : RemoteReq) (x : Ending) : State :=
  let o := { o with remote := none }
  if o.kind = .pgreq ∧ o.elems.any (fun e => e.1 = 1 ∧ e.2.1 = BitVec.ofNat 64 id) then
    let o := match x with
      | .data _ => o
      | _ => o.note 1
    s.setOp { o with elems := o.elems.filter fun e => !(e.1 = 1 ∧ e.2.1 = BitVec.ofNat 64 id) }
  else match x with
  | .data bs =>
    if o.reading then s.setOp { o with got := o.got ++ [(r.ea, bs)] }
    else if o.done then s.setOp { o with acked := true }
    else
      -- a combining add of SCAT counts its events here (R88, R175)
      let w := o.writing
      let es := match w.2[o.cursor]? with
        | some m => if w.1.mode = 0 then [] else (combine w.1.mode (fit 4 bs) (s.moveBytes o w.1 m)).2
        | none => []
      (s.setOp { o with cursor := o.cursor + 1 }).countOp o es
  | .fails cause code =>
    if o.done then
      (s.noteSkipped o.asid).setOp { (if o.err = 0 then { o with err := code } else o) with acked := true }
    else if cause = Cause.remoteTimeout then
      match o.kind with
      | .tt _ => s.ttEnd o 13 6 []
      | .smpl _ _ | .tasknew _ => s.setOp { o with err := 6 }
      | .pgreq => (s.noteSkipped o.asid).dropOp o.id
      | _ => s.setOp { o.note 6 with started := true, done := true }
    else if o.reading then s.setOp { o.note code with got := o.got ++ [(r.ea, [])] }
    else if o.kind = .pgreq then (s.noteSkipped o.asid).dropOp o.id
    else s.setOp { o.note code with cursor := o.cursor + 1 }
  | .absent => s.setOp { o.note 1 with got := o.got ++ [(r.ea, [])] }

/-- A thread's POLL or fetch whose request ends. -/
def State.endWait (s : State) (id core place lane : Nat) (r : RemoteReq) (w : Waiting) (x : Ending) : State :=
  match w.kind with
  | .poll a _ backoff =>
    if a.remote ≠ some id then s
    else match x with
      | .data bs => s.pollBytes core place lane a backoff (fit a.size bs)
      | .fails cause _ => s.pollFails core place lane a cause
      | .absent => s.pollFails core place lane a Cause.fatalMemory
  | .fetch key =>
    if key ≠ remoteFetch id then s
    else
      let s := s.modThread core place lane fun t => { t with waits := t.waits.filter fun y => y.kind ≠ .fetch key }
      let f : Fetched := match x with
        | .data bs => fetched (fit 64 bs)
        | .fails cause _ => .trap cause
        | .absent => .trap Cause.fatalMemory
      s.giveLine core r.asid r.ea [(place, lane)] f
  | _ => s

/-- The core that a request's reply lands at: where the thread or the operation that made it is now, else the core that
sent it (R208, R333). -/
def State.asker (s : State) (id core : Nat) : Nat :=
  let mine (k : Nat × Core) : Bool :=
    k.2.loads.any (fun y => y.remote = some id) ||
      k.2.groups.any fun g => g.2.sq.any fun u => u.accs.any fun a => a.remote = some id
  match List.find? mine s.cores with
  | some k => k.1
  | none => ((s.ops.find? fun o => o.remote = some id).map EngOp.core).getD core

/-- A packet has been acknowledged, and is not sent again (R343). -/
def State.acknowledged (s : State) (id : Nat) : State := { s with sent := s.sent.filter fun x => x.1 ≠ id }

/-- A request of this module ends: whoever made it goes on (R208, R261, R333). -/
def State.endRemote (s : State) (id : Nat) (x : Ending) : State :=
  match s.remotes.find? id with
  | none => s
  | some r =>
    let s := { s.acknowledged id with remotes := s.remotes.erase id }
    let s := s.cores.foldl (fun s k =>
      let s := k.2.loads.foldl (fun s y => if y.remote = some id then s.endLoad k.1 y x else s) s
      k.2.groups.foldl (fun s g =>
        let s := g.2.sq.foldl (fun s u => u.accs.foldl (fun s a =>
          if a.remote = some id then s.endAcc k.1 g.1 u a x else s) s) s
        g.2.lanes.foldl (fun s t => t.2.waits.foldl (fun s w => s.endWait id k.1 g.1 t.1 r w x) s) s) s) s
    let land (i : Image) : Image := i.loads.foldl (fun (i : Image) y =>
      if y.remote = some id then i.endLoad (s.wg i.wg).places y x else i) i
    let s := { s with images := s.images.mapVals fun _ i => land i }
    let s := s.ops.foldl (fun s o =>
      if o.remote = some id ∨ (o.kind = .pgreq ∧ o.elems.any fun e => e.1 = 1 ∧ e.2.1 = BitVec.ofNat 64 id) then
        s.endOp id o r x else s) s
    { s with tasks := s.tasks.mapVals fun _ t =>
      if t.remote ≠ some id then t
      else match x with
        | .data bs => { t with remote := none, got := t.got ++ [(r.ea, bs)] }
        | _ => { t with remote := none, cancelled := true } }

/-- REMOTE_REPLY, with the target's number of the event, which lands at the core that asked (R155, R165, R208, R260, R344).
Without a request of the name it acknowledges a packet that is not answered otherwise (R343, log 18). A reply aimed at a
quiesced core is held at its source: the core's wait goes on (R262). -/
def execRemoteReply (id : Nat) (data : List (BitVec 8)) (redirected : Bool) (ending : RemoteEnd) (s : State) : Out :=
  match s.remotes.find? id with
  | none => .next (s.acknowledged id)
  | some r =>
    let c := s.asker id r.core
    .next (if (s.core c).quiesced then s
    else
      let s := s.modCore c fun k => { k with landed := max k.landed ending.number
                                             redirects := if redirected then k.redirects + 1 else k.redirects }
      s.endRemote id (match ending.err with
        | .none => .data data
        | .notResident => .absent
        | e => .fails (errCause e) (codeOf (errCause e))))

/-- The timer of a request has run out: the request is abandoned (R261). -/
def State.remoteTimeout (s : State) (id : Nat) : State := s.endRemote id (.fails Cause.remoteTimeout 6)

/-- REMOTE_TIMEOUT: the 2 ms timer of a request runs out (R261). -/
def execRemoteTimeout (id : Nat) (s : State) : Out :=
  .next (match s.remotes.find? id with
    | some r => if r.deadline ≤ s.timeNs then s.remoteTimeout id else s
    | none => s)

/-- KEEP_WAITING_RECEIPT: the requester's timer starts again (R261). -/
def execKeepWaitingReceipt (id : Nat) (s : State) : Out :=
  .next (match s.remotes.find? id with
    | some r => { s with remotes := s.remotes.set id { r with deadline := s.timeNs + remoteTimer } }
    | none => s)

/-- KEEP_WAITING_NOTICE (R261). -/
def execKeepWaitingNotice (id : Nat) (s : State) : Out := .next (s.keepWaiting id)

/-- REMOTE_REQUEST (R344). -/
def execRemoteRequest (r : RemoteMsg) (s : State) : Out := .next (s.remoteRequest r)

end Sys2Proof.Machine
end

