-- ==== Sys2Proof/Machine/Fabric.lean ====
section
/-! DEFINITION. The router and the fabric manager: packets, failed links and failed modules (R341 to R345), and remote
signals that arrive here (R352). -/

namespace Sys2Proof.Machine

/-! ## Routes (R341) -/

/-- Path k of an entry of the route table. -/
def routePath (e : Dword) (k : Nat) : BitVec 17 := e.extractLsb' (1 + 17 * k) 17

/-- The path in use: SEL 3 is treated as 0. -/
def routeSel (e : Dword) : Nat := bitsNat e 54 53 % 3

/-- The hop count of a path, and the link of a hop. -/
def pathHops (p : BitVec 17) : Nat := bitsNat p 16 15
def pathLink (p : BitVec 17) (hop : Nat) : Nat := bitsNat p (14 - 5 * hop) (10 - 5 * hop)

/-- The links of a path, from this module on. -/
def pathLinks (p : BitVec 17) : List Nat := (List.range (pathHops p)).map (pathLink p)

/-- Packets that are kept in their order: of one class, from one core, to one module (R343). -/
def sameFlow (p q : Packet) : Bool := p.src = q.src && p.core = q.core && p.dst = q.dst && p.vc % 2 = q.vc % 2

/-- PACKET_FORWARD: the packet leaves on the link of its hop; a packet of this module gets the selected path first, and
leaves after those sent before it. It waits for a link that is down; another module's packet is then lost, and its source
sends it again (R341 to R343). -/
def State.forward (s : State) (p : Packet) : State :=
  let mine := (s.packets.find? fun q => sameFlow q p) = some p
  let own := p.src = s.dev.toNat ∧ p.hops = 0
  let e := s.routes.get 0 p.dst
  let path := if own then routePath e (routeSel e) else p.path
  let gone : State := { s with packets := s.packets.erase p }
  if own ∧ !mine then s
  else if p.dst = s.dev.toNat ∨ e.getLsbD 0 ∨ 2 < p.hops ∨ pathHops path ≤ p.hops ∨ (own ∧ !e.getLsbD 52) then gone
  else if s.linksDown.contains [pathLink path p.hops] then (if own then s else gone)
  else { gone with wire := s.wire ++ [(pathLink path p.hops, { p with hops := p.hops + 1, vc := 2 * p.hops + p.vc % 2, path })] }

/-- PACKET_FORWARD (R341, R342). -/
def execPacketForward (p : Packet) (s : State) : Out := .next (s.forward p)

/-! ## Failures -/

/-- Every request to a module ends as if its timer had run out (R343, R345). -/
def State.timeOutTo (s : State) (target : Nat) : State :=
  (s.remotes.filter fun r => r.2.target = target).foldl (fun s r => s.remoteTimeout r.1)
    { s with sent := s.sent.filter fun x => x.2.dst ≠ target }

/-- A path is there, and its links are all up. -/
def State.pathUp (s : State) (p : BitVec 17) : Bool :=
  pathHops p ≠ 0 && !s.linksDown.any fun d => d.isPrefixOf (pathLinks p)

/-- A route whose selected path uses a failed link moves to the next path whose links are all up, or loses V (R343). -/
def State.reroute (s : State) (links : List Nat) (m : Nat) (e : Dword) : State :=
  let uses (k : Nat) : Bool := links.isPrefixOf (pathLinks (routePath e k))
  let up (k : Nat) : Bool := s.pathUp (routePath e k)
  if e.getLsbD 0 ∨ !e.getLsbD 52 ∨ !uses (routeSel e) then s
  else match [(routeSel e + 1) % 3, (routeSel e + 2) % 3].find? up with
    | some k => ({ s with routes := s.routes.set m (putBits e 54 53 k) }).resendTo m
    | none => ({ s with routes := s.routes.set m (putBits e 52 52 0) }).timeOutTo m

/-- LINK_FAILURE of one of the module's 32 links, or of a link further on, which a path of links names (R343). -/
def execLinkFailure (links : List Nat) (s : State) : Out :=
  .next (if links.isEmpty ∨ 3 < links.length ∨ links.any (32 ≤ ·) ∨ s.linksDown.contains links then s
    else
      let s := { s with linksDown := links :: s.linksDown }
      s.routes.foldl (fun s r => s.reroute links r.1 r.2) s)

/-- A collective in flight of which a module is a rank. -/
def State.collOf (s : State) (m : Nat) (o : EngOp) : Bool :=
  o.kind = .coll && !o.done &&
    (List.range (s.nrank (blkNat o.blk 2 2))).any fun r => s.rankModule (blkNat o.blk 2 2) r = m

/-- MODULE_FAILURE: requests to the module end, its collectives complete with code 9, and its number is mapped to the
spare module, where there is one (R345). -/
def State.moduleFails (s : State) (failed spare : Nat) : State :=
  let s := s.timeOutTo failed
  let end_ (o : EngOp) : EngOp :=
    if s.collOf failed o then { o.note 9 with started := true, done := true, park := none, remote := none } else o
  let s : State := { s with ops := s.ops.map end_, heard := s.heard.filter fun x => x.1 ≠ failed }
  if spare < 320 ∧ spare ≠ failed ∧ (s.routes.get 0 spare).getLsbD 52 then
    { s with routes := s.routes.set failed (s.routes.get 0 spare), failed := s.failed.filter (· ≠ failed) }
  else
    { s with routes := s.routes.set failed (putBits (s.routes.get 0 failed) 52 52 0)
             failed := failed :: s.failed.filter (· ≠ failed) }

/-- MODULE_FAILURE (R345). -/
def execModuleFailure (failed spare : Nat) (s : State) : Out :=
  .next (if 320 ≤ failed ∨ failed = s.dev.toNat then s else s.moduleFails failed spare)

/-! ## Signals that arrive (R352) -/

/-- RSIG_ARRIVAL: the counter rises, where the access can be performed, or waits on its page; a task in the requester's
range is decremented. A signal that has arrived before is discarded (R343, R352, R380). -/
def execRsigArrival (r : RsigMsg) (s : State) : Out :=
  let name := (r.src, r.seq, false)
  .next (if s.heard.contains name then s
    else
    -- the acknowledgement: whether the signal can be performed is not told (R380)
    let s := ({ s with heard := name :: s.heard } : State).sendPacket r.src 1 (leBytes 8 r.seq)
    if r.kind = 0 then
      let ea : Dword := if r.target.getLsbD 56 then
          BitVec.ofNat 64 (bitsNat r.target 63 60 * 2 ^ 60 + bitsNat r.target 46 0)
        else r.target
      let o : EngOp := { id := s.nextId, kind := .pgreq, asid := r.asid, target := ea,
                         task := 2 ^ 32, blk := leBytes 8 (r.operand &&& 0x7FFFFFFFFFFFFFFF#64).toNat }
      (s.pushOp o).pgreqComplete o
    else s.takeSignal r.asid r.target r.operand)

end Sys2Proof.Machine
end

