-- ==== Sys2Proof/Machine/Segments.lean ====
section
/-! DEFINITION. Deterministic launches: the flush and its order (R213, R241, R242), segments (R212, R241), their
watchdog and their pre-emption at a flush (R335). -/

namespace Sys2Proof.Machine

/-! ## Waves and segments (R212) -/

/-- The waves of a launch. -/
def State.waves (s : State) (task : Nat) : Tab Wg := s.wgs.filter fun x => x.2.task = task

/-- The wave with a number. -/
def State.waveWg (s : State) (task wave : Nat) : Option (Nat × Wg) :=
  List.find? (fun (x : Nat × Wg) => x.2.task = task && x.2.wave = wave) s.wgs

/-- The wave has another workgroup after the one it runs. -/
def Launch.hasNext (l : Launch) (x : Wg) : Bool := decide (x.number + l.hdr.waveCount < l.hdr.total)

/-- A wave has executed its DFLUSH for the flush in progress, or has no segment left: every thread of its segment has
arrived or ended, and what they stored has performed (R213, R241). -/
def State.waveArrived (s : State) (l : Launch) (w : Nat) (x : Wg) : Bool :=
  if l.flushes < x.segment then true
  else if x.segment < l.flushes then x.st = .ended && !l.hasNext x
  else x.st = .ended || (x.st = .running && (s.wgGroups w).all fun g =>
    g.2.sq.isEmpty && g.2.lanes.all fun t => !t.2.live || t.2.arrivedAt (.dflush l.flushes))

/-- What is queued for the places of a wave, what its engine operations do and its MMAs have performed (R213, R283). -/
def State.waveStored (s : State) (w : Nat) : Bool := s.wgStored w && !s.wgMma w && s.ops.all fun o => o.wg ≠ w

/-! ## The flush (R213) -/

/-- The order of the records: logical block, wave, thread, issue sequence. -/
def DetRec.key (r : DetRec) : Nat := ((r.block * 2 ^ 32 + r.wave) * 2 ^ 16 + r.thread) * 2 ^ 64 + r.seq

/-- The records of a launch, with the cores that hold them, in the order of the flush. -/
def State.detRecords (s : State) (task : Nat) : List (Nat × DetRec) :=
  sortBy (fun r => r.2.key) (s.cores.flatMap fun k =>
    (k.2.det.filter fun r => s.taskOf k.1 r.place = task).map fun r => (k.1, r))

/-- A record leaves its core's buffer, or is changed in it. -/
def State.setDet (s : State) (core : Nat) (r : DetRec) (new : Option DetRec) : State :=
  s.modCore core fun k => { k with det := k.det.filterMap fun x => if x = r then new else some x }

/-- A record that cannot be applied: its thread is owed the trap, or the launch the status (R242, R258, R259). -/
def State.failDet (s : State) (core : Nat) (r : DetRec) (cause : Nat) : State :=
  let s := s.setDet core r none
  let t := s.findThread core r.place r.lane
  if t.live then
    s.landThread core r.place r.lane fun t =>
      { t with pending := t.pending ++ [{ cause, word := r.word, addr := r.ea, unit := r.unit, res := r.res }] }
  else (s.noteDropped r.asid r.ea).noteStatus (s.taskOf core r.place) 3 (codeOf cause) 0

/-- Where a record comes from. -/
def State.detOrigin (s : State) (core : Nat) (r : DetRec) : Origin :=
  let g := s.group core r.place
  { wg := g.wg, grp := g.index, lane := r.lane, word := r.word, unit := r.unit, issued := r.issued }

/-- One record is applied at its home, atomically (R213, R217); the answer says that the flush may go on. -/
def State.applyDet (s : State) (core : Nat) (r : DetRec) : State × Bool :=
  if r.park.isSome then (s, false)
  else
    let size := if r.wide then 8 else 4
    match s.check (dieOf core) r.asid r.ea size { write := true, atomic := true } with
    | (s, .trap c) => (s.failDet core r c, true)
    | (s, .remote _) => (s.failDet core r Cause.protection, true)
    | (s, .park m) =>
      let sp := spaceOf r.asid r.ea
      let va := bitsNat r.ea 56 0
      ((s.parkOn (dieOf core) sp va 8 m).setDet core r (some { r with park := some (parkKey (dieOf core) sp va) }), false)
    | (s, .ok loc) =>
      if s.farHeld none loc.asid (lineOf loc.va) true then (s, false)
      else if loc.leaf.repl then (s.askCollapse (dieOf core) loc.asid loc.va, false)
      else
        let x := rmwValue r.member r.wide (BitVec.ofNat 64 (leNat (s.view loc.pa size))) r.operand
        let s := (s.softWrite loc.pa (leBytes size x.1.toNat)).setDet core r none
        (s.countAway core (s.detOrigin core r) x.2, true)

/-- The records are applied in order, up to one that has to wait. -/
def State.applyDets (s : State) : List (Nat × DetRec) → State × Bool
  | [] => (s, true)
  | (core, r) :: rs =>
    match s.applyDet core r with
    | (s, true) => s.applyDets rs
    | (s, false) => (s, false)

/-- DFLUSH_COMPLETE: once every wave has arrived at the flush, its records are applied in their order, and the
threads that wait continue (R213, R241). -/
def State.flush (s : State) (task : Nat) : State :=
  let l := s.launch task
  let ws := s.waves task
  if !l.hdr.det ∨ !l.go ∨ ws.isEmpty ∨ !ws.all (fun x => s.waveArrived l x.1 x.2 && s.waveStored x.1) ∨
      (ws.all fun x => x.2.st = .ended && decide (x.2.segment < l.flushes)) then s
  else match s.applyDets (s.detRecords task) with
  | (s, false) => s
  | (s, true) =>
    let s := s.release (ws.map Prod.fst) (.dflush l.flushes)
    s.modLaunch task fun l => { l with flushes := l.flushes + 1 }

/-! ## Segments (R212, R241, R335) -/

/-- A wave that is to be saved at this flush is written as an image, instead of starting its next segment; the first
on its core takes the copy of the carve-out (R331, R335). -/
def State.saveWave (s : State) (w : Nat) : State :=
  let x := s.wg w
  let first := s.images.all fun i => !(i.2.core = x.core && i.2.task = x.task && i.2.carve.isSome)
  s.forcedSave w first

/-- SEGMENT_START: every thread of a wave's segment has ended and its flush is over. The wave's next workgroup
instance starts at ENTRY; a wave that has none frees its places (R212, R241). -/
def State.segmentStart (s : State) (task wave : Nat) : State :=
  let l := s.launch task
  match s.waveWg task wave with
  | none => s
  | some (w, x) =>
    if !l.hdr.det ∨ !l.go ∨ l.stopped ∨ x.st ≠ .ended ∨ l.flushes ≤ x.segment ∨ x.places.isEmpty ∨ !s.waveStored w then s
    else if !l.hasNext x then (s.freeWg w).modWg w fun x => { x with places := [] }
    else if l.saveAt = some x.segment then s.saveWave w
    else
      let rbs := x.places.map fun p => (s.group x.core p).rb
      let s := s.modWg w fun x => { x with number := x.number + l.hdr.waveCount, segment := x.segment + 1,
                                           st := .running, segStart := s.timeNs, warned := false }
      s.fillWg w rbs

/-- SEGMENT_WATCHDOG: a segment that runs longer than SEG_BOUND raises WATCHDOG in each of its threads (R335). -/
def State.segmentWatchdog (s : State) (task wave : Nat) : State :=
  let l := s.launch task
  match s.waveWg task wave with
  | none => s
  | some (w, x) =>
    if !l.hdr.det ∨ !l.go ∨ l.stopped ∨ x.st ≠ .running ∨ x.warned ∨ s.timeNs ≤ x.segStart + l.hdr.segBound * 1000 then s
    else (s.modWg w fun x => { x with warned := true }).watchdogWg w 2

/-- DFLUSH_COMPLETE (R213). -/
def execDflushComplete (task : Nat) (s : State) : Out := .next (s.flush task)

/-- SEGMENT_START (R241). -/
def execSegmentStart (task wave : Nat) (s : State) : Out := .next (s.segmentStart task wave)

/-- SEGMENT_WATCHDOG (R335). -/
def execSegmentWatchdog (task wave : Nat) (s : State) : Out := .next (s.segmentWatchdog task wave)

end Sys2Proof.Machine
end

