-- ==== Sys2Proof/Machine/Faults.lean ====
section
/-! DEFINITION. The events of threads that wait: a code line is fetched, numeric events (R45, R89, R90), the regions
(R233 to R236), and the fault gatherer (R257, R259). -/

namespace Sys2Proof.Machine

/-! ## Fetch -/

/-- Threads of a core that stand in a line of an address space and wait for nothing. -/
def State.needLine (s : State) (core : Nat) (asid : BitVec 16) (va : Dword) : List (Nat × Nat) :=
  (s.core core).groups.flatMap fun g =>
    if !g.2.present ∨ (s.launchOf core g.1).asid ≠ asid then []
    else (g.2.live.filter fun l => (g.2.thread l).waits.isEmpty && lineBase (g.2.thread l).pos.pc = va).map fun l => (g.1, l)

/-- CODE_LINE_FETCH: the line is fetched, and checked, for the threads that stand in it (R45). -/
def State.fetchCode (s : State) (core : Nat) (asid : BitVec 16) (va : Dword) : State :=
  let who := s.needLine core asid va
  if who.isEmpty then s else s.fetchFor core asid va who

/-- CODE_LINE_FETCH (R45). -/
def execCodeLineFetch (core : Nat) (asid : BitVec 16) (line : BitVec 64) (s : State) : Out :=
  .next (s.fetchCode core asid (lineBase line))

/-! ## Numeric events (R89, R90) -/

/-- The period of a class has passed a boundary: its count is cleared (R90). -/
def State.restartWindow (s : State) (core cls : Nat) : State :=
  let k := s.core core
  let now := s.clock / 2 ^ (10 + k.winExp cls)
  if cls < 8 ∧ k.epochs.get 0 cls ≠ now then
    s.setCore core { k with
      numEvt := putBits k.numEvt (8 * cls + 7) (8 * cls) 0
      fired := k.fired &&& ~~~ BitVec.ofNat 8 (2 ^ cls)
      epochs := k.epochs.set cls now
      counted := k.counted.filter fun x => x.cls ≠ cls }
  else s

/-- NUMERIC_WINDOW_RESTART (R90). -/
def execNumericWindowRestart (core cls : Nat) (s : State) : Out := .next (s.restartWindow core cls)

/-- NUMERIC_THRESHOLD_TRAP: a thread that is owed the trap raises it at a packet boundary (R90). -/
def execNumericThresholdTrap (core place lane : Nat) (s : State) : Out :=
  let t := s.thread core place lane
  .next (match t.dueTrap with
    | some p =>
      if t.live ∧ p.cause = Cause.numericThreshold ∧ t.waits.isEmpty ∧ (s.group core place).present then
        s.takePending core place lane
      else s
    | none => s)

/-- NUM_EVT_CLEAR (R89). -/
def execNumEvtClear (core : Nat) (val : BitVec 64) (s : State) : Out := .next (s.modCore core fun k => k.writeEvt val)

/-! ## Regions -/

/-- A thread that waits in FARE learns that its region has committed (R234). -/
def Thread.fareDone (t : Thread) : Thread :=
  match t.waits.findSome? fun w => match w.kind with
    | .fare pd => some pd
    | _ => none with
  | some pd => { t with p := putPred t.p pd true, waits := t.waits.filter fun w => w.kind ≠ .fare pd }
  | none => t

/-- The region of a thread with its instance, slot and record. -/
def State.openRegion (s : State) (core place lane : Nat) : Option (InstRef × Nat × Region) :=
  let t := s.thread core place lane
  if !t.live ∨ !t.inRegion then none
  else
    let ref := instOf core t.far.dieScope
    ((s.inst ref).regions.find? t.far.slot).map fun r => (ref, t.far.slot, r)

/-- REGION_COMMIT (R210, R234). -/
def execRegionCommit (core place lane : Nat) (s : State) : Out :=
  let t := s.thread core place lane
  .next (match s.openRegion core place lane with
    | none => s
    | some (ref, slot, r) =>
      if t.far.state ≠ 2 ∨ !(s.inst ref).oldest r.order ∨ r.waiting ∨ Config.farMaxClocks < s.clock - t.farSince ∨
          !s.fenceDone core place lane s.nextId ∨ !(t.waits.all fun w => match w.kind with | .fare _ => true | _ => false)
      then s
      else (s.farCommit ref slot).modThread core place lane Thread.fareDone)

/-- ABORT_TARGET_RESUME: the loads that were outstanding at the abort, and the reads of its atomics, have landed (R235,
R237). -/
def execAbortTargetResume (core place lane : Nat) (s : State) : Out :=
  let t := s.thread core place lane
  .next (if (s.group core place).present ∧ t.waits.any (fun w => w.kind = .landing) ∧
      !(s.core core).loads.any (fun r => r.place = place && r.by [lane]) ∧
      !(s.group core place).sq.any (fun u => u.op.returns && u.accs.any fun a => a.lane = lane && a.dropped && !a.done) then
      s.modThread core place lane fun t =>
        { t with waits := t.waits.filter fun w => w.kind ≠ .landing, since := s.clock }
    else s)

/-- REGION_IRREVOCABLE: a region that waits for it is the oldest of its instance: it goes on irrevocably (R233). -/
def execRegionIrrevocable (core place lane : Nat) (s : State) : Out :=
  .next (match s.openRegion core place lane with
    | none => s
    | some (ref, slot, r) =>
      if r.irrev ∨ !(s.inst ref).oldest r.order ∨
          !(s.thread core place lane).waits.any (fun w => w.kind = .irrevocable) then s
      else s.farIrrevocable ref slot)

/-- REGION_WATCHDOG (R236). -/
def execRegionWatchdog (core place lane : Nat) (s : State) : Out :=
  let t := s.thread core place lane
  .next (match s.openRegion core place lane with
    | none => s
    | some (ref, slot, r) =>
      -- clocks of a halt or of a stop at BRK do not count: they are credited when it ends
      if s.clock - t.farSince < Config.farMaxClocks ∨ (s.core core).halted ∨ t.waits.any (fun w => w.kind = .brk) then s
      else if r.irrev then
        ((s.farCommit ref slot).modThread core place lane Thread.fareDone).watchdogTrap core place lane 0
      else s.farAbort ref slot 4)

/-! ## Faults -/

/-- FAULT_WINDOW_CLOSE: a window that has reached its length, or is full, becomes a batch (R257). -/
def execFaultWindowClose (die : Nat) (s : State) : Out :=
  let g := s.gatherer die
  .next (match g.opened with
    | some t => if t + g.window ≤ s.timeNs ∨ g.entries.length ≥ 1024 then s.closeWindow die else s
    | none => s)

/-- ASID_DESTROY: the address space has no root any more; what is parked for a thread that has ended is dropped and
recorded, and its launch completes with status 3 (R259). -/
def execAsidDestroy (asid : BitVec 16) (s : State) : Out :=
  let s := { s with asidRoot := s.asidRoot.erase asid.toNat
                    tagged := s.tagged.filter fun x => x.1 / 2 ^ 41 ≠ asid.toNat }
  let s := s.cores.foldl (fun s k => k.2.groups.foldl (fun s g => g.2.sq.foldl (fun s u =>
    if u.asid ≠ asid then s
    else u.accs.foldl (fun s a =>
      if a.park.isNone ∨ a.done ∨ (s.findThread k.1 g.1 a.lane).live then s
      else s.failAcc k.1 g.1 u a Cause.fatalMemory) s) s) s) s
  .next (s.cores.foldl (fun s k => k.2.det.foldl (fun s r =>
    if r.asid ≠ asid ∨ r.park.isNone ∨ (s.findThread k.1 r.place r.lane).live then s
    else s.failDet k.1 r Cause.fatalMemory) s) s)

end Sys2Proof.Machine
end

