-- ==== Sys2Proof/Machine/FloatArith.lean ====
section
/-! DEFINITION. F32, FFMA, F64 and FH: floating arithmetic (R183 to R185) -/

namespace Sys2Proof.Machine

/-- A 32-bit result with the events of its one element. -/
def one32 (r : FR) : Word × List Ev := (BitVec.ofNat 32 r.1, [r.2])

/-- A 64-bit result with the events of its one element. -/
def one64 (r : FR) : Dword × List Ev := (BitVec.ofNat 64 r.1, [r.2])

/-- ADD.f32 with b a register or a pattern (R183). -/
def execAddF32Vv (c : Bool) (d a b : BitVec 7) (s : State) : Out :=
  endUnit c (s.vsetEv d.toNat fun l =>
    one32 (Fmt.f32.add s.cur.pfx.round (f32v (s.v l a)) (f32v (s.bf b l))))

/-- SUB.f32 with b a register or a pattern (R183). -/
def execSubF32Vv (c : Bool) (d a b : BitVec 7) (s : State) : Out :=
  endUnit c (s.vsetEv d.toNat fun l =>
    one32 (Fmt.f32.sub s.cur.pfx.round (f32v (s.v l a)) (f32v (s.bf b l))))

/-- MUL.f32 with b a register or a pattern (R183). -/
def execMulF32Vv (c : Bool) (d a b : BitVec 7) (s : State) : Out :=
  endUnit c (s.vsetEv d.toNat fun l =>
    one32 (Fmt.f32.mul s.cur.pfx.round (f32v (s.v l a)) (f32v (s.bf b l))))

/-- DIV.f32 with b a register or a pattern (R183). -/
def execDivF32Vv (c : Bool) (d a b : BitVec 7) (s : State) : Out :=
  endUnit c (s.vsetEv d.toNat fun l =>
    one32 (Fmt.f32.div s.cur.pfx.round (f32v (s.v l a)) (f32v (s.bf b l))))

/-- MIN.f32 (R81, R183). -/
def execMinF32Vv (c : Bool) (d a b : BitVec 7) (s : State) : Out :=
  endUnit c (s.vset d.toNat fun l =>
    BitVec.ofNat 32 (Fmt.f32.minmax false (s.v l a).toNat (s.bf b l).toNat))

/-- MAX.f32 (R81, R183). -/
def execMaxF32Vv (c : Bool) (d a b : BitVec 7) (s : State) : Out :=
  endUnit c (s.vset d.toNat fun l =>
    BitVec.ofNat 32 (Fmt.f32.minmax true (s.v l a).toNat (s.bf b l).toNat))

/-- SCALE.f32: a · 2^n, n the signed second source (R183). -/
def execScaleF32Vv (c : Bool) (d a b : BitVec 7) (s : State) : Out :=
  endUnit c (s.vsetEv d.toNat fun l =>
    one32 (Fmt.f32.scale s.cur.pfx.round (f32v (s.v l a)) (s.bf b l).toInt))

/-- ADD.f32 with b uniform (R183). -/
def execAddF32Vs (c : Bool) (d a : BitVec 7) (b : BitVec 5) (s : State) : Out :=
  endUnit c (s.vsetEv d.toNat fun l =>
    one32 (Fmt.f32.add s.cur.pfx.round (f32v (s.v l a)) (f32v (s.bs b))))

/-- SUB.f32 with b uniform (R183). -/
def execSubF32Vs (c : Bool) (d a : BitVec 7) (b : BitVec 5) (s : State) : Out :=
  endUnit c (s.vsetEv d.toNat fun l =>
    one32 (Fmt.f32.sub s.cur.pfx.round (f32v (s.v l a)) (f32v (s.bs b))))

/-- MUL.f32 with b uniform (R183). -/
def execMulF32Vs (c : Bool) (d a : BitVec 7) (b : BitVec 5) (s : State) : Out :=
  endUnit c (s.vsetEv d.toNat fun l =>
    one32 (Fmt.f32.mul s.cur.pfx.round (f32v (s.v l a)) (f32v (s.bs b))))

/-- DIV.f32 with b uniform (R183). -/
def execDivF32Vs (c : Bool) (d a : BitVec 7) (b : BitVec 5) (s : State) : Out :=
  endUnit c (s.vsetEv d.toNat fun l =>
    one32 (Fmt.f32.div s.cur.pfx.round (f32v (s.v l a)) (f32v (s.bs b))))

/-- MIN.f32 (R81, R183). -/
def execMinF32Vs (c : Bool) (d a : BitVec 7) (b : BitVec 5) (s : State) : Out :=
  endUnit c (s.vset d.toNat fun l =>
    BitVec.ofNat 32 (Fmt.f32.minmax false (s.v l a).toNat (s.bs b).toNat))

/-- MAX.f32 (R81, R183). -/
def execMaxF32Vs (c : Bool) (d a : BitVec 7) (b : BitVec 5) (s : State) : Out :=
  endUnit c (s.vset d.toNat fun l =>
    BitVec.ofNat 32 (Fmt.f32.minmax true (s.v l a).toNat (s.bs b).toNat))

/-- SCALE.f32: a · 2^n, n the signed second source (R183). -/
def execScaleF32Vs (c : Bool) (d a : BitVec 7) (b : BitVec 5) (s : State) : Out :=
  endUnit c (s.vsetEv d.toNat fun l =>
    one32 (Fmt.f32.scale s.cur.pfx.round (f32v (s.v l a)) (s.bs b).toInt))

/-- FFMA.f32: a·b + d, rounded once (R184). -/
def execFfmaF32 (c : Bool) (d a b : BitVec 7) (s : State) : Out :=
  endUnit c (s.vsetEv d.toNat fun l =>
    one32 (Fmt.f32.fma s.cur.pfx.round false (f32v (s.v l a)) (f32v (s.bf b l)) (f32v (s.v l d))))

/-- FFMA.f32 with a uniform b (R184). -/
def execFfmaF32S (c : Bool) (d a : BitVec 7) (b : BitVec 5) (s : State) : Out :=
  endUnit c (s.vsetEv d.toNat fun l =>
    one32 (Fmt.f32.fma s.cur.pfx.round false (f32v (s.v l a)) (f32v (s.bs b)) (f32v (s.v l d))))

/-- FFMA.f64 (R184). -/
def execFfmaF64 (c : Bool) (d a b : BitVec 7) (s : State) : Out :=
  endUnit c (s.vset64Ev d.toNat fun l =>
    one64 (Fmt.f64.fma s.cur.pfx.round false (f64v (s.v64 l a)) (f64v (s.v64 l b)) (f64v (s.v64 l d))))

/-- FFMA.f64 with a uniform b (R184). -/
def execFfmaF64S (c : Bool) (d a : BitVec 7) (b : BitVec 5) (s : State) : Out :=
  endUnit c (s.vset64Ev d.toNat fun l =>
    one64 (Fmt.f64.fma s.cur.pfx.round false (f64v (s.v64 l a)) (f64v (s.sr b)) (f64v (s.v64 l d))))

/-- FFMA of packed f16 (R184). -/
def execFfmaF16x2 (c : Bool) (d a b : BitVec 7) (s : State) : Out :=
  endUnit c (s.vsetEv d.toNat fun l => packed2 (fun x y z =>
    Fmt.f16.fma s.cur.pfx.round false (Fmt.f16.val x) (Fmt.f16.val y) (Fmt.f16.val z)) (s.v l a) (s.v l b) (s.v l d))

/-- FFMA of packed bf16 (R184). -/
def execFfmaBf16x2 (c : Bool) (d a b : BitVec 7) (s : State) : Out :=
  endUnit c (s.vsetEv d.toNat fun l => packed2 (fun x y z =>
    Fmt.bf16.fma s.cur.pfx.round false (Fmt.bf16.val x) (Fmt.bf16.val y) (Fmt.bf16.val z)) (s.v l a) (s.v l b) (s.v l d))

/-- FNMA.f32: −(a·b) + d (R184). -/
def execFnmaF32 (c : Bool) (d a b : BitVec 7) (s : State) : Out :=
  endUnit c (s.vsetEv d.toNat fun l =>
    one32 (Fmt.f32.fma s.cur.pfx.round true (f32v (s.v l a)) (f32v (s.bf b l)) (f32v (s.v l d))))

/-- FNMA.f64 (R184). -/
def execFnmaF64 (c : Bool) (d a b : BitVec 7) (s : State) : Out :=
  endUnit c (s.vset64Ev d.toNat fun l =>
    one64 (Fmt.f64.fma s.cur.pfx.round true (f64v (s.v64 l a)) (f64v (s.v64 l b)) (f64v (s.v64 l d))))

/-- ADD.f64 (R183). -/
def execAddF64 (c : Bool) (d a b : BitVec 7) (s : State) : Out :=
  endUnit c (s.vset64Ev d.toNat fun l =>
    one64 (Fmt.f64.add s.cur.pfx.round (f64v (s.v64 l a)) (f64v (s.v64 l b))))

/-- SUB.f64 (R183). -/
def execSubF64 (c : Bool) (d a b : BitVec 7) (s : State) : Out :=
  endUnit c (s.vset64Ev d.toNat fun l =>
    one64 (Fmt.f64.sub s.cur.pfx.round (f64v (s.v64 l a)) (f64v (s.v64 l b))))

/-- MUL.f64 (R183). -/
def execMulF64 (c : Bool) (d a b : BitVec 7) (s : State) : Out :=
  endUnit c (s.vset64Ev d.toNat fun l =>
    one64 (Fmt.f64.mul s.cur.pfx.round (f64v (s.v64 l a)) (f64v (s.v64 l b))))

/-- DIV.f64 (R183). -/
def execDivF64 (c : Bool) (d a b : BitVec 7) (s : State) : Out :=
  endUnit c (s.vset64Ev d.toNat fun l =>
    one64 (Fmt.f64.div s.cur.pfx.round (f64v (s.v64 l a)) (f64v (s.v64 l b))))

/-- MIN.f64 (R81, R183). -/
def execMinF64 (c : Bool) (d a b : BitVec 7) (s : State) : Out :=
  endUnit c (s.vset64 d.toNat fun l =>
    BitVec.ofNat 64 (Fmt.f64.minmax false (s.v64 l a).toNat (s.v64 l b).toNat))

/-- MAX.f64 (R81, R183). -/
def execMaxF64 (c : Bool) (d a b : BitVec 7) (s : State) : Out :=
  endUnit c (s.vset64 d.toNat fun l =>
    BitVec.ofNat 64 (Fmt.f64.minmax true (s.v64 l a).toNat (s.v64 l b).toNat))

/-- SCALE.f64: the second source is a single register (R183). -/
def execScaleF64 (c : Bool) (d a b : BitVec 7) (s : State) : Out :=
  endUnit c (s.vset64Ev d.toNat fun l =>
    one64 (Fmt.f64.scale s.cur.pfx.round (f64v (s.v64 l a)) (s.v l b).toInt))

/-- ADD of packed f16 (R185). -/
def execAddF16x2 (c : Bool) (d a b : BitVec 7) (s : State) : Out :=
  endUnit c (s.vsetEv d.toNat fun l => packed2 (fun x y _ =>
    Fmt.f16.add s.cur.pfx.round (Fmt.f16.val x) (Fmt.f16.val y)) (s.v l a) (s.v l b) 0)

/-- MUL of packed f16 (R185). -/
def execMulF16x2 (c : Bool) (d a b : BitVec 7) (s : State) : Out :=
  endUnit c (s.vsetEv d.toNat fun l => packed2 (fun x y _ =>
    Fmt.f16.mul s.cur.pfx.round (Fmt.f16.val x) (Fmt.f16.val y)) (s.v l a) (s.v l b) 0)

/-- MIN of packed f16 (R81, R185). -/
def execMinF16x2 (c : Bool) (d a b : BitVec 7) (s : State) : Out :=
  endUnit c (s.vset d.toNat fun l =>
    (packed2 (fun x y _ => (Fmt.f16.minmax false x y, 0)) (s.v l a) (s.v l b) 0).1)

/-- MAX of packed f16 (R81, R185). -/
def execMaxF16x2 (c : Bool) (d a b : BitVec 7) (s : State) : Out :=
  endUnit c (s.vset d.toNat fun l =>
    (packed2 (fun x y _ => (Fmt.f16.minmax true x y, 0)) (s.v l a) (s.v l b) 0).1)

/-- ADD of packed bf16 (R185). -/
def execAddBf16x2 (c : Bool) (d a b : BitVec 7) (s : State) : Out :=
  endUnit c (s.vsetEv d.toNat fun l => packed2 (fun x y _ =>
    Fmt.bf16.add s.cur.pfx.round (Fmt.bf16.val x) (Fmt.bf16.val y)) (s.v l a) (s.v l b) 0)

/-- MUL of packed bf16 (R185). -/
def execMulBf16x2 (c : Bool) (d a b : BitVec 7) (s : State) : Out :=
  endUnit c (s.vsetEv d.toNat fun l => packed2 (fun x y _ =>
    Fmt.bf16.mul s.cur.pfx.round (Fmt.bf16.val x) (Fmt.bf16.val y)) (s.v l a) (s.v l b) 0)

/-- MIN of packed bf16 (R81, R185). -/
def execMinBf16x2 (c : Bool) (d a b : BitVec 7) (s : State) : Out :=
  endUnit c (s.vset d.toNat fun l =>
    (packed2 (fun x y _ => (Fmt.bf16.minmax false x y, 0)) (s.v l a) (s.v l b) 0).1)

/-- MAX of packed bf16 (R81, R185). -/
def execMaxBf16x2 (c : Bool) (d a b : BitVec 7) (s : State) : Out :=
  endUnit c (s.vset d.toNat fun l =>
    (packed2 (fun x y _ => (Fmt.bf16.minmax true x y, 0)) (s.v l a) (s.v l b) 0).1)

end Sys2Proof.Machine
end

