-- ==== Sys2Proof/Machine/FloatFun.lean ====
section
/-! DEFINITION. FUN, FCMP and CVT: floating functions, comparisons and conversions (R186 to R190) -/

namespace Sys2Proof.Machine

/-- A one-operand function on f32 registers, or on f64 pairs when `p` is 1 (R186). -/
def State.floatFun (s : State) (d a : BitVec 7) (p : BitVec 1) (f : Fmt → Nat → FR) : State :=
  if p = 0#1 then s.vsetEv d.toNat fun l => one32 (f .f32 (s.v l a).toNat)
  else s.vset64Ev d.toNat fun l => one64 (f .f64 (s.v64 l a).toNat)

/-- A conversion of each lane: a 64-bit type lies in a pair (R190). -/
def State.convert (s : State) (d a : BitVec 7) (t : BitVec 4) (r : BitVec 3) (f : BitVec 4) : State :=
  let val (l : Nat) : Dword × Ev :=
    cvtValue f.toNat t.toNat r.toNat s.cur.pfx.sat (if type64 f then (s.v64 l a).toNat else (s.v l a).toNat)
  if type64 t then s.vset64Ev d.toNat fun l => ((val l).1, [(val l).2])
  else s.vsetEv d.toNat fun l => (cvtNarrow t.toNat (val l).1, [(val l).2])

/-- RCP: 1/a (R79, R186). -/
def execRcp (c : Bool) (d a : BitVec 7) (p : BitVec 1) (s : State) : Out :=
  endUnit c (s.floatFun d a p fun f x => f.rcp s.cur.pfx.round (f.val x))

/-- RSQ: 1/√a (R79, R186). -/
def execRsq (c : Bool) (d a : BitVec 7) (p : BitVec 1) (s : State) : Out :=
  endUnit c (s.floatFun d a p fun f x => f.rsq s.cur.pfx.round (f.val x))

/-- SQRT (R79, R186). -/
def execSqrt (c : Bool) (d a : BitVec 7) (p : BitVec 1) (s : State) : Out :=
  endUnit c (s.floatFun d a p fun f x => f.sqrt s.cur.pfx.round (f.val x))

/-- EXP2.f32 (R79, R186). -/
def execExp2 (c : Bool) (d a : BitVec 7) (s : State) : Out :=
  endUnit c (s.vsetEv d.toNat fun l => one32 (exp2F32 s.cur.pfx.round (f32v (s.v l a))))

/-- LOG2.f32 (R79, R186). -/
def execLog2 (c : Bool) (d a : BitVec 7) (s : State) : Out :=
  endUnit c (s.vsetEv d.toNat fun l => one32 (log2F32 s.cur.pfx.round (f32v (s.v l a))))

/-- SINPI.f32 (R79, R186). -/
def execSinpi (c : Bool) (d a : BitVec 7) (s : State) : Out :=
  endUnit c (s.vsetEv d.toNat fun l => one32 (sinpiF32 s.cur.pfx.round (f32v (s.v l a))))

/-- COSPI.f32 (R79, R186). -/
def execCospi (c : Bool) (d a : BitVec 7) (s : State) : Out :=
  endUnit c (s.vsetEv d.toNat fun l => one32 (cospiF32 s.cur.pfx.round (f32v (s.v l a))))

/-- ABS of a float: the sign cleared (R75, R186). -/
def execAbsFloat (c : Bool) (d a : BitVec 7) (p : BitVec 1) (s : State) : Out :=
  endUnit c (s.floatFun d a p fun f x => (if (f.val x).isNan then f.nanBits else x % f.signBit, 0))

/-- NEG of a float: the sign inverted (R75, R186). -/
def execNegFloat (c : Bool) (d a : BitVec 7) (p : BitVec 1) (s : State) : Out :=
  endUnit c (s.floatFun d a p fun f x => (if (f.val x).isNan then f.nanBits else (x + f.signBit) % (2 * f.signBit), 0))

/-- RND (R187). -/
def execRnd (c : Bool) (d a : BitVec 7) (p : BitVec 1) (s : State) : Out :=
  endUnit c (s.floatFun d a p fun f x => (f.rnd s.cur.pfx.round x, 0))

/-- CLASS: one bit of the mask, in a single register (R187). -/
def execClassF (c : Bool) (d a : BitVec 7) (p : BitVec 1) (s : State) : Out :=
  endUnit c (s.vset d.toNat fun l =>
    BitVec.ofNat 32 (if p = 0#1 then Fmt.f32.classOf (s.v l a).toNat else Fmt.f64.classOf (s.v64 l a).toNat))

/-- FRACT (R187). -/
def execFract (c : Bool) (d a : BitVec 7) (p : BitVec 1) (s : State) : Out :=
  endUnit c (s.floatFun d a p fun f x => f.fract s.cur.pfx.round (f.val x))

/-- FCMP.f32 (R188). -/
def execFcmpF32 (c : Bool) (k : BitVec 4) (p : BitVec 3) (a b : BitVec 7) (s : State) : Out :=
  endUnit c (s.pset p.toNat fun l => fcmp k.toNat (f32v (s.v l a)) (f32v (s.bf b l)))

/-- FCMP.f64 (R188). -/
def execFcmpF64 (c : Bool) (k : BitVec 4) (p : BitVec 3) (a b : BitVec 7) (s : State) : Out :=
  endUnit c (s.pset p.toNat fun l => fcmp k.toNat (f64v (s.v64 l a)) (f64v (s.v64 l b)))

/-- FCMP.f32 with a uniform b (R188). -/
def execFcmpF32S (c : Bool) (k : BitVec 4) (p : BitVec 3) (a : BitVec 7) (b : BitVec 5) (s : State) : Out :=
  endUnit c (s.pset p.toNat fun l => fcmp k.toNat (f32v (s.v l a)) (f32v (s.bs b)))

/-- CVT from type `f` to type `t` (R80, R189, R190). -/
def execCvt (c : Bool) (d a : BitVec 7) (t : BitVec 4) (r : BitVec 3) (f : BitVec 4) (s : State) : Out :=
  endUnit c (s.convert d a t r f)

end Sys2Proof.Machine
end

