-- ==== Sys2Proof/Machine/Host.lean ====
section
/-! DEFINITION. The host and firmware: memory through BAR 4 (R353), the registers and tables of the module control block
(R317, R341, R346, R368, R379), the mailboxes, the tables that firmware loads (log 17), debug requests and the release
of a breakpoint (R124, R376). -/

namespace Sys2Proof.Machine

/-! ## BAR 4 (R353) -/

/-- No open region holds a line of the range against an access of the host (R210). -/
def State.hostMay (s : State) (pa n : Nat) (write : Bool) : Bool :=
  n = 0 || (List.range ((pa + n - 1) / 64 - pa / 64 + 1)).all fun i =>
    (s.homesOf (pa + 64 * i)).all fun k =>
      !s.farHeld none (BitVec.ofNat 16 (k % 2 ^ 67 / 2 ^ 51)) (BitVec.ofNat 51 k) write

/-- Whole pieces of a range that exist. -/
def State.hostPieces (s : State) (pa n : Nat) : List (Nat × Nat) :=
  (pieces pa n n).filter fun p => s.populated p.1

/-- HOST_MEMORY_WRITE: performed at the home slices (R252, R353). -/
def execHostMemoryWrite (pa : BitVec 52) (data : List (BitVec 8)) (s : State) : Out :=
  .next (if s.boot ≠ .running ∨ !s.hostMay pa.toNat data.length true then s
    else (s.hostPieces pa.toNat data.length).foldl (fun s p =>
      s.writeAt p.1 ((data.drop (p.1 - pa.toNat)).take p.2)) s)

/-- What the host reads of a piece; of poison it reads free values (R371, log 87). -/
def State.hostPiece (s : State) (pa p n : Nat) : List Byte :=
  let w := windowOf p
  let bad := if s.place p = .window then (s.windowCore w).any fun c => s.windowPoisoned w c n else s.poisoned p n
  if !s.populated p then List.replicate n 0
  else if bad then (List.range n).map fun i => Config.freeByte (s.free + (p - pa) + i)
  else s.readAt p n

/-- HOST_MEMORY_READ: the latest bytes at the home slices; a place that does not exist gives zeros (R252, R353). -/
def execHostMemoryRead (pa : BitVec 52) (n : Nat) (s : State) : Out :=
  .next (if s.boot ≠ .running ∨ !s.hostMay pa.toNat n false then s
    else
      let bytes := (pieces pa.toNat n n).flatMap fun p => s.hostPiece pa.toNat p.1 p.2
      { s.agentTouch pa.toNat n with hostRead := bytes, free := s.free + n })

/-! ## Mailboxes (R379) -/

/-- A buffer of 2 KiB. -/
def mailbox (msg : List Byte) : List Byte := (msg ++ List.replicate 2048 0).take 2048

/-- MAILBOX_IN_DOORBELL: the host hands a message to firmware (R379). -/
def execMailboxInDoorbell (msg : List (BitVec 8)) (s : State) : Out :=
  .next { s with mbxIn := mailbox msg, mbxDb := s.mbxDb ||| 1#64 }

/-- MAILBOX_OUT_POST: firmware hands a message to the host, and raises MSI-X vector 3 (R376, R379). -/
def execMailboxOutPost (msg : List (BitVec 8)) (s : State) : Out :=
  .next ({ s with mbxOut := mailbox msg, mbxDb := s.mbxDb ||| 2#64 }.raiseMsix 3)

/-- A write of MBX_DB by the host: OUT_READY is cleared by a one, IN_READY takes the bit written (R379). -/
def State.writeMbxDb (s : State) (x : Dword) : State :=
  { s with mbxDb := (s.mbxDb &&& 2#64 &&& ~~~x) ||| (x &&& 1#64) }

/-- MAILBOX_OUT_ACK (R379). -/
def execMailboxOutAck (val : BitVec 64) (s : State) : Out := .next (s.writeMbxDb val)

/-! ## NUMI_STAT, debug (R124, R376) -/

/-- A write of NUMI_STAT clears VALID and OVF where a one is written (R376). -/
def State.writeNumi (s : State) (x : Dword) : State :=
  { s with numiStat := s.numiStat &&& ~~~(x &&& 0xC000000000000000#64) }

/-- NUMI_STAT_CLEAR; in recovery the register does not answer (R369, R376). -/
def execNumiStatClear (val : BitVec 64) (s : State) : Out := .next (if s.boot = .running then s.writeNumi val else s)

/-- DEBUG_REQUEST: bit 1 of DBG_CTL is written; EN keeps its value; in recovery the cores are held in reset (R369, R375,
R376). -/
def execDebugRequest (core : Nat) (s : State) : Out :=
  .next (if s.boot = .running ∧ core < s.coreCount then s.writeDbgCtl core ((s.core core).dbgCtl ||| 2#64) else s)

/-- BREAKPOINT_RELEASE: the thread goes on after BRK's chain; the clocks of the stop do not count for its region
(R124, R236). -/
def execBreakpointRelease (core place lane : Nat) (s : State) : Out :=
  let t := s.thread core place lane
  .next (if (s.group core place).present ∧ t.waits.any fun w => w.kind = .brk then
      s.modThread core place lane fun t =>
        { t with waits := t.waits.filter fun w => w.kind ≠ .brk
                 farSince := if t.inRegion then t.farSince + (s.clock - t.since) else t.farSince
                 since := s.clock }
    else s)

/-! ## BAR 0 (R379) -/

/-- The 8 bytes of a buffer at an offset, as a register. -/
def bufRead (b : List Byte) (o : Nat) : Dword := BitVec.ofNat 64 (blkNat b o 8)

/-- A port and its registers (R356, R368). -/
def State.port (s : State) (p : Nat) : Port := s.ports.get {} p
def State.setPort (s : State) (p : Nat) (x : Port) : State := { s with ports := s.ports.set p x }

/-- A write of UE_RING: EN from 0 to 1 empties the ring, and nothing waits or is reserved for a record of it any more
(R356, R358). -/
def State.writeUeRing (s : State) (p : Nat) (x : Dword) : State :=
  let q := s.port p
  let q' := { q with ring := x &&& 0x000FFFFFFFC00001#64 }
  s.setPort p (if !q.ring.getLsbD 0 ∧ x.getLsbD 0 then { q' with wptr := 0, rptr := 0, park := none, failed := false, atHeader := false, reserved := none }
    else q')

/-- A write of TKE_LOG: NEXT becomes 0 (R368). -/
def State.writeTkeLog (s : State) (p : Nat) (x : Dword) : State :=
  let q := s.port p
  s.setPort p { q with logBase := x &&& 0x000FFFFFFFFFF000#64, logN := q.logN &&& 0xFFFFFFFF#64 }

/-- JNL_STAT (R374). -/
def Journal.stat (j : Journal) : Dword :=
  BitVec.ofNat 64 (j.lost.toNat * 2 ^ 32 + j.next % 2 ^ 31 * 2 + j.fullBit.toNat)

/-- A register of BAR 0 as the host reads it; an offset that is not listed reads as zero (R379). The port control blocks
are there on the MZ9-S too (log 75). In recovery only the mailbox answers (R369). -/
def State.bar0Read (s : State) (o : Nat) : Dword :=
  if s.boot ≠ .running ∧ !(0x8000 ≤ o ∧ o ≤ 0x9000) then 0
  else if o = 0x100 then s.numiStat
  else if o = 0x200 then s.remap0
  else if o = 0x208 then s.remap1
  else if o = 0x300 then s.poolEnd
  else if o = 0x400 then s.journal.stat
  else if o = 0x1000 then s.htsTbase
  else if o = 0x1008 then s.htsTsz
  else if o = 0x1010 then s.htsRes
  else if o = 0x1018 then s.htsCtx
  else if o = 0x1020 then s.htsCtxsz
  else if o = 0x1028 then s.htsIgn
  else if 0x8000 ≤ o ∧ o < 0x8800 then bufRead s.mbxIn (o - 0x8000)
  else if 0x8800 ≤ o ∧ o < 0x9000 then bufRead s.mbxOut (o - 0x8800)
  else if o = 0x9000 then s.mbxDb
  else if o = 0x10000 then (s.gatherer 0).ctl
  else if o = 0x10008 then (s.gatherer 0).win
  else if o = 0x20000 ∧ s.dies = 2 then (s.gatherer 1).ctl
  else if o = 0x20008 ∧ s.dies = 2 then (s.gatherer 1).win
  else if 0x40000 ≤ o ∧ o < 0x40A00 then s.routes.get 0 ((o - 0x40000) / 8)
  else if 0x80000 ≤ o ∧ o < 0xC0000 then bufRead (s.groups.get [] ((o - 0x80000) / 1024)) (o % 1024)
  else if 0x100000 ≤ o ∧ o < 0x180000 then s.htsRange.get 0 ((o - 0x100000) / 8)
  else if 0x200000 ≤ o ∧ o < 0x240000 then
    let q := s.port ((o - 0x200000) / 0x10000)
    match (o - 0x200000) % 0x10000 with
    | 0x00 => q.ring
    | 0x08 => BitVec.ofNat 64 (q.wptr.toNat * 2 ^ 32 + q.rptr.toNat)
    | 0x10 => q.logBase
    | 0x18 => q.logN
    | 0x40 => zext 64 q.drop
    | _ => 0
  else 0

/-- A write of a die control block (R257). -/
def State.writeGatherer (s : State) (die o : Nat) (x : Dword) : State :=
  let g := s.gatherer die
  if die ≥ s.dies then s
  else
    let g' : Gatherer := if o = 0 then { g with ctl := x &&& 0x000FFFFFFFFFFFC0#64 } else { g with win := x &&& 0xFF3F#64 }
    { s with gatherers := s.gatherers.set die g' }

/-- A write of an entry of the route table; a change of SEL resends the requests that are not acknowledged (R341,
R343). -/
def State.writeRoute (s : State) (m : Nat) (e : Dword) : State :=
  let sel (e : Dword) : Nat := bitsNat e 54 53 % 3
  let moved := sel (s.routes.get 0 m) ≠ sel e
  let s := { s with routes := s.routes.set m e }
  if moved then s.resendTo m else s

/-- A 64-bit write of the host to BAR 0: reserved and read-only bits keep their values, and an offset that is not
listed ignores the write (R317, R341, R346, R356, R368, R379). The port control blocks take writes on the MZ9-S too, whose
ports are absent: the manual gives only the control block of die 1 as reading zero there (log 75). -/
def State.bar0Write (s : State) (o : Nat) (x : Dword) : State :=
  if o % 8 ≠ 0 then s
  else if s.boot ≠ .running ∧ !(0x8000 ≤ o ∧ o ≤ 0x9000) then s
  else if o = 0x100 then s.writeNumi x
  else if o = 0x1000 then { s with htsTbase := x &&& 0x000FFFFFFFFFFF80#64 }
  else if o = 0x1008 then { s with htsTsz := x &&& 0x7FFFF#64 }
  else if o = 0x1010 then { s with htsRes := x &&& 0xFFFF#64 }
  else if o = 0x1018 then { s with htsCtx := x &&& 0x000FFFFFFFFFF000#64 }
  else if o = 0x1020 then { s with htsCtxsz := x &&& 0xFFFFFFFF#64 }
  else if o = 0x1028 then { s with htsIgn := x &&& 0xFFFFFFFF#64 }
  else if 0x8000 ≤ o ∧ o < 0x8800 then { s with mbxIn := putBytes (mailbox s.mbxIn) (o - 0x8000) (leBytes 8 x.toNat) }
  else if o = 0x9000 then s.writeMbxDb x
  else if o = 0x10000 ∨ o = 0x10008 then s.writeGatherer 0 (o - 0x10000) x
  else if o = 0x20000 ∨ o = 0x20008 then s.writeGatherer 1 (o - 0x20000) x
  else if 0x40000 ≤ o ∧ o < 0x40A00 then
    s.writeRoute ((o - 0x40000) / 8) (x &&& 0x007FFFFFFFFFFFFF#64)
  else if 0x80000 ≤ o ∧ o < 0xC0000 then
    let g := (o - 0x80000) / 1024
    let b := (s.groups.get [] g ++ List.replicate 1024 0).take 1024
    -- bytes 2, 3 and those past the last rank are zero (R346)
    let keep (i : Nat) : Bool := decide (i < 2) || (decide (4 ≤ i) && decide (i < 644))
    { s with groups := s.groups.set g ((putBytes b (o % 1024) (leBytes 8 x.toNat)).zipIdx.map fun y =>
        if keep y.2 then y.1 else 0) }
  else if 0x100000 ≤ o ∧ o < 0x180000 then
    { s with htsRange := s.htsRange.set ((o - 0x100000) / 8) (x &&& 0x8003FFFF0003FFFF#64) }
  else if 0x200000 ≤ o ∧ o < 0x240000 then
    let p := (o - 0x200000) / 0x10000
    let q := s.port p
    match (o - 0x200000) % 0x10000 with
    | 0x00 => s.writeUeRing p x
    | 0x10 => s.writeTkeLog p x
    | 0x18 => s.setPort p { q with logN := (q.logN &&& 0xFFFFFFFF00000000#64) ||| (x &&& 0xFFFF#64) }
    | 0x40 => s.setPort p { q with drop := x.extractLsb' 0 32 }
    | _ => s
  else s

/-! ## What firmware writes (log 17) -/

/-- A row of the model table as it is loaded: its entry is to be enabled (R360). -/
def modelOf (r : ModelRow) : Model :=
  { valid := r.valid, vocab := r.vocab, template := r.template, pool := r.pool, inBase := r.inBase,
    inSlots := r.inSlots, inCap := r.inCap, asid := r.asid }

/-- A table or a register that firmware writes, or the host a register of BAR 0 (R284, R307, R340, R360, R379). -/
def State.registerWrite (s : State) : RegTarget → State
  | .bar0 offset val => s.bar0Write offset val
  | .poolEnd val => { s with poolEnd := val &&& 0x000FFFFFFFFF0000#64 }
  | .mailboxTaken => { s with mbxDb := s.mbxDb &&& 2#64 }
  | .pool i bytes => if i < 256 then { s with pools := s.pools.set i ((bytes ++ List.replicate 64 0).take 64) } else s
  | .asidRoot asid root => match root with
    | some r => { s with asidRoot := s.asidRoot.set asid.toNat r }
    | none => { s with asidRoot := s.asidRoot.erase asid.toNat }
  | .hac f code => if 16 ≤ f then s else match code with
    | some c => { s with hac := s.hac.set f c }
    | none => { s with hac := s.hac.erase f }
  | .replica asid page frame =>
    { s with replica := s.replica.set (pageKey asid (page.toNat * 65536)) (frame / 65536 * 65536) }
  | .model i row => if i < 256 then { s with models := s.models.set i (modelOf row) } else s
  | .prefixMap i target => if i < 512 ∧ target < 320 then { s with pfxMap := s.pfxMap.set i target } else s
  | .dev n => if n < 320 then { s with dev := BitVec.ofNat 32 n } else s
  | .flash bytes version signed => { s with flash := { bytes, version, signed } }
  | .rollback n signed =>
    if s.boot = .running ∧ signed then { s with fusedCounter := max s.fusedCounter n } else s

/-- REGISTER_WRITE (R379). -/
def execRegisterWrite (r : RegTarget) (s : State) : Out := .next (s.registerWrite r)

end Sys2Proof.Machine
end

