-- ==== Sys2Proof/Machine/IntOps.lean ====
section
/-! DEFINITION. Integer operations on words of any width, which the integer majors share (R72, R129 to R133, R144). -/

namespace Sys2Proof.Machine

/-- An exact result on `n` bits: wrapped, or clamped to the signed range under SAT (R72, R117). -/
def satS (n : Nat) (sat : Bool) (r : Int) : BitVec n × List Ev :=
  let x := satInt sat (clampS n r) r
  (BitVec.ofInt n x.1, x.2)

/-- An exact result on `n` bits: wrapped, or clamped to the unsigned range under SAT (R72, R130). -/
def satN (n : Nat) (sat : Bool) (r : Int) : BitVec n × List Ev :=
  let x := satInt sat (clampN n r) r
  (BitVec.ofInt n x.1, x.2)

def iadd {n : Nat} (sat : Bool) (a b : BitVec n) : BitVec n × List Ev := satS n sat (a.toInt + b.toInt)
def isub {n : Nat} (sat : Bool) (a b : BitVec n) : BitVec n × List Ev := satS n sat (a.toInt - b.toInt)
def imul {n : Nat} (sat : Bool) (a b : BitVec n) : BitVec n × List Ev := satS n sat (a.toInt * b.toInt)

/-- The high half of the signed product. -/
def imulhi {n : Nat} (a b : BitVec n) : BitVec n := BitVec.ofInt n (a.toInt * b.toInt / 2 ^ n)
/-- The high half of the unsigned product. -/
def imulhiN {n : Nat} (a b : BitVec n) : BitVec n := BitVec.ofNat n (a.toNat * b.toNat / 2 ^ n)

def imin {n : Nat} (a b : BitVec n) : BitVec n := if b.slt a then b else a
def imax {n : Nat} (a b : BitVec n) : BitVec n := if a.slt b then b else a
def iminN {n : Nat} (a b : BitVec n) : BitVec n := if b.ult a then b else a
def imaxN {n : Nat} (a b : BitVec n) : BitVec n := if a.ult b then b else a

/-- A shift count at or above the width shifts everything out. -/
def ishl {n : Nat} (a b : BitVec n) : BitVec n := if n ≤ b.toNat then 0 else a <<< b.toNat
def ishr {n : Nat} (a b : BitVec n) : BitVec n := if n ≤ b.toNat then 0 else a >>> b.toNat
def isar {n : Nat} (a b : BitVec n) : BitVec n :=
  if n ≤ b.toNat then (if a.msb then BitVec.allOnes n else 0) else a.sshiftRight b.toNat
def irol {n : Nat} (a b : BitVec n) : BitVec n := a.rotateLeft (b.toNat % n)

/-- The conditions of R133: 0 to 5 signed, 6 to 9 unsigned. -/
def icond {n : Nat} (k : BitVec 4) (a b : BitVec n) : Bool :=
  match k with
  | 0 => a = b
  | 1 => a ≠ b
  | 2 => a.slt b
  | 3 => a.sle b
  | 4 => b.slt a
  | 5 => b.sle a
  | 6 => a.ult b
  | 7 => a.ule b
  | 8 => b.ult a
  | 9 => b.ule a
  | _ => false

/-- The bits of BFE's and BFI's field that exist in a word: L of R131. -/
def bitField (ctl : Word) : Nat × Nat :=
  let pos := bitsNat ctl 7 0
  (pos, min (bitsNat ctl 15 8) (32 - min pos 32))

/-- BFE (R131). -/
def bfeWord (a ctl : Word) : Word :=
  let (pos, len) := bitField ctl
  if len = 0 then 0
  else
    let f := a.toNat / 2 ^ pos % 2 ^ len
    if ctl.getLsbD 16 ∧ f / 2 ^ (len - 1) % 2 = 1 then BitVec.ofNat 32 (f + 2 ^ 32 - 2 ^ len) else BitVec.ofNat 32 f

/-- BFI (R131). -/
def bfiWord (d a ctl : Word) : Word :=
  let (pos, len) := bitField ctl
  if len = 0 then d else putBits d (pos + len - 1) pos (a.toNat % 2 ^ len)

/-- Leading zeros of a word; 32 for zero (R131). -/
def clzWord (a : Word) : Word := BitVec.ofNat 32 (if a = 0 then 32 else 31 - a.toNat.log2)

end Sys2Proof.Machine
end

