-- ==== Sys2Proof/Machine/Ialu.lean ====
section
/-! DEFINITION. IALU: 32-bit integer arithmetic of vector registers, with a register, uniform or immediate second source (R129) -/

namespace Sys2Proof.Machine

/-- ADD .vv: a + b, with b a register or the XIMM immediate (R129). -/
def execAddVv (c : Bool) (d a b : BitVec 7) (s : State) : Out :=
  endUnit c (s.vsetEv d.toNat fun l => iadd s.cur.pfx.sat (s.v l a) (s.bv b l))

/-- SUB .vv: a − b, with b a register or the XIMM immediate (R129). -/
def execSubVv (c : Bool) (d a b : BitVec 7) (s : State) : Out :=
  endUnit c (s.vsetEv d.toNat fun l => isub s.cur.pfx.sat (s.v l a) (s.bv b l))

/-- MUL .vv: a × b, with b a register or the XIMM immediate (R129). -/
def execMulVv (c : Bool) (d a b : BitVec 7) (s : State) : Out :=
  endUnit c (s.vsetEv d.toNat fun l => imul s.cur.pfx.sat (s.v l a) (s.bv b l))

/-- MULHI .vv: the high half of the signed product, with b a register or the XIMM immediate (R129). -/
def execMulhiVv (c : Bool) (d a b : BitVec 7) (s : State) : Out :=
  endUnit c (s.vset d.toNat fun l => imulhi (s.v l a) (s.bv b l))

/-- MULHI.n .vv: the high half of the unsigned product, with b a register or the XIMM immediate (R129). -/
def execMulhiNVv (c : Bool) (d a b : BitVec 7) (s : State) : Out :=
  endUnit c (s.vset d.toNat fun l => imulhiN (s.v l a) (s.bv b l))

/-- MIN .vv: signed minimum, with b a register or the XIMM immediate (R129). -/
def execMinVv (c : Bool) (d a b : BitVec 7) (s : State) : Out :=
  endUnit c (s.vset d.toNat fun l => imin (s.v l a) (s.bv b l))

/-- MAX .vv: signed maximum, with b a register or the XIMM immediate (R129). -/
def execMaxVv (c : Bool) (d a b : BitVec 7) (s : State) : Out :=
  endUnit c (s.vset d.toNat fun l => imax (s.v l a) (s.bv b l))

/-- MIN.n .vv: unsigned minimum, with b a register or the XIMM immediate (R129). -/
def execMinNVv (c : Bool) (d a b : BitVec 7) (s : State) : Out :=
  endUnit c (s.vset d.toNat fun l => iminN (s.v l a) (s.bv b l))

/-- MAX.n .vv: unsigned maximum, with b a register or the XIMM immediate (R129). -/
def execMaxNVv (c : Bool) (d a b : BitVec 7) (s : State) : Out :=
  endUnit c (s.vset d.toNat fun l => imaxN (s.v l a) (s.bv b l))

/-- AND .vv: bitwise and, with b a register or the XIMM immediate (R129). -/
def execAndVv (c : Bool) (d a b : BitVec 7) (s : State) : Out :=
  endUnit c (s.vset d.toNat fun l => s.v l a &&& s.bv b l)

/-- OR .vv: bitwise or, with b a register or the XIMM immediate (R129). -/
def execOrVv (c : Bool) (d a b : BitVec 7) (s : State) : Out :=
  endUnit c (s.vset d.toNat fun l => s.v l a ||| s.bv b l)

/-- XOR .vv: bitwise exclusive or, with b a register or the XIMM immediate (R129). -/
def execXorVv (c : Bool) (d a b : BitVec 7) (s : State) : Out :=
  endUnit c (s.vset d.toNat fun l => s.v l a ^^^ s.bv b l)

/-- SHL .vv: shift left, with b a register or the XIMM immediate (R129). -/
def execShlVv (c : Bool) (d a b : BitVec 7) (s : State) : Out :=
  endUnit c (s.vset d.toNat fun l => ishl (s.v l a) (s.bv b l))

/-- SHR .vv: logical shift right, with b a register or the XIMM immediate (R129). -/
def execShrVv (c : Bool) (d a b : BitVec 7) (s : State) : Out :=
  endUnit c (s.vset d.toNat fun l => ishr (s.v l a) (s.bv b l))

/-- SAR .vv: arithmetic shift right, with b a register or the XIMM immediate (R129). -/
def execSarVv (c : Bool) (d a b : BitVec 7) (s : State) : Out :=
  endUnit c (s.vset d.toNat fun l => isar (s.v l a) (s.bv b l))

/-- ROL .vv: rotate left, with b a register or the XIMM immediate (R129). -/
def execRolVv (c : Bool) (d a b : BitVec 7) (s : State) : Out :=
  endUnit c (s.vset d.toNat fun l => irol (s.v l a) (s.bv b l))

/-- ADD .vs: a + b, with b the low word of a uniform register (R129). -/
def execAddVs (c : Bool) (d a : BitVec 7) (b : BitVec 5) (s : State) : Out :=
  endUnit c (s.vsetEv d.toNat fun l => iadd s.cur.pfx.sat (s.v l a) (s.bs b))

/-- SUB .vs: a − b, with b the low word of a uniform register (R129). -/
def execSubVs (c : Bool) (d a : BitVec 7) (b : BitVec 5) (s : State) : Out :=
  endUnit c (s.vsetEv d.toNat fun l => isub s.cur.pfx.sat (s.v l a) (s.bs b))

/-- MUL .vs: a × b, with b the low word of a uniform register (R129). -/
def execMulVs (c : Bool) (d a : BitVec 7) (b : BitVec 5) (s : State) : Out :=
  endUnit c (s.vsetEv d.toNat fun l => imul s.cur.pfx.sat (s.v l a) (s.bs b))

/-- MULHI .vs: the high half of the signed product, with b the low word of a uniform register (R129). -/
def execMulhiVs (c : Bool) (d a : BitVec 7) (b : BitVec 5) (s : State) : Out :=
  endUnit c (s.vset d.toNat fun l => imulhi (s.v l a) (s.bs b))

/-- MULHI.n .vs: the high half of the unsigned product, with b the low word of a uniform register (R129). -/
def execMulhiNVs (c : Bool) (d a : BitVec 7) (b : BitVec 5) (s : State) : Out :=
  endUnit c (s.vset d.toNat fun l => imulhiN (s.v l a) (s.bs b))

/-- MIN .vs: signed minimum, with b the low word of a uniform register (R129). -/
def execMinVs (c : Bool) (d a : BitVec 7) (b : BitVec 5) (s : State) : Out :=
  endUnit c (s.vset d.toNat fun l => imin (s.v l a) (s.bs b))

/-- MAX .vs: signed maximum, with b the low word of a uniform register (R129). -/
def execMaxVs (c : Bool) (d a : BitVec 7) (b : BitVec 5) (s : State) : Out :=
  endUnit c (s.vset d.toNat fun l => imax (s.v l a) (s.bs b))

/-- MIN.n .vs: unsigned minimum, with b the low word of a uniform register (R129). -/
def execMinNVs (c : Bool) (d a : BitVec 7) (b : BitVec 5) (s : State) : Out :=
  endUnit c (s.vset d.toNat fun l => iminN (s.v l a) (s.bs b))

/-- MAX.n .vs: unsigned maximum, with b the low word of a uniform register (R129). -/
def execMaxNVs (c : Bool) (d a : BitVec 7) (b : BitVec 5) (s : State) : Out :=
  endUnit c (s.vset d.toNat fun l => imaxN (s.v l a) (s.bs b))

/-- AND .vs: bitwise and, with b the low word of a uniform register (R129). -/
def execAndVs (c : Bool) (d a : BitVec 7) (b : BitVec 5) (s : State) : Out :=
  endUnit c (s.vset d.toNat fun l => s.v l a &&& s.bs b)

/-- OR .vs: bitwise or, with b the low word of a uniform register (R129). -/
def execOrVs (c : Bool) (d a : BitVec 7) (b : BitVec 5) (s : State) : Out :=
  endUnit c (s.vset d.toNat fun l => s.v l a ||| s.bs b)

/-- XOR .vs: bitwise exclusive or, with b the low word of a uniform register (R129). -/
def execXorVs (c : Bool) (d a : BitVec 7) (b : BitVec 5) (s : State) : Out :=
  endUnit c (s.vset d.toNat fun l => s.v l a ^^^ s.bs b)

/-- SHL .vs: shift left, with b the low word of a uniform register (R129). -/
def execShlVs (c : Bool) (d a : BitVec 7) (b : BitVec 5) (s : State) : Out :=
  endUnit c (s.vset d.toNat fun l => ishl (s.v l a) (s.bs b))

/-- SHR .vs: logical shift right, with b the low word of a uniform register (R129). -/
def execShrVs (c : Bool) (d a : BitVec 7) (b : BitVec 5) (s : State) : Out :=
  endUnit c (s.vset d.toNat fun l => ishr (s.v l a) (s.bs b))

/-- SAR .vs: arithmetic shift right, with b the low word of a uniform register (R129). -/
def execSarVs (c : Bool) (d a : BitVec 7) (b : BitVec 5) (s : State) : Out :=
  endUnit c (s.vset d.toNat fun l => isar (s.v l a) (s.bs b))

/-- ROL .vs: rotate left, with b the low word of a uniform register (R129). -/
def execRolVs (c : Bool) (d a : BitVec 7) (b : BitVec 5) (s : State) : Out :=
  endUnit c (s.vset d.toNat fun l => irol (s.v l a) (s.bs b))

/-- ADD .vi: a + b, with b an immediate (R129). -/
def execAddVi (c : Bool) (d a i : BitVec 7) (s : State) : Out :=
  endUnit c (s.vsetEv d.toNat fun l => iadd s.cur.pfx.sat (s.v l a) ((s.imm7 i).setWidth 32))

/-- SUB .vi: a − b, with b an immediate (R129). -/
def execSubVi (c : Bool) (d a i : BitVec 7) (s : State) : Out :=
  endUnit c (s.vsetEv d.toNat fun l => isub s.cur.pfx.sat (s.v l a) ((s.imm7 i).setWidth 32))

/-- MUL .vi: a × b, with b an immediate (R129). -/
def execMulVi (c : Bool) (d a i : BitVec 7) (s : State) : Out :=
  endUnit c (s.vsetEv d.toNat fun l => imul s.cur.pfx.sat (s.v l a) ((s.imm7 i).setWidth 32))

/-- MULHI .vi: the high half of the signed product, with b an immediate (R129). -/
def execMulhiVi (c : Bool) (d a i : BitVec 7) (s : State) : Out :=
  endUnit c (s.vset d.toNat fun l => imulhi (s.v l a) ((s.imm7 i).setWidth 32))

/-- MULHI.n .vi: the high half of the unsigned product, with b an immediate (R129). -/
def execMulhiNVi (c : Bool) (d a i : BitVec 7) (s : State) : Out :=
  endUnit c (s.vset d.toNat fun l => imulhiN (s.v l a) ((s.imm7 i).setWidth 32))

/-- MIN .vi: signed minimum, with b an immediate (R129). -/
def execMinVi (c : Bool) (d a i : BitVec 7) (s : State) : Out :=
  endUnit c (s.vset d.toNat fun l => imin (s.v l a) ((s.imm7 i).setWidth 32))

/-- MAX .vi: signed maximum, with b an immediate (R129). -/
def execMaxVi (c : Bool) (d a i : BitVec 7) (s : State) : Out :=
  endUnit c (s.vset d.toNat fun l => imax (s.v l a) ((s.imm7 i).setWidth 32))

/-- MIN.n .vi: unsigned minimum, with b an immediate (R129). -/
def execMinNVi (c : Bool) (d a i : BitVec 7) (s : State) : Out :=
  endUnit c (s.vset d.toNat fun l => iminN (s.v l a) ((s.imm7 i).setWidth 32))

/-- MAX.n .vi: unsigned maximum, with b an immediate (R129). -/
def execMaxNVi (c : Bool) (d a i : BitVec 7) (s : State) : Out :=
  endUnit c (s.vset d.toNat fun l => imaxN (s.v l a) ((s.imm7 i).setWidth 32))

/-- AND .vi: bitwise and, with b an immediate (R129). -/
def execAndVi (c : Bool) (d a i : BitVec 7) (s : State) : Out :=
  endUnit c (s.vset d.toNat fun l => s.v l a &&& (s.imm7 i).setWidth 32)

/-- OR .vi: bitwise or, with b an immediate (R129). -/
def execOrVi (c : Bool) (d a i : BitVec 7) (s : State) : Out :=
  endUnit c (s.vset d.toNat fun l => s.v l a ||| (s.imm7 i).setWidth 32)

/-- XOR .vi: bitwise exclusive or, with b an immediate (R129). -/
def execXorVi (c : Bool) (d a i : BitVec 7) (s : State) : Out :=
  endUnit c (s.vset d.toNat fun l => s.v l a ^^^ (s.imm7 i).setWidth 32)

/-- SHL .vi: shift left, with b an immediate (R129). -/
def execShlVi (c : Bool) (d a i : BitVec 7) (s : State) : Out :=
  endUnit c (s.vset d.toNat fun l => ishl (s.v l a) ((s.imm7 i).setWidth 32))

/-- SHR .vi: logical shift right, with b an immediate (R129). -/
def execShrVi (c : Bool) (d a i : BitVec 7) (s : State) : Out :=
  endUnit c (s.vset d.toNat fun l => ishr (s.v l a) ((s.imm7 i).setWidth 32))

/-- SAR .vi: arithmetic shift right, with b an immediate (R129). -/
def execSarVi (c : Bool) (d a i : BitVec 7) (s : State) : Out :=
  endUnit c (s.vset d.toNat fun l => isar (s.v l a) ((s.imm7 i).setWidth 32))

/-- ROL .vi: rotate left, with b an immediate (R129). -/
def execRolVi (c : Bool) (d a i : BitVec 7) (s : State) : Out :=
  endUnit c (s.vset d.toNat fun l => irol (s.v l a) ((s.imm7 i).setWidth 32))

end Sys2Proof.Machine
end

