-- ==== Sys2Proof/Machine/Icmp.lean ====
section
/-! DEFINITION. ICMP, SEL and PLOG: comparisons, selection and predicate logic (R133 to R135) -/

namespace Sys2Proof.Machine

/-- ICMP at 32 bits against a register (R133). -/
def execIcmpS32Vv (c : Bool) (k : BitVec 4) (p : BitVec 3) (a b : BitVec 7) (s : State) : Out :=
  endUnit c (s.pset p.toNat fun l => icond k (s.v l a) (s.bv b l))

/-- ICMP at 32 bits against a uniform register (R133). -/
def execIcmpS32Vs (c : Bool) (k : BitVec 4) (p : BitVec 3) (a : BitVec 7) (b : BitVec 5) (s : State) : Out :=
  endUnit c (s.pset p.toNat fun l => icond k (s.v l a) (s.bs b))

/-- ICMP.and at 32 bits against a register (R133). -/
def execIcmpAndS32Vv (c : Bool) (k : BitVec 4) (p : BitVec 3) (a b : BitVec 7) (s : State) : Out :=
  endUnit c (s.pset p.toNat fun l => s.pr l p && icond k (s.v l a) (s.bv b l))

/-- ICMP.and at 32 bits against a uniform register (R133). -/
def execIcmpAndS32Vs (c : Bool) (k : BitVec 4) (p : BitVec 3) (a : BitVec 7) (b : BitVec 5) (s : State) : Out :=
  endUnit c (s.pset p.toNat fun l => s.pr l p && icond k (s.v l a) (s.bs b))

/-- ICMP at 64 bits against a register (R133). -/
def execIcmpB64Vv (c : Bool) (k : BitVec 4) (p : BitVec 3) (a b : BitVec 7) (s : State) : Out :=
  endUnit c (s.pset p.toNat fun l => icond k (s.v64 l a) (s.bv64 b l))

/-- ICMP at 64 bits against a uniform register (R133). -/
def execIcmpB64Vs (c : Bool) (k : BitVec 4) (p : BitVec 3) (a : BitVec 7) (b : BitVec 5) (s : State) : Out :=
  endUnit c (s.pset p.toNat fun l => icond k (s.v64 l a) (s.sr b))

/-- ICMP.and at 64 bits against a register (R133). -/
def execIcmpAndB64Vv (c : Bool) (k : BitVec 4) (p : BitVec 3) (a b : BitVec 7) (s : State) : Out :=
  endUnit c (s.pset p.toNat fun l => s.pr l p && icond k (s.v64 l a) (s.bv64 b l))

/-- ICMP.and at 64 bits against a uniform register (R133). -/
def execIcmpAndB64Vs (c : Bool) (k : BitVec 4) (p : BitVec 3) (a : BitVec 7) (b : BitVec 5) (s : State) : Out :=
  endUnit c (s.pset p.toNat fun l => s.pr l p && icond k (s.v64 l a) (s.sr b))

/-- SEL: a where the predicate is set, else b; inverted with n = 1 (R134). -/
def execSel (c : Bool) (d a b : BitVec 7) (n : BitVec 1) (p : BitVec 3) (s : State) : Out :=
  endUnit c (s.vset d.toNat fun l => if s.pr l p != n.getLsbD 0 then s.v l a else s.bv b l)

/-- PAND (R135). -/
def execPand (c : Bool) (d a b : BitVec 3) (s : State) : Out :=
  endUnit c (s.pset d.toNat fun l => s.pr l a && s.pr l b)

/-- POR (R135). -/
def execPor (c : Bool) (d a b : BitVec 3) (s : State) : Out :=
  endUnit c (s.pset d.toNat fun l => s.pr l a || s.pr l b)

/-- PXOR (R135). -/
def execPxor (c : Bool) (d a b : BitVec 3) (s : State) : Out :=
  endUnit c (s.pset d.toNat fun l => s.pr l a != s.pr l b)

/-- PANDN (R135). -/
def execPandn (c : Bool) (d a b : BitVec 3) (s : State) : Out :=
  endUnit c (s.pset d.toNat fun l => s.pr l a && !s.pr l b)

/-- PMOV (R135). -/
def execPmov (c : Bool) (d a : BitVec 3) (s : State) : Out :=
  endUnit c (s.pset d.toNat fun l => s.pr l a)

/-- PNOT (R135). -/
def execPnot (c : Bool) (d a : BitVec 3) (s : State) : Out :=
  endUnit c (s.pset d.toNat fun l => !s.pr l a)

end Sys2Proof.Machine
end

