-- ==== Sys2Proof/Machine/Imad.lean ====
section
/-! DEFINITION. IMAD, IUN and I64: multiply-add, one-operand integer functions and 64-bit pairs (R130 to R132) -/

namespace Sys2Proof.Machine

/-- MAD.s32: a·b + d, signed (R130). -/
def execMadS32 (c : Bool) (d a b : BitVec 7) (s : State) : Out :=
  endUnit c (s.vsetEv d.toNat fun l =>
    satS 32 s.cur.pfx.sat ((s.v l a).toInt * (s.bv b l).toInt + (s.v l d).toInt))

/-- MAD.n32: a·b + d, unsigned (R130). -/
def execMadN32 (c : Bool) (d a b : BitVec 7) (s : State) : Out :=
  endUnit c (s.vsetEv d.toNat fun l =>
    satN 32 s.cur.pfx.sat ((s.v l a).toNat * (s.bv b l).toNat + (s.v l d).toNat : Nat))

/-- MADW.s: a·b + the pair d, signed (R130). -/
def execMadwS (c : Bool) (d a b : BitVec 7) (s : State) : Out :=
  endUnit c (s.vset64Ev d.toNat fun l =>
    satS 64 s.cur.pfx.sat ((s.v l a).toInt * (s.bv b l).toInt + (s.v64 l d).toInt))

/-- MADW.n: a·b + the pair d, unsigned (R130). -/
def execMadwN (c : Bool) (d a b : BitVec 7) (s : State) : Out :=
  endUnit c (s.vset64Ev d.toNat fun l =>
    satN 64 s.cur.pfx.sat ((s.v l a).toNat * (s.bv b l).toNat + (s.v64 l d).toNat : Nat))

/-- MADH.s: the high half of the signed product, plus d (R130). -/
def execMadhS (c : Bool) (d a b : BitVec 7) (s : State) : Out :=
  endUnit c (s.vsetEv d.toNat fun l =>
    satS 32 s.cur.pfx.sat ((s.v l a).toInt * (s.bv b l).toInt / 2 ^ 32 + (s.v l d).toInt))

/-- MADH.n: the high half of the unsigned product, plus d (R130). -/
def execMadhN (c : Bool) (d a b : BitVec 7) (s : State) : Out :=
  endUnit c (s.vsetEv d.toNat fun l =>
    satN 32 s.cur.pfx.sat ((s.v l a).toNat * (s.bv b l).toNat / 2 ^ 32 + (s.v l d).toNat : Nat))

/-- NEG: 0 − a (R131). -/
def execNegI (c : Bool) (d a : BitVec 7) (s : State) : Out :=
  endUnit c (s.vset d.toNat fun l => 0 - s.v l a)

/-- ABS: |a| modulo 2^32 (R131). -/
def execAbsI (c : Bool) (d a : BitVec 7) (s : State) : Out :=
  endUnit c (s.vset d.toNat fun l => if (s.v l a).msb then 0 - s.v l a else s.v l a)

/-- NOT (R131). -/
def execNotB (c : Bool) (d a : BitVec 7) (s : State) : Out :=
  endUnit c (s.vset d.toNat fun l => ~~~ s.v l a)

/-- POPC (R131). -/
def execPopc (c : Bool) (d a : BitVec 7) (s : State) : Out :=
  endUnit c (s.vset d.toNat fun l => BitVec.ofNat 32 (popCount (s.v l a).toNat 32))

/-- CLZ (R131). -/
def execClz (c : Bool) (d a : BitVec 7) (s : State) : Out :=
  endUnit c (s.vset d.toNat fun l => clzWord (s.v l a))

/-- BREV (R131). -/
def execBrev (c : Bool) (d a : BitVec 7) (s : State) : Out :=
  endUnit c (s.vset d.toNat fun l => BitVec.ofNat 32 (bitRev (s.v l a).toNat 32))

/-- SEXT8 (R131). -/
def execSext8 (c : Bool) (d a : BitVec 7) (s : State) : Out :=
  endUnit c (s.vset d.toNat fun l => sext 32 ((s.v l a).setWidth 8))

/-- SEXT16 (R131). -/
def execSext16 (c : Bool) (d a : BitVec 7) (s : State) : Out :=
  endUnit c (s.vset d.toNat fun l => sext 32 ((s.v l a).setWidth 16))

/-- ZEXT8 (R131). -/
def execZext8 (c : Bool) (d a : BitVec 7) (s : State) : Out :=
  endUnit c (s.vset d.toNat fun l => ((s.v l a).setWidth 8 : BitVec 8).setWidth 32)

/-- ZEXT16 (R131). -/
def execZext16 (c : Bool) (d a : BitVec 7) (s : State) : Out :=
  endUnit c (s.vset d.toNat fun l => ((s.v l a).setWidth 16 : BitVec 16).setWidth 32)

/-- BFE (R131). -/
def execBfe (c : Bool) (d a b : BitVec 7) (s : State) : Out :=
  endUnit c (s.vset d.toNat fun l => bfeWord (s.v l a) (s.v l b))

/-- BFI (R131). -/
def execBfi (c : Bool) (d a b : BitVec 7) (s : State) : Out :=
  endUnit c (s.vset d.toNat fun l => bfiWord (s.v l d) (s.v l a) (s.v l b))

/-- ADD of I64, on pairs (R132). -/
def execAddB64 (c : Bool) (d a b : BitVec 7) (s : State) : Out :=
  endUnit c (s.vset64Ev d.toNat fun l => iadd s.cur.pfx.sat (s.v64 l a) (s.bv64 b l))

/-- SUB of I64, on pairs (R132). -/
def execSubB64 (c : Bool) (d a b : BitVec 7) (s : State) : Out :=
  endUnit c (s.vset64Ev d.toNat fun l => isub s.cur.pfx.sat (s.v64 l a) (s.bv64 b l))

/-- MULLO of I64, on pairs (R132). -/
def execMulloB64 (c : Bool) (d a b : BitVec 7) (s : State) : Out :=
  endUnit c (s.vset64Ev d.toNat fun l => imul s.cur.pfx.sat (s.v64 l a) (s.bv64 b l))

/-- SHL of I64, on pairs (R132). -/
def execShlB64 (c : Bool) (d a b : BitVec 7) (s : State) : Out :=
  endUnit c (s.vset64 d.toNat fun l => ishl (s.v64 l a) (s.bv64 b l))

/-- SHR of I64, on pairs (R132). -/
def execShrB64 (c : Bool) (d a b : BitVec 7) (s : State) : Out :=
  endUnit c (s.vset64 d.toNat fun l => ishr (s.v64 l a) (s.bv64 b l))

/-- SAR of I64, on pairs (R132). -/
def execSarB64 (c : Bool) (d a b : BitVec 7) (s : State) : Out :=
  endUnit c (s.vset64 d.toNat fun l => isar (s.v64 l a) (s.bv64 b l))

/-- MIN of I64, on pairs (R132). -/
def execMinB64 (c : Bool) (d a b : BitVec 7) (s : State) : Out :=
  endUnit c (s.vset64 d.toNat fun l => imin (s.v64 l a) (s.bv64 b l))

/-- MAX of I64, on pairs (R132). -/
def execMaxB64 (c : Bool) (d a b : BitVec 7) (s : State) : Out :=
  endUnit c (s.vset64 d.toNat fun l => imax (s.v64 l a) (s.bv64 b l))

/-- MINN of I64, on pairs (R132). -/
def execMinNB64 (c : Bool) (d a b : BitVec 7) (s : State) : Out :=
  endUnit c (s.vset64 d.toNat fun l => iminN (s.v64 l a) (s.bv64 b l))

/-- MAXN of I64, on pairs (R132). -/
def execMaxNB64 (c : Bool) (d a b : BitVec 7) (s : State) : Out :=
  endUnit c (s.vset64 d.toNat fun l => imaxN (s.v64 l a) (s.bv64 b l))

/-- AND of I64, on pairs (R132). -/
def execAndB64 (c : Bool) (d a b : BitVec 7) (s : State) : Out :=
  endUnit c (s.vset64 d.toNat fun l => s.v64 l a &&& s.bv64 b l)

/-- OR of I64, on pairs (R132). -/
def execOrB64 (c : Bool) (d a b : BitVec 7) (s : State) : Out :=
  endUnit c (s.vset64 d.toNat fun l => s.v64 l a ||| s.bv64 b l)

/-- XOR of I64, on pairs (R132). -/
def execXorB64 (c : Bool) (d a b : BitVec 7) (s : State) : Out :=
  endUnit c (s.vset64 d.toNat fun l => s.v64 l a ^^^ s.bv64 b l)

end Sys2Proof.Machine
end

