-- ==== Sys2Proof/Machine/Lane.lean ====
section
/-! DEFINITION. SHFL and VOTE: values exchanged and combined over the executing threads (R142, R143). -/

namespace Sys2Proof.Machine

/-- A shuffle: a lane takes the value of its source lane when that lane executes, else keeps its own (R142). -/
def State.shuffle (s : State) (d a : BitVec 7) (src : Nat → Option Nat) : State :=
  s.vset d.toNat fun l => match src l with
    | some y => if s.E.contains y then s.v y a else s.v l a
    | none => s.v l a

/-- SHFL.IDX (R142). -/
def execShflIdx (c : Bool) (d a b : BitVec 7) (s : State) : Out :=
  endUnit c (s.shuffle d a fun l => some ((s.v l b).toNat % 32))

/-- SHFL.UP (R142). -/
def execShflUp (c : Bool) (d a : BitVec 7) (n : BitVec 5) (s : State) : Out :=
  endUnit c (s.shuffle d a fun l => if n.toNat ≤ l then some (l - n.toNat) else none)

/-- SHFL.DOWN (R142). -/
def execShflDown (c : Bool) (d a : BitVec 7) (n : BitVec 5) (s : State) : Out :=
  endUnit c (s.shuffle d a fun l => if l + n.toNat < 32 then some (l + n.toNat) else none)

/-- SHFL.XOR (R142). -/
def execShflXor (c : Bool) (d a : BitVec 7) (n : BitVec 5) (s : State) : Out :=
  endUnit c (s.shuffle d a fun l => some (l ^^^ n.toNat))

/-- VOTE.ANY (R143). -/
def execVoteAny (c : Bool) (d a : BitVec 3) (s : State) : Out :=
  endUnit c (s.pset d.toNat fun _ => s.E.any fun l => s.pr l a)

/-- VOTE.ALL (R143). -/
def execVoteAll (c : Bool) (d a : BitVec 3) (s : State) : Out :=
  endUnit c (s.pset d.toNat fun _ => s.E.all fun l => s.pr l a)

/-- VOTE.BALLOT (R143). -/
def execVoteBallot (c : Bool) (d : BitVec 5) (a : BitVec 3) (s : State) : Out :=
  endUnit c (s.sset d.toNat (zext 64 (laneMask (s.E.filter fun l => s.pr l a))))

/-- The sum of a register over some lanes, as a word. -/
def State.sumOver (s : State) (ls : List Nat) (a : BitVec 7) : Word := ls.foldl (fun x l => x + s.v l a) 0

/-- VOTE.REDADD.s32 (R143). -/
def execVoteRedaddS32 (c : Bool) (d : BitVec 5) (a : BitVec 7) (s : State) : Out :=
  endUnit c (s.sset d.toNat (sext 64 (s.sumOver s.E a)))

/-- A signed minimum or maximum over the executing lanes. -/
def State.pick (s : State) (a : BitVec 7) (better : Word → Word → Bool) : Word :=
  (s.E.drop 1).foldl (fun x l => if better (s.v l a) x then s.v l a else x) (s.v (s.E.headD 0) a)

/-- VOTE.REDMIN.s32 (R143). -/
def execVoteRedminS32 (c : Bool) (d : BitVec 5) (a : BitVec 7) (s : State) : Out :=
  endUnit c (s.sset d.toNat (sext 64 (s.pick a fun x y => x.slt y)))

/-- VOTE.REDMAX.s32 (R143). -/
def execVoteRedmaxS32 (c : Bool) (d : BitVec 5) (a : BitVec 7) (s : State) : Out :=
  endUnit c (s.sset d.toNat (sext 64 (s.pick a fun x y => y.slt x)))

/-- COMB of TREE_F32 (R143). -/
def comb (u y : Option Word × List Ev) : Option Word × List Ev :=
  match u.1, y.1 with
  | some a, some b => (some (addF32 a b).1, u.2 ++ y.2 ++ [(addF32 a b).2])
  | none, _ => (y.1, u.2 ++ y.2)
  | _, none => (u.1, u.2 ++ y.2)

/-- TREE_F32 over 2^k lanes from lane i: neighbours are added first (R143). -/
def treeF32 (val : Nat → Option Word) (i : Nat) : Nat → Option Word × List Ev
  | 0 => (val i, [])
  | k + 1 => comb (treeF32 val i k) (treeF32 val (i + 2 ^ k) k)

/-- VOTE.REDADD.f32: the fixed tree (R143). -/
def execVoteRedaddF32 (c : Bool) (d : BitVec 5) (a : BitVec 7) (s : State) : Out :=
  let r := treeF32 (fun l => if s.E.contains l then some (s.v l a) else none) 0 5
  endUnit c (s.ssetEv d.toNat (zext 64 (r.1.getD 0), r.2))

/-- VOTE.SCAN.s32: the sum of the lanes up to one's own (R143). -/
def execVoteScanS32 (c : Bool) (d a : BitVec 7) (s : State) : Out :=
  endUnit c (s.vset d.toNat fun l => s.sumOver (s.E.filter (· ≤ l)) a)

end Sys2Proof.Machine
end

