-- ==== Sys2Proof/Machine/Move.lean ====
section
/-! DEFINITION. MOVI and MOVX: moves, lane moves, work identifiers, special registers, predicates and modulo registers
(R12, R14, R136 to R141). -/

namespace Sys2Proof.Machine

/-- MOVI (R136). -/
def execMovi (c : Bool) (d : BitVec 7) (i : BitVec 18) (s : State) : Out :=
  endUnit c (s.vset d.toNat fun _ => (s.imm18 i).setWidth 32)

/-- MOV (R137). -/
def execMov (c : Bool) (d b : BitVec 7) (s : State) : Out := endUnit c (s.vset d.toNat fun l => s.bv b l)

/-- MOVB: the low or the high word of a uniform register (R137). -/
def execMovb (c : Bool) (d : BitVec 7) (h : BitVec 1) (b : BitVec 5) (s : State) : Out :=
  endUnit c (s.vset d.toNat fun _ => if h = 1#1 then (s.sr b).extractLsb' 32 32 else s.bs b)

/-- MOV64 (R137). -/
def execMov64 (c : Bool) (d b : BitVec 7) (s : State) : Out := endUnit c (s.vset64 d.toNat fun l => s.v64 l b)

/-! ## One lane's value (R138) -/

/-- A lane's register or pair, zero-extended. -/
def State.laneVal (s : State) (w : BitVec 1) (l : Nat) (a : BitVec 7) : Dword :=
  if w = 1#1 then s.v64 l a else zext 64 (s.v l a)

/-- VRFL: the lowest executing lane supplies the value (R138). -/
def execVrfl (c : Bool) (d : BitVec 5) (a : BitVec 7) (w : BitVec 1) (s : State) : Out :=
  endUnit c (s.sset d.toNat (s.laneVal w (s.E.headD 0) a))

/-- VRLN: lane n's value, zero for an absent lane (R138). -/
def execVrln (c : Bool) (d : BitVec 5) (a : BitVec 7) (w : BitVec 1) (n : BitVec 5) (s : State) : Out :=
  endUnit c (s.sset d.toNat (if (s.here.thread n.toNat).present then s.laneVal w n.toNat a else 0))

/-- VWLN: a uniform value into lane n, unless it is absent (R138). -/
def execVwln (c : Bool) (d : BitVec 7) (a : BitVec 5) (w : BitVec 1) (n : BitVec 5) (s : State) : Out :=
  endUnit c (s.once fun s => s.onHere fun g =>
    if !(g.thread n.toNat).present then g
    else if w = 1#1 then g.wv64 n.toNat d.toNat (s.sr a) else g.wv n.toNat d.toNat (s.bs a))

/-- Each thread of E writes a 64-bit value to a pair, or its low word to a register. -/
def State.vsetW (s : State) (w : BitVec 1) (d : Nat) (f : Nat → Dword) : State :=
  if w = 1#1 then s.vset64 d f else s.vset d fun l => (f l).setWidth 32

/-! ## The work identifier (R12) -/

/-- Field k of %WID of thread t of a workgroup: field 1 varies fastest over workgroups (R12, R32). -/
def Header.widField (h : Header) (number t k : Nat) : Nat :=
  if k = 0 then t
  else number / ((List.range (k - 1)).foldl (fun x j => x * h.extent (j + 1)) 1) % h.extent k

/-- %WID (R12). -/
def Header.workId (h : Header) (number t : Nat) : Dword :=
  BitVec.ofNat 64 ((List.range 6).foldl (fun x k =>
    x + h.widField number t k * 2 ^ ((List.range k).map h.wid).sum) 0)

/-- %WID_W (R14). -/
def Header.widths (h : Header) : Dword :=
  BitVec.ofNat 64 ((List.range 6).foldl (fun x k => x + h.wid k * 2 ^ (8 * k)) 0)

/-- Index of a lane's thread in its workgroup (R10). -/
def State.threadIndex (s : State) (l : Nat) : Nat := 32 * s.here.index + l

/-- WIDF (R139). -/
def execWidf (c : Bool) (d : BitVec 7) (w : BitVec 1) (k : BitVec 3) (s : State) : Out :=
  endUnit c (s.vsetW w d.toNat fun l =>
    BitVec.ofNat 64 (s.curLaunch.hdr.widField (s.wg s.here.wg).number (s.threadIndex l) k.toNat))

/-! ## Special registers (R140) -/

/-- What a special register holds for a thread (R140); like every operand it is read as the chain began (R50). -/
def State.special (s : State) (l n : Nat) : Dword :=
  let g := s.cur.rd
  let t := g.thread l
  let core := s.cur.core
  match n with
  | 0 => BitVec.ofNat 64 l
  | 1 => BitVec.ofNat 64 g.index
  | 2 => s.curLaunch.hdr.workId (s.wg g.wg).number (s.threadIndex l)
  | 3 => s.curLaunch.hdr.widths
  | 4 => BitVec.ofNat 64 (s.wg g.wg).place
  | 5 => BitVec.ofNat 64 (core % 72 / 9)
  | 6 => BitVec.ofNat 64 (core % 9)
  | 7 => BitVec.ofNat 64 (dieOf core)
  | 8 => zext 64 s.dev
  | 9 => BitVec.ofNat 64 (s.curLaunch.stepc % 2 ^ 32)
  | 10 => zext 64 s.curLaunch.dieset
  | 11 => s.capUnits
  | 12 => BitVec.ofNat 64 s.clock
  | 13 => BitVec.ofNat 64 s.timeNs
  | 14 => BitVec.ofNat 64 s.cur.seq
  | 16 => zext 64 t.trapCause
  | 17 => t.trapPc
  | 18 => zext 64 t.trapWord
  | 19 => t.trapAddr
  | 20 => t.trapRes
  | 21 => t.trapUnit
  | 24 => t.far.word
  | 25 => g.ropePart
  | 28 => s.cur.evt
  | 29 => s.cur.thr
  | 30 => s.cur.win
  | _ => 0

/-- SRD (R140, R141). -/
def execSrd (c : Bool) (d : BitVec 7) (w : BitVec 1) (n : BitVec 7) (s : State) : Out :=
  endUnit c (s.vsetW w d.toNat fun l => s.special l n.toNat)

/-- A write of a special register by a thread; a read-only one stays, and reserved bits read as
zero (R7, R140, R312). -/
def State.setSpecial (s : State) (l n : Nat) (x : Dword) : State :=
  let thread (f : Thread → Thread) : State := s.onHere fun g => g.modThread l f
  match n with
  | 16 => thread fun t => { t with trapCause := x.setWidth 32 }
  | 17 => thread fun t => { t with trapPc := x }
  | 18 => thread fun t => { t with trapWord := x.setWidth 32 }
  | 19 => thread fun t => { t with trapAddr := x }
  | 20 => thread fun t => { t with trapRes := x }
  | 21 => thread fun t => { t with trapUnit := x }
  | 25 => s.onHere fun g => { g with ropePart := putBits x 31 30 0 }
  | 28 => s.modCore s.cur.core fun k => k.writeEvt x
  | 29 => s.modCore s.cur.core fun k => { k with numThr := x }
  | 30 => s.modCore s.cur.core fun k => k.writeWin x s.clock
  | _ => s

/-- A higher lane of another portion of the issue group has written %NUM_THR or %NUM_WIN in this unit, and its value
remains (R26, R140). -/
def State.outwritten (s : State) (l n : Nat) : Bool :=
  (n = 29 || n = 30) && s.merged.any fun c => c.top.any fun h => decide (l < h)

/-- SWR: the lanes write in ascending order; %NUM_EVT, %NUM_THR and %NUM_WIN need privilege (R140). -/
def execSwr (c : Bool) (w : BitVec 1) (a : BitVec 7) (n : BitVec 7) (s : State) : Out :=
  let s' := s.each fun s l =>
    if 28 ≤ n.toNat ∧ n.toNat ≤ 30 ∧ !s.curLaunch.priv then s.raise l Cause.privilege 0
    else if s.outwritten l n.toNat then s
    else s.setSpecial l n.toNat (s.laneVal w l a)
  let kept := s.cur.more && (n = 29 || n = 30) && s.curLaunch.priv
  endUnit c (if kept then { s' with cur := { s'.cur with top := s.E.getLast? } } else s')

/-! ## Predicates and modulo registers (R137) -/

/-- PTOV: bit 0 is 1 (R115, R137). -/
def execPtov (c : Bool) (d : BitVec 7) (s : State) : Out :=
  endUnit c (s.vset d.toNat fun l =>
    BitVec.ofNat 32 ((List.range 8).foldl (fun x i => if s.cur.rd.rp l i then x + 2 ^ i else x) 0))

/-- VTOP: p1 to p7 (R137). -/
def execVtop (c : Bool) (a : BitVec 7) (s : State) : Out :=
  endUnit c (s.lanesDo fun g l => (List.range 8).foldl (fun g i => g.wp l i ((s.v l a).getLsbD i)) g)

/-- QWR (R137). -/
def execQwr (c : Bool) (d : BitVec 3) (b : BitVec 5) (s : State) : Out :=
  endUnit c (s.once fun s => s.onHere fun g => g.wq d.toNat (s.sr b))

/-- QRD (R137). -/
def execQrd (c : Bool) (d : BitVec 5) (a : BitVec 3) (s : State) : Out :=
  endUnit c (s.sset d.toNat (s.cur.rd.rq a.toNat))

end Sys2Proof.Machine
end

