-- ==== Sys2Proof/Machine/Prefix.lean ====
section
/-! DEFINITION. Prefix words (R54 to R57): each is latched for the unit that follows it. -/

namespace Sys2Proof.Machine

/-- XIMM: the high bits of the unit's immediate (R57). -/
def execXimm (i : BitVec 21) (s : State) : Out := latch (fun p => { p with ximm := some i }) s

/-- GUARD: the unit executes in the threads whose predicate equals the sense bit (R55). -/
def execGuard (n : BitVec 1) (p : BitVec 3) (s : State) : Out :=
  latch (fun x => { x with guard := some (n.getLsbD 0, p.toNat) }) s

/-- CPOL: a policy override with E = 1, the order and the scope (R102, R156, R197). -/
def execCpol (e : BitVec 1) (q o : BitVec 2) (sc : BitVec 3) (s : State) : Out :=
  latch (fun x => { x with cpol := some (if e = 1#1 then some q.toNat else none, o.toNat, sc.toNat) }) s

/-- PROBE: the load tells residency in a predicate (R155). -/
def execProbe (p : BitVec 3) (s : State) : Out := latch (fun x => { x with probe := some p.toNat }) s

/-- ROUND: the unit's rounding mode (R76, R179). -/
def execRound (r : BitVec 3) (s : State) : Out := latch (fun x => { x with round := r.toNat }) s

/-- SAT: the unit clamps (R72, R117). -/
def execSat (s : State) : Out := latch (fun x => { x with sat := true }) s

end Sys2Proof.Machine
end

