-- ==== Sys2Proof/Machine/Replay.lean ====
section
/-! DEFINITION. The end of a fault batch: what becomes of the accesses parked on its entries when it is replayed, and
of those that are cancelled (R256, R258, R259, R380). -/

namespace Sys2Proof.Machine

/-- What a batch says of a page: nothing, replay its accesses, or end them. -/
inductive Verdict where
  | none | replay | cancel
  deriving DecidableEq, Repr

/-- The verdict of a batch on a parking key. -/
def Batch.verdict (b : Batch) (die key : Nat) : Verdict :=
  match b.entries.find? fun e => e.freed.isNone && parkKey die e.asid (e.page * 65536) = key with
  | some e => if e.cancelled then .cancel else .replay
  | .none => .none

/-- The verdict on something that may be parked. -/
def verdictOf (v : Nat → Verdict) (park : Option Nat) : Verdict :=
  match park with
  | some k => v k
  | .none => .none

/-- The parked loads of a core (R151, R258). -/
def State.replayLoads (s : State) (v : Nat → Verdict) : State :=
  s.cores.foldl (fun s k => k.2.loads.foldl (fun s r =>
    match verdictOf v r.park with
    | .replay => s.setLoad k.1 { r with park := none }
    | .cancel => (s.pendLoad k.1 r Cause.fatalMemory).afterAccess k.1 r.place
    | .none => s) s) s

/-- A load of a saved workgroup ends: its thread in the image is owed the trap. -/
def Image.failLoad (i : Image) (places : List Nat) (r : LoadReq) (cause : Nat) : Image :=
  let j := (places.findIdx? (· = r.place)).getD 0
  let f (t : Thread) : Thread :=
    if t.live then { t with pending := t.pending ++ [{ cause, word := r.word, addr := r.ea, unit := r.unit, res := r.res }] } else t
  { i with loads := i.loads.filter fun x => x.id ≠ r.id
           groups := i.groups.set j ((i.groups.get {} j).modThread r.lane f) }

/-- The parked loads of the saved workgroups (R333). -/
def State.replayImages (s : State) (v : Nat → Verdict) : State :=
  { s with images := s.images.mapVals fun _ i =>
      i.loads.foldl (fun (i : Image) r =>
        match verdictOf v r.park with
        | .replay => { i with loads := i.loads.map fun x => if x.id = r.id then { x with park := none } else x }
        | .cancel => i.failLoad (s.wg i.wg).places r Cause.fatalMemory
        | .none => i) i }

/-- The parked accesses of the store queues; a signal that is cancelled is skipped (R258, R380). -/
def State.replayQueues (s : State) (v : Nat → Verdict) : State :=
  s.cores.foldl (fun s k => k.2.groups.foldl (fun s g => g.2.sq.foldl (fun s u => u.accs.foldl (fun s a =>
    match verdictOf v a.park with
    | .replay => s.setAcc k.1 g.1 u.serial a.lane fun a => { a with park := none }
    | .cancel =>
      if u.op = .rsig then
        ((s.noteSkipped u.asid).setAcc k.1 g.1 u.serial a.lane fun a => { a with park := none, done := true }).afterAccess
          k.1 g.1
      else (s.failAcc k.1 g.1 u a Cause.fatalMemory).afterAccess k.1 g.1
    | .none => s) s) s) s) s

/-- Threads whose fetch or POLL is parked. -/
def State.replayThreads (s : State) (v : Nat → Verdict) : State :=
  s.cores.foldl (fun s k => k.2.groups.foldl (fun s g => g.2.lanes.foldl (fun s t =>
    t.2.waits.foldl (fun s w =>
      match w.kind with
      | .fetch key =>
        match v key with
        | .replay => s.modThread k.1 g.1 t.1 fun t => { t with waits := t.waits.filter fun x => x.kind ≠ .fetch key }
        | .cancel =>
          let p := t.2.pos
          s.takeTrap k.1 g.1 t.1
            { cause := Cause.fatalMemory, word := 0, addr := p.pc, unit := p.pc + BitVec.ofNat 64 (4 * p.word) } p.pc p
        | .none => s
      | .poll a due b =>
        match verdictOf v a.park with
        | .replay => s.modThread k.1 g.1 t.1 fun t => t.setPoll (some ({ a with park := none }, due, b))
        | .cancel => s.pollFails k.1 g.1 t.1 a Cause.fatalMemory
        | .none => s
      | _ => s) s) s) s) s

/-- An engine operation whose parked access is cancelled (R258, R291, R314, R338, R348, R380). -/
def State.cancelOp (s : State) (o : EngOp) : State :=
  let o := { o with park := none }
  if o.done then
    match o.kind with
    | .smpl _ _ | .tasknew _ => s.setOp o
    | _ => (s.noteSkipped o.asid).setOp { (if o.err = 0 then { o with err := 1 } else o) with acked := true }
  else match o.kind with
  | .tt _ => s.ttEnd o 13 1 []
  | .smpl _ _ | .tasknew _ => s.setOp { o with err := 1 }
  | .pgreq => (s.noteSkipped o.asid).dropOp o.id
  | _ => s.setOp { o.note 1 with started := true, done := true }

/-- The pages that a PGREQ waits for (R159). -/
def EngOp.serviced (o : EngOp) (v : Nat → Verdict) : EngOp :=
  let hit (e : Nat × Dword × Dword) : Verdict := if e.1 = 0 then v e.2.1.toNat else .none
  let o := if o.elems.any fun e => hit e = .cancel then o.note 1 else o
  { o with elems := o.elems.filter fun e => hit e = .none }

/-- The parked engine operations. -/
def State.replayOps (s : State) (v : Nat → Verdict) : State :=
  s.ops.foldl (fun s o =>
    let s := if o.kind = .pgreq then s.setOp (o.serviced v) else s
    match verdictOf v o.park with
    | .replay => s.withOp o.id fun s o => s.setOp { o with park := none }
    | .cancel => s.withOp o.id State.cancelOp
    | .none => s) s

/-- The parked requests of other modules: a cancelled one is answered with an error (R258, R261). -/
def State.replayRemote (s : State) (v : Nat → Verdict) : State :=
  s.remoteIn.foldl (fun s r =>
    match v r.2.park with
    | .replay => match s.serve r.2.msg with
      | (s, x) => s.answer (some r.1) r.2.msg x
    | .cancel =>
      s.answer (some r.1) r.2.msg (.reply .fatal (r.2.msg.redirected || s.redirects r.2.msg) [])
    | .none => s) s

/-- The parked records of the deterministic buffers. -/
def State.replayDets (s : State) (v : Nat → Verdict) : State :=
  s.cores.foldl (fun s k => k.2.det.foldl (fun s r =>
    match verdictOf v r.park with
    | .replay => s.setDet k.1 r (some { r with park := none })
    | .cancel => s.failDet k.1 r Cause.fatalMemory
    | .none => s) s) s

/-- The parked accesses of the HTS and of the text path. -/
def State.replayUnits (s : State) (v : Nat → Verdict) : State :=
  let sess (y : Session) : Session :=
    match verdictOf v y.park with
    | .none => y
    | x => { y with park := none, failed := y.failed || x = .cancel }
  { s with
    tasks := s.tasks.mapVals fun _ x =>
      match verdictOf v x.park with
      | .none => x
      | y => { x with park := none, cancelled := x.cancelled || y = .cancel }
    ports := s.ports.mapVals fun _ p =>
      let p := { p with sessions := p.sessions.mapVals fun _ y => sess y }
      match verdictOf v p.park with
      | .none => p
      | y => { p with park := none, failed := p.failed || y = .cancel }
    models := s.models.mapVals fun _ m =>
      match verdictOf v m.park with
      | .none => m
      | y => { m with park := none, failed := m.failed || y = .cancel } }

/-- FLTRPL's effect: the accesses of the batch end or are re-issued, and its slot is free for another (R257, R258). -/
def State.replay (s : State) (die : Nat) (b : Batch) : State :=
  let v := b.verdict die
  let g := s.gatherer die
  let g := { g with batches := g.batches.filter fun x => x.number ≠ b.number
                    slots := g.slots.filter fun x => x.2 ≠ b.number }
  let s := { s with gatherers := s.gatherers.set die g }
  let s := ((s.replayLoads v).replayImages v).replayQueues v
  let s := ((s.replayThreads v).replayOps v).replayRemote v
  let s := (s.replayDets v).replayUnits v
  (s.readmit die).deliverBatches die (s.gatherer die).batches.length

/-- A delivered batch that has not been replayed. -/
def State.batch (s : State) (die number : Nat) : Option Batch :=
  (s.gatherer die).batches.find? fun b => b.number = number && b.delivered

/-- FLTCAN's effect: an entry of a batch is cancelled (R258). -/
def State.cancelEntry (s : State) (die number entry : Nat) : State :=
  let g := s.gatherer die
  let fix (b : Batch) : Batch :=
    if b.number = number then
      { b with entries := b.entries.zipIdx.map fun e => if e.2 = entry then { e.1 with cancelled := true } else e.1 }
    else b
  { s with gatherers := s.gatherers.set die { g with batches := g.batches.map fix } }

end Sys2Proof.Machine
end

