-- ==== Sys2Proof/Machine/Sys.lean ====
section
/-! DEFINITION. SYS, major 0x32 (R377): forced saves and restores, TLBI, the replay of fault batches, HALTQ and
SNAPARM; and the ends of a quiesce wait (R262, R263). -/

namespace Sys2Proof.Machine

/-- The members raise FORMAT for a bad operand once per unit, at the lowest executing thread (R113, R377). -/
def State.sysFormat (s : State) : State :=
  match s.E with
  | l :: _ => s.raise l Cause.format 0
  | [] => s

/-- A member acts once per unit, outside any region; `f` gives none where an operand is refused (R377). -/
def State.sys (s : State) (f : State → Option State) : State :=
  s.outsideRegion fun s => s.once fun s => (f s).getD s.sysFormat

/-- A member that has to wait is issued again. -/
def State.sysAgain (s : State) : State := s.each fun s l => s.effect l (.resume s.unitPos)

/-- The core of a core operand; none where a bit is reserved or the core is not there (R377). -/
def State.coreOperand (s : State) (x : Dword) : Option Nat :=
  if bitsNat x 63 17 ≠ 0 ∨ bitsNat x 7 5 ≠ 0 ∨ bitsNat x 15 12 ≥ 8 then none
  else s.windowCore { die := bitsNat x 16 16, row := bitsNat x 15 12, col := bitsNat x 11 8, win := 0, off := 0 }

/-! ## CTXSV and CTXLD -/

/-- The running workgroup that a core operand names by its place. -/
def State.wgOperand (s : State) (x : Dword) : Option Nat :=
  match s.coreOperand x with
  | none => none
  | some core => (List.find? (fun (y : Nat × Wg) =>
      y.2.st = .running && y.2.core = core && y.2.place = bitsNat x 4 0) s.wgs).map Prod.fst

/-- An address of an image: physical, 64-byte aligned, in populated memory (log 30). -/
def State.imageAddr (s : State) (x : Dword) : Bool :=
  bitsNat x 63 52 = 0 && bitsNat x 5 0 = 0 && s.populated x.toNat &&
    (s.place x.toNat = .memory || s.place x.toNat = .pool)

/-- The effect of CTXSV. -/
def State.ctxsv (s : State) (a x : Dword) : Option State :=
  match s.wgOperand x with
  | none => none
  | some w =>
    if !s.imageAddr a ∨ w = s.here.wg then none
    else if !s.wgQuiet w then some s.sysAgain
    else
      let id := s.nextId
      let s := s.saveFull w a.toNat true
      some { s with images := s.images.mapVals fun n i => if n = id then { i with manual := true } else i }

/-- CTXSV (R377). -/
def execCtxsv (c : Bool) (a b : BitVec 5) (s : State) : Out :=
  endUnit c (s.sys fun s => s.ctxsv (s.sr a) (s.sr b))

/-- The image at an address: the one written there last. -/
def State.imageAt (s : State) (addr : Nat) : Option (Nat × Image) :=
  List.find? (fun (x : Nat × Image) => x.2.addr = addr) s.images.reverse

/-- The effect of CTXLD once the image is known. -/
def State.ctxldImage (s : State) (core id : Nat) (i : Image) : Option State :=
  let empty := (s.coreWgs core []).isEmpty
  if (s.task i.task).phase ≠ 3 ∨ (s.launch i.task).stopped then none
  else if !s.wgDrained i.wg then some s.sysAgain
  else
    let s1 :=
      if !empty then s
      else match i.carve with
        | some _ => s.putCarve core i
        | none => s.applyCarve core (s.launch i.task).hdr.scratch
    (s1.putImages core [(id, i)]).map fun s => s.unrefused i.task

/-- CTXLD (R334, R377). -/
def execCtxld (c : Bool) (a b : BitVec 5) (s : State) : Out :=
  endUnit c (s.sys fun s =>
    let x := s.sr a
    match s.coreOperand (s.sr b) with
    | none => none
    | some core =>
      if !s.imageAddr x then none
      else if s.viewNat x.toNat 8 ≠ geometryWord then
        s.E.head?.map fun l => s.raise l Cause.geometryMismatch x
      else match s.imageAt x.toNat with
        | none => none
        | some (id, i) => s.ctxldImage core id i)

/-! ## TLBI -/

/-- Page `page` of an address space is one that the operands name: all of them, the page itself, or one of the same
large leaf (R100, R377). -/
def State.tlbiNames (s : State) (a b : Dword) (asid : BitVec 16) (page : Nat) : Bool :=
  let p := bitsNat b 56 16
  asid = a.extractLsb' 0 16 &&
    (a.getLsbD 16 || page = p ||
      (page / 8192 = p / 8192 && s.xc.any fun x => x.1 % 2 ^ 57 / 2 ^ 41 = asid.toNat && x.1 % 2 ^ 41 / 8192 = p / 8192 && x.2.big))

/-- A key of a page, and the key of a line at a home slice, by the pages that TLBI names. -/
def State.tlbiPage (s : State) (a b : Dword) (k : Nat) : Bool :=
  s.tlbiNames a b (BitVec.ofNat 16 (k % 2 ^ 57 / 2 ^ 41)) (k % 2 ^ 41)
def State.tlbiHome (s : State) (a b : Dword) (k : Nat) : Bool :=
  s.tlbiNames a b (BitVec.ofNat 16 (k % 2 ^ 67 / 2 ^ 51)) (k % 2 ^ 51 / 1024)

/-- Operands of TLBI without a reserved bit; the address is ignored for a whole address space. -/
def tlbiWell (a b : Dword) : Bool :=
  bitsNat a 63 17 = 0 && (a.getLsbD 16 || (bitsNat b 15 0 = 0 && bitsNat b 63 57 = 0))

/-- A line of the pages is in a transaction: TLBI waits for the accesses that walked the old leaf (R377). -/
def State.tlbiBusy (s : State) (a b : Dword) : Bool :=
  s.dir.any (fun x => s.tlbiHome a b x.1 && (x.2.transient || !x.2.queue.isEmpty)) ||
  s.msgs.any (fun m => s.tlbiNames a b m.asid (m.line.toNat / 1024)) ||
  s.cores.any fun k => k.2.l1.any fun x =>
    s.tlbiNames a b x.2.asid (x.2.line.toNat / 1024) && !(x.2.st = .m || x.2.st = .o || x.2.st = .e || x.2.st = .s)

/-- A page is still mapped with tags; a page that is not is newly mapped when it is mapped again (R103). -/
def State.keepsTags (s : State) (k : Nat) : Bool :=
  match s.walk (BitVec.ofNat 16 (k / 2 ^ 41)) (k % 2 ^ 41 * 65536) with
  | .leaf l => l.tagen
  | .fault m => m

/-- The effect of TLBI: the lines are written back and invalidated, and the translations go. -/
def State.tlbi (s : State) (a b : Dword) : State :=
  let page := s.tlbiPage a b
  let home := s.tlbiHome a b
  let code (x : CodeLine) : Bool := s.tlbiNames a b (spaceOf x.asid x.va) (bitsNat x.va 56 16)
  let lines := s.l2.filter fun x => home x.1
  let s := lines.foldl (fun s x => s.recall x.2.pa true) s
  { s with
    l2 := s.l2.filter fun x => !home x.1
    dir := s.dir.filter fun x => !home x.1
    xc := s.xc.filter fun x => !page x.1
    pageHome := s.pageHome.filter fun x => !page x.1
    tagged := s.tagged.filter fun x => !page x.1 || s.keepsTags x.1
    cores := s.cores.mapVals fun _ k => { k with code := k.code.filter fun x => !code x } }

/-- TLBI (R98, R377). -/
def execTlbi (c : Bool) (a b : BitVec 5) (s : State) : Out :=
  endUnit c (s.sys fun s =>
    if !tlbiWell (s.sr a) (s.sr b) then none
    else if s.tlbiBusy (s.sr a) (s.sr b) then some s.sysAgain
    else some (s.tlbi (s.sr a) (s.sr b)))

/-! ## FLTCAN and FLTRPL -/

/-- FLTCAN (R258, R377). -/
def execFltcan (c : Bool) (a b : BitVec 5) (s : State) : Out :=
  endUnit c (s.sys fun s =>
    let x := s.sr b
    let die := bitsNat x 16 16
    match s.batch die (s.sr a).toNat with
    | none => none
    | some y =>
      if bitsNat x 63 17 ≠ 0 ∨ die ≥ s.dies ∨ bitsNat x 15 0 ≥ y.entries.length then none
      else some (s.cancelEntry die y.number (bitsNat x 15 0)))

/-- FLTRPL (R258, R377). -/
def execFltrpl (c : Bool) (a b : BitVec 5) (s : State) : Out :=
  endUnit c (s.sys fun s =>
    let x := s.sr b
    let die := bitsNat x 16 16
    match s.batch die (s.sr a).toNat with
    | none => none
    | some y => if bitsNat x 63 17 ≠ 0 ∨ bitsNat x 15 0 ≠ 0 ∨ die ≥ s.dies then none else some (s.replay die y))

/-! ## HALTQ (R262, R263) -/

/-- A core halts, if it has not halted yet. -/
def State.halt (s : State) (core : Nat) : State :=
  s.modCore core fun k => if k.halted then k else { k with halted := true, haltSince := s.clock, haltFail := false }

/-- The threads that wait for a core's quiesce wait go on with their predicate. -/
def State.haltTell (s : State) (core : Nat) (ok : Bool) : State :=
  let tell (t : Thread) : Thread :=
    match t.waits.findSome? fun w => match w.kind with
      | .haltq c pd => if c = core then some pd else none
      | _ => none with
    | some pd => { t with p := putPred t.p pd ok
                          waits := t.waits.filter fun w => w.kind ≠ .haltq core pd }
    | none => t
  let group (g : Group) : Group := { g with lanes := g.lanes.mapVals fun _ t => tell t }
  { s with cores := s.cores.mapVals fun _ k => { k with groups := k.groups.mapVals fun _ g => group g }
           images := s.images.mapVals fun _ i => { i with groups := i.groups.mapVals fun _ g => group g } }

/-- A halted core is released: held writes land, and the clocks of the halt count in no bound (R36, R236, R262). -/
def State.haltRelease (s : State) (core : Nat) : State :=
  let k := s.core core
  let d := s.clock - k.haltSince
  let free (t : Thread) : Thread :=
    { t with since := t.since + d, farSince := if t.far.state = 1 ∨ t.far.state = 2 then t.farSince + d else t.farSince }
  let s := s.setCore core { k with
    halted := false, haltQuiesce := false, quiesced := false, haltFail := false, held := []
    groups := k.groups.mapVals fun _ g =>
      { g with lanes := g.lanes.mapVals fun _ t => free t } }
  (k.held.foldl (fun s w => s.windowLand core (windowOf w.pa) w.bytes w.who) s).haltTell core false

/-- A HALTQ member on the core that s(A) names; its own core is refused (R377). -/
def State.haltq (s : State) (a : BitVec 5) (f : State → Nat → Option State) : State :=
  s.sys fun s => match s.coreOperand (s.sr a) with
    | none => none
    | some core => if core = s.cur.core then none else f s core

/-- HALTQ.NOW (R262, R377). -/
def execHaltqNow (c : Bool) (a : BitVec 5) (p : BitVec 3) (s : State) : Out :=
  endUnit c (s.haltq a fun s core => some ((s.halt core).pset p.toNat fun _ => true))

/-- HALTQ.Q (R262, R377). -/
def execHaltqQuiesce (c : Bool) (a : BitVec 5) (p : BitVec 3) (s : State) : Out :=
  endUnit c (s.haltq a fun s core =>
    if (s.core core).haltQuiesce then some (s.pset p.toNat fun _ => true)
    else
      let s := (s.halt core).modCore core fun k =>
        { k with haltQuiesce := true, haltFail := false, haltBy := s.timeNs + 20000 }
      some (s.each fun s l => s.wait l (.haltq core p.toNat)))

/-- HALTQ.REL (R262, R377). -/
def execHaltqRelease (c : Bool) (a : BitVec 5) (p : BitVec 3) (s : State) : Out :=
  endUnit c (s.haltq a fun s core =>
    if !(s.core core).halted then none else some ((s.haltRelease core).pset p.toNat fun _ => true))

/-- A core is in the quiesce wait of HALTQ. -/
def Core.quiescing (k : Core) : Bool := k.halted && k.haltQuiesce && !k.quiesced

/-- INFLIGHT has reached zero within the 20 µs of the quiesce wait (R262, R263). -/
def State.haltDone (s : State) (core : Nat) : State :=
  if (s.core core).quiescing ∧ s.timeNs ≤ (s.core core).haltBy ∧ s.inflight core = 0 then
    (s.modCore core fun k => { k with quiesced := true }).haltTell core true
  else s

/-- The quiesce wait has run out (R262, R263). -/
def State.haltExpired (s : State) (core : Nat) : State :=
  if (s.core core).quiescing ∧ (s.core core).haltBy < s.timeNs then
    (s.modCore core fun k => { k with haltQuiesce := false, haltFail := true }).haltTell core false
  else s

/-- HALT_QUIESCE_COMPLETE (R262, R263). -/
def execHaltQuiesceComplete (core : Nat) (s : State) : Out := .next (s.haltDone core)

/-- HALT_QUIESCE_TIMEOUT (R262, R263). -/
def execHaltQuiesceTimeout (core : Nat) (s : State) : Out := .next (s.haltExpired core)

/-! ## SNAPARM -/

/-- SNAPARM: SNAP_CTL of every core (R375, R377). -/
def execSnaparm (c : Bool) (a : BitVec 5) (s : State) : Out :=
  endUnit c (s.sys fun s =>
    let x := s.sr a
    if bitsNat x 63 4 ≠ 0 then none
    else
      let s := (List.range s.coreCount).foldl (fun s c => s.modCore c fun k => k.writeSnapCtl x) s
      some { s with blocks := s.blockList.map fun b => (b, { s.block b with ctl := snapCtlWrite (s.block b).ctl x }) })

end Sys2Proof.Machine
end

