-- ==== Sys2Proof/Machine/Protocol.lean ====
section
/-! DEFINITION. The events of the memory system: a load takes its value, a store queue drains, a miss of the L2 is
translated, a write lands through a window, the messages of the directory are received, an agent acts at a home, and
a replicated page collapses (R97, R106, R151, R194, R224, R246 to R254). -/

namespace Sys2Proof.Machine

/-! ## Loads and stores -/

/-- LOAD_DATA_ARRIVAL: a load takes its value; the names from 2^64 up are those of waiting LDFEs (R151, R154). -/
def execLoadDataArrival (core id : Nat) (s : State) : Out :=
  .next (if id < 2 ^ 64 then s.loadArrives core id
    else s.tryLdfe core ((id - 2 ^ 64) / 32) ((id - 2 ^ 64) % 32))

/-- LONG_LATENCY_LOAD: a load has been outstanding for 400 clocks (R27). -/
def State.longLoad (s : State) (core id : Nat) : State :=
  s.modCore core fun k => { k with loads := k.loads.map fun r =>
    if r.id = id ∧ r.issued + 400 ≤ s.clock then { r with long := true } else r }

/-- LONG_LATENCY_LOAD (R27). -/
def execLongLatencyLoad (core id : Nat) (s : State) : Out := .next (s.longLoad core id)

/-- STORE_QUEUE_DRAIN (R194, R219). -/
def execStoreQueueDrain (core place : Nat) (s : State) : Out := .next (s.drain core place false)

/-- HAC_ROUTINE: the head of a queue is a PATOM that runs at its home (R224). -/
def execHacRoutine (core place : Nat) (s : State) : Out := .next (s.drain core place true)

/-- WINDOW_WRITE: a naturally aligned write of 1 to 16 bytes through an on-chip window (R106). -/
def execWindowWrite (pa : BitVec 52) (size : Nat) (val : BitVec 128) (s : State) : Out :=
  let w := windowOf pa.toNat
  .next (if s.place pa.toNat ≠ .window ∨ !(size = 1 ∨ size = 2 ∨ size = 4 ∨ size = 8 ∨ size = 16) ∨
      pa.toNat % size ≠ 0 ∨ (size < 4 ∧ (w.win = 0 ∨ w.win = 1 ∨ w.win = 3 ∨ w.win = 4)) then s
    else s.windowWrite pa.toNat (leBytes size val.toNat))

/-! ## Translation -/

/-- KINDS bits of an access that misses (R257). -/
def missKinds (acc : AccKind) : BitVec 8 :=
  match acc with
  | .read => 1
  | .write => 2
  | .fetch => 4
  | .probe => 0

/-- A line that waits in D_F for its data goes on with the requests in its queue (R247, R248). -/
def State.fetched (s : State) (die : Nat) (asid : BitVec 16) (va : Nat) : State :=
  let key := homeKey die asid (lineOf va)
  let e := s.dirAt key
  if e.st = .dF ∧ (s.l2.find? key).isSome then
    (s.setDir key { e with st := .i }).homeQueue die asid (lineOf va) (e.queue.length + 1)
  else s

/-- L2_MISS_TRANSLATION: the access is walked, and its line filled, or its page faults; the access itself parks where it is
made (R97, R98, R256). -/
def State.missTranslate (s : State) (die : Nat) (asid : BitVec 16) (va : Nat) (acc : AccKind) : State :=
  if die ≥ s.dies then s
  else match s.leafFor die asid va 1 false with
  | (s', .leaf l) => s'.fetched (s'.homeDie die asid va l) asid va
  | (s', .fault m) => if acc = .probe then s else s'.faultOn die asid va (missKinds acc) m 0

/-- L2_MISS_TRANSLATION (R97). -/
def execL2MissTranslation (die : Nat) (asid : BitVec 16) (va : BitVec 57) (acc : AccKind) (s : State) : Out :=
  .next (s.missTranslate die asid va.toNat acc)

/-! ## Messages of the directory (R246) -/

/-- A request of one kind. -/
def MsgKind.isReq (k : ReqKind) : MsgKind → Bool
  | .req k' _ _ => k' = k
  | _ => false

/-- A message of a line and a core of one kind is received. -/
def State.receive (s : State) (line : LineKey) (core : Nat) (p : MsgKind → Bool) : State :=
  s.deliver line.asid line.line core p

/-- GETS (R248). -/
def execGets (line : LineKey) (core : Nat) (s : State) : Out := .next (s.receive line core (MsgKind.isReq .gets))
/-- GETX (R248). -/
def execGetx (line : LineKey) (core : Nat) (s : State) : Out := .next (s.receive line core (MsgKind.isReq .getx))
/-- UPG (R248, R251). -/
def execUpg (line : LineKey) (core : Nat) (s : State) : Out := .next (s.receive line core (MsgKind.isReq .upg))

/-- A write-back is received by the home; without one in flight, the L1 evicts a line of one of the states named, at a
moment that nothing fixes (R245, R249). -/
def State.putEvent (s : State) (line : LineKey) (core : Nat) (k : ReqKind) (sts : List L1St) : State :=
  if s.msgs.any fun m => m.asid = line.asid && m.line = line.line && m.core = core && m.kind.isReq k then
    s.receive line core (MsgKind.isReq k)
  else match (s.core core).l1.find? (l1Key line.asid line.line) with
    | some l => if sts.contains l.st then s.l1Evict core line.asid line.line else s
    | none => s

/-- PUTM (R248, R249). -/
def execPutm (line : LineKey) (core : Nat) (s : State) : Out := .next (s.putEvent line core .putm [.m])
/-- PUTO (R248, R249). -/
def execPuto (line : LineKey) (core : Nat) (s : State) : Out := .next (s.putEvent line core .puto [.o])
/-- PUTE; a copy in S leaves silently (R248, R249). -/
def execPute (line : LineKey) (core : Nat) (s : State) : Out := .next (s.putEvent line core .pute [.e, .s])

/-- FWD_GETS (R249). -/
def execFwdGets (line : LineKey) (core : Nat) (s : State) : Out :=
  .next (s.receive line core fun k => match k with | .fwdGets _ => true | _ => false)
/-- FWD_GETX (R249). -/
def execFwdGetx (line : LineKey) (core : Nat) (s : State) : Out :=
  .next (s.receive line core fun k => match k with | .fwdGetx _ _ => true | _ => false)
/-- INV (R249, R250). -/
def execInv (line : LineKey) (core : Nat) (s : State) : Out :=
  .next (s.receive line core fun k => match k with | .inv _ => true | _ => false)
/-- DATA (R250). -/
def execData (line : LineKey) (core : Nat) (s : State) : Out :=
  .next (s.receive line core fun k => match k with | .data _ _ _ => true | _ => false)
/-- DATA_EX (R248, R249). -/
def execDataEx (line : LineKey) (core : Nat) (s : State) : Out :=
  .next (s.receive line core fun k => match k with | .dataEx _ _ _ => true | _ => false)
/-- UPG_ACK (R249). -/
def execUpgAck (line : LineKey) (core : Nat) (s : State) : Out :=
  .next (s.receive line core fun k => match k with | .upgAck _ => true | _ => false)
/-- INV_ACK (R248). -/
def execInvAck (line : LineKey) (core : Nat) (s : State) : Out :=
  .next (s.receive line core fun k => match k with | .invAck => true | _ => false)
/-- PUT_ACK (R249). -/
def execPutAck (line : LineKey) (core : Nat) (s : State) : Out :=
  .next (s.receive line core fun k => match k with | .putAck stale => !stale | _ => false)
/-- PUT_ACK_STALE (R249). -/
def execPutAckStale (line : LineKey) (core : Nat) (s : State) : Out :=
  .next (s.receive line core fun k => match k with | .putAck stale => stale | _ => false)
/-- UNBLOCK (R248). -/
def execUnblock (line : LineKey) (core : Nat) (s : State) : Out :=
  .next (s.receive line core fun k => match k with | .unblock _ _ => true | _ => false)

/-- HOME_AGENT_ACCESS: what an agent without an L1 does to the copies of a line before it reads or writes it (R252). -/
def execHomeAgentAccess (pa : BitVec 52) (write : Bool) (s : State) : Out :=
  .next (if s.place pa.toNat = .memory ∨ s.place pa.toNat = .pool then s.recall pa.toNat write else s)

/-! ## Replicated pages (R254, R255) -/

/-- A frame that a collapse leaves is reported as an entry of a batch (R254, R257). -/
def State.reportFreed (s : State) (die : Nat) (asid : BitVec 16) (page frame : Nat) : State :=
  s.enterFault die { asid, page, freed := some frame }

/-- The keys of 64 KiB pages that one leaf maps, of an address space or of what a die keeps of it, are those that agree
above its size. -/
def Leaf.unit (l : Leaf) (key : Nat) : Nat := if l.big then key / 8192 else key

/-- The write requests of a leaf's pages are done. -/
def State.collapsed (s : State) (l : Leaf) (key : Nat) : State :=
  { s with collapse := s.collapse.filter fun x => l.unit x.1 ≠ l.unit key }

/-- The requests of a page on their way to the slice of the die that loses its replica, or queued there for a line that
has not been read, go to the new home; so do the L1 lines that wait for them (R254). -/
def State.rehome (s : State) (inPage : Nat → Bool) (die frame span : Nat) : State :=
  let lost (k : Nat) : Bool := inPage k && k / 2 ^ 67 ≠ die
  let move (l : L1Line) : L1Line :=
    if lost (homeKey l.die l.asid l.line) && (l.st = .isD || l.st = .imAD) && !l.got then
      { l with die, pa := frame + 64 * l.line.toNat % span }
    else l
  let queued := (s.dir.filter fun x => lost x.1).flatMap fun x => x.2.queue.map fun q =>
    ({ asid := BitVec.ofNat 16 (x.1 % 2 ^ 67 / 2 ^ 51), line := BitVec.ofNat 51 x.1, die, core := q.2, seq := 0,
       kind := .req q.1 0 false } : Msg)
  { s with
    msgs := (s.msgs.map fun m => if lost (homeKey m.die m.asid m.line) then { m with die } else m) ++ queued
    cores := s.cores.mapVals fun _ k => { k with l1 := k.l1.mapVals fun _ l => move l } }

/-- REPLICA_COLLAPSE: the Scraper takes the oldest write that waits for a page (R254, R255). A transaction on one of
the page's lines ends first; a request that no home has taken yet goes to the new home. -/
def State.replicaCollapse (s : State) (asid : BitVec 16) (page die : Nat) : State :=
  let va := page * 65536
  let key := pageKey asid va
  if !s.collapse.contains (key, die) then s
  else match s.xlate die asid va with
    | (s, .fault _) => s.collapsed {} key
    | (s, .leaf l) =>
      -- the first request decides HOME
      let first := (s.collapse.find? fun x => l.unit x.1 = l.unit key).map Prod.snd
      let inPage (k : Nat) : Bool := l.unit (k % 2 ^ 67 / 1024) = l.unit key
      let busy (x : Nat × DirEntry) : Bool := inPage x.1 && (x.2.st = .dBS || x.2.st = .dBX)
      let sent (m : Msg) : Bool := inPage (homeKey m.die m.asid m.line) && m.kind.cls ≠ 0
      if !l.repl then s.collapsed l key
      else if first ≠ some die ∨ s.dir.any busy || s.msgs.any sent then s
      else
        -- the replica table's frame of the leaf's first page is the replica of its frame
        let other := s.replica.get (s.replica.get l.frame key) (l.unit key * (l.span / 65536))
        let frame := if die = l.home then l.frame else other
        let freed := if die = l.home then other else l.frame
        let bits := putBits (putBits (putBits l.bits 5 5 0) 9 9 die) 51 16 (frame / 65536)
        let l' : Leaf := { l with bits }
        let gone (k : Nat) : Bool := inPage k && k / 2 ^ 67 ≠ die
        let s := (s.l2.filter fun y => gone y.1).foldl (fun (s : State) (y : Nat × L2Line) => s.recall y.2.pa true) s
        let s := (s.agentWriteLine l.addr (leBytes 8 bits.toNat)).rehome inPage die frame l.span
        let ours (k : Nat) : Bool := l.unit (k % 2 ^ 57) = l.unit key
        let s := { s with
          l2 := (s.l2.filter fun (y : Nat × L2Line) => !gone y.1).map fun (y : Nat × L2Line) =>
            if inPage y.1 then (y.1, { y.2 with leaf := l' }) else y
          dir := s.dir.filter fun (y : Nat × DirEntry) => !gone y.1
          xc := s.xc.mapVals fun _ y => if y.addr = l.addr then l' else y
          pageHome := Tab.mapVals (s.pageHome.filter fun (y : Nat × Nat) => !(ours y.1 && y.1 / 2 ^ 57 ≠ die)) fun k y =>
            if ours k then die else y
          replica := s.replica.filter fun (y : Nat × Nat) => l.unit y.1 ≠ l.unit key
          tagged := s.tagged.mapVals fun k y => if l.unit k = l.unit key then frame else y }
        (s.reportFreed l.home asid (page / (l.span / 65536) * (l.span / 65536)) freed).collapsed l key

/-- REPLICA_COLLAPSE (R254). -/
def execReplicaCollapse (asid : BitVec 16) (page : BitVec 41) (writerDie : Nat) (s : State) : Out :=
  .next (s.replicaCollapse asid page.toNat writerDie)

end Sys2Proof.Machine
end

