-- ==== Sys2Proof/Machine/Reliability.lean ====
section
/-! DEFINITION. Boot, attestation, the Corrected-Error Journal, uncorrectable errors, power and clock (R369 to R374,
R378). -/

namespace Sys2Proof.Machine

/-- A signature of the identity key: 64 bytes (R370, log 15). -/
def signature (msg : List Byte) : List Byte := (List.range 64).map fun i => Config.identitySignature msg i

/-! ## Boot (R369) -/

/-- The boot ROM accepts the image in flash: its signature verifies and it is not rolled back. -/
def State.imageGood (s : State) : Bool := s.flash.signed && decide (s.fusedCounter ≤ s.flash.version)

/-- RESET: every register and counter restarts, and the boot ROM checks the image. What flash and the fuses hold, and
physical memory, stay (R369, log 16). -/
def execReset (s : State) : Out :=
  let j : Journal := { s.journal with incoming := [] }
  .next { State.reset with
    part := s.part, flash := s.flash, fusedCounter := s.fusedCounter, journal := j, mem := s.mem, remap0 := s.remap0
    remap1 := s.remap1, sched := s.sched, free := s.free, msix := s.msix, reports := s.reports
    boot := if s.imageGood then .running else .recovery }

/-! ## The journal (R371 to R374) -/

/-- ECC_CORRECTION: a corrected error goes to the error collector, and changes no value (R371). -/
def execEccCorrection (unit : BitVec 32) (loc synd : BitVec 64) (s : State) : Out :=
  let c : Correction := { clock := s.clock, time := s.timeNs, unit, loc, synd }
  .next { s with journal := { s.journal with incoming := s.journal.incoming ++ [c] } }

/-- The correction that is taken next: in order of arrival, and in one clock in ascending UNIT (R373). -/
def nextCorrection (cs : List Correction) : Option Correction :=
  match cs with
  | [] => none
  | c :: cs => some (cs.foldl (fun b x => if x.clock = b.clock ∧ x.unit.toNat < b.unit.toNat then x else b) c)

/-- An entry of the journal (R372). -/
def journalEntry (c : Correction) (seq count : Nat) (prev : List Byte) : List Byte :=
  leBytes 8 c.time ++ leBytes 8 seq ++ leBytes 4 c.unit.toNat ++ leBytes 8 c.loc.toNat ++ leBytes 8 c.synd.toNat ++
  leBytes 4 count ++ prev ++ leBytes 8 0

/-- The entry with its COUNT one higher, saturating (R373). -/
def foldEntry (e : List Byte) : List Byte :=
  putBytes e 36 (leBytes 4 (min 0xFFFFFFFF (blkNat e 36 4 + 1)))

/-- A correction folds into the newest entry: the same LOC and SYND, within 1 s of its TIME, on either side: the time
counter restarts at reset, and the buffer stays (R373). -/
def foldsInto (e : List Byte) (c : Correction) : Bool :=
  blkNat e 20 8 = c.loc.toNat && blkNat e 28 8 = c.synd.toNat && decide (c.time ≤ blkNat e 0 8 + 1000000000 ∧ blkNat e 0 8 ≤ c.time + 1000000000)

/-- Entries of the area, and of the buffer (R372). -/
def journalArea : Nat := 245760
def journalBuffer : Nat := 256

/-- A checkpoint: SEQ, TIME, the digest of the entry, and the signature over them (R373). -/
def checkpoint (e : List Byte) : List Byte :=
  let body := (e.drop 8).take 8 ++ e.take 8 ++ sha256 e
  body ++ signature body ++ leBytes 16 0

/-- The buffer goes to flash. -/
def Journal.write (j : Journal) : Journal := { j with flash := j.flash ++ j.buffer, buffer := [] }

/-- An entry is appended: the oldest of a full buffer goes to flash; a checkpoint follows its entry, which is final from
then on; the last entry sets FULL (R373, R374). -/
def Journal.append (j : Journal) (c : Correction) : Journal :=
  let newest := (j.buffer.getLast?).or j.flash.getLast?
  let prev := match newest with
    | some e => (sha256 e).take 16
    | none => leBytes 16 0
  let e := journalEntry c j.next 1 prev
  let j := if j.buffer.length < journalBuffer then j
    else { j with flash := j.flash ++ j.buffer.take 1, buffer := j.buffer.drop 1 }
  let seq := j.next
  let j := { j with buffer := j.buffer ++ [e], next := seq + 1 }
  let j := if seq % 4096 = 0 ∧ seq ≠ 0 then { j.write with checkpoints := j.checkpoints ++ [checkpoint e] } else j
  if seq + 1 = journalArea then { j.write with fullBit := true } else j

/-- A correction is taken by the collector (R373, R374). -/
def State.collect (s : State) (c : Correction) : State :=
  let j := { s.journal with incoming := s.journal.incoming.erase c }
  if j.fullBit then { s with journal := { j with lost := BitVec.ofNat 32 (min 0xFFFFFFFF (j.lost.toNat + 1)) } }
  else match j.buffer.getLast? with
    | some e =>
      if foldsInto e c then { s with journal := { j with buffer := j.buffer.dropLast ++ [foldEntry e] } }
      else
        let j := j.append c
        if j.fullBit then { s with journal := j }.raiseMsix 1 else { s with journal := j }
    | none =>
      let j := j.append c
      if j.fullBit then { s with journal := j }.raiseMsix 1 else { s with journal := j }

/-- JOURNAL_APPEND (R373). -/
def execJournalAppend (s : State) : Out :=
  .next (match nextCorrection s.journal.incoming with
    | some c => s.collect c
    | none => s)

/-- Where an uncorrectable error leaves poison (R371). -/
def State.poisonAt (s : State) : PoisonPlace → State
  | .line pa => { s with poison := pa.toNat / 64 :: s.poison.filter (· ≠ pa.toNat / 64) }
  | .vreg core place lane n => s.modThread core place lane fun t => { t with poison := n :: t.poison.filter (· ≠ n) }
  | .sreg core place n => s.modGroup core place fun g => { g with poison := n :: g.poison.filter (· ≠ n) }
  | .spad core off => s.modCore core fun k => { k with poison := off / 64 :: k.poison.filter (· ≠ off / 64) }
  | .slotRow core slot row => s.modCore core fun k =>
      let x := k.slots.get {} slot
      { k with slots := k.slots.set slot { x with poison := row :: x.poison.filter (· ≠ row) } }
  | .tileRow core tile row => s.modCore core fun k => k.setTileWord tile 64 row 1
  | .engine id => match s.op id with
    | some o => if o.done then s else s.setOp { o.note 1 with started := true, done := true }
    | none => s

/-- UNCORRECTABLE_ERROR: the line or register is poisoned, and the host is told (R371, R376). -/
def execUncorrectableError (place : PoisonPlace) (s : State) : Out := .next ((s.poisonAt place).raiseMsix 2)

/-- POWER_FAIL: hold-up energy writes the buffer to flash, and the module stops (R373). -/
def execPowerFail (s : State) : Out := .next { s with journal := s.journal.write, boot := .off }

/-- CLOCK_THROTTLE: a clock of 2.25 GHz less steps of 75 MHz, down to 1.2 GHz (R378). -/
def execClockThrottle (mhz : Nat) (s : State) : Out :=
  .next (if 1200 ≤ mhz ∧ mhz ≤ 2250 ∧ (2250 - mhz) % 75 = 0 then { s with mhz } else s)

/-! ## Attestation (R370) -/

/-- The entries of a table in the order of their numbers, each after its number of 2 bytes; an entry of zeros is one that
nothing has loaded (log 17). -/
def digested {α : Type} (t : Tab α) (bytes : α → List Byte) : List Byte :=
  (sortBy Prod.fst (t.mapVals fun _ => bytes)).flatMap fun e =>
    if e.2.all (· = 0) then [] else leBytes 2 e.1 ++ e.2

/-- The bytes of an entry of the model table. -/
def Model.rowBytes (m : Model) : List Byte :=
  leBytes 1 m.valid.toNat ++ leBytes 8 m.vocab.toNat ++ leBytes 4 m.template ++ leBytes 1 m.pool ++
  leBytes 8 m.inBase.toNat ++ leBytes 4 m.inSlots ++ leBytes 4 m.inCap ++ leBytes 2 m.asid.toNat

/-- Everything that the digest of the loaded tables covers (log 15). -/
def State.tableBytes (s : State) : List Byte :=
  digested s.models Model.rowBytes ++ digested s.pools id ++ digested s.routes (fun e => leBytes 8 e.toNat) ++
  digested s.groups id ++ digested s.hac fun c => leBytes 4 c.length ++ c.flatMap fun w => leBytes 4 w.toNat

/-- The report's bytes before its signature: nonce, digests, part, counter and time (R370). -/
def State.reportBody (s : State) (nonce : List Byte) : List Byte :=
  (nonce ++ List.replicate 32 0).take 32 ++ ((List.range 32).map fun i => Config.romDigest i) ++
  sha256 s.flash.bytes ++ sha256 s.tableBytes ++ leBytes 8 (if s.part = .mz9A then 0 else 1) ++
  leBytes 8 s.fusedCounter ++ leBytes 8 s.timeNs ++ leBytes 40 0

/-- ATTESTATION_REQUEST: a report of 256 bytes, signed by the identity key (R370). -/
def execAttestationRequest (nonce : List (BitVec 8)) (s : State) : Out :=
  let b := s.reportBody nonce
  .next { s with reports := s.reports ++ [b ++ signature (sha256 b)] }

end Sys2Proof.Machine
end

