-- ==== Sys2Proof/Machine/Rope.lean ====
section
/-! DEFINITION. ROPE (R312, R313). -/

namespace Sys2Proof.Machine

/-- ROUND_F32 of x − floor(x) for an exact finite x (R313, log 28). -/
def fracRound (n : Bool) (m : Nat) (e : Int) : FR :=
  if e ≥ 0 then (0, 0)
  else
    let k := (-e).toNat
    let r := m % 2 ^ k
    if r = 0 then (0, 0) else Fmt.f32.round 0 false (if n then 2 ^ k - r else r) e

/-- An exact product, for a sum that is rounded once: NaN, and the invalid 0 × ∞ (R78). -/
def exactTimes (a b : Fl) : Fl × Ev :=
  match a, b with
  | .nan, _ | _, .nan => (.nan, 0)
  | .fin n1 m1 e1, .fin n2 m2 e2 => (.fin (n1 != n2) (m1 * m2) (e1 + e2), 0)
  | a, b => if a.isZero || b.isZero then (.nan, Ev.invalid) else (.inf (a.negative != b.negative), 0)

/-- ROUND_F32(a·b ± c·d), the sum formed exactly (R313); a NaN is produced only from operands that are none (R88). -/
def crossSum (minus : Bool) (a b c d : Fl) : FR :=
  let x := exactTimes a b
  let y := exactTimes c d
  let r := Fmt.f32.add 0 x.1 (if minus then y.1.neg else y.1)
  let fresh := (x.1.isNan || y.1.isNan) && !([a, b, c, d].any Fl.isNan)
  (r.1, x.2 ||| y.2 ||| r.2 ||| (if fresh then Ev.nan else 0))

/-- A rotated pair of one lane (R313): both values, and the events of its element, which counts a class once however
many of its roundings meet it (log 65). -/
def ropePair (x y : Word) (pos : Nat) (f : Word) : Word × Word × Ev :=
  match f32v f with
  | .fin n m e =>
    let phase := fracRound n (pos * m) e
    let two := Fmt.f32.scale 0 (Fmt.f32.val phase.1) 1
    let cr := cospiF32 0 (Fmt.f32.val two.1)
    let sr := sinpiF32 0 (Fmt.f32.val two.1)
    let c := Fmt.f32.val cr.1
    let s := Fmt.f32.val sr.1
    let d0 := crossSum true (f32v x) c (f32v y) s
    let d1 := crossSum false (f32v x) s (f32v y) c
    (BitVec.ofNat 32 d0.1, BitVec.ofNat 32 d1.1, phase.2 ||| cr.2 ||| sr.2 ||| d0.2 ||| d1.2)
  | g =>
    let fresh := g.isInf && !(f32v x).isNan && !(f32v y).isNan
    (0x7FC00000#32, 0x7FC00000#32, Ev.invalid ||| (if fresh then Ev.nan else 0))

/-- One lane of a ROPE: a trap, or its new pair and events. -/
def State.ropeLane (s : State) (a b : BitVec 7) (l : Nat) : Sum (Nat × Dword) (Word × Word × Ev) :=
  let p := s.cur.rd.ropePart
  let aa := bitsNat p 9 0
  let bb := bitsNat p 19 10
  let half := bitsNat p 29 20
  let x := s.cur.rd.rv l a.toNat
  let y := s.cur.rd.rv l (a.toNat + 1)
  let q (i : Nat) : Nat := (s.cur.rd.rv l (b.toNat + i)).toNat
  let off := bitsNat p 63 32 + 4 * q 0
  if aa > bb ∨ bb > half then .inl (Cause.illegalEncoding, 0)
  else if q 0 ≥ half then .inr (x, y, 0)
  else if s.flushed l then .inl (Cause.detViolation, 0)
  else if off + 4 > (s.core s.cur.core).spadSize then .inl (Cause.scratchRange, BitVec.ofNat 64 off)
  else if (s.core s.cur.core).spadPoisoned off 4 then .inl (Cause.fatalMemory, BitVec.ofNat 64 off)
  else
    let f : Word := BitVec.ofNat 32 (leNat (s.spadSeen s.cur.core s.cur.place l off 4))
    .inr (ropePair x y (if q 0 < aa then q 1 else if q 0 < bb then q 2 else q 3) f)

/-- ROPE (R313): each lane rotates its pair; events are counted per lane. -/
def execRope (c : Bool) (d a b : BitVec 7) (s : State) : Out :=
  let s0 := s
  let s := s0.E.foldl (fun s l =>
    match s0.ropeLane a b l with
    | .inl t => s.raise l t.1 t.2
    | .inr r => s.onHere fun g => (g.wv l d.toNat r.1).wv l (d.toNat + 1) r.2.1) s0
  endUnit c (s.countUnit (s0.E.map fun l =>
    match s0.ropeLane a b l with
    | .inl _ => (l, [])
    | .inr r => (l, [r.2.2])))

end Sys2Proof.Machine
end

