-- ==== Sys2Proof/Machine/Salu.lean ====
section
/-! DEFINITION. SALU, SMOVI, SCMP and SMAD: uniform arithmetic, once per unit (R144 to R147) -/

namespace Sys2Proof.Machine

/-- ADD.ss: a + b, on 64-bit uniform registers (R144). -/
def execAddSs (c : Bool) (d a : BitVec 5) (b : BitVec 7) (s : State) : Out :=
  endUnit c (s.ssetEv d.toNat (iadd s.cur.pfx.sat (s.sr a) (s.bss b)))

/-- SUB.ss: a − b, on 64-bit uniform registers (R144). -/
def execSubSs (c : Bool) (d a : BitVec 5) (b : BitVec 7) (s : State) : Out :=
  endUnit c (s.ssetEv d.toNat (isub s.cur.pfx.sat (s.sr a) (s.bss b)))

/-- MUL.ss: a × b, on 64-bit uniform registers (R144). -/
def execMulSs (c : Bool) (d a : BitVec 5) (b : BitVec 7) (s : State) : Out :=
  endUnit c (s.ssetEv d.toNat (imul s.cur.pfx.sat (s.sr a) (s.bss b)))

/-- MULHI.ss: the high half of the signed product, on 64-bit uniform registers (R144). -/
def execMulhiSs (c : Bool) (d a : BitVec 5) (b : BitVec 7) (s : State) : Out :=
  endUnit c (s.sset d.toNat (imulhi (s.sr a) (s.bss b)))

/-- MULHIN.ss: the high half of the unsigned product, on 64-bit uniform registers (R144). -/
def execMulhiNSs (c : Bool) (d a : BitVec 5) (b : BitVec 7) (s : State) : Out :=
  endUnit c (s.sset d.toNat (imulhiN (s.sr a) (s.bss b)))

/-- MIN.ss: signed minimum, on 64-bit uniform registers (R144). -/
def execMinSs (c : Bool) (d a : BitVec 5) (b : BitVec 7) (s : State) : Out :=
  endUnit c (s.sset d.toNat (imin (s.sr a) (s.bss b)))

/-- MAX.ss: signed maximum, on 64-bit uniform registers (R144). -/
def execMaxSs (c : Bool) (d a : BitVec 5) (b : BitVec 7) (s : State) : Out :=
  endUnit c (s.sset d.toNat (imax (s.sr a) (s.bss b)))

/-- MINN.ss: unsigned minimum, on 64-bit uniform registers (R144). -/
def execMinNSs (c : Bool) (d a : BitVec 5) (b : BitVec 7) (s : State) : Out :=
  endUnit c (s.sset d.toNat (iminN (s.sr a) (s.bss b)))

/-- MAXN.ss: unsigned maximum, on 64-bit uniform registers (R144). -/
def execMaxNSs (c : Bool) (d a : BitVec 5) (b : BitVec 7) (s : State) : Out :=
  endUnit c (s.sset d.toNat (imaxN (s.sr a) (s.bss b)))

/-- AND.ss: bitwise and, on 64-bit uniform registers (R144). -/
def execAndSs (c : Bool) (d a : BitVec 5) (b : BitVec 7) (s : State) : Out :=
  endUnit c (s.sset d.toNat (s.sr a &&& s.bss b))

/-- OR.ss: bitwise or, on 64-bit uniform registers (R144). -/
def execOrSs (c : Bool) (d a : BitVec 5) (b : BitVec 7) (s : State) : Out :=
  endUnit c (s.sset d.toNat (s.sr a ||| s.bss b))

/-- XOR.ss: bitwise exclusive or, on 64-bit uniform registers (R144). -/
def execXorSs (c : Bool) (d a : BitVec 5) (b : BitVec 7) (s : State) : Out :=
  endUnit c (s.sset d.toNat (s.sr a ^^^ s.bss b))

/-- SHL.ss: shift left, on 64-bit uniform registers (R144). -/
def execShlSs (c : Bool) (d a : BitVec 5) (b : BitVec 7) (s : State) : Out :=
  endUnit c (s.sset d.toNat (ishl (s.sr a) (s.bss b)))

/-- SHR.ss: logical shift right, on 64-bit uniform registers (R144). -/
def execShrSs (c : Bool) (d a : BitVec 5) (b : BitVec 7) (s : State) : Out :=
  endUnit c (s.sset d.toNat (ishr (s.sr a) (s.bss b)))

/-- SAR.ss: arithmetic shift right, on 64-bit uniform registers (R144). -/
def execSarSs (c : Bool) (d a : BitVec 5) (b : BitVec 7) (s : State) : Out :=
  endUnit c (s.sset d.toNat (isar (s.sr a) (s.bss b)))

/-- ROL.ss: rotate left, on 64-bit uniform registers (R144). -/
def execRolSs (c : Bool) (d a : BitVec 5) (b : BitVec 7) (s : State) : Out :=
  endUnit c (s.sset d.toNat (irol (s.sr a) (s.bss b)))

/-- ADD.si: a + b, on 64-bit uniform registers (R144). -/
def execAddSi (c : Bool) (d a : BitVec 5) (i : BitVec 7) (s : State) : Out :=
  endUnit c (s.ssetEv d.toNat (iadd s.cur.pfx.sat (s.sr a) (s.imm7 i)))

/-- SUB.si: a − b, on 64-bit uniform registers (R144). -/
def execSubSi (c : Bool) (d a : BitVec 5) (i : BitVec 7) (s : State) : Out :=
  endUnit c (s.ssetEv d.toNat (isub s.cur.pfx.sat (s.sr a) (s.imm7 i)))

/-- MUL.si: a × b, on 64-bit uniform registers (R144). -/
def execMulSi (c : Bool) (d a : BitVec 5) (i : BitVec 7) (s : State) : Out :=
  endUnit c (s.ssetEv d.toNat (imul s.cur.pfx.sat (s.sr a) (s.imm7 i)))

/-- MULHI.si: the high half of the signed product, on 64-bit uniform registers (R144). -/
def execMulhiSi (c : Bool) (d a : BitVec 5) (i : BitVec 7) (s : State) : Out :=
  endUnit c (s.sset d.toNat (imulhi (s.sr a) (s.imm7 i)))

/-- MULHIN.si: the high half of the unsigned product, on 64-bit uniform registers (R144). -/
def execMulhiNSi (c : Bool) (d a : BitVec 5) (i : BitVec 7) (s : State) : Out :=
  endUnit c (s.sset d.toNat (imulhiN (s.sr a) (s.imm7 i)))

/-- MIN.si: signed minimum, on 64-bit uniform registers (R144). -/
def execMinSi (c : Bool) (d a : BitVec 5) (i : BitVec 7) (s : State) : Out :=
  endUnit c (s.sset d.toNat (imin (s.sr a) (s.imm7 i)))

/-- MAX.si: signed maximum, on 64-bit uniform registers (R144). -/
def execMaxSi (c : Bool) (d a : BitVec 5) (i : BitVec 7) (s : State) : Out :=
  endUnit c (s.sset d.toNat (imax (s.sr a) (s.imm7 i)))

/-- MINN.si: unsigned minimum, on 64-bit uniform registers (R144). -/
def execMinNSi (c : Bool) (d a : BitVec 5) (i : BitVec 7) (s : State) : Out :=
  endUnit c (s.sset d.toNat (iminN (s.sr a) (s.imm7 i)))

/-- MAXN.si: unsigned maximum, on 64-bit uniform registers (R144). -/
def execMaxNSi (c : Bool) (d a : BitVec 5) (i : BitVec 7) (s : State) : Out :=
  endUnit c (s.sset d.toNat (imaxN (s.sr a) (s.imm7 i)))

/-- AND.si: bitwise and, on 64-bit uniform registers (R144). -/
def execAndSi (c : Bool) (d a : BitVec 5) (i : BitVec 7) (s : State) : Out :=
  endUnit c (s.sset d.toNat (s.sr a &&& s.imm7 i))

/-- OR.si: bitwise or, on 64-bit uniform registers (R144). -/
def execOrSi (c : Bool) (d a : BitVec 5) (i : BitVec 7) (s : State) : Out :=
  endUnit c (s.sset d.toNat (s.sr a ||| s.imm7 i))

/-- XOR.si: bitwise exclusive or, on 64-bit uniform registers (R144). -/
def execXorSi (c : Bool) (d a : BitVec 5) (i : BitVec 7) (s : State) : Out :=
  endUnit c (s.sset d.toNat (s.sr a ^^^ s.imm7 i))

/-- SHL.si: shift left, on 64-bit uniform registers (R144). -/
def execShlSi (c : Bool) (d a : BitVec 5) (i : BitVec 7) (s : State) : Out :=
  endUnit c (s.sset d.toNat (ishl (s.sr a) (s.imm7 i)))

/-- SHR.si: logical shift right, on 64-bit uniform registers (R144). -/
def execShrSi (c : Bool) (d a : BitVec 5) (i : BitVec 7) (s : State) : Out :=
  endUnit c (s.sset d.toNat (ishr (s.sr a) (s.imm7 i)))

/-- SAR.si: arithmetic shift right, on 64-bit uniform registers (R144). -/
def execSarSi (c : Bool) (d a : BitVec 5) (i : BitVec 7) (s : State) : Out :=
  endUnit c (s.sset d.toNat (isar (s.sr a) (s.imm7 i)))

/-- ROL.si: rotate left, on 64-bit uniform registers (R144). -/
def execRolSi (c : Bool) (d a : BitVec 5) (i : BitVec 7) (s : State) : Out :=
  endUnit c (s.sset d.toNat (irol (s.sr a) (s.imm7 i)))

/-- SMOVI: the sign-extended immediate (R145). -/
def execSmovi (c : Bool) (d : BitVec 5) (i : BitVec 18) (s : State) : Out :=
  endUnit c (s.sset d.toNat (s.imm18 i))

/-- SCMP: a comparison of uniform registers, written to every live thread of the group (R146). -/
def execScmp (c : Bool) (k : BitVec 4) (p : BitVec 3) (a b : BitVec 5) (s : State) : Out :=
  endUnit c (s.once fun s => s.onHere fun g =>
    g.live.foldl (fun g l => g.wp l p.toNat (icond k (s.sr a) (s.sr b))) g)

/-- MAD of SMAD: the low half of a·b + d (R147). -/
def execSmadMad (c : Bool) (d a b : BitVec 5) (s : State) : Out :=
  endUnit c (s.sset d.toNat (s.sr a * s.sr b + s.sr d))

/-- MADH.s of SMAD (R147). -/
def execSmadMadhS (c : Bool) (d a b : BitVec 5) (s : State) : Out :=
  endUnit c (s.sset d.toNat (imulhi (s.sr a) (s.sr b) + s.sr d))

/-- MADH.n of SMAD (R147). -/
def execSmadMadhN (c : Bool) (d a b : BitVec 5) (s : State) : Out :=
  endUnit c (s.sset d.toNat (imulhiN (s.sr a) (s.sr b) + s.sr d))

end Sys2Proof.Machine
end

