-- ==== Sys2Proof/Machine/Text.lean ====
section
/-! DEFINITION. The text path: the receive rings of the Ultra Ethernet ports (R355, R356), the tokeniser (R357 to
R363), the detokeniser (R359, R364, R367) and the check of a vocabulary (R360). -/

namespace Sys2Proof.Machine

/-! ## UTF-8 -/

/-- Continuation bytes that a lead byte wants, and the range of the first of them; none for a byte that leads nothing. -/
def utf8Lead (b : Nat) : Option (Nat × Nat × Nat) :=
  if b < 0x80 then some (0, 0, 0)
  else if 0xC2 ≤ b ∧ b ≤ 0xDF then some (1, 0x80, 0xBF)
  else if b = 0xE0 then some (2, 0xA0, 0xBF)
  else if b = 0xED then some (2, 0x80, 0x9F)
  else if 0xE1 ≤ b ∧ b ≤ 0xEF then some (2, 0x80, 0xBF)
  else if b = 0xF0 then some (3, 0x90, 0xBF)
  else if 0xF1 ≤ b ∧ b ≤ 0xF3 then some (3, 0x80, 0xBF)
  else if b = 0xF4 then some (3, 0x80, 0x8F)
  else none

/-- How many of the bytes continue a sequence that wants `n` of them, the first in a range. -/
def utf8Run (n lo hi : Nat) (bs : List Byte) : Nat :=
  match n, bs with
  | n + 1, b :: bs => if lo ≤ b.toNat ∧ b.toNat ≤ hi then utf8Run n 0x80 0xBF bs + 1 else 0
  | _, _ => 0

/-- U+FFFD. -/
def utf8Bad : List Byte := [0xEF, 0xBF, 0xBD]

/-- Text as it is sent: the well-formed bytes with each maximal ill-formed subsequence replaced, how many were
replaced, and the bytes held back because they may still complete (R364). -/
def utf8Send : Nat → List Byte → List Byte × Nat × List Byte
  | 0, bs => ([], 0, bs)
  | _, [] => ([], 0, [])
  | f + 1, b :: bs =>
    match utf8Lead b.toNat with
    | none => let r := utf8Send f bs; (utf8Bad ++ r.1, r.2.1 + 1, r.2.2)
    | some (n, lo, hi) =>
      let k := utf8Run n lo hi bs
      if k = n then let r := utf8Send f (bs.drop k); (b :: bs.take k ++ r.1, r.2.1, r.2.2)
      else if k = bs.length then ([], 0, b :: bs)
      else let r := utf8Send f (bs.drop k); (utf8Bad ++ r.1, r.2.1 + 1, r.2.2)

/-- Text is well-formed UTF-8 (R358). -/
def utf8Well (bs : List Byte) : Bool :=
  let r := utf8Send bs.length bs
  r.2.1 = 0 && r.2.2.isEmpty

/-! ## Ports (R355, R356) -/

/-- The port exists: with Ultra Ethernet, two for each die (R4, R355). In recovery its registers do not answer (R369). -/
def State.hasPort (s : State) (p : Nat) : Bool :=
  s.capUnits.getLsbD 1 && decide (p < 2 * s.dies) && decide (s.boot = .running)

/-- Bytes of a record in its ring: 16 of header and the message, up to the next multiple of 64. -/
def recordBytes (len : Nat) : Nat := (16 + len + 63) / 64 * 64

/-- Bytes of a receive ring. -/
def ringBytes : Nat := 0x400000

/-- The ring of a port. -/
def Port.base (p : Port) : Nat := bitsNat p.ring 51 22 * 2 ^ 22

/-- Bytes written into the ring from a pointer on; they wrap at its end. -/
def State.ringPut (s : State) (base ptr : Nat) (bs : List Byte) : State :=
  let o := ptr % ringBytes
  (s.agentWrite (base + o) (bs.take (ringBytes - o))).agentWrite base (bs.drop (ringBytes - o))

/-- Bytes of the ring from a pointer on. -/
def State.ringGet (s : State) (base ptr n : Nat) : List Byte :=
  (List.range n).map fun i => s.viewByte (base + (ptr + i) % ringBytes)

/-- UE_CONNECTION_SETUP: reliable ordered delivery only, up to 4,096 connections (R355). -/
def execUeConnectionSetup (port : Nat) (conn : BitVec 32) (reliableOrdered : Bool) (s : State) : Out :=
  let p := s.port port
  .next (if !s.hasPort port ∨ !p.ring.getLsbD 0 ∨ !reliableOrdered ∨ p.conns.contains conn ∨ 4096 ≤ p.conns.length then s
    else s.setPort port { p with conns := p.conns ++ [conn] })

/-- UE_RING_ENABLE (R356). -/
def execUeRingEnable (port : Nat) (val : BitVec 64) (s : State) : Out :=
  .next (if s.hasPort port then s.writeUeRing port val else s)

/-- A message becomes a record of the ring, when all of it fits; else it is not acknowledged (R356). -/
def State.ueReceive (s : State) (port : Nat) (conn : BitVec 32) (msg : List Byte) : State :=
  let p := s.port port
  let trunc := decide (0x100000 < msg.length)
  let body := if trunc then [] else msg
  let used := (p.wptr - p.rptr).toNat
  if !p.ring.getLsbD 0 ∨ ringBytes < used + 16 + body.length then s
  else
    let header := leBytes 4 msg.length ++ leBytes 4 conn.toNat ++ leBytes 1 trunc.toNat ++ leBytes 7 0
    (s.ringPut p.base p.wptr.toNat (header ++ body)).setPort port
      { p with wptr := p.wptr + BitVec.ofNat 32 (recordBytes body.length) }

/-- An access to remote memory is answered with the not-supported error (R355). -/
def State.ueRefuse (s : State) (port : Nat) (conn : BitVec 32) : State :=
  let p := s.port port
  s.setPort port { p with refused := p.refused ++ [conn] }

/-- UE_MESSAGE_RECEIVE, on a connection of the port: send and receive only (R355, R356). -/
def execUeMessageReceive (port : Nat) (conn : BitVec 32) (msg : UeMsg) (s : State) : Out :=
  .next (if !s.hasPort port ∨ !(s.port port).conns.contains conn then s
    else match msg with
      | .send bytes => s.ueReceive port conn bytes
      | .read | .write | .atomic => s.ueRefuse port conn)

/-- TKE_LOG_WRITE (R368). -/
def execTkeLogWrite (port : Nat) (val : BitVec 64) (s : State) : Out :=
  .next (if s.hasPort port then s.writeTkeLog port val else s)

/-! ## Accesses of the text path -/

/-- Why the text path stops: a code of R358, an access that parks, or one that has to wait. -/
inductive TkStop where
  | code (c : Nat)
  | park (die : Nat) (asid : BitVec 16) (ea : Dword) (malformed header : Bool)
  /-- it waits, among other things for the Scraper, with its requests to it (R254) -/
  | wait (collapse : List (Nat × Nat))
  deriving DecidableEq, Repr

/-- A piece of the text path's work: it changes the state, or stops and changes nothing else. -/
abbrev Tk (α : Type) := State → Except TkStop (State × α)

/-- One piece of work after another. -/
def Tk.andThen {α β : Type} (x : Tk α) (f : α → Tk β) : Tk β := fun s =>
  match x s with
  | .ok (s, a) => f a s
  | .error e => .error e

/-- The stop of an access; one that fails, or leaves the module, has code 9 (R358). -/
def tkStop (s : State) (die : Nat) (asid : BitVec 16) (header : Bool) : Stop → TkStop
  | .park ea m => .park die asid ea m header
  | .wait => .wait s.collapse
  | _ => .code 9

/-- Bytes read in an address space. -/
def tkRead (die : Nat) (asid : BitVec 16) (a n : Nat) : Tk (List Byte) := fun s =>
  match State.engRead die asid [] {} (pieces a n n) s [] with
  | (s, .ok b) => .ok (s, b)
  | (s, .error e) => .error (tkStop s die asid false e)

/-- Bytes written in an address space. -/
def tkWrite (die : Nat) (asid : BitVec 16) (a : Nat) (bs : List Byte) : List (Nat × Nat) → Tk Unit
  | [], s => .ok (s, ())
  | (p, n) :: ps, s =>
    let piece := (bs.drop (p - a)).take n
    match s.engPut die asid (BitVec.ofNat 64 p) n { write := true } (fun _ => (piece, []))
        (.write n (BitVec.ofNat 128 (leNat piece))) with
    | (s, .ok _) => tkWrite die asid a bs ps s
    | (s, .error e) => .error (tkStop s die asid false e)

/-- The unit that works for a port or a model parks. -/
def State.tkPark (s : State) (die : Nat) (asid : BitVec 16) (ea : Dword) (malformed : Bool) : State × Nat :=
  let sp := spaceOf asid ea
  let va := bitsNat ea 56 0
  (s.parkOn die sp va 0x10 malformed, parkKey die sp va)

/-! ## Vocabularies (R360) -/

/-- A vocabulary's header and special strings. -/
structure Vocab where
  va : Nat
  hdr : List Byte
  /-- id, length and byte offset of each special string -/
  specs : List (Nat × Nat × Nat)
  deriving DecidableEq, Repr

def Vocab.nmerge (v : Vocab) : Nat := blkNat v.hdr 4 4
def Vocab.clsAt (v : Vocab) : Nat := v.va + blkNat v.hdr 16 8
def Vocab.joinAt (v : Vocab) : Nat := v.va + blkNat v.hdr 24 8
def Vocab.mergeAt (v : Vocab) : Nat := v.va + blkNat v.hdr 32 8
def Vocab.strAt (v : Vocab) (id : Nat) : Nat := v.va + blkNat v.hdr 40 8 + 8 * id

/-- The vocabulary size V. -/
def Vocab.size (v : Vocab) : Nat := v.specs.foldl (fun m x => max m (x.1 + 1)) (256 + v.nmerge)

/-- An id that a byte, a merge or a special string has. -/
def Vocab.used (v : Vocab) (id : Nat) : Bool := decide (id < 256 + v.nmerge) || v.specs.any fun x => x.1 = id

/-- The header and the special strings' entries are read. -/
def tkVocab (die : Nat) (asid : BitVec 16) (va : Nat) : Tk Vocab :=
  (tkRead die asid va 64).andThen fun hdr =>
  (tkRead die asid (va + blkNat hdr 48 8) (16 * blkNat hdr 8 1)).andThen fun b s =>
    .ok (s, { va, hdr, specs := (List.range (blkNat hdr 8 1)).map fun i =>
      (blkNat b (16 * i) 4, blkNat b (16 * i + 4) 2, blkNat b (16 * i + 8) 8) })

/-- The merges, by rank. -/
def tkMerges (die : Nat) (asid : BitVec 16) (v : Vocab) : Tk (List (Nat × Nat)) :=
  (tkRead die asid v.mergeAt (8 * v.nmerge)).andThen fun b s =>
    .ok (s, (List.range v.nmerge).map fun r => (blkNat b (8 * r) 4, blkNat b (8 * r + 4) 4))

/-- The vocabulary passes the TKE's check (R360). -/
def tkCheck (die : Nat) (asid : BitVec 16) (va : Nat) : Tk Bool :=
  (tkVocab die asid va).andThen fun v =>
  if blkNat v.hdr 0 4 ≠ 0x4D5A5642 ∨ 64 < v.specs.length ∨ 2 ^ 20 < v.size ∨
      v.specs.any (fun x => x.1 < 256 + v.nmerge || x.2.1 = 0 || 64 < x.2.1) ∨
      !(v.specs.map Prod.fst).eraseDups.length = v.specs.length then fun s => .ok (s, false)
  else
    (tkMerges die asid v).andThen fun ms =>
    (tkRead die asid (v.strAt 0) (8 * v.size)).andThen fun str s =>
      let len (id : Nat) : Nat := blkNat str (8 * id + 5) 2 % 1024
      .ok (s, ms.zipIdx.all (fun m => m.1.1 < 256 + m.2 && m.1.2 < 256 + m.2) &&
        (List.range v.size).all fun id => !v.used id || (1 ≤ len id && len id ≤ 512))

/-- MODEL_ENABLE: the vocabulary is checked, and the entry is enabled or rejected (R360). -/
def execModelEnable (model : Nat) (s : State) : Out :=
  let m := s.models.get {} model
  let put (s : State) (m : Model) : State := { s with models := s.models.set model m }
  .next (if !s.capUnits.getLsbD 0 ∨ !m.valid ∨ m.park.isSome then s
    else if m.failed then put s { m with enabled := false, failed := false }
    else match tkCheck 0 m.asid m.vocab.toNat s with
      | .ok (s, b) => put s { m with enabled := b }
      | .error (.park die asid ea bad _) =>
        match s.tkPark die asid ea bad with
        | (s, key) => put s { m with park := some key }
      | .error (.wait c) => { s with collapse := c }
      | .error (.code _) => put s { m with enabled := false })

/-! ## Tokenising (R361, R362) -/

/-- A vocabulary as the tokeniser uses it. -/
structure Tables where
  cls : List Byte
  join : List Byte
  merges : List (Nat × Nat)
  /-- special strings with their ids -/
  specs : List (Nat × List Byte)
  deriving DecidableEq, Repr

/-- The tables are read. -/
def tkTables (die : Nat) (asid : BitVec 16) (v : Vocab) : Tk Tables :=
  (tkRead die asid v.clsAt 256).andThen fun cls =>
  (tkRead die asid v.joinAt 32).andThen fun join =>
  (tkMerges die asid v).andThen fun merges =>
    let rec go : List (Nat × Nat × Nat) → List (Nat × List Byte) → Tk Tables
      | [], acc => fun s => .ok (s, { cls, join, merges, specs := acc })
      | x :: xs, acc => (tkRead die asid (v.va + x.2.2) x.2.1).andThen fun b => go xs (acc ++ [(x.1, b)])
    go v.specs []

/-- JOIN of the classes of two bytes. -/
def Tables.joins (t : Tables) (a b : Byte) : Bool :=
  let ca := (t.cls.getD a.toNat 0).toNat % 16
  let cb := (t.cls.getD b.toNat 0).toNat % 16
  (t.join.getD (2 * ca + cb / 8) 0).getLsbD (cb % 8)

/-- The longest special string that stands at the front of a text; of equals the lowest index. -/
def Tables.special (t : Tables) (bs : List Byte) : Option (Nat × Nat) :=
  t.specs.foldl (fun best x =>
    if !x.2.isEmpty && x.2.isPrefixOf bs && decide ((best.map Prod.snd).getD 0 < x.2.length) then some (x.1, x.2.length)
    else best) none

/-- The rank of a pair; a pair that appears twice has the lower one. -/
def Tables.rank (t : Tables) (a b : Nat) : Option Nat := t.merges.findIdx? fun m => m = (a, b)

/-- The adjacent pair of the lowest rank, the leftmost of equals: its rank and its place. -/
def Tables.best (t : Tables) : List Nat → Nat → Option (Nat × Nat)
  | a :: b :: xs, j =>
    match t.rank a b, t.best (b :: xs) (j + 1) with
    | some r, some y => if r ≤ y.1 then some (r, j) else some y
    | some r, none => some (r, j)
    | none, y => y
  | _, _ => none

/-- Merges until no pair has a rank (R362). -/
def Tables.bpe (t : Tables) : Nat → List Nat → List Nat
  | 0, xs => xs
  | f + 1, xs =>
    match t.best xs 0 with
    | none => xs
    | some (r, j) => t.bpe f (xs.take j ++ [256 + r] ++ xs.drop (j + 2))

/-- PIECE (R362). -/
def Tables.piece (t : Tables) (bs : List Byte) : List Nat := t.bpe bs.length (bs.map BitVec.toNat)

/-- The text is cut and tokenised (R361): `pre` is the piece so far, `bs` what follows it. -/
def Tables.cut (t : Tables) : Nat → List Byte → List Byte → List Nat
  | 0, pre, _ => t.piece pre
  | _, pre, [] => t.piece pre
  | f + 1, pre, b :: bs =>
    match t.special (b :: bs) with
    | some (id, n) => t.piece pre ++ [id] ++ t.cut f [] ((b :: bs).drop n)
    | none =>
      match pre.getLast? with
      | some a => if !t.joins a b ∨ pre.length = 512 then t.piece pre ++ t.cut f [b] bs else t.cut f (pre ++ [b]) bs
      | none => t.cut f [b] bs

/-- Text as ids. -/
def Tables.ids (t : Tables) (text : List Byte) : List Nat := t.cut (text.length + 1) [] text

/-! ## The TKE (R357, R358, R363) -/

/-- A reply: its header and its text (R359). -/
def replyBytes (kind code session : Nat) (text : List Byte) : List Byte :=
  leBytes 4 0x4D5A5250 ++ leBytes 1 1 ++ leBytes 1 kind ++ leBytes 1 code ++ leBytes 1 0 ++ leBytes 4 session ++
  leBytes 4 text.length ++ text

/-- A record of the ring: its connection, whether it is truncated, the message's length and bytes. -/
structure TkeRec where
  conn : Word
  trunc : Bool
  len : Nat
  msg : List Byte
  offset : Nat
  deriving DecidableEq, Repr

def TkeRec.session (r : TkeRec) : Nat := if r.trunc then 0 else blkNat r.msg 8 4

/-- The oldest record of a port's ring. -/
def State.tkeHead (s : State) (p : Port) : TkeRec :=
  let h := s.ringGet p.base p.rptr.toNat 16
  let trunc := blkNat h 8 1 % 2 = 1
  let len := blkNat h 0 4
  { conn := BitVec.ofNat 32 (blkNat h 4 4), trunc, len, offset := p.rptr.toNat % ringBytes,
    msg := if trunc then [] else s.ringGet p.base (p.rptr.toNat + 16) (min len 0x100000) }

/-- The checks of a record that need nothing but its bytes: codes 1 to 4 (R358). -/
def TkeRec.code (r : TkeRec) : Nat :=
  if !r.trunc ∧ (r.len < 32 ∨ blkNat r.msg 0 4 ≠ 0x4D5A5452 ∨ blkNat r.msg 4 1 ≠ 1) then 1
  else if !r.trunc ∧ blkNat r.msg 5 1 ≠ 1 then 2
  else if r.trunc ∨ r.len - 32 < blkNat r.msg 12 4 then 3
  else if !utf8Well ((r.msg.drop 32).take (blkNat r.msg 12 4)) then 4
  else 0

/-- W is finite and at least 0. -/
def weightWell (w : Nat) : Bool := w / 2 ^ 23 % 256 ≠ 255 && (decide (w < 2 ^ 31) || w = 2 ^ 31)

/-- A slot of a DKE for a new session: the lowest that no running session holds. -/
def Port.freeSlot (p : Port) : Option Nat :=
  leastFree ((p.sessions.filter fun y => !y.2.ended || !y.2.posts.isEmpty).map Prod.fst) 0 65536

/-- What the TKE reserves for a request that passes the checks of its bytes, with the vocabulary it has read: codes 5 to 7
(R358). A request that has its reservation keeps it. -/
def tkeReserve (port : Nat) (r : TkeRec) : Tk (TkeRes × Vocab) := fun s =>
  let mi := blkNat r.msg 6 2
  let m := s.models.get {} mi
  let vocab := tkVocab (port / 2) m.asid m.vocab.toNat
  match (s.port port).reserved, s.pool m.pool with
  | some x, _ => vocab.andThen (fun v s => .ok (s, (x, v))) s
  | none, none => .error (.code 5)
  | none, some pool =>
    if 256 ≤ mi ∨ !m.valid ∨ !m.enabled then .error (.code 5)
    else vocab.andThen (fun v s =>
      let held := s.reservations
      let slots := m.used ++ (held.filter fun x => x.model = mi).map TkeRes.slot
      if !weightWell (blkNat r.msg 16 4) ∨ blkNat r.msg 20 2 = 0 ∨ v.size < blkNat r.msg 22 2 then .error (.code 6)
      else match s.freeSeq, leastFree slots 0 m.inSlots, s.freeRecord (s.taskRange m.asid), (s.port port).freeSlot with
      | some seq, some slot, some task, some dke =>
        if s.slotGen.get 0 (slotKey seq 0) ≥ 0xFFFF ∨ s.taskState m.template ≠ 8 then .error (.code 7)
        else .ok (s, ({ seq, pool := pool.idx, model := mi, slot, task, dke }, v))
      | _, _, _, _ => .error (.code 7)) s

/-- A request with its reservation is tokenised, and becomes what it asks for: codes 8 and 9 (R358, R363). `cancelled`
tells that the read of the template's header has been cancelled (R338). -/
def tkeTokenise (port : Nat) (r : TkeRec) (cancelled : Bool) (x : TkeRes) (v : Vocab) : Tk Unit := fun s =>
  let m := s.models.get {} x.model
  match tkTables (port / 2) m.asid v s with
  | .error e => .error e
  | .ok (s, t) =>
    let ids := t.ids ((r.msg.drop 32).take (blkNat r.msg 12 4))
    let va := m.inBase.toNat + x.slot * 4 * m.inCap
    if m.inCap < ids.length then .error (.code 8)
    else match tkWrite (port / 2) m.asid va (ids.flatMap (leBytes 4)) (pieces va (4 * ids.length) (4 * ids.length)) s with
    | .error e => .error e
    | .ok (s, _) =>
      match s.headerPrio m.template [] cancelled with
      | (s', .error e) => .error (tkStop s' 0 (s.taskAsid m.template) true e)
      | (s, .ok prio) =>
        let g := s.newGen x.seq 0
        let s := g.1.setSeq x.seq { pool := x.pool, nodes := [(0, { state := 1, gen := g.2 })] }
        let session := blkNat r.msg 8 4
        let maxtok := blkNat r.msg 20 2
        let q : TextReq := { seq := x.seq, count := ids.length, slotVa := BitVec.ofNat 64 va, port, session, slot := x.dke,
                             w := BitVec.ofNat 32 (blkNat r.msg 16 4), topk := blkNat r.msg 22 2, maxtok
                             key := BitVec.ofNat 64 (blkNat r.msg 24 8) }
        let p := s.port port
        let y : Session := { port, conn := r.conn, session, model := x.model, inSlot := x.slot, maxtok }
        let s := s.setPort port { p with sessions := p.sessions.set x.dke y }
        let s := { s with models := s.models.set x.model { m with queue := m.queue ++ [q], used := x.slot :: m.used } }
        let n : NewTask := { asid := m.asid, template := m.template, counter := 0, prio := none, param := 0,
                             gen := 0, cword := 0, priv := true }
        .ok (s.createTask x.task n prio, ())

/-- A request that passes the checks of its bytes: codes 5 to 9, and what it becomes (R358, R363). -/
def tkeRequest (port : Nat) (r : TkeRec) (cancelled : Bool) : Tk Unit :=
  (tkeReserve port r).andThen fun x => tkeTokenise port r cancelled x.1 x.2

/-- The TKE keeps what it has reserved, while the request waits for an access (R358). -/
def State.tkeKeep (s : State) (port : Nat) (r : TkeRec) : State :=
  match tkeReserve port r s with
  | .ok (_, x, _) => s.setPort port { s.port port with reserved := some x }
  | .error _ => s

/-- An entry of the error log (R358, R368). -/
def State.tkeLog (s : State) (port : Nat) (r : TkeRec) (code : Nat) : State :=
  let p := s.port port
  let n := bitsNat p.logN 15 0
  let k := bitsNat p.logN 63 32
  if n = 0 then s
  else
    let entry := leBytes 8 s.timeNs ++ leBytes 1 port ++ leBytes 1 code ++ leBytes 2 0 ++ leBytes 4 r.conn.toNat ++
      leBytes 4 r.session ++ leBytes 4 r.offset ++ leBytes 8 0
    (s.agentWrite (p.logBase.toNat + 32 * (k % n)) entry).setPort port
      { p with logN := putBits p.logN 63 32 ((k + 1) % 2 ^ 32) }

/-- The record has been read: RPTR passes it, and nothing is reserved for it any more (R358). -/
def State.tkeDone (s : State) (port : Nat) (r : TkeRec) : State :=
  let p := s.port port
  s.setPort port { p with rptr := p.rptr + BitVec.ofNat 32 (recordBytes (if r.trunc then 0 else r.len)),
                          failed := false, atHeader := false, reserved := none }

/-- A request is refused: an error reply, an entry of the log, and the next record (R358). -/
def State.tkeRefuse (s : State) (port : Nat) (r : TkeRec) (code : Nat) : State :=
  let p := s.port port
  let s := s.setPort port { p with sent := p.sent ++ [(r.conn, replyBytes 2 code r.session [])] }
  (s.tkeLog port r code).tkeDone port r

/-- TKE_RECORD: the oldest record of a ring is taken (R358, R363). An access that parks leaves everything as it was,
but for what the request has reserved. -/
def execTkeRecord (port : Nat) (s : State) : Out :=
  let p := s.port port
  .next (if !s.hasPort port ∨ !s.capUnits.getLsbD 0 ∨ p.wptr = p.rptr ∨ p.park.isSome then s
    else
      let r := s.tkeHead p
      if r.code ≠ 0 then s.tkeRefuse port r r.code
      else if p.failed ∧ !p.atHeader then s.tkeRefuse port r 9
      else match tkeRequest port r p.failed s with
      | .ok (s, _) => s.tkeDone port r
      | .error (.code c) => s.tkeRefuse port r c
      | .error (.wait c) => { s.tkeKeep port r with collapse := c }
      | .error (.park die asid ea bad header) =>
        match (s.tkeKeep port r).tkPark die asid ea bad with
        | (s, key) => s.setPort port { s.port port with park := some key, atHeader := header, failed := false })

/-! ## The DKE (R359, R364, R367) -/

/-- The session in a slot of a DKE replaced. -/
def State.setSession (s : State) (port slot : Nat) (y : Session) : State :=
  let p := s.port port
  s.setPort port { p with sessions := p.sessions.set slot y }

/-- A reply of a session. -/
def State.reply (s : State) (y : Session) (kind code : Nat) (text : List Byte) : State :=
  let p := s.port y.port
  s.setPort y.port { p with sent := p.sent ++ [(y.conn, replyBytes kind code y.session text)] }

/-- A session ends, and its input slot is free (R364). -/
def State.endSession (s : State) (slot : Nat) (y : Session) : State :=
  let m := s.models.get {} y.model
  { s with models := s.models.set y.model { m with used := m.used.filter (· ≠ y.inSlot) } }.setSession y.port slot
    { y with ended := true, pendingBytes := [], stamps := [], failed := false }

/-- What of the pending bytes may be sent, and what is held back. -/
def Session.sendable (y : Session) : List Byte × List Byte :=
  let r := utf8Send y.pendingBytes.length y.pendingBytes
  (r.1, r.2.2)

/-- A chunk with all that may be sent (R364). -/
def State.sendChunk (s : State) (slot : Nat) (y : Session) : State :=
  let held := y.sendable.2
  (s.reply y 0 0 y.sendable.1).setSession y.port slot
    { y with pendingBytes := held, stamps := y.stamps.drop (y.stamps.length - held.length) }

/-- The bytes of an id; none where its string is silent. -/
def tkString (die : Nat) (asid : BitVec 16) (v : Vocab) (id : Nat) : Tk (List Byte) :=
  (tkRead die asid (v.strAt id) 8).andThen fun e =>
    if blkNat e 7 1 ≥ 128 then fun s => .ok (s, [])
    else tkRead die asid (v.va + blkNat e 0 5) (blkNat e 5 2 % 1024)

/-- The id posted: whether it is one of the vocabulary, and its bytes. -/
def tkPosted (die : Nat) (m : Model) (id : Nat) : Tk (Option (List Byte)) :=
  (tkVocab die m.asid m.vocab.toNat).andThen fun v =>
    if v.size ≤ id ∨ !v.used id then fun s => .ok (s, none)
    else (tkString die m.asid v id).andThen fun b s => .ok (s, some b)

/-- Bytes reach a session: it ends, or a full chunk is sent (R364). -/
def State.posted (s : State) (slot : Nat) (y : Session) (bs : List Byte) (last : Bool) : State :=
  let y := { y with pendingBytes := y.pendingBytes ++ bs, posted := y.posted + 1,
                    stamps := y.stamps ++ List.replicate bs.length s.timeNs }
  if last ∨ y.maxtok ≤ y.posted then
    let x := y.sendable
    (s.reply y 1 (if last then 0 else 1) (x.1 ++ x.2.flatMap fun _ => utf8Bad)).endSession slot y
  else if 1024 ≤ y.sendable.1.length then s.sendChunk slot y
  else s.setSession y.port slot y

/-- The session of a port whose post was made first, of those that no read parks (R367). -/
def Port.nextPost (p : Port) : Option (Nat × Session) :=
  (sortBy (fun (y : Nat × Session) => y.2.order.headD 0)
    (List.filter (fun (y : Nat × Session) => !y.2.posts.isEmpty && y.2.park.isNone) p.sessions)).head?

/-- DKE_POST: the oldest post of the port's sessions reaches the DKE (R364, R367). -/
def execDkePost (port : Nat) (s : State) : Out :=
  .next (match (s.port port).nextPost with
    | none => s
    | some (slot, y) =>
      match y.posts with
      | [] => s
      | (id, last) :: rest =>
        let y' := { y with posts := rest, order := y.order.drop 1 }
        if y.ended then (s.setSession port slot y').dkeDrop port
        else if y.failed then (s.reply y 2 9 []).endSession slot y'
        else match tkPosted (port / 2) (s.models.get {} y.model) id s with
        | .ok (s, none) => (s.setSession port slot y').dkeDrop port
        | .ok (s, some bs) => s.posted slot y' bs last
        | .error (.code _) => (s.reply y 2 9 []).endSession slot y'
        | .error (.wait c) => { s with collapse := c }
        | .error (.park die asid ea bad _) =>
          match s.tkPark die asid ea bad with
          | (s, key) => s.setSession port slot { y with park := some key })

/-- DKE_CHUNK_TIMEOUT: the oldest pending byte of a session is 20 µs old (R364). -/
def execDkeChunkTimeout (port slot : Nat) (s : State) : Out :=
  .next (match (s.port port).sessions.find? slot with
    | some y => if y.ended ∨ y.sendable.1.isEmpty ∨ s.timeNs < y.stamps.headD s.timeNs + 20000 then s else s.sendChunk slot y
    | none => s)

end Sys2Proof.Machine
end

