-- ==== Sys2Proof/Machine/Dispatch.lean ====
section
/-! DEFINITION. The meaning of every instruction and event: one arm for each row of the opcode table. -/

namespace Sys2Proof.Machine

/-- One instruction word of the chain in hand, or one event. -/
def exec (i : Instr) (s : State) : Host.Outcome State Fault Refusal :=
  match i with
  | .reset => Sys2Proof.Machine.execReset s
  | .codeLineFetch core asid line => Sys2Proof.Machine.execCodeLineFetch core asid line s
  | .issueStarvationPriority core part => Sys2Proof.Machine.execIssueStarvationPriority core part s
  | .activeSetExchange core part => Sys2Proof.Machine.execActiveSetExchange core part s
  | .forcedExchange core part => Sys2Proof.Machine.execForcedExchange core part s
  | .yieldExpiry core place lane => Sys2Proof.Machine.execYieldExpiry core place lane s
  | .diesetChange task add => Sys2Proof.Machine.execDiesetChange task add s
  | .loadDataArrival core id => Sys2Proof.Machine.execLoadDataArrival core id s
  | .storeQueueDrain core place => Sys2Proof.Machine.execStoreQueueDrain core place s
  | .l2MissTranslation die asid va acc => Sys2Proof.Machine.execL2MissTranslation die asid va acc s
  | .windowWrite pa size val => Sys2Proof.Machine.execWindowWrite pa size val s
  | .carveoutApply core setting => Sys2Proof.Machine.execCarveoutApply core setting s
  | .gets line core => Sys2Proof.Machine.execGets line core s
  | .getx line core => Sys2Proof.Machine.execGetx line core s
  | .upg line core => Sys2Proof.Machine.execUpg line core s
  | .putm line core => Sys2Proof.Machine.execPutm line core s
  | .puto line core => Sys2Proof.Machine.execPuto line core s
  | .pute line core => Sys2Proof.Machine.execPute line core s
  | .fwdGets line core => Sys2Proof.Machine.execFwdGets line core s
  | .fwdGetx line core => Sys2Proof.Machine.execFwdGetx line core s
  | .inv line core => Sys2Proof.Machine.execInv line core s
  | .data line core => Sys2Proof.Machine.execData line core s
  | .dataEx line core => Sys2Proof.Machine.execDataEx line core s
  | .upgAck line core => Sys2Proof.Machine.execUpgAck line core s
  | .invAck line core => Sys2Proof.Machine.execInvAck line core s
  | .putAck line core => Sys2Proof.Machine.execPutAck line core s
  | .putAckStale line core => Sys2Proof.Machine.execPutAckStale line core s
  | .unblock line core => Sys2Proof.Machine.execUnblock line core s
  | .homeAgentAccess pa write => Sys2Proof.Machine.execHomeAgentAccess pa write s
  | .replicaCollapse asid page writerDie => Sys2Proof.Machine.execReplicaCollapse asid page writerDie s
  | .faultWindowClose die => Sys2Proof.Machine.execFaultWindowClose die s
  | .remoteRequest r => Sys2Proof.Machine.execRemoteRequest r s
  | .keepWaitingNotice id => Sys2Proof.Machine.execKeepWaitingNotice id s
  | .keepWaitingReceipt id => Sys2Proof.Machine.execKeepWaitingReceipt id s
  | .remoteReply id data redirected ending => Sys2Proof.Machine.execRemoteReply id data redirected ending s
  | .remoteTimeout id => Sys2Proof.Machine.execRemoteTimeout id s
  | .numericWindowRestart core cls => Sys2Proof.Machine.execNumericWindowRestart core cls s
  | .numericThresholdTrap core place lane => Sys2Proof.Machine.execNumericThresholdTrap core place lane s
  | .numEvtClear core val => Sys2Proof.Machine.execNumEvtClear core val s
  | .mmaStart core => Sys2Proof.Machine.execMmaStart core s
  | .mmaComplete core => Sys2Proof.Machine.execMmaComplete core s
  | .copyComplete core id => Sys2Proof.Machine.execCopyComplete core id s
  | .badgerCommandArrival id => Sys2Proof.Machine.execBadgerCommandArrival id s
  | .ttComplete id => Sys2Proof.Machine.execTtComplete id s
  | .pageFree pool page => Sys2Proof.Machine.execPageFree pool page s
  | .smplComplete core id => Sys2Proof.Machine.execSmplComplete core id s
  | .hacRoutine core place => Sys2Proof.Machine.execHacRoutine core place s
  | .pollReread core place lane => Sys2Proof.Machine.execPollReread core place lane s
  | .regionCommit core place lane => Sys2Proof.Machine.execRegionCommit core place lane s
  | .abortTargetResume core place lane => Sys2Proof.Machine.execAbortTargetResume core place lane s
  | .regionIrrevocable core place lane => Sys2Proof.Machine.execRegionIrrevocable core place lane s
  | .regionWatchdog core place lane => Sys2Proof.Machine.execRegionWatchdog core place lane s
  | .dflushComplete task => Sys2Proof.Machine.execDflushComplete task s
  | .segmentStart task wave => Sys2Proof.Machine.execSegmentStart task wave s
  | .segmentWatchdog task wave => Sys2Proof.Machine.execSegmentWatchdog task wave s
  | .pgreqComplete id => Sys2Proof.Machine.execPgreqComplete id s
  | .taskDecrement task amount err => Sys2Proof.Machine.execTaskDecrement task amount err s
  | .counterWindowWrite task nbytes val => Sys2Proof.Machine.execCounterWindowWrite task nbytes val s
  | .agingTick task => Sys2Proof.Machine.execAgingTick task s
  | .launchHeaderCheck task => Sys2Proof.Machine.execLaunchHeaderCheck task s
  | .workgroupDispatch task core base => Sys2Proof.Machine.execWorkgroupDispatch task core base s
  | .preemptDecision task core => Sys2Proof.Machine.execPreemptDecision task core s
  | .preemptReq core place lane => Sys2Proof.Machine.execPreemptReq core place lane s
  | .forcedSave task wg => Sys2Proof.Machine.execForcedSave task wg s
  | .contextRestore task core => Sys2Proof.Machine.execContextRestore task core s
  | .launchWatchdog task => Sys2Proof.Machine.execLaunchWatchdog task s
  | .launchEnd task => Sys2Proof.Machine.execLaunchEnd task s
  | .taskCompletion task => Sys2Proof.Machine.execTaskCompletion task s
  | .packetForward p => Sys2Proof.Machine.execPacketForward p s
  | .linkFailure links => Sys2Proof.Machine.execLinkFailure links s
  | .moduleFailure failed spare => Sys2Proof.Machine.execModuleFailure failed spare s
  | .collComplete group ranks => Sys2Proof.Machine.execCollComplete group ranks s
  | .rsigArrival r => Sys2Proof.Machine.execRsigArrival r s
  | .hostMemoryWrite pa data => Sys2Proof.Machine.execHostMemoryWrite pa data s
  | .hostMemoryRead pa n => Sys2Proof.Machine.execHostMemoryRead pa n s
  | .mailboxInDoorbell msg => Sys2Proof.Machine.execMailboxInDoorbell msg s
  | .mailboxOutPost msg => Sys2Proof.Machine.execMailboxOutPost msg s
  | .mailboxOutAck val => Sys2Proof.Machine.execMailboxOutAck val s
  | .numiStatClear val => Sys2Proof.Machine.execNumiStatClear val s
  | .debugRequest core => Sys2Proof.Machine.execDebugRequest core s
  | .breakpointRelease core place lane => Sys2Proof.Machine.execBreakpointRelease core place lane s
  | .ueMessageReceive port conn msg => Sys2Proof.Machine.execUeMessageReceive port conn msg s
  | .ueRingEnable port val => Sys2Proof.Machine.execUeRingEnable port val s
  | .ueConnectionSetup port conn reliableOrdered => Sys2Proof.Machine.execUeConnectionSetup port conn reliableOrdered s
  | .tkeRecord port => Sys2Proof.Machine.execTkeRecord port s
  | .tkeLogWrite port val => Sys2Proof.Machine.execTkeLogWrite port val s
  | .dkePost port => Sys2Proof.Machine.execDkePost port s
  | .dkeChunkTimeout port slot => Sys2Proof.Machine.execDkeChunkTimeout port slot s
  | .eccCorrection unit loc synd => Sys2Proof.Machine.execEccCorrection unit loc synd s
  | .journalAppend => Sys2Proof.Machine.execJournalAppend s
  | .uncorrectableError place => Sys2Proof.Machine.execUncorrectableError place s
  | .powerFail => Sys2Proof.Machine.execPowerFail s
  | .clockThrottle mhz => Sys2Proof.Machine.execClockThrottle mhz s
  | .attestationRequest nonce => Sys2Proof.Machine.execAttestationRequest nonce s
  | .haltQuiesceComplete core => Sys2Proof.Machine.execHaltQuiesceComplete core s
  | .haltQuiesceTimeout core => Sys2Proof.Machine.execHaltQuiesceTimeout core s
  | .asidDestroy asid => Sys2Proof.Machine.execAsidDestroy asid s
  | .registerWrite r => Sys2Proof.Machine.execRegisterWrite r s
  | .ximm ib => Sys2Proof.Machine.execXimm ib s
  | .guard n p => Sys2Proof.Machine.execGuard n p s
  | .cpol e q o sb => Sys2Proof.Machine.execCpol e q o sb s
  | .probe p => Sys2Proof.Machine.execProbe p s
  | .round r => Sys2Proof.Machine.execRound r s
  | .sat => Sys2Proof.Machine.execSat s
  | .nop c => Sys2Proof.Machine.execNop c s
  | .exit c => Sys2Proof.Machine.execExit c s
  | .trap c k => Sys2Proof.Machine.execTrap c k s
  | .yield c => Sys2Proof.Machine.execYield c s
  | .step c => Sys2Proof.Machine.execStep c s
  | .brk c => Sys2Proof.Machine.execBrk c s
  | .tret c => Sys2Proof.Machine.execTret c s
  | .ydone c => Sys2Proof.Machine.execYdone c s
  | .snap c k => Sys2Proof.Machine.execSnap c k s
  | .bra c d => Sys2Proof.Machine.execBra c d s
  | .brt c p d => Sys2Proof.Machine.execBrt c p d s
  | .brf c p d => Sys2Proof.Machine.execBrf c p d s
  | .call c d => Sys2Proof.Machine.execCall c d s
  | .brany c p d => Sys2Proof.Machine.execBrany c p d s
  | .brall c p d => Sys2Proof.Machine.execBrall c p d s
  | .bri c a => Sys2Proof.Machine.execBri c a s
  | .calli c d a => Sys2Proof.Machine.execCalli c d a s
  | .ret c a => Sys2Proof.Machine.execRet c a s
  | .join c m => Sys2Proof.Machine.execJoin c m s
  | .leave c m => Sys2Proof.Machine.execLeave c m s
  | .waitm c m => Sys2Proof.Machine.execWaitm c m s
  | .mrd c sb m => Sys2Proof.Machine.execMrd c sb m s
  | .mwr c sb m => Sys2Proof.Machine.execMwr c sb m s
  | .mact c sb => Sys2Proof.Machine.execMact c sb s
  | .bar c => Sys2Proof.Machine.execBar c s
  | .barl c l => Sys2Proof.Machine.execBarl c l s
  | .addVv c d a b => Sys2Proof.Machine.execAddVv c d a b s
  | .subVv c d a b => Sys2Proof.Machine.execSubVv c d a b s
  | .mulVv c d a b => Sys2Proof.Machine.execMulVv c d a b s
  | .mulhiVv c d a b => Sys2Proof.Machine.execMulhiVv c d a b s
  | .mulhiNVv c d a b => Sys2Proof.Machine.execMulhiNVv c d a b s
  | .minVv c d a b => Sys2Proof.Machine.execMinVv c d a b s
  | .maxVv c d a b => Sys2Proof.Machine.execMaxVv c d a b s
  | .minNVv c d a b => Sys2Proof.Machine.execMinNVv c d a b s
  | .maxNVv c d a b => Sys2Proof.Machine.execMaxNVv c d a b s
  | .andVv c d a b => Sys2Proof.Machine.execAndVv c d a b s
  | .orVv c d a b => Sys2Proof.Machine.execOrVv c d a b s
  | .xorVv c d a b => Sys2Proof.Machine.execXorVv c d a b s
  | .shlVv c d a b => Sys2Proof.Machine.execShlVv c d a b s
  | .shrVv c d a b => Sys2Proof.Machine.execShrVv c d a b s
  | .sarVv c d a b => Sys2Proof.Machine.execSarVv c d a b s
  | .rolVv c d a b => Sys2Proof.Machine.execRolVv c d a b s
  | .addVs c d a b => Sys2Proof.Machine.execAddVs c d a b s
  | .subVs c d a b => Sys2Proof.Machine.execSubVs c d a b s
  | .mulVs c d a b => Sys2Proof.Machine.execMulVs c d a b s
  | .mulhiVs c d a b => Sys2Proof.Machine.execMulhiVs c d a b s
  | .mulhiNVs c d a b => Sys2Proof.Machine.execMulhiNVs c d a b s
  | .minVs c d a b => Sys2Proof.Machine.execMinVs c d a b s
  | .maxVs c d a b => Sys2Proof.Machine.execMaxVs c d a b s
  | .minNVs c d a b => Sys2Proof.Machine.execMinNVs c d a b s
  | .maxNVs c d a b => Sys2Proof.Machine.execMaxNVs c d a b s
  | .andVs c d a b => Sys2Proof.Machine.execAndVs c d a b s
  | .orVs c d a b => Sys2Proof.Machine.execOrVs c d a b s
  | .xorVs c d a b => Sys2Proof.Machine.execXorVs c d a b s
  | .shlVs c d a b => Sys2Proof.Machine.execShlVs c d a b s
  | .shrVs c d a b => Sys2Proof.Machine.execShrVs c d a b s
  | .sarVs c d a b => Sys2Proof.Machine.execSarVs c d a b s
  | .rolVs c d a b => Sys2Proof.Machine.execRolVs c d a b s
  | .addVi c d a ib => Sys2Proof.Machine.execAddVi c d a ib s
  | .subVi c d a ib => Sys2Proof.Machine.execSubVi c d a ib s
  | .mulVi c d a ib => Sys2Proof.Machine.execMulVi c d a ib s
  | .mulhiVi c d a ib => Sys2Proof.Machine.execMulhiVi c d a ib s
  | .mulhiNVi c d a ib => Sys2Proof.Machine.execMulhiNVi c d a ib s
  | .minVi c d a ib => Sys2Proof.Machine.execMinVi c d a ib s
  | .maxVi c d a ib => Sys2Proof.Machine.execMaxVi c d a ib s
  | .minNVi c d a ib => Sys2Proof.Machine.execMinNVi c d a ib s
  | .maxNVi c d a ib => Sys2Proof.Machine.execMaxNVi c d a ib s
  | .andVi c d a ib => Sys2Proof.Machine.execAndVi c d a ib s
  | .orVi c d a ib => Sys2Proof.Machine.execOrVi c d a ib s
  | .xorVi c d a ib => Sys2Proof.Machine.execXorVi c d a ib s
  | .shlVi c d a ib => Sys2Proof.Machine.execShlVi c d a ib s
  | .shrVi c d a ib => Sys2Proof.Machine.execShrVi c d a ib s
  | .sarVi c d a ib => Sys2Proof.Machine.execSarVi c d a ib s
  | .rolVi c d a ib => Sys2Proof.Machine.execRolVi c d a ib s
  | .madS32 c d a b => Sys2Proof.Machine.execMadS32 c d a b s
  | .madN32 c d a b => Sys2Proof.Machine.execMadN32 c d a b s
  | .madwS c d a b => Sys2Proof.Machine.execMadwS c d a b s
  | .madwN c d a b => Sys2Proof.Machine.execMadwN c d a b s
  | .madhS c d a b => Sys2Proof.Machine.execMadhS c d a b s
  | .madhN c d a b => Sys2Proof.Machine.execMadhN c d a b s
  | .negI c d a => Sys2Proof.Machine.execNegI c d a s
  | .absI c d a => Sys2Proof.Machine.execAbsI c d a s
  | .notB c d a => Sys2Proof.Machine.execNotB c d a s
  | .popc c d a => Sys2Proof.Machine.execPopc c d a s
  | .clz c d a => Sys2Proof.Machine.execClz c d a s
  | .brev c d a => Sys2Proof.Machine.execBrev c d a s
  | .bfe c d a b => Sys2Proof.Machine.execBfe c d a b s
  | .bfi c d a b => Sys2Proof.Machine.execBfi c d a b s
  | .sext8 c d a => Sys2Proof.Machine.execSext8 c d a s
  | .sext16 c d a => Sys2Proof.Machine.execSext16 c d a s
  | .zext8 c d a => Sys2Proof.Machine.execZext8 c d a s
  | .zext16 c d a => Sys2Proof.Machine.execZext16 c d a s
  | .addB64 c d a b => Sys2Proof.Machine.execAddB64 c d a b s
  | .subB64 c d a b => Sys2Proof.Machine.execSubB64 c d a b s
  | .mulloB64 c d a b => Sys2Proof.Machine.execMulloB64 c d a b s
  | .shlB64 c d a b => Sys2Proof.Machine.execShlB64 c d a b s
  | .shrB64 c d a b => Sys2Proof.Machine.execShrB64 c d a b s
  | .sarB64 c d a b => Sys2Proof.Machine.execSarB64 c d a b s
  | .minB64 c d a b => Sys2Proof.Machine.execMinB64 c d a b s
  | .maxB64 c d a b => Sys2Proof.Machine.execMaxB64 c d a b s
  | .minNB64 c d a b => Sys2Proof.Machine.execMinNB64 c d a b s
  | .maxNB64 c d a b => Sys2Proof.Machine.execMaxNB64 c d a b s
  | .andB64 c d a b => Sys2Proof.Machine.execAndB64 c d a b s
  | .orB64 c d a b => Sys2Proof.Machine.execOrB64 c d a b s
  | .xorB64 c d a b => Sys2Proof.Machine.execXorB64 c d a b s
  | .icmpS32Vv c k p a b => Sys2Proof.Machine.execIcmpS32Vv c k p a b s
  | .icmpS32Vs c k p a b => Sys2Proof.Machine.execIcmpS32Vs c k p a b s
  | .icmpB64Vv c k p a b => Sys2Proof.Machine.execIcmpB64Vv c k p a b s
  | .icmpB64Vs c k p a b => Sys2Proof.Machine.execIcmpB64Vs c k p a b s
  | .icmpAndS32Vv c k p a b => Sys2Proof.Machine.execIcmpAndS32Vv c k p a b s
  | .icmpAndS32Vs c k p a b => Sys2Proof.Machine.execIcmpAndS32Vs c k p a b s
  | .icmpAndB64Vv c k p a b => Sys2Proof.Machine.execIcmpAndB64Vv c k p a b s
  | .icmpAndB64Vs c k p a b => Sys2Proof.Machine.execIcmpAndB64Vs c k p a b s
  | .sel c d a b n p => Sys2Proof.Machine.execSel c d a b n p s
  | .pand c d a b => Sys2Proof.Machine.execPand c d a b s
  | .por c d a b => Sys2Proof.Machine.execPor c d a b s
  | .pxor c d a b => Sys2Proof.Machine.execPxor c d a b s
  | .pandn c d a b => Sys2Proof.Machine.execPandn c d a b s
  | .pmov c d a => Sys2Proof.Machine.execPmov c d a s
  | .pnot c d a => Sys2Proof.Machine.execPnot c d a s
  | .addF32Vv c d a b => Sys2Proof.Machine.execAddF32Vv c d a b s
  | .subF32Vv c d a b => Sys2Proof.Machine.execSubF32Vv c d a b s
  | .mulF32Vv c d a b => Sys2Proof.Machine.execMulF32Vv c d a b s
  | .minF32Vv c d a b => Sys2Proof.Machine.execMinF32Vv c d a b s
  | .maxF32Vv c d a b => Sys2Proof.Machine.execMaxF32Vv c d a b s
  | .divF32Vv c d a b => Sys2Proof.Machine.execDivF32Vv c d a b s
  | .scaleF32Vv c d a b => Sys2Proof.Machine.execScaleF32Vv c d a b s
  | .addF32Vs c d a b => Sys2Proof.Machine.execAddF32Vs c d a b s
  | .subF32Vs c d a b => Sys2Proof.Machine.execSubF32Vs c d a b s
  | .mulF32Vs c d a b => Sys2Proof.Machine.execMulF32Vs c d a b s
  | .minF32Vs c d a b => Sys2Proof.Machine.execMinF32Vs c d a b s
  | .maxF32Vs c d a b => Sys2Proof.Machine.execMaxF32Vs c d a b s
  | .divF32Vs c d a b => Sys2Proof.Machine.execDivF32Vs c d a b s
  | .scaleF32Vs c d a b => Sys2Proof.Machine.execScaleF32Vs c d a b s
  | .ffmaF32 c d a b => Sys2Proof.Machine.execFfmaF32 c d a b s
  | .ffmaF32S c d a b => Sys2Proof.Machine.execFfmaF32S c d a b s
  | .ffmaF64 c d a b => Sys2Proof.Machine.execFfmaF64 c d a b s
  | .ffmaF64S c d a b => Sys2Proof.Machine.execFfmaF64S c d a b s
  | .ffmaF16x2 c d a b => Sys2Proof.Machine.execFfmaF16x2 c d a b s
  | .ffmaBf16x2 c d a b => Sys2Proof.Machine.execFfmaBf16x2 c d a b s
  | .fnmaF32 c d a b => Sys2Proof.Machine.execFnmaF32 c d a b s
  | .fnmaF64 c d a b => Sys2Proof.Machine.execFnmaF64 c d a b s
  | .addF64 c d a b => Sys2Proof.Machine.execAddF64 c d a b s
  | .subF64 c d a b => Sys2Proof.Machine.execSubF64 c d a b s
  | .mulF64 c d a b => Sys2Proof.Machine.execMulF64 c d a b s
  | .minF64 c d a b => Sys2Proof.Machine.execMinF64 c d a b s
  | .maxF64 c d a b => Sys2Proof.Machine.execMaxF64 c d a b s
  | .divF64 c d a b => Sys2Proof.Machine.execDivF64 c d a b s
  | .scaleF64 c d a b => Sys2Proof.Machine.execScaleF64 c d a b s
  | .addF16x2 c d a b => Sys2Proof.Machine.execAddF16x2 c d a b s
  | .mulF16x2 c d a b => Sys2Proof.Machine.execMulF16x2 c d a b s
  | .minF16x2 c d a b => Sys2Proof.Machine.execMinF16x2 c d a b s
  | .maxF16x2 c d a b => Sys2Proof.Machine.execMaxF16x2 c d a b s
  | .addBf16x2 c d a b => Sys2Proof.Machine.execAddBf16x2 c d a b s
  | .mulBf16x2 c d a b => Sys2Proof.Machine.execMulBf16x2 c d a b s
  | .minBf16x2 c d a b => Sys2Proof.Machine.execMinBf16x2 c d a b s
  | .maxBf16x2 c d a b => Sys2Proof.Machine.execMaxBf16x2 c d a b s
  | .rcp c d a p => Sys2Proof.Machine.execRcp c d a p s
  | .rsq c d a p => Sys2Proof.Machine.execRsq c d a p s
  | .sqrt c d a p => Sys2Proof.Machine.execSqrt c d a p s
  | .exp2 c d a => Sys2Proof.Machine.execExp2 c d a s
  | .log2 c d a => Sys2Proof.Machine.execLog2 c d a s
  | .sinpi c d a => Sys2Proof.Machine.execSinpi c d a s
  | .cospi c d a => Sys2Proof.Machine.execCospi c d a s
  | .absFloat c d a p => Sys2Proof.Machine.execAbsFloat c d a p s
  | .negFloat c d a p => Sys2Proof.Machine.execNegFloat c d a p s
  | .rnd c d a p => Sys2Proof.Machine.execRnd c d a p s
  | .classF c d a p => Sys2Proof.Machine.execClassF c d a p s
  | .fract c d a p => Sys2Proof.Machine.execFract c d a p s
  | .fcmpF32 c k p a b => Sys2Proof.Machine.execFcmpF32 c k p a b s
  | .fcmpF64 c k p a b => Sys2Proof.Machine.execFcmpF64 c k p a b s
  | .fcmpF32S c k p a b => Sys2Proof.Machine.execFcmpF32S c k p a b s
  | .cvt c d a t r sb => Sys2Proof.Machine.execCvt c d a t r sb s
  | .movi c d ib => Sys2Proof.Machine.execMovi c d ib s
  | .mov c d b => Sys2Proof.Machine.execMov c d b s
  | .movb c d h b => Sys2Proof.Machine.execMovb c d h b s
  | .mov64 c d b => Sys2Proof.Machine.execMov64 c d b s
  | .vrfl c d a w => Sys2Proof.Machine.execVrfl c d a w s
  | .vrln c d a w n => Sys2Proof.Machine.execVrln c d a w n s
  | .vwln c d a w n => Sys2Proof.Machine.execVwln c d a w n s
  | .widf c d w k => Sys2Proof.Machine.execWidf c d w k s
  | .srd c d w n => Sys2Proof.Machine.execSrd c d w n s
  | .swr c w a n => Sys2Proof.Machine.execSwr c w a n s
  | .ptov c d => Sys2Proof.Machine.execPtov c d s
  | .vtop c a => Sys2Proof.Machine.execVtop c a s
  | .qwr c d b => Sys2Proof.Machine.execQwr c d b s
  | .qrd c d a => Sys2Proof.Machine.execQrd c d a s
  | .shflIdx c d a b => Sys2Proof.Machine.execShflIdx c d a b s
  | .shflUp c d a n => Sys2Proof.Machine.execShflUp c d a n s
  | .shflDown c d a n => Sys2Proof.Machine.execShflDown c d a n s
  | .shflXor c d a n => Sys2Proof.Machine.execShflXor c d a n s
  | .voteAny c d a => Sys2Proof.Machine.execVoteAny c d a s
  | .voteAll c d a => Sys2Proof.Machine.execVoteAll c d a s
  | .voteBallot c d a => Sys2Proof.Machine.execVoteBallot c d a s
  | .voteRedaddS32 c d a => Sys2Proof.Machine.execVoteRedaddS32 c d a s
  | .voteRedminS32 c d a => Sys2Proof.Machine.execVoteRedminS32 c d a s
  | .voteRedmaxS32 c d a => Sys2Proof.Machine.execVoteRedmaxS32 c d a s
  | .voteRedaddF32 c d a => Sys2Proof.Machine.execVoteRedaddF32 c d a s
  | .voteScanS32 c d a => Sys2Proof.Machine.execVoteScanS32 c d a s
  | .addSs c d a b => Sys2Proof.Machine.execAddSs c d a b s
  | .subSs c d a b => Sys2Proof.Machine.execSubSs c d a b s
  | .mulSs c d a b => Sys2Proof.Machine.execMulSs c d a b s
  | .mulhiSs c d a b => Sys2Proof.Machine.execMulhiSs c d a b s
  | .mulhiNSs c d a b => Sys2Proof.Machine.execMulhiNSs c d a b s
  | .minSs c d a b => Sys2Proof.Machine.execMinSs c d a b s
  | .maxSs c d a b => Sys2Proof.Machine.execMaxSs c d a b s
  | .minNSs c d a b => Sys2Proof.Machine.execMinNSs c d a b s
  | .maxNSs c d a b => Sys2Proof.Machine.execMaxNSs c d a b s
  | .andSs c d a b => Sys2Proof.Machine.execAndSs c d a b s
  | .orSs c d a b => Sys2Proof.Machine.execOrSs c d a b s
  | .xorSs c d a b => Sys2Proof.Machine.execXorSs c d a b s
  | .shlSs c d a b => Sys2Proof.Machine.execShlSs c d a b s
  | .shrSs c d a b => Sys2Proof.Machine.execShrSs c d a b s
  | .sarSs c d a b => Sys2Proof.Machine.execSarSs c d a b s
  | .rolSs c d a b => Sys2Proof.Machine.execRolSs c d a b s
  | .addSi c d a ib => Sys2Proof.Machine.execAddSi c d a ib s
  | .subSi c d a ib => Sys2Proof.Machine.execSubSi c d a ib s
  | .mulSi c d a ib => Sys2Proof.Machine.execMulSi c d a ib s
  | .mulhiSi c d a ib => Sys2Proof.Machine.execMulhiSi c d a ib s
  | .mulhiNSi c d a ib => Sys2Proof.Machine.execMulhiNSi c d a ib s
  | .minSi c d a ib => Sys2Proof.Machine.execMinSi c d a ib s
  | .maxSi c d a ib => Sys2Proof.Machine.execMaxSi c d a ib s
  | .minNSi c d a ib => Sys2Proof.Machine.execMinNSi c d a ib s
  | .maxNSi c d a ib => Sys2Proof.Machine.execMaxNSi c d a ib s
  | .andSi c d a ib => Sys2Proof.Machine.execAndSi c d a ib s
  | .orSi c d a ib => Sys2Proof.Machine.execOrSi c d a ib s
  | .xorSi c d a ib => Sys2Proof.Machine.execXorSi c d a ib s
  | .shlSi c d a ib => Sys2Proof.Machine.execShlSi c d a ib s
  | .shrSi c d a ib => Sys2Proof.Machine.execShrSi c d a ib s
  | .sarSi c d a ib => Sys2Proof.Machine.execSarSi c d a ib s
  | .rolSi c d a ib => Sys2Proof.Machine.execRolSi c d a ib s
  | .smovi c d ib => Sys2Proof.Machine.execSmovi c d ib s
  | .scmp c k p a b => Sys2Proof.Machine.execScmp c k p a b s
  | .smadMad c d a b => Sys2Proof.Machine.execSmadMad c d a b s
  | .smadMadhS c d a b => Sys2Proof.Machine.execSmadMadhS c d a b s
  | .smadMadhN c d a b => Sys2Proof.Machine.execSmadMadhN c d a b s
  | .ld c d a sb z m r => Sys2Proof.Machine.execLd c d a sb z m r s
  | .st c d a sb z m r => Sys2Proof.Machine.execSt c d a sb z m r s
  | .lds c d a sb z m => Sys2Proof.Machine.execLds c d a sb z m s
  | .sts c d a sb z m => Sys2Proof.Machine.execSts c d a sb z m s
  | .ldfe c d a sb z m l => Sys2Proof.Machine.execLdfe c d a sb z m l s
  | .sld c d a sb z m r => Sys2Proof.Machine.execSld c d a sb z m r s
  | .sst c d a sb z m r => Sys2Proof.Machine.execSst c d a sb z m r s
  | .atomAdd c d a b => Sys2Proof.Machine.execAtomAdd c d a b s
  | .atomMin c d a b => Sys2Proof.Machine.execAtomMin c d a b s
  | .atomMax c d a b => Sys2Proof.Machine.execAtomMax c d a b s
  | .atomMinN c d a b => Sys2Proof.Machine.execAtomMinN c d a b s
  | .atomMaxN c d a b => Sys2Proof.Machine.execAtomMaxN c d a b s
  | .atomAnd c d a b => Sys2Proof.Machine.execAtomAnd c d a b s
  | .atomOr c d a b => Sys2Proof.Machine.execAtomOr c d a b s
  | .atomXor c d a b => Sys2Proof.Machine.execAtomXor c d a b s
  | .atomExch c d a b => Sys2Proof.Machine.execAtomExch c d a b s
  | .atomIncw c d a b => Sys2Proof.Machine.execAtomIncw c d a b s
  | .atomDecw c d a b => Sys2Proof.Machine.execAtomDecw c d a b s
  | .atomFaddF32 c d a b => Sys2Proof.Machine.execAtomFaddF32 c d a b s
  | .atomFminF32 c d a b => Sys2Proof.Machine.execAtomFminF32 c d a b s
  | .atomFmaxF32 c d a b => Sys2Proof.Machine.execAtomFmaxF32 c d a b s
  | .atomFaddBf16x2 c d a b => Sys2Proof.Machine.execAtomFaddBf16x2 c d a b s
  | .atom64Add c d a b => Sys2Proof.Machine.execAtom64Add c d a b s
  | .atom64Min c d a b => Sys2Proof.Machine.execAtom64Min c d a b s
  | .atom64Max c d a b => Sys2Proof.Machine.execAtom64Max c d a b s
  | .atom64MinN c d a b => Sys2Proof.Machine.execAtom64MinN c d a b s
  | .atom64MaxN c d a b => Sys2Proof.Machine.execAtom64MaxN c d a b s
  | .atom64And c d a b => Sys2Proof.Machine.execAtom64And c d a b s
  | .atom64Or c d a b => Sys2Proof.Machine.execAtom64Or c d a b s
  | .atom64Xor c d a b => Sys2Proof.Machine.execAtom64Xor c d a b s
  | .atom64Exch c d a b => Sys2Proof.Machine.execAtom64Exch c d a b s
  | .atom64Incw c d a b => Sys2Proof.Machine.execAtom64Incw c d a b s
  | .atom64Decw c d a b => Sys2Proof.Machine.execAtom64Decw c d a b s
  | .atom64FaddF64 c d a b => Sys2Proof.Machine.execAtom64FaddF64 c d a b s
  | .atom64FminF64 c d a b => Sys2Proof.Machine.execAtom64FminF64 c d a b s
  | .atom64FmaxF64 c d a b => Sys2Proof.Machine.execAtom64FmaxF64 c d a b s
  | .redAdd c w a b => Sys2Proof.Machine.execRedAdd c w a b s
  | .redMin c w a b => Sys2Proof.Machine.execRedMin c w a b s
  | .redMax c w a b => Sys2Proof.Machine.execRedMax c w a b s
  | .redMinN c w a b => Sys2Proof.Machine.execRedMinN c w a b s
  | .redMaxN c w a b => Sys2Proof.Machine.execRedMaxN c w a b s
  | .redAnd c w a b => Sys2Proof.Machine.execRedAnd c w a b s
  | .redOr c w a b => Sys2Proof.Machine.execRedOr c w a b s
  | .redXor c w a b => Sys2Proof.Machine.execRedXor c w a b s
  | .redExch c w a b => Sys2Proof.Machine.execRedExch c w a b s
  | .redIncw c w a b => Sys2Proof.Machine.execRedIncw c w a b s
  | .redDecw c w a b => Sys2Proof.Machine.execRedDecw c w a b s
  | .redFadd c w a b => Sys2Proof.Machine.execRedFadd c w a b s
  | .redFmin c w a b => Sys2Proof.Machine.execRedFmin c w a b s
  | .redFmax c w a b => Sys2Proof.Machine.execRedFmax c w a b s
  | .redFaddBf16x2 c a b => Sys2Proof.Machine.execRedFaddBf16x2 c a b s
  | .casB32 c d a b => Sys2Proof.Machine.execCasB32 c d a b s
  | .casB64 c d a b => Sys2Proof.Machine.execCasB64 c d a b s
  | .casB128 c d a b => Sys2Proof.Machine.execCasB128 c d a b s
  | .patom c d a b f => Sys2Proof.Machine.execPatom c d a b f s
  | .fence c o sb => Sys2Proof.Machine.execFence c o sb s
  | .poll c a b x w k => Sys2Proof.Machine.execPoll c a b x w k s
  | .farb c t sb => Sys2Proof.Machine.execFarb c t sb s
  | .fare c p => Sys2Proof.Machine.execFare c p s
  | .farx c => Sys2Proof.Machine.execFarx c s
  | .fars c a => Sys2Proof.Machine.execFars c a s
  | .dflush c => Sys2Proof.Machine.execDflush c s
  | .pgreq c a b => Sys2Proof.Machine.execPgreq c a b s
  | .pref c a l p => Sys2Proof.Machine.execPref c a l p s
  | .cinv c a b => Sys2Proof.Machine.execCinv c a b s
  | .cwb c a b => Sys2Proof.Machine.execCwb c a b s
  | .tagset c a b => Sys2Proof.Machine.execTagset c a b s
  | .tagget c a b => Sys2Proof.Machine.execTagget c a b s
  | .mfop c => Sys2Proof.Machine.execMfop c s
  | .feset c a b => Sys2Proof.Machine.execFeset c a b s
  | .feclr c a b => Sys2Proof.Machine.execFeclr c a b s
  | .seqr c a => Sys2Proof.Machine.execSeqr c a s
  | .cpy c d a b k z => Sys2Proof.Machine.execCpy c d a b k z s
  | .tile c a b => Sys2Proof.Machine.execTile c a b s
  | .unpk c a b => Sys2Proof.Machine.execUnpk c a b s
  | .pack c a b => Sys2Proof.Machine.execPack c a b s
  | .gath c a b => Sys2Proof.Machine.execGath c a b s
  | .scat c a b => Sys2Proof.Machine.execScat c a b s
  | .kvcp c a b => Sys2Proof.Machine.execKvcp c a b s
  | .cpw c t p => Sys2Proof.Machine.execCpw c t p s
  | .cps c a t => Sys2Proof.Machine.execCps c a t s
  | .osclm c n f => Sys2Proof.Machine.execOsclm c n f s
  | .osrel c n => Sys2Proof.Machine.execOsrel c n s
  | .osst c a b => Sys2Proof.Machine.execOsst c a b s
  | .osld c a b => Sys2Proof.Machine.execOsld c a b s
  | .acz c n => Sys2Proof.Machine.execAcz c n s
  | .acld c a b => Sys2Proof.Machine.execAcld c a b s
  | .acst c a b => Sys2Proof.Machine.execAcst c a b s
  | .mma c a => Sys2Proof.Machine.execMma c a s
  | .mwait c t p => Sys2Proof.Machine.execMwait c t p s
  | .mstat c a t => Sys2Proof.Machine.execMstat c a t s
  | .seqnew c a b => Sys2Proof.Machine.execSeqnew c a b s
  | .seqfree c a b => Sys2Proof.Machine.execSeqfree c a b s
  | .tfork c a b => Sys2Proof.Machine.execTfork c a b s
  | .tapp c a b => Sys2Proof.Machine.execTapp c a b s
  | .kvwr c a b => Sys2Proof.Machine.execKvwr c a b s
  | .tprune c a b => Sys2Proof.Machine.execTprune c a b s
  | .tcommit c a b => Sys2Proof.Machine.execTcommit c a b s
  | .tqry c a b => Sys2Proof.Machine.execTqry c a b s
  | .twalk c a b => Sys2Proof.Machine.execTwalk c a b s
  | .kvgath c a b => Sys2Proof.Machine.execKvgath c a b s
  | .tmask c a b => Sys2Proof.Machine.execTmask c a b s
  | .pfxq c a b => Sys2Proof.Machine.execPfxq c a b s
  | .pfxpub c a b => Sys2Proof.Machine.execPfxpub c a b s
  | .pfxatt c a b => Sys2Proof.Machine.execPfxatt c a b s
  | .kvresc c a b => Sys2Proof.Machine.execKvresc c a b s
  | .rope c d a b => Sys2Proof.Machine.execRope c d a b s
  | .sample c a b => Sys2Proof.Machine.execSample c a b s
  | .rng c a b => Sys2Proof.Machine.execRng c a b s
  | .rngf c a b => Sys2Proof.Machine.execRngf c a b s
  | .argmax c a b => Sys2Proof.Machine.execArgmax c a b s
  | .coll c a b => Sys2Proof.Machine.execColl c a b s
  | .collw c t p => Sys2Proof.Machine.execCollw c t p s
  | .rsig c a b => Sys2Proof.Machine.execRsig c a b s
  | .taskdec c a b => Sys2Proof.Machine.execTaskdec c a b s
  | .tasknew c a b => Sys2Proof.Machine.execTasknew c a b s
  | .taskq c a b => Sys2Proof.Machine.execTaskq c a b s
  | .tkrcv c a b => Sys2Proof.Machine.execTkrcv c a b s
  | .tkpost c a b => Sys2Proof.Machine.execTkpost c a b s
  | .ctxsv c a b => Sys2Proof.Machine.execCtxsv c a b s
  | .ctxld c a b => Sys2Proof.Machine.execCtxld c a b s
  | .tlbi c a b => Sys2Proof.Machine.execTlbi c a b s
  | .fltcan c a b => Sys2Proof.Machine.execFltcan c a b s
  | .fltrpl c a b => Sys2Proof.Machine.execFltrpl c a b s
  | .haltqNow c a p => Sys2Proof.Machine.execHaltqNow c a p s
  | .haltqQuiesce c a p => Sys2Proof.Machine.execHaltqQuiesce c a p s
  | .haltqRelease c a p => Sys2Proof.Machine.execHaltqRelease c a p s
  | .snaparm c a => Sys2Proof.Machine.execSnaparm c a s
  | .engineWrite core id => Sys2Proof.Machine.execEngineWrite core id s
  | .longLatencyLoad core id => Sys2Proof.Machine.execLongLatencyLoad core id s
  | .prefixDirectoryRequest r => Sys2Proof.Machine.execPrefixDirectoryRequest r s
  | .modelEnable model => Sys2Proof.Machine.execModelEnable model s

end Sys2Proof.Machine
end

