-- ==== Sys2Proof/Machine/Ready.lean ====
section
/-! DEFINITION. What holds a unit at issue besides its operands (R162, R164, R167, R229, R233, R239, R276, R377). -/

namespace Sys2Proof.Machine

/-- The lanes whose GUARD passes, as the registers stand now (R55). -/
def Group.guarded (g : Group) (ws : List Word) (u : UnitAt) (ls : List Nat) : List Nat :=
  match u.pre.find? fun i => prefixKind (ws.getD i 0) = 1 with
  | none => ls
  | some i =>
    let w := ws.getD i 0
    ls.filter fun l => g.rp l (fldNat w 0 3) = w.getLsbD 3

/-- A command that starts operations on a tag: the bank, the register of its completion target, and whether it
starts one for the unit or one for each lane (R30, R167, R348). -/
def startsOn : Instr → Option (Nat × BitVec 5 × Bool)
  | .cpy _ d _ _ _ _ => some (0, d, false)
  | .tile _ _ b | .unpk _ _ b | .pack _ _ b | .gath _ _ b | .scat _ _ b | .kvcp _ _ b => some (0, b, true)
  | .seqnew _ _ b | .seqfree _ _ b | .tfork _ _ b | .tapp _ _ b | .kvwr _ _ b | .tprune _ _ b | .tcommit _ _ b
  | .tqry _ _ b | .twalk _ _ b | .kvgath _ _ b | .tmask _ _ b | .pfxq _ _ b | .pfxpub _ _ b | .pfxatt _ _ b
  | .kvresc _ _ b => some (0, b, true)
  | .coll _ _ b => some (2, b, true)
  | _ => none

/-- An instruction on which regions cannot speculate, whatever its address (R233, R365). -/
def unspeculable : Instr → Bool
  | .patom .. | .rsig .. | .sample .. | .rng .. | .rngf .. | .argmax .. | .tkrcv .. | .tkpost .. => true
  | i => (startsOn i).isSome

/-- An access of a thread to memory that its earlier TAGSETs come before (R162). -/
def afterTagset (w : Word) : Instr → Bool
  | .poll .. | .tagget .. | .cpy .. => true
  | _ => [0x1E, 0x1F, 0x23, 0x24].contains (major w) || (decide (0x25 ≤ major w) && decide (major w ≤ 0x29))

/-- A queued TAGSET of a lane has not set its tags. -/
def Group.tagsetQueued (g : Group) (lane : Nat) : Bool :=
  g.sq.any fun u => u.op = .tagset && u.accs.any fun a => a.lane = lane && !a.done

/-- A tag has no room for n more operations (R167). -/
def Group.tagFull (g : Group) (bank t n : Nat) : Bool := decide (255 < (g.tag bank t).count + n)

/-- An MMA waits for its tag and for a place of the matrix queue, which products of an earlier unit may still await
(R276, R280). -/
def State.mmaHeld (s : State) (core place : Nat) (g : Group) (off : Dword) (ls : List Nat) : Bool :=
  let k := s.core core
  k.mq.any (fun j => !j.entered) || decide (16 ≤ (k.mq.filter fun j => !j.started).length) ||
  (decide (off.toNat + 64 ≤ k.spadSize) &&
    ls.any fun l => g.tagFull 1 (blkNat (s.spadSeen core place l off.toNat 64) 26 1) ls.length)

/-- A FARB of lanes outside a region waits for a free slot, and for a pending PREEMPT_REQ of its group (R229,
R239). -/
def State.farbHeld (s : State) (core place : Nat) (ls : List Nat) (die : Bool) : Bool :=
  let g := s.group core place
  !ls.isEmpty && !(s.launchOf core place).hdr.det && !ls.any (fun l => (g.thread l).inRegion) &&
  (g.lanes.any (fun t => t.2.live && t.2.preempt) ||
    (leastFree (s.inst (instOf core die)).regions.keys 0 (slotCount die)).isNone)

/-- What holds a SYS member: the workgroup that it saves or restores, or transactions of the pages (R331, R332,
R377). -/
def State.sysHeld (s : State) (g : Group) (i : Instr) : Bool :=
  match i with
  | .ctxsv _ a b =>
    match s.wgOperand (g.rs b.toNat) with
    | some w => s.imageAddr (g.rs a.toNat) && w != g.wg && !s.wgQuiet w
    | none => false
  | .ctxld _ a _ =>
    match s.imageAt (g.rs a.toNat).toNat with
    | some (_, i) => (s.task i.task).phase = 3 && !(s.launch i.task).stopped && !s.wgDrained i.wg
    | none => false
  | .tlbi _ a b => tlbiWell (g.rs a.toNat) (g.rs b.toNat) && s.tlbiBusy (g.rs a.toNat) (g.rs b.toNat)
  | _ => false

/-- A unit's instruction is held at issue for the lanes that execute it. -/
def State.held (s : State) (core place : Nat) (ls : List Nat) (w : Word) (i : Instr) : Bool :=
  let g := s.group core place
  (afterTagset w i && ls.any g.tagsetQueued) ||
  (match startsOn i with
   | some (bank, r, each) =>
     let t := g.rs r.toNat
     !ls.isEmpty && targetWell t && g.tagFull bank (targetTag t) (if each then ls.length else 1)
   | none => false) ||
  (match i with
   | .mma _ a => !ls.isEmpty && s.mmaHeld core place g (g.rs a.toNat) ls
   | .farb _ _ sc => s.farbHeld core place ls (sc = 1#1)
   | .mfop _ => ls.any fun l => !s.fenceDone core place l s.nextId
   | i => !ls.isEmpty && !ls.any (fun l => (g.thread l).inRegion) && s.sysHeld g i)

/-- Lanes whose open region has to continue irrevocably before the unit's instruction (R233). -/
def State.mustAsk (s : State) (core place : Nat) (ls : List Nat) (i : Instr) : List Nat :=
  if unspeculable i then ls.filter fun l =>
    (s.thread core place l).inRegion && !(s.thread core place l).far.irrev
  else []

end Sys2Proof.Machine
end

