-- ==== Sys2Proof/Machine/Portion.lean ====
section
/-! DEFINITION. What a thread would do if its portion were selected now (R25 to R27), the convergence table of a
partition (R24), a partition's clock of issue (R20, R25, R26, R182), and what it knows of its groups at the end of a
clock (R22). -/

namespace Sys2Proof.Machine

/-! ## What a selected thread does -/

/-- What the selection of a thread's portion leads to. -/
inductive Plan where
  /-- nothing: the thread waits, or its unit does -/
  | none
  /-- the thread takes its PREEMPT_REQ (R329) -/
  | preempt
  /-- the thread takes a trap that it is owed (log 20) -/
  | trap
  /-- the line the thread stands in is fetched (R45) -/
  | fetch
  /-- the chain fails decode for these lanes (R63) -/
  | fault (lanes : List Nat) (ws : List Word) (f : Failing)
  /-- the regions of these lanes have to continue irrevocably first (R233) -/
  | ask (lanes : List Nat)
  /-- the chain issues for these lanes (R50) -/
  | chain (lanes : List Nat) (ws : List Word)
  deriving DecidableEq, Repr

/-- The words of the packet that a thread stands in, if its core holds the line. -/
def State.packetAt (s : State) (core place lane : Nat) : Option (List Word) :=
  let pc := (s.thread core place lane).pos.pc
  ((s.core core).codeLine (s.launchOf core place).asid (lineBase pc)).map fun ws => packetWords ws pc

/-- The lanes that stand with a thread at its unit and owe nothing else first. -/
def State.portion (s : State) (core place lane : Nat) : List Nat :=
  ((s.group core place).standing (s.thread core place lane).pos).filter fun l =>
    !(s.thread core place l).owesTrap && !s.preemptible core place l

/-- The registers that the scoreboard looks at for a chain (R25). -/
noncomputable def chainRegs (ws : List Word) (us : List UnitAt) : List Opnd :=
  us.flatMap fun u => u.reads ws ++ u.writes ws

/-- The lanes of a portion that may issue a chain that decodes: all of them when none waits, those that do not wait
when the others are late, and none otherwise (R25, R27). -/
noncomputable def State.issuable (s : State) (core place : Nat) (ls : List Nat) (ws : List Word)
    (us : List UnitAt) : List Nat :=
  let regs := chainRegs ws us
  let owes := ls.map fun l => (l, s.laneOwes core place l regs)
  if owes.any fun x => x.2 = some false then []
  else (owes.filter fun x => x.2.isNone).map Prod.fst

/-- The plan of a chain whose lanes have their operands. -/
noncomputable def State.planUnits (s : State) (core place : Nat) (ls : List Nat) (ws : List Word)
    (us : List UnitAt) : Plan :=
  let g := s.group core place
  let each := us.filterMap fun u => (u.instr ws).map fun i => (g.guarded ws u ls, ws.getD (u.at_.getD 0) 0, i)
  let asks := each.flatMap fun x => s.mustAsk core place x.1 x.2.2
  if !asks.isEmpty then .ask asks
  else if each.any fun x => s.held core place x.1 x.2.1 x.2.2 then .none
  else .chain ls ws

/-- Operands of a lane are not ready in this clock (R25, R111, log 9). -/
def State.isLate (s : State) (core place lane : Nat) : Bool := s.late.contains (core, place, lane)

/-- What a thread's portion would do (R22, R25, R27). -/
noncomputable def State.plan (s : State) (core place lane : Nat) : Plan :=
  let g := s.group core place
  let t := g.thread lane
  let la := s.launchOf core place
  if s.issueHeld core || !s.coreExists core || !g.present || !la.go || la.stopped || !t.live || s.saving core place then .none
  else if s.preemptible core place lane then .preempt
  else if !t.waits.isEmpty then .none
  else if t.owesTrap then .trap
  else match s.packetAt core place lane with
    | none => .fetch
    | some ws =>
      let us := unitsFrom ws [] t.pos.word (3 - t.pos.word)
      let ls := s.portion core place lane
      match s.chainFault ws la.hdr.vregs la.priv us with
      | some f => .fault ls ws f
      | none =>
        let ready := s.issuable core place ls ws us
        if ready.contains lane && !ls.any (s.isLate core place) then s.planUnits core place ready ws us else .none

/-! ## The convergence table (R24) -/

/-- An entry of a convergence table: a place in the code of an address space at which threads of the active set stand,
and for each home group, by its place, the mask of the lanes there. -/
structure ConvEntry where
  asid : BitVec 16
  pos : Pos
  homes : Tab Word
  deriving DecidableEq, Repr

/-- A thread is entered at its place. -/
def addHome (asid : BitVec 16) (pos : Pos) (place lane : Nat) : List ConvEntry → List ConvEntry
  | [] => [{ asid, pos, homes := [(place, BitVec.ofNat 32 (2 ^ lane))] }]
  | e :: es =>
    if e.asid = asid ∧ e.pos = pos then
      { e with homes := e.homes.set place (e.homes.get 0 place ||| BitVec.ofNat 32 (2 ^ lane)) } :: es
    else e :: addHome asid pos place lane es

/-- The convergence table of a partition: one entry for each place at which a live thread of an active group stands. -/
def State.convTable (s : State) (core part : Nat) : List ConvEntry :=
  (s.partPlaces core part true).foldl (fun es p =>
    (s.group core p).live.foldl (fun es l => addHome (s.launchOf core p).asid (s.thread core p l).pos p l es) es) []

/-! ## Issue groups (R26) -/

/-- The threads of one home group that are ready at an entry (R26, R27): since which clock, the index of their group,
and the words of their packet. -/
structure Portion where
  place : Nat
  index : Nat
  since : Nat
  lanes : List Nat
  words : List Word
  deriving DecidableEq, Repr

/-- The ready portion of a home group among the threads that stand at an entry. It has been ready since the clock in
which the last of its lanes became ready (log 9). -/
noncomputable def State.portionOf (s : State) (core place : Nat) (mask : Word) : Option Portion :=
  (maskLanes mask).findSome? fun l => match s.plan core place l with
    | .chain ls ws => some { place, index := (s.group core place).index, lanes := ls, words := ws
                             since := ls.foldl (fun n x => max n (s.thread core place x).since) 0 }
    | _ => none

/-- A unit that is group-scoped, or a ROPE, which is never merged either (R26, R30, R313). -/
def groupScoped (w : Word) : Bool :=
  (major w = 0 && fldNat w 18 7 = 4) || major w = 3 || (major w = 0x16 && [3, 4, 5, 11, 12].contains (fldNat w 0 4)) ||
  [0x17, 0x18, 0x2C, 0x2D, 0x2E, 0x2F, 0x30, 0x31].contains (major w)

/-- A uniform or a modulo register. -/
def Opnd.shared : Opnd → Bool
  | .s _ | .q _ => true
  | _ => false

/-- A write of a predicate is outstanding for a thread of an entry (R26). -/
def State.predOwed (s : State) (core : Nat) (e : ConvEntry) (n : Nat) : Bool :=
  e.homes.any fun h => (maskLanes h.2).any fun l => (s.owed core h.1 l).any fun o => o.1.contains (.p n)

/-- A chain whose issue is never merged (R26). -/
noncomputable def State.unmerged (s : State) (core : Nat) (e : ConvEntry) (p : Portion) : Bool :=
  let us := unitsFrom p.words [] e.pos.word (3 - e.pos.word)
  (s.launchOf core p.place).hdr.det || us.any fun u =>
    (u.reads p.words ++ u.writes p.words).any Opnd.shared || groupScoped (p.words.getD (u.at_.getD 0) 0) ||
    u.pre.any fun i => prefixKind (p.words.getD i 0) = 1 && s.predOwed core e (fldNat (p.words.getD i 0) 0 3)

/-- A portion is added whole if its lanes are disjoint from the lanes taken (R26). -/
def mergeInto (taken : List Portion) (p : Portion) : List Portion :=
  if taken.any fun q => p.lanes.any q.lanes.contains then taken else taken ++ [p]

/-- The issue group of an entry: the oldest portion whole, and, in ascending group order, the portions that can be added
(R26). Of two groups with one index the one of the lower place comes first (log 9). -/
noncomputable def State.issueGroup (s : State) (core : Nat) (e : ConvEntry) (ps : List Portion) : List Portion :=
  let order := sortBy Portion.index ps
  match sortBy Portion.since order with
  | [] => []
  | p :: _ => if s.unmerged core e p then [p] else (order.filter (· ≠ p)).foldl mergeInto [p]

/-! ## Selection (R20, R25, R182) -/

/-- An entry that could issue in a clock: its issue group, the sets of pipes that it may issue on, since when it has been
eligible, and whether it goes ahead of the others. -/
structure Candidate where
  entry : ConvEntry
  group : List Portion
  pipes : List (List Nat)
  since : Nat
  first : Bool
  deriving DecidableEq, Repr

/-- The threads that a candidate would issue. -/
def Candidate.threads (c : Candidate) : Nat := (c.group.map fun p => p.lanes.length).sum

/-- What a partition remembers of an entry. -/
def State.noteOf (s : State) (core part : Nat) (e : ConvEntry) : Option EntryNote :=
  ((s.core core).entries.get [] part).find? fun n => n.asid = e.asid && n.pos = e.pos

/-- The sets of pipes that a chain may issue on: those assigned to its members, or, for one member that has two, either
(R25, R50). -/
def pipeSets (ws : List Word) (us : List UnitAt) : List (List Nat) :=
  match us.map fun u => pipesOf (ws.getD (u.at_.getD 0) 0) with
  | [ps] => if ps.isEmpty then [[]] else ps.map fun p => [p]
  | ps => [assignPipes ps]

/-- A pipe of a partition is free in this clock (R182). -/
def State.pipeFree (s : State) (core part pipe : Nat) : Bool := decide ((s.core core).busy.get 0 (4 * part + pipe) ≤ s.clock)

/-- An entry as a candidate, if a portion of it is ready and pipes that it may issue on are free. -/
noncomputable def State.candidate (s : State) (core part : Nat) (e : ConvEntry) : Option Candidate :=
  let ps := e.homes.filterMap fun h => s.portionOf core h.1 h.2
  match s.issueGroup core e ps with
  | [] => none
  | p :: group =>
    let pipes := (pipeSets p.words (unitsFrom p.words [] e.pos.word (3 - e.pos.word))).filter fun x =>
      x.all (s.pipeFree core part)
    let note := s.noteOf core part e
    if pipes.isEmpty then none
    else some { entry := e, group := p :: group, pipes, since := (note.map EntryNote.since).getD s.clock,
                first := (note.map EntryNote.first).getD false }

/-- A candidate is preferred to another: the one that would issue more threads, then the one that has been eligible
longer (R25); the lower place in the code among equals (log 9). -/
def Candidate.before (a b : Candidate) : Bool :=
  if a.threads ≠ b.threads then decide (b.threads < a.threads)
  else if a.since ≠ b.since then decide (a.since < b.since)
  else decide (a.entry.pos.pc.toNat * 4 + a.entry.pos.word < b.entry.pos.pc.toNat * 4 + b.entry.pos.word)

/-- The preferred candidate. -/
def preferred : List Candidate → Option Candidate
  | [] => none
  | c :: cs => match preferred cs with
    | none => some c
    | some d => if d.before c then some d else some c

/-- Candidates selected beside others, with the pipes that each issues on: one for each pipe in turn, and then those
that need no pipe, while fewer than four are selected (R20, R25, log 9). -/
def chooseMore (cs : List Candidate) (acc : List (Candidate × List Nat)) : List (Candidate × List Nat) :=
  let piped := [0, 1, 2, 3].foldl (fun (acc : List (Candidate × List Nat)) p =>
    let taken := acc.flatMap Prod.snd
    let set (c : Candidate) : Option (List Nat) :=
      c.pipes.find? fun x => x.contains p && x.all fun y => !taken.contains y
    match preferred (cs.filter fun c => (set c).isSome && !acc.any fun a => a.1 = c) with
    | some c => if acc.length < 4 then acc ++ [(c, (set c).getD [])] else acc
    | none => acc) acc
  [0, 1, 2, 3].foldl (fun (acc : List (Candidate × List Nat)) _ =>
    match preferred (cs.filter fun c => c.pipes.contains [] && !acc.any fun a => a.1 = c) with
    | some c => if acc.length < 4 then acc ++ [(c, [])] else acc
    | none => acc) piped

/-- The candidates selected: those passed over on 64 clocks go ahead of every other for each of their pipes (R25). -/
def choose (cs : List Candidate) : List (Candidate × List Nat) :=
  chooseMore (cs.filter fun c => !c.first) (chooseMore (cs.filter Candidate.first) [])

/-- The clocks for which a unit of n executing threads occupies its pipe (R182, R313). -/
def occupancy (w : Word) (n : Nat) : Nat :=
  let f := fldNat w 0 4
  let half := max 1 ((n + 15) / 16)
  match major w with
  | 0x0D | 0x0E => if f = 5 then 4 else 1
  | 0x0F => if f = 2 ∨ f = 3 ∨ f = 7 then half else 1
  | 0x10 => if f = 5 then 16 else half
  | 0x12 =>
    let wide := w.getLsbD 4
    if f ≤ 2 then (if wide then 16 else 2) else if f ≤ 4 then 2 else if f ≤ 6 then 4
    else if f = 9 ∨ f = 11 then (if wide then half else 2) else 1
  | 0x13 => if f = 1 then half else 1
  | 0x14 => if [3, 7, 11].contains f || [3, 7, 11].contains (fldNat w 7 4) then 2 else 1
  | 0x2F => 4
  | _ => 1

/-- The pipes of the units of a selected chain become busy. -/
def State.occupy (s : State) (core part : Nat) (x : Candidate × List Nat) : State :=
  match x.1.group with
  | [] => s
  | p :: _ =>
    let us := unitsFrom p.words [] x.1.entry.pos.word (3 - x.1.entry.pos.word)
    us.foldl (fun s u =>
      let n := (x.1.group.map fun q => ((s.group core q.place).guarded q.words u q.lanes).length).sum
      let k := occupancy (p.words.getD (u.at_.getD 0) 0) n
      if k ≤ 1 then s else s.modCore core fun c => { c with busy := c.busy.set (4 * part + 1) (s.clock + k) }) s

/-- What a partition remembers of an entry after a clock: an entry passed over has one more such clock, and one that was
not eligible begins to be eligible later (R25, R36). -/
noncomputable def State.noteEntry (s : State) (core part : Nat) (cs : List Candidate) (out : List (Candidate × List Nat))
    (e : ConvEntry) : Option EntryNote :=
  let note := s.noteOf core part e
  if out.any fun x => x.1.entry = e then none
  else if cs.any fun c => c.entry = e then
    let n := note.getD { asid := e.asid, pos := e.pos, since := s.clock }
    some { n with missed := n.missed + 1 }
  else note.map fun n => { n with since := s.clock + 1 }

/-- The lanes of a group that a portion ready in this clock holds (R26, R27). -/
noncomputable def State.readyLanes (s : State) (core place : Nat) : List Nat :=
  (s.group core place).live.filter fun l => match s.plan core place l with
    | .chain ls _ => ls.contains l
    | _ => false

/-- The threads of some groups that are not ready to issue begin to be ready later (R26). The clock at which a thread
stopped at BRK stays. -/
def State.delay (s : State) (core : Nat) (ps : List (Nat × List Nat)) : State :=
  ps.foldl (fun s x => s.modGroup core x.1 fun g =>
    { g with lanes := g.lanes.mapVals fun l t =>
        if t.live && !x.2.contains l && decide (t.since ≤ s.clock) && !t.waits.any (fun w => w.kind = .brk) then
          { t with since := s.clock + 1 } else t }) s

/-- The chains of an issue group, one for each portion. -/
def State.chainsOf (s : State) (core : Nat) (pos : Pos) : List Portion → List Cur
  | [] => []
  | p :: ps => { s.chainOf core p.place p.lanes pos p.words with more := !ps.isEmpty } :: s.chainsOf core pos ps

/-- A chain with an SCMP. -/
def Cur.compares (c : Cur) : Bool := (List.range 3).any fun i =>
  c.next ≤ i && i ≤ c.last && major (c.words.getD i 0) = 0x1C && !isPrefix (c.words.getD i 0)

/-- A clock of issue of a partition: the chains that issue, in the order of their pipes, and the partition after it. One
with an SCMP runs first, so that a predicate that a thread writes itself in this clock remains (R146). -/
noncomputable def State.issueClock (s : State) (core part : Nat) : State × List Cur :=
  let es := s.convTable core part
  let cs := es.filterMap (s.candidate core part)
  let out := choose cs
  let ready := (s.partPlaces core part true ++ s.partPlaces core part false).map fun p => (p, s.readyLanes core p)
  let curs := out.flatMap fun x => s.chainsOf core x.1.entry.pos x.1.group
  let t := (out.foldl (fun s x => s.occupy core part x) s).delay core ready
  let t := curs.foldl (fun t c => t.modGroup core c.place fun g => { g with lastIssue := s.clock }) t
  let notes := es.filterMap (s.noteEntry core part cs out)
  (t.modCore core fun k => { k with
    entries := if notes.isEmpty then k.entries.erase part else k.entries.set part notes },
    curs.filter Cur.compares ++ curs.filter fun c => !c.compares)

/-! ## What is known at the end of a clock (R22) -/

/-- A thread may issue, or would but for the pipe. -/
noncomputable def State.eligible (s : State) (core place lane : Nat) : Bool := s.plan core place lane ≠ .none

/-- A group is ready: a thread of it is eligible (R22). -/
noncomputable def State.groupReady (s : State) (core place : Nat) : Bool :=
  (s.group core place).live.any fun l => s.eligible core place l

/-- A wait that counts as a long-latency dependence, but for LDFE (R22, R256, R280, R351). -/
def Wait.long : Wait → Bool
  | .poll _ _ _ | .barrier _ | .step | .waitm _ | .fetch _ | .mwait _ _ | .collw _ _ => true
  | _ => false

/-- A thread waits on a long-latency dependence; in LDFE, on a granule that is empty (R22). -/
def State.waitsLong (s : State) (core : Nat) (t : Thread) : Bool :=
  t.waits.any fun w => match w.kind with
    | .ldfe a => (granules a.ea.toNat a.size).any fun n => !(s.core core).full.contains n
    | k => k.long

/-- A thread is blocked on a long-latency dependence: it waits at such a place, or its next chain needs a register
that is late or whose access is parked (R22, R256). -/
noncomputable def State.longBlocked (s : State) (core place lane : Nat) : Bool :=
  let t := s.thread core place lane
  if !t.waits.isEmpty then s.waitsLong core t
  else match s.packetAt core place lane with
    | none => false
    | some ws =>
      let regs := chainRegs ws (unitsFrom ws [] t.pos.word (3 - t.pos.word))
      (s.owed core place lane).any fun o => (o.2.1 || o.2.2) && o.1.any regs.contains

/-- A queued access waits for a collapse of its page (R254). -/
def State.collapses (s : State) (core : Nat) (u : SqUnit) (a : SqAcc) : Bool :=
  s.collapse.contains (pageKey (spaceOf u.asid a.ea) (bitsNat a.ea 56 0), dieOf core)

/-- A thread of a group is parked on a translation fault: it waits for a page or for a collapse, or an access of it does
(R36, R255). -/
def State.faultParked (s : State) (core place : Nat) : Bool :=
  let g := s.group core place
  (g.live.any fun l => (g.thread l).waits.any fun w => match w.kind with
    | .fetch _ => true
    | .poll a _ _ => a.park.isSome
    | _ => false) ||
  (s.core core).loads.any (fun r => r.place = place && r.park.isSome) ||
  g.sq.any fun u => u.accs.any fun a => !a.done && (a.park.isSome || s.collapses core u a)

/-- A thread is eligible to issue: its portion is ready, and pipes that its chain may issue on are free (R25). -/
noncomputable def State.eligibleNow (s : State) (core place lane : Nat) : Bool :=
  match s.plan core place lane with
  | .none => false
  | .chain _ ws =>
    let w := (s.thread core place lane).pos.word
    (pipeSets ws (unitsFrom ws [] w (3 - w))).any fun x => x.all (s.pipeFree core (place / 24))
  | _ => true

/-- No live thread of a group is eligible to issue, and one is blocked on a long-latency dependence (R22). -/
noncomputable def State.groupBlocked (s : State) (core place : Nat) : Bool :=
  let ls := (s.group core place).live
  (ls.all fun l => !s.eligibleNow core place l) && ls.any fun l => s.longBlocked core place l

/-- Whether a group is blocked as a clock begins, before any unit issues (R22). -/
noncomputable def State.noteBlocked (s : State) (core place : Nat) : State :=
  let blocked := s.groupBlocked core place
  s.modGroup core place fun g => { g with blocked }

/-- What is known of a group at the end of a clock: it is ready, or has been parked throughout the clock (R22). A pending
group that is not ready has waited no clock, unless a thread of it is parked on a fault (R23, R36). -/
noncomputable def State.noteGroup (s : State) (core place : Nat) : State :=
  let ready := s.groupReady core place
  let parked := (s.group core place).blocked && s.groupBlocked core place
  let keep := ready || s.faultParked core place
  s.modGroup core place fun g => { g with ready, parked, waited := if keep && !g.active then g.waited else 0 }

/-- What is found out of each group of a partition. The groups are looked at when one of them is pending; while the core
is held nothing changes (R36). -/
noncomputable def State.overPart (s : State) (core part : Nat) (f : State → Nat → State) : State :=
  let pending := s.partPlaces core part false
  if pending.isEmpty || s.issueHeld core then s
  else (pending ++ s.partPlaces core part true).foldl f s

/-- The partitions of a core that hold a group. -/
def Core.parts (k : Core) : List Nat :=
  (List.range 8).filter fun p => (List.range 24).any fun i => (k.groups.get {} (24 * p + i)).present

/-- Every partition that holds a group, with its core. -/
def State.parts (s : State) : List (Nat × Nat) :=
  s.cores.keys.eraseDups.flatMap fun c => (s.core c).parts.map fun p => (c, p)

/-- Every partition that holds a group. -/
noncomputable def State.overParts (s : State) (f : State → Nat → Nat → State) : State :=
  s.parts.foldl (fun s x => f s x.1 x.2) s

/-- What is known of every group as a clock begins (R22). -/
noncomputable def State.beginParts (s : State) : State :=
  s.overParts fun s core part => s.overPart core part fun s p => s.noteBlocked core p

/-- What is known of every group at the end of a clock (R22). -/
noncomputable def State.noteParts (s : State) : State :=
  s.overParts fun s core part => s.overPart core part fun s p => s.noteGroup core p

end Sys2Proof.Machine
end

