-- ==== Sys2Proof/Machine/Turn.lean ====
section
/-! DEFINITION. One turn of the machine: a word of the chain in hand, the next chain of a clock, an event, or a clock in
which every partition issues; and what moves when the list of turns is empty (log 3). -/

namespace Sys2Proof.Machine

/-! ## A word of the chain in hand (R50, R63) -/

/-- Lanes of E that read a marked register trap, and so do those that read a poisoned one; they leave the unit out
(R242, R371). -/
def State.barring (s : State) (i : Instr) : State :=
  let regs := i.reads s.cur.pfx.ximm.isSome
  let marked (l : Nat) : Bool := (s.cur.rd.thread l).marks.any fun n => regs.contains (.v n)
  let shared := s.cur.rd.poison.any fun n => regs.contains (.s n)
  let spoilt (l : Nat) : Bool := shared || (s.cur.rd.thread l).poison.any fun n => regs.contains (.v n)
  let ms := s.E.filter marked
  let ps := s.E.filter fun l => !marked l && spoilt l
  let s := ms.foldl (fun s l => s.raise l Cause.detViolation 0) s
  let s := ps.foldl (fun s l => s.raise l Cause.fatalMemory 0) s
  { s with cur := { s.cur with barred := s.cur.barred ++ ms ++ ps } }

/-- The cause of a word that is no instruction (R63). -/
def rejectCause : Reject → Nat
  | .illegalPrefix => Cause.illegalPrefix
  | .reservedOpcode => Cause.reservedOpcode
  | .illegalEncoding _ | .haltqMode _ => Cause.illegalEncoding

/-- The next word of the chain in hand runs. A word that does not decode ends the chain with its trap; a chain that
has been checked holds none but HALTQ with F[1:0] = 3, which raises FORMAT (R63, R377). -/
noncomputable def State.runWord (s : State) : Out :=
  let w := s.curWord
  match decode w with
  | .ok i => exec i (s.barring i)
  | .error (.haltqMode _) => endUnit (chainBit w) (s.sys fun _ => none)
  | .error r =>
    endUnit false (s.each fun s l => s.raise l (rejectCause r) (s.cur.pc + BitVec.ofNat 64 (4 * s.cur.next)))

/-! ## Issue (R20, R25 to R27) -/

/-- A thread that owes something else first does what its plan says. -/
noncomputable def State.carryOut (s : State) (core place lane : Nat) : State :=
  let t := s.thread core place lane
  match s.plan core place lane with
  | .preempt => s.takePreempt core place lane
  | .trap => (s.takePending core place lane).settle core place
  | .fetch => s.fetchCode core (s.launchOf core place).asid (lineBase t.pos.pc)
  | .fault ls ws f => (s.decodeTrap core place ls t.pos ws f).settle core place
  | .ask ls => ls.foldl (fun s l => s.askIrrevocable core place l) s
  | .none | .chain _ _ => s

/-- The threads of the active groups that owe something else before their next chain. -/
noncomputable def State.owing (s : State) : List (Nat × Nat × Nat) :=
  s.parts.flatMap fun x => (s.partPlaces x.1 x.2 true).flatMap fun p =>
    ((s.group x.1 p).live.filter fun l => match s.plan x.1 p l with
      | .none | .chain _ _ => false
      | _ => true).map fun l => (x.1, p, l)

/-- Each thread that owed something as the clock began (in s) does it, unless it was done with another's (R45, R52, R63). -/
noncomputable def State.carryAll (s t : State) : State :=
  s.owing.foldl (fun t x =>
    let a := s.thread x.1 x.2.1 x.2.2
    let b := t.thread x.1 x.2.1 x.2.2
    if b.pos = a.pos && b.handler = a.handler && t.plan x.1 x.2.1 x.2.2 = s.plan x.1 x.2.1 x.2.2
    then t.carryOut x.1 x.2.1 x.2.2 else t) t

/-- The chains that every partition selects in a clock, and what the partitions note (R20, R25). -/
noncomputable def State.selectAll (s : State) : State × List Cur :=
  s.parts.foldl (fun x p => match x.1.issueClock p.1 p.2 with
    | (s, cs) => (s, x.2 ++ cs)) (s, [])

/-- The chain in hand is this one; others have been selected with it. -/
def State.take (s : State) (c : Cur) (cs : List Cur) : State := { s with cur := c, due := cs }

/-- A chain selected in this clock still runs: its workgroup holds the place, and lanes of it are live. -/
def State.stillDue (s : State) (c : Cur) : Option Cur :=
  let g := s.group c.core c.place
  let ls := c.lanes.filter fun l => (g.thread l).live
  if g.present && g.wg = c.rd.wg && !ls.isEmpty then some { c with lanes := ls } else none

/-- A chain is not run; when it was the last of its issue group, the portions before it end (R26). -/
def State.drop (s : State) (c : Cur) (cs : List Cur) : State :=
  if c.more then { s with due := cs }
  else match s.merged with
    | [] => { s with due := cs }
    | d :: ds => ({ s with due := cs, merged := [] } : State).commitGroup (d :: ds)

/-- The chains selected in a clock run one after another, each with the registers of that clock (R50, R116): the next of
them begins. -/
noncomputable def State.begin (s : State) : List Cur → Out
  | [] => .next s
  | c :: cs => match s.stillDue c with
    | some c => (s.take c cs).runWord
    | none => .next (s.drop c cs)

/-- Every partition issues: the chains are selected and what threads owe is done, both as the clock begins, and then the
first of the chains begins (R20, R25). -/
noncomputable def State.issueAll (s : State) : Out :=
  let s := s.beginParts
  let x := s.selectAll
  ({ s.carryAll x.1 with due := x.2 } : State).begin x.2

/-! ## Time -/

/-- The ready groups outside the active set of a core that runs wait for these clocks too (R22, R36). -/
def Core.wait (k : Core) (clocks : Nat) : Core :=
  if k.halted || k.groups.all (fun g => !g.2.ready || g.2.active) then k
  else { k with groups := k.groups.mapVals fun _ g => if g.ready && !g.active then { g with waited := g.waited + clocks } else g }

/-- A femtosecond in parts, of which every core clock rate that Jetos sets makes a whole number a clock (R378). -/
def fsParts : Nat := 75 * 2329089562800

/-- Every class whose window has passed a boundary starts again, a load that has been outstanding for 400 clocks is a long
one, and a quiesce wait ends as soon as nothing is on its way to its core, or runs out (R27, R90, R262). -/
def State.mark (s : State) : State :=
  s.cores.foldl (fun s k =>
    let s := (List.range 8).foldl (fun s c => s.restartWindow k.1 c) s
    let s := k.2.loads.foldl (fun s r => if !r.long && decide (r.issued + 400 ≤ s.clock) then s.longLoad k.1 r.id else s) s
    (s.haltDone k.1).haltExpired k.1) s

/-- Time passes, in core clocks; the time counter keeps its 1 GHz (R140, R378). -/
def State.pass (s : State) (clocks : Nat) : State :=
  let parts := s.timeParts + clocks * (1000000000 * fsParts / s.mhz)
  ({ s with clock := s.clock + clocks, timeFs := s.timeFs + parts / fsParts, timeParts := parts % fsParts, late := []
            cores := s.cores.mapVals fun _ k => k.wait clocks } : State).mark

/-- The running time of launches is kept: a launch runs while its workgroups may issue and one of them runs (R328). -/
def State.keepTime (s : State) : State :=
  let keep (t : Nat) (l : Launch) : Launch :=
    if (s.task t).phase ≠ 3 then l
    else if l.go && s.wgs.any fun w => w.2.task = t && w.2.st = .running then { l with started := l.started.or (some s.timeNs) }
    else match l.started with
      | some since => { l with ran := l.ran + (s.timeNs - since), started := none }
      | none => l
  { s with launches := s.launches.mapVals keep }

/-- The 40 µs of a pre-emption count from the end of the open regions of its workgroup (R239, R331). -/
def State.keepPreempt (s : State) : State :=
  let keep (w : Nat) (x : Wg) : Wg :=
    if x.preempt.isSome && !s.wgClosed w then { x with preempt := some s.timeNs } else x
  { s with wgs := s.wgs.mapVals keep }

/-- The exchanges of a partition at the end of a clock, and the entries that are to go ahead of every other (R22, R23,
R25). -/
def State.exchanges (s : State) (core part : Nat) : State :=
  ((s.exchange core part).forceExchange core part).prefer core part

/-- The end of a clock: what is known of groups and launches then, and the exchanges it leads to. -/
noncomputable def State.endClock (s : State) : State := s.keepPreempt.keepTime.noteParts.overParts State.exchanges

/-! ## What moves by itself -/

/-- Events of a thread that waits or stands in a region. -/
def threadEvents (core place lane : Nat) (t : Thread) : List Instr :=
  let waits := t.waits.flatMap fun w => match w.kind with
    | .yield _ => [Instr.yieldExpiry core place lane]
    | .ldfe _ => [.loadDataArrival core (ldfeName place lane)]
    | .poll _ _ _ => [.pollReread core place lane]
    | .landing => [.abortTargetResume core place lane]
    | .irrevocable => [.regionIrrevocable core place lane]
    | _ => []
  waits ++ (if t.preempt then [.preemptReq core place lane] else []) ++
  (if t.inRegion then [.regionCommit core place lane, .regionWatchdog core place lane] else []) ++
  (if t.pending.isEmpty then [] else [.numericThresholdTrap core place lane])

/-- Events of a group of a core. -/
def groupEvents (core place : Nat) (g : Group) : List Instr :=
  (match g.sq with
   | [] => []
   | u :: _ => match u.op with
     | .patom _ => [Instr.hacRoutine core place, .storeQueueDrain core place]
     | _ => [.storeQueueDrain core place]) ++
  (if g.present then g.live.flatMap fun l => threadEvents core place l (g.thread l) else [])

/-- Events of a core. -/
noncomputable def coreEvents (core : Nat) (k : Core) : List Instr :=
  k.groups.flatMap (fun g => groupEvents core g.1 g.2) ++
  k.loads.map (fun r => Instr.loadDataArrival core r.id) ++
  (if k.mq.isEmpty then [] else [.mmaStart core, .mmaComplete core]) ++
  if k.haltQuiesce then [.haltQuiesceComplete core, .haltQuiesceTimeout core] else []

/-- The event of a directory message. -/
def Msg.event (m : Msg) : Instr :=
  let key : LineKey := { asid := m.asid, line := m.line }
  match m.kind with
  | .req .gets _ _ => .gets key m.core
  | .req .getx _ _ => .getx key m.core
  | .req .upg _ _ => .upg key m.core
  | .req .putm _ _ => .putm key m.core
  | .req .puto _ _ => .puto key m.core
  | .req .pute _ _ => .pute key m.core
  | .fwdGets _ => .fwdGets key m.core
  | .fwdGetx _ _ => .fwdGetx key m.core
  | .inv _ => .inv key m.core
  | .data _ _ _ => .data key m.core
  | .dataEx _ _ _ => .dataEx key m.core
  | .upgAck _ => .upgAck key m.core
  | .invAck => .invAck key m.core
  | .putAck false => .putAck key m.core
  | .putAck true => .putAckStale key m.core
  | .unblock _ _ => .unblock key m.core

/-- Events of an engine operation. -/
noncomputable def EngOp.events (o : EngOp) : List Instr :=
  match o.kind with
  | .tt _ => [.badgerCommandArrival o.id, .engineWrite o.core o.id, .ttComplete o.id]
  | .smpl _ _ => [.engineWrite o.core o.id, .smplComplete o.core o.id]
  | .pgreq => [.pgreqComplete o.id]
  | .coll => [.collComplete (blkNat o.blk 2 2) []]
  | _ => [.engineWrite o.core o.id, .copyComplete o.core o.id]

/-- The setting that the scheduler applies to an idle core for a launch whose next workgroup fits on no core as the
cores stand (R107, R324, log 32). -/
def State.carveEvents (s : State) (t : Nat) (x : HtsTask) : List Instr :=
  let l := s.launch t
  let imgs := s.savedImages t
  let waits := !l.stopped && (x.phase = 2 && s.heads t || x.phase = 3 && (decide (l.nextWg < l.startable) || !imgs.isEmpty))
  let may (c : Nat) : Bool :=
    s.reserveAllows c t && (if x.phase = 3 && imgs.isEmpty then l.mayRunOn l.nextWg (dieOf c) else s.mayUse t c) &&
    (!l.hdr.det || !imgs.isEmpty || s.waveMay t c l.nextWg)
  let cores := List.range s.coreCount
  if !waits || cores.any (fun c => (s.anySpot c t 0 []).isSome && may c) then []
  else match cores.find? fun c => (s.core c).carve ≠ l.hdr.scratch && (s.coreWgs c []).isEmpty && may c with
    | some c => [.carveoutApply c l.hdr.scratch]
    | none => []

/-- Events of a task: in its record, at its header, of its launch and of its waves (R319 to R335). -/
def State.taskEvents (s : State) (t : Nat) (x : HtsTask) : List Instr :=
  let cores := List.range s.coreCount
  let ws := s.wgs.filter fun w => w.2.task = t
  [Instr.agingTick t, .launchHeaderCheck t, .taskCompletion t] ++
  (if x.phase = 3 then
    [Instr.launchEnd t, .launchWatchdog t, .diesetChange t true, .diesetChange t false, .dflushComplete t] ++
    ws.flatMap (fun w => (if w.2.preempt.isSome then [Instr.forcedSave t w.1] else []) ++
      (if (s.launch t).hdr.det then [.segmentStart t w.2.wave, .segmentWatchdog t w.2.wave] else [])) ++
    (if s.images.any fun i => i.2.task = t && !i.2.manual then cores.map fun c => .contextRestore t c else [])
   else []) ++
  (if x.phase = 2 ∨ x.phase = 3 then
    cores.flatMap (fun c => (List.range 8).map fun b => Instr.workgroupDispatch t c b) ++ s.carveEvents t x ++
    (if x.phase = 2 then cores.map fun c => .preemptDecision t c else [])
   else [])

/-- Events of a text port. -/
def portEvents (port : Nat) (p : Port) : List Instr :=
  [Instr.tkeRecord port, .dkePost port] ++ p.sessions.map fun y => .dkeChunkTimeout port y.1

/-- The events that need nothing from outside the module, as far as they may be due. -/
noncomputable def State.ownEvents (s : State) : List Instr :=
  s.msgs.map Msg.event ++
  s.cores.flatMap (fun k => coreEvents k.1 k.2) ++
  s.ops.flatMap EngOp.events ++
  s.decs.map (fun d => Instr.taskDecrement d.task d.amount d.err) ++
  (match s.packets with
   | p :: _ => [Instr.packetForward p]
   | [] => []) ++
  s.collapse.map (fun x => Instr.replicaCollapse (BitVec.ofNat 16 (x.1 / 2 ^ 41)) (BitVec.ofNat 41 (x.1 % 2 ^ 41)) x.2) ++
  (s.gatherers.filter fun g => g.2.opened.isSome).map (fun g => Instr.faultWindowClose g.1) ++
  s.remotes.map (fun r => Instr.remoteTimeout r.1) ++
  s.remoteIn.map (fun r => if r.2.park = 0 then Instr.remoteRequest r.2.msg else .keepWaitingNotice r.1) ++
  s.ports.flatMap (fun p => portEvents p.1 p.2) ++
  (if s.journal.incoming.isEmpty then [] else [.journalAppend]) ++
  (s.pages.filter fun p => p.2.refs = 0).map (fun p => Instr.pageFree (p.1 / 2 ^ 24) (p.1 % 2 ^ 24)) ++
  s.tasks.flatMap fun t => s.taskEvents t.1 t.2

/-- The state of an answer, when there is one. -/
def Out.state? : Out → Option State
  | .next s => some s
  | _ => none

/-- An event changes the state. -/
noncomputable def State.moves (s : State) (e : Instr) : Bool :=
  match Out.state? (exec e s) with
  | some s' => decide (s' ≠ s)
  | none => true

/-- The event that happens in a clock when the list of turns is empty: the first that changes the state, beginning with
another one each clock (log 3). -/
noncomputable def State.ownEvent (s : State) : Option Instr :=
  let es := s.ownEvents
  (es.drop (s.clock % max 1 es.length) ++ es.take (s.clock % max 1 es.length)).find? s.moves

/-! ## The turn -/

/-- The clock ends, and the next begins. -/
noncomputable def State.nextClock (s : State) : State := s.endClock.pass 1

/-- A group is on some core, or a core is in a quiesce wait. -/
def State.anyPresent (s : State) : Bool := s.cores.any fun k => k.2.quiescing || k.2.groups.any fun g => g.2.present

/-- A turn. Several clocks pass one by one while a group is on some core (log 3). -/
noncomputable def State.turn (s : State) : Turn → Out
  | .clock late => ({ s.nextClock with late } : State).issueAll
  | .event e => exec e s
  | .tick 0 => .next s
  | .tick (n + 1) =>
    if s.anyPresent then (if n = 0 then s else { s with sched := .tick n :: s.sched }).nextClock.issueAll
    else .next (s.endClock.pass (n + 1))

/-- The turn when none is given: a clock, with an event of the module's own in it (log 3). -/
noncomputable def State.freeTurn (s : State) : Out :=
  let s := s.nextClock
  match s.ownEvent with
  | none => s.issueAll
  | some e => match exec e s with
    | .next s => s.issueAll
    | o => o

/-- What a step does when no chain is in hand: the next chain of the clock, or the next turn. -/
noncomputable def State.idleStep (s : State) : Out :=
  match s.due, s.sched with
  | [], t :: ts => ({ s with sched := ts } : State).turn t
  | [], [] => s.freeTurn
  | cs, _ => s.begin cs

/-- A step: without power only a reset may be next (R369, R373). -/
noncomputable def State.next (s : State) : Out :=
  if s.boot = .off then
    match s.sched with
    | .event .reset :: ts => exec .reset { s with sched := ts }
    | _ => .fault .poweredOff
  else if s.cur.active then s.runWord
  else s.idleStep

end Sys2Proof.Machine
end

