-- ==== Sys2Proof/Machine/Step.lean ====
section
/-! DEFINITION. The step of the machine, and a state in which the next step runs a given instruction word. -/

namespace Sys2Proof.Machine

/-- One step: a word of the chain in hand, or the next turn. -/
noncomputable def step (s : State) : Host.Outcome State Fault Refusal := s.next

/-- Where the word stands: the code base of the launch that runs it. -/
def fetchBase : Dword := 0x10000

/-- A header of a privileged cooperative launch with 128 vector and 32 uniform registers, 64 slots, 32 tiles, and both
handlers (R326). -/
def fetchHeader : Header :=
  let at_ (i : Nat) : Byte :=
    if i = 6 then 1 else if i = 10 then 1 else if i = 21 then 0x10 else if i = 25 then 0x20
    else if i = 32 then 5 else if [40, 44, 48, 52, 56, 60].contains i then 1
    else if i = 62 then 128 else if i = 63 then 32 else if i = 65 then 64 else if i = 66 then 32
    else if i = 68 then 5 else 0
  { bytes := (List.range 128).map at_ }

/-- A prefix word needs an instruction after it that accepts it; any other word is followed by NOPs (R56). -/
def fetchNext (w : Nat) : Word :=
  let w := BitVec.ofNat 32 w
  if !isPrefix w then 0
  else match prefixKind w with
    | 0 | 5 => 0x08000000
    | 2 | 3 => 0x3C000000
    | 4 => 0x1A000000
    | _ => 0

/-- The line that holds the word, as a core keeps it (R42). -/
def fetchLine (asid : BitVec 16) (w : Nat) : CodeLine :=
  { asid, va := fetchBase,
    words := [BitVec.ofNat 32 w, fetchNext w] ++ List.replicate 13 0 ++ [trailer []] }

/-- The state with one thread that runs, and whose next word is the one given: the load of a program by a host and
the launch of its task, in one (log 19). -/
def State.withFetchWord (s : State) (nbits w : Nat) : State :=
  let line := fetchLine 1 (w % 2 ^ nbits)
  let t : Thread := { present := true, pos := { pc := fetchBase, word := 0 }, since := s.clock }
  let g : Group := { present := true, active := true, lanes := [(0, t)] }
  let k : Core := { code := [line], groups := [(0, g)] }
  { s with
    boot := .running
    cur := {}
    due := []
    merged := []
    late := []
    sched := .clock [] :: s.sched
    cores := (s.cores.set 0 k).mapVals fun _ k => k.markWindows s.clock
    tasks := s.tasks.set 0 { phase := 3 }
    launches := s.launches.set 0 { hdr := fetchHeader, asid := 1, priv := true, go := true, nextWg := 1, started := some s.timeNs }
    wgs := s.wgs.set 0 { groups := 1, places := [0] } }

end Sys2Proof.Machine
end

