-- ==== Sys2Proof/Safety.lean ====
section
/-! DEFINITION. What the claims call a sound state and a safe step, and the terms in which they say how an
instruction ends and what it leaves alone. -/

namespace Sys2Proof.Machine

/-- Physical memory is in its canonical form. -/
def State.sound (s : State) : Bool := Memory.wf s.mem

/-- A step answers a next state: the machine has power. -/
def State.safeStep (s : State) : Prop := ∃ t, step s = .next t

/-! ## How an instruction ends (R39, R40, R49) -/

/-- The state after an instruction word whose effect has left `u`: with C = 1 the chain in hand goes on with the next
word, without the prefixes of this one; else the chain ends. -/
def afterUnit (c : Bool) (u : State) : State :=
  if c = true ∧ u.cur.active = true ∧ u.cur.next < 2 then
    { u with cur := { u.cur with next := u.cur.next + 1, pfx := {}, barred := [] } }
  else u.commit

/-! ## What stays (the frames) -/

/-- Everything outside the group of the chain is as before: memory, the other cores, all of this core but its groups,
its other groups, and every register of the blocks around the cores. -/
structure OutsideHere (s u : State) : Prop where
  rest : { u with cores := [] } = { s with cores := [] }
  cores : ∀ c, c ≠ s.cur.core → u.core c = s.core c
  core : { u.core s.cur.core with groups := [] } = { s.core s.cur.core with groups := [] }
  groups : ∀ p, p ≠ s.cur.place → u.group s.cur.core p = s.group s.cur.core p
  memory : ∀ a, Memory.read u.mem a = Memory.read s.mem a

/-- Only the vector registers `ds` of the lanes `ls` of the chain's group may differ; what is written is neither marked
nor poisoned any more (R242, R371). -/
structure OnlyV (s u : State) (ls ds : List Nat) : Prop where
  outside : OutsideHere s u
  group : { u.here with lanes := [] } = { s.here with lanes := [] }
  others : ∀ l, l ∉ ls → u.here.thread l = s.here.thread l
  thread : ∀ l, { u.here.thread l with v := [], marks := [], poison := [] } =
    { s.here.thread l with v := [], marks := [], poison := [] }
  regs : ∀ l n, n ∉ ds → u.here.rv l n = s.here.rv l n
  marks : ∀ l n, n ∈ (u.here.thread l).marks ↔ n ∈ (s.here.thread l).marks ∧ ¬ (l ∈ ls ∧ n ∈ ds)
  poison : ∀ l n, n ∈ (u.here.thread l).poison ↔ n ∈ (s.here.thread l).poison ∧ ¬ (l ∈ ls ∧ n ∈ ds)

/-- Only the predicates `ds` of the lanes `ls` of the chain's group may differ. -/
structure OnlyP (s u : State) (ls ds : List Nat) : Prop where
  outside : OutsideHere s u
  group : { u.here with lanes := [] } = { s.here with lanes := [] }
  others : ∀ l, l ∉ ls → u.here.thread l = s.here.thread l
  thread : ∀ l, { u.here.thread l with p := 0 } = { s.here.thread l with p := 0 }
  preds : ∀ l n, n ∉ ds → u.here.rp l n = s.here.rp l n

/-- Only the uniform register `d` of the chain's group may differ. -/
structure OnlyS (s u : State) (d : Nat) : Prop where
  outside : OutsideHere s u
  group : { u.here with s := [], poison := [] } = { s.here with s := [], poison := [] }
  regs : ∀ n, n ≠ d → u.here.rs n = s.here.rs n
  poison : ∀ n, n ≠ d → (n ∈ u.here.poison ↔ n ∈ s.here.poison)

/-- Only the effects that the chain has decided for its lanes may differ: nothing else changes before the chain
ends (R49). -/
def OnlyEffects (s u : State) (es : List (Nat × Effect)) : Prop :=
  u = { s with cur := { s.cur with effects := s.cur.effects ++ es } }

end Sys2Proof.Machine

namespace Sys2Proof.Claims

open Sys2Proof.Machine

/-! ## The shapes of the statements about registers -/


/-- Every executing thread x writes v(d): a value that `R` relates to the state, and the events `ev` are counted.
Nothing else changes before the unit ends (R112, R114). -/
def WritesV (i : Bool → Instr) (d : BitVec 7) (R : State → Nat → Word → Prop) (ev : State → Nat → List Ev) : Prop :=
  ∀ (s : State) (c : Bool), ∃ u : State,
    exec (i c) s = .next (afterUnit c (u.countUnit (s.E.map fun x => (x, ev s x)))) ∧
    (∀ x ∈ s.E, R s x (u.here.rv x d.toNat)) ∧ OnlyV s u s.E [d.toNat]

/-- Every executing thread x writes `f` to v(d), and no event is counted. -/
def SetsV (i : Bool → Instr) (d : BitVec 7) (f : State → Nat → Word) : Prop :=
  ∀ (s : State) (c : Bool), ∃ u : State,
    exec (i c) s = .next (afterUnit c u) ∧
    (∀ x ∈ s.E, u.here.rv x d.toNat = f s x) ∧ OnlyV s u s.E [d.toNat]

/-- Every executing thread x writes the first part of `f` to v(d) and counts the events of the second (R88). -/
def SetsVEv (i : Bool → Instr) (d : BitVec 7) (f : State → Nat → Word × List Ev) : Prop :=
  WritesV i d (fun s x w => w = (f s x).1) fun s x => (f s x).2

/-- Every executing thread x writes `f` to the pair v(d), low word in v(d). -/
def SetsPair (i : Bool → Instr) (d : BitVec 7) (f : State → Nat → Dword) : Prop :=
  ∀ (s : State) (c : Bool), ∃ u : State,
    exec (i c) s = .next (afterUnit c u) ∧
    (∀ x ∈ s.E, u.here.rv64 x d.toNat = f s x) ∧ OnlyV s u s.E [d.toNat, d.toNat + 1]

/-- The same with events. -/
def SetsPairEv (i : Bool → Instr) (d : BitVec 7) (f : State → Nat → Dword × List Ev) : Prop :=
  ∀ (s : State) (c : Bool), ∃ u : State,
    exec (i c) s = .next (afterUnit c (u.countUnit (s.E.map fun x => (x, (f s x).2)))) ∧
    (∀ x ∈ s.E, u.here.rv64 x d.toNat = (f s x).1) ∧ OnlyV s u s.E [d.toNat, d.toNat + 1]

/-- Every executing thread x writes `f` to p(d); p0 still reads as 1 (R114, R115). -/
def SetsP (i : Bool → Instr) (d : BitVec 3) (f : State → Nat → Bool) : Prop :=
  ∀ (s : State) (c : Bool), ∃ u : State,
    exec (i c) s = .next (afterUnit c u) ∧
    (∀ x ∈ s.E, u.here.rp x d.toNat = (decide (d = 0) || f s x)) ∧ OnlyP s u s.E [d.toNat]

/-- s(d) is written once for the unit: no effect without an executing thread, and a write of s0 is discarded
(R113, R114). -/
def SetsS (i : Bool → Instr) (d : BitVec 5) (f : State → Dword) : Prop :=
  ∀ (s : State) (c : Bool), ∃ u : State,
    exec (i c) s = .next (afterUnit c u) ∧
    u.here.rs d.toNat = (if s.E = [] ∨ d = 0 then s.here.rs d.toNat else f s) ∧ OnlyS s u d.toNat

/-- The same with events, counted once for the unit, for its first executing thread. -/
def SetsSEv (i : Bool → Instr) (d : BitVec 5) (f : State → Dword × List Ev) : Prop :=
  ∀ (s : State) (c : Bool), ∃ u : State,
    exec (i c) s = .next (afterUnit c (u.countUnit ((s.E.take 1).map fun x => (x, (f s).2)))) ∧
    u.here.rs d.toNat = (if s.E = [] ∨ d = 0 then s.here.rs d.toNat else (f s).1) ∧ OnlyS s u d.toNat

/-! ## Integer operations, on exact integers (R129 to R132, R144) -/

/-- The members that IALU, I64 and SALU share. -/
inductive IntFn where
  | add | sub | mul | mulhi | mulhiN | min | max | minN | maxN | and | or | xor | shl | shr | sar | rol
  deriving DecidableEq, Repr

/-- An exact result on n bits: clamped to a range under SAT, with one event if the clamp changes it; else wrapped
(R72, R117). -/
def fitTo (n : Nat) (sat : Bool) (lo hi r : Int) : BitVec n × List Ev :=
  if sat ∧ r < lo then (BitVec.ofInt n lo, [Ev.sat])
  else if sat ∧ hi < r then (BitVec.ofInt n hi, [Ev.sat])
  else (BitVec.ofInt n r, [])

/-- The signed range. -/
def fitS (n : Nat) (sat : Bool) (r : Int) : BitVec n × List Ev := fitTo n sat (-2 ^ (n - 1)) (2 ^ (n - 1) - 1) r

/-- The unsigned range. -/
def fitN (n : Nat) (sat : Bool) (r : Int) : BitVec n × List Ev := fitTo n sat 0 (2 ^ n - 1) r

/-- OP(a, b), with the events it counts. -/
def IntFn.run {n : Nat} (f : IntFn) (sat : Bool) (a b : BitVec n) : BitVec n × List Ev :=
  match f with
  | .add => fitS n sat (a.toInt + b.toInt)
  | .sub => fitS n sat (a.toInt - b.toInt)
  | .mul => fitS n sat (a.toInt * b.toInt)
  | .mulhi => (BitVec.ofInt n (a.toInt * b.toInt / 2 ^ n), [])
  | .mulhiN => (BitVec.ofNat n (a.toNat * b.toNat / 2 ^ n), [])
  | .min => (if a.toInt ≤ b.toInt then a else b, [])
  | .max => (if a.toInt ≤ b.toInt then b else a, [])
  | .minN => (if a.toNat ≤ b.toNat then a else b, [])
  | .maxN => (if a.toNat ≤ b.toNat then b else a, [])
  | .and => (a &&& b, [])
  | .or => (a ||| b, [])
  | .xor => (a ^^^ b, [])
  | .shl => (BitVec.ofNat n (if n ≤ b.toNat then 0 else a.toNat * 2 ^ b.toNat), [])
  | .shr => (BitVec.ofNat n (if n ≤ b.toNat then 0 else a.toNat / 2 ^ b.toNat), [])
  | .sar => (BitVec.ofInt n (if n ≤ b.toNat then (if a.toInt < 0 then -1 else 0) else a.toInt / 2 ^ b.toNat), [])
  | .rol => (BitVec.ofNat n (a.toNat * 2 ^ (b.toNat % n) + a.toNat / 2 ^ (n - b.toNat % n)), [])

/-- The members of IALU.vv. -/
def ialuVv : List ((Bool → BitVec 7 → BitVec 7 → BitVec 7 → Instr) × IntFn) :=
  [(.addVv, .add), (.subVv, .sub), (.mulVv, .mul), (.mulhiVv, .mulhi), (.mulhiNVv, .mulhiN), (.minVv, .min),
   (.maxVv, .max), (.minNVv, .minN), (.maxNVv, .maxN), (.andVv, .and), (.orVv, .or), (.xorVv, .xor),
   (.shlVv, .shl), (.shrVv, .shr), (.sarVv, .sar), (.rolVv, .rol)]

/-- The members of IALU.vs. -/
def ialuVs : List ((Bool → BitVec 7 → BitVec 7 → BitVec 5 → Instr) × IntFn) :=
  [(.addVs, .add), (.subVs, .sub), (.mulVs, .mul), (.mulhiVs, .mulhi), (.mulhiNVs, .mulhiN), (.minVs, .min),
   (.maxVs, .max), (.minNVs, .minN), (.maxNVs, .maxN), (.andVs, .and), (.orVs, .or), (.xorVs, .xor),
   (.shlVs, .shl), (.shrVs, .shr), (.sarVs, .sar), (.rolVs, .rol)]

/-- The members of IALU.vi. -/
def ialuVi : List ((Bool → BitVec 7 → BitVec 7 → BitVec 7 → Instr) × IntFn) :=
  [(.addVi, .add), (.subVi, .sub), (.mulVi, .mul), (.mulhiVi, .mulhi), (.mulhiNVi, .mulhiN), (.minVi, .min),
   (.maxVi, .max), (.minNVi, .minN), (.maxNVi, .maxN), (.andVi, .and), (.orVi, .or), (.xorVi, .xor),
   (.shlVi, .shl), (.shrVi, .shr), (.sarVi, .sar), (.rolVi, .rol)]

/-- The members of I64. -/
def i64 : List ((Bool → BitVec 7 → BitVec 7 → BitVec 7 → Instr) × IntFn) :=
  [(.addB64, .add), (.subB64, .sub), (.mulloB64, .mul), (.shlB64, .shl), (.shrB64, .shr), (.sarB64, .sar),
   (.minB64, .min), (.maxB64, .max), (.minNB64, .minN), (.maxNB64, .maxN), (.andB64, .and), (.orB64, .or),
   (.xorB64, .xor)]

/-- The members of SALU.ss and of SALU.si. -/
noncomputable def saluSs : List ((Bool → BitVec 5 → BitVec 5 → BitVec 7 → Instr) × IntFn) :=
  [(.addSs, .add), (.subSs, .sub), (.mulSs, .mul), (.mulhiSs, .mulhi), (.mulhiNSs, .mulhiN), (.minSs, .min),
   (.maxSs, .max), (.minNSs, .minN), (.maxNSs, .maxN), (.andSs, .and), (.orSs, .or), (.xorSs, .xor),
   (.shlSs, .shl), (.shrSs, .shr), (.sarSs, .sar), (.rolSs, .rol)]

noncomputable def saluSi : List ((Bool → BitVec 5 → BitVec 5 → BitVec 7 → Instr) × IntFn) :=
  [(.addSi, .add), (.subSi, .sub), (.mulSi, .mul), (.mulhiSi, .mulhi), (.mulhiNSi, .mulhiN), (.minSi, .min),
   (.maxSi, .max), (.minNSi, .minN), (.maxNSi, .maxN), (.andSi, .and), (.orSi, .or), (.xorSi, .xor),
   (.shlSi, .shl), (.shrSi, .shr), (.sarSi, .sar), (.rolSi, .rol)]

/-- The length of BFE's and BFI's field that exists in a word (R131). -/
def fieldLen (ctl : Word) : Nat := min (ctl.toNat / 2 ^ 8 % 2 ^ 8) (32 - min (ctl.toNat % 2 ^ 8) 32)

/-- What a member of IUN computes of a (R131), with d the destination and b the control word of BFE and BFI. -/
inductive UnFn where
  | neg | abs | not | popc | clz | brev | sext8 | sext16 | zext8 | zext16
  deriving DecidableEq, Repr

/-- The relation of the result to a. -/
def UnFn.holds (f : UnFn) (a w : Word) : Prop :=
  match f with
  | .neg => w = BitVec.ofInt 32 (-a.toInt)
  | .abs => w.toNat = a.toInt.natAbs
  | .not => ∀ i < 32, w.getLsbD i = !a.getLsbD i
  | .popc => w.toNat = ((List.range 32).filter fun i => a.getLsbD i).length
  | .clz => w.toNat ≤ 32 ∧ (∀ i < w.toNat, a.getLsbD (31 - i) = false) ∧
      (w.toNat < 32 → a.getLsbD (31 - w.toNat) = true)
  | .brev => ∀ i < 32, w.getLsbD i = a.getLsbD (31 - i)
  | .sext8 => w.toInt = (a.setWidth 8).toInt
  | .sext16 => w.toInt = (a.setWidth 16).toInt
  | .zext8 => w.toNat = a.toNat % 2 ^ 8
  | .zext16 => w.toNat = a.toNat % 2 ^ 16

/-- The members of IUN with one source. -/
def iun : List ((Bool → BitVec 7 → BitVec 7 → Instr) × UnFn) :=
  [(.negI, .neg), (.absI, .abs), (.notB, .not), (.popc, .popc), (.clz, .clz), (.brev, .brev), (.sext8, .sext8),
   (.sext16, .sext16), (.zext8, .zext8), (.zext16, .zext16)]

/-- The conditions of ICMP and SCMP: 0 to 5 signed, 6 to 9 unsigned (R133). -/
def cond {n : Nat} (k : BitVec 4) (a b : BitVec n) : Bool :=
  match k.toNat with
  | 0 => decide (a = b)
  | 1 => decide (a ≠ b)
  | 2 => decide (a.toInt < b.toInt)
  | 3 => decide (a.toInt ≤ b.toInt)
  | 4 => decide (a.toInt > b.toInt)
  | 5 => decide (a.toInt ≥ b.toInt)
  | 6 => decide (a.toNat < b.toNat)
  | 7 => decide (a.toNat ≤ b.toNat)
  | 8 => decide (a.toNat > b.toNat)
  | 9 => decide (a.toNat ≥ b.toNat)
  | _ => false

/-- The sum of a register over some lanes, exact (R143). -/
def sumOf (s : State) (xs : List Nat) (a : BitVec 7) : Int := (xs.map fun x => (s.v x a).toInt).sum

/-! ## Words -/

/-- The word decodes to the instruction. -/
def Decodes (w : Word) (i : Instr) : Prop := decode w = .ok i

/-- The signed number that the low n bits of a natural number are. -/
def signed (n x : Nat) : Int := if x % 2 ^ n < 2 ^ (n - 1) then x % 2 ^ n else (x % 2 ^ n : Nat) - 2 ^ n

/-! ## A thread that is selected (R22, R25 to R27) -/

/-- The thread is free to issue from a packet that its core holds, and no other thread of its group stands at its
unit: its core runs, its launch goes on, and it neither waits nor is owed anything. -/
structure StandsAlone (s : State) (core place lane : Nat) (ws : List Word) : Prop where
  coreRuns : s.issueHeld core = false ∧ s.coreExists core = true
  launchRuns : (s.launchOf core place).go = true ∧ (s.launchOf core place).stopped = false
  live : (s.group core place).present = true ∧ (s.thread core place lane).live = true
  free : (s.thread core place lane).waits = [] ∧ (s.thread core place lane).owesTrap = false
  stays : s.preemptible core place lane = false ∧ s.saving core place = false
  line : s.packetAt core place lane = some ws
  alone : s.portion core place lane = [lane]

/-- The module holds one group. -/
def OnlyGroup (s : State) (core place : Nat) : Prop :=
  place < 192 ∧ (s.group core place).present = true ∧
  ∀ k q, (s.group k q).present = true → k = core ∧ q = place

/-! ## What a chain has decided (R49, R52) -/

/-- The trap that the instruction in hand raises (R120). -/
def trapOf (s : State) (cause : Nat) (addr : Dword) : Effect :=
  .trap { cause, word := s.curWord, addr, unit := s.unitAddr }

/-- Every executing thread x decides `f`, and nothing else happens before the chain ends. -/
def Decides (i : Bool → Instr) (f : State → Nat → List Effect) : Prop :=
  ∀ (s : State) (c : Bool), ∃ u : State,
    exec (i c) s = .next (afterUnit c u) ∧ OnlyEffects s u (s.E.flatMap fun x => (f s x).map fun e => (x, e))

/-- The thread is in an open region. -/
def InRegion (s : State) (x : Nat) : Prop := (s.here.thread x).far.state = 1 ∨ (s.here.thread x).far.state = 2

/-- The waits of an arrival: for the thread's earlier accesses where one is outstanding, and for the release. -/
def arrivals (s : State) (x : Nat) (w : Wait) : List Effect :=
  (if s.fenceDone s.cur.core s.cur.place x s.nextId then [] else [.wait (.fence s.nextId) s.unitPos]) ++
    [.wait w s.unitPos]

/-- A jump to the packet with an index modulo 2^32 in the launch's image, five packets to a line of 64 bytes
(R47, R48). -/
def jumpTo (s : State) (pi : Int) : Effect :=
  let k := (pi % 2 ^ 32).toNat
  .jump (BitVec.ofNat 64 ((s.curLaunch.hdr.code + k / 5 * 64 + k % 5 * 12) % 2 ^ 57))

/-- The index of the chain's packet: the tag and the address above bit 56 are not counted (R47). -/
def packetNo (s : State) : Int :=
  let o := s.cur.pc.toNat % 2 ^ 57 - s.curLaunch.hdr.code % 2 ^ 57
  (o / 64 * 5 + o % 64 / 12 : Nat)

/-- The masks of the chain's group with one of them changed. -/
def maskSet (g g' : Group) (m : Nat) (w : Word) : Prop :=
  { g' with m := [] } = { g with m := [] } ∧ ∀ k, g'.rm k = if k = m then w else g.rm k

/-! ## Floating results (R73 to R81, R183 to R190) -/

/-- A pattern and the events that it counts. -/
abbrev FlRes := Nat × List Ev

/-- A result of one element that may count. -/
def counted (r : FR) : FlRes := (r.1, [r.2])

/-- The members of F32, F64 and FH. -/
inductive FlFn where
  | add | sub | mul | min | max | div | scale
  deriving DecidableEq, Repr

/-- OP(a, b) in a format and a mode; n is b as a signed integer. -/
def FlFn.run (fn : FlFn) (f : Fmt) (mode a b : Nat) (n : Int) : FlRes :=
  match fn with
  | .add => counted (f.add mode (f.val a) (f.val b))
  | .sub => counted (f.sub mode (f.val a) (f.val b))
  | .mul => counted (f.mul mode (f.val a) (f.val b))
  | .min => (f.minmax false a b, [])
  | .max => (f.minmax true a b, [])
  | .div => counted (f.div mode (f.val a) (f.val b))
  | .scale => counted (f.scale mode (f.val a) n)

/-- The members of F32.vv. -/
noncomputable def f32Vv : List ((Bool → BitVec 7 → BitVec 7 → BitVec 7 → Instr) × FlFn) :=
  [(.addF32Vv, .add), (.subF32Vv, .sub), (.mulF32Vv, .mul), (.minF32Vv, .min), (.maxF32Vv, .max), (.divF32Vv, .div),
   (.scaleF32Vv, .scale)]

/-- The members of F32.vs. -/
noncomputable def f32Vs : List ((Bool → BitVec 7 → BitVec 7 → BitVec 5 → Instr) × FlFn) :=
  [(.addF32Vs, .add), (.subF32Vs, .sub), (.mulF32Vs, .mul), (.minF32Vs, .min), (.maxF32Vs, .max), (.divF32Vs, .div),
   (.scaleF32Vs, .scale)]

/-- The members of F64. -/
noncomputable def f64Vv : List ((Bool → BitVec 7 → BitVec 7 → BitVec 7 → Instr) × FlFn) :=
  [(.addF64, .add), (.subF64, .sub), (.mulF64, .mul), (.minF64, .min), (.maxF64, .max), (.divF64, .div),
   (.scaleF64, .scale)]

/-- The members of FH with the format of their two elements. -/
noncomputable def fh : List ((Bool → BitVec 7 → BitVec 7 → BitVec 7 → Instr) × Fmt × FlFn) :=
  [(.addF16x2, .f16, .add), (.mulF16x2, .f16, .mul), (.minF16x2, .f16, .min), (.maxF16x2, .f16, .max),
   (.addBf16x2, .bf16, .add), (.mulBf16x2, .bf16, .mul), (.minBf16x2, .bf16, .min), (.maxBf16x2, .bf16, .max)]

/-- Two elements of a word, 15:0 and 31:16. -/
def halves (lo hi : FlRes) : Word × List Ev :=
  (BitVec.ofNat 32 (lo.1 % 2 ^ 16 + hi.1 % 2 ^ 16 * 2 ^ 16), lo.2 ++ hi.2)

/-- The elements of a word. -/
def half (hi : Bool) (w : Word) : Nat := if hi then w.toNat / 2 ^ 16 else w.toNat % 2 ^ 16

/-- A result in a 32-bit register. -/
def in32 (r : FlRes) : Word × List Ev := (BitVec.ofNat 32 r.1, r.2)

/-- A result in a pair. -/
def in64 (r : FlRes) : Dword × List Ev := (BitVec.ofNat 64 r.1, r.2)

/-- What an atomic's member 11 to 14 makes of the old value and its operand, of 64 bits or 32 (R81, R217). -/
def floatUpdate (m : Nat) (w : Bool) (old b : Nat) : FlRes :=
  let f : Fmt := if w then .f64 else .f32
  let sum16 (x y : Nat) : FlRes := counted (Fmt.bf16.add 0 (Fmt.bf16.val x) (Fmt.bf16.val y))
  match m with
  | 11 => counted (f.add 0 (f.val old) (f.val b))
  | 12 => (f.minmax false old b, [])
  | 13 => (f.minmax true old b, [])
  | _ =>
    let r := halves (sum16 (old % 2 ^ 16) (b % 2 ^ 16)) (sum16 (old / 2 ^ 16) (b / 2 ^ 16))
    (r.1.toNat, r.2)

/-- The members of FUN that f32 and f64 share, CLASS apart. -/
inductive FunFn where
  | rcp | rsq | sqrt | abs | neg | rnd | fract
  deriving DecidableEq, Repr

/-- What a member computes of a pattern: ABS clears the sign bit and NEG inverts it, but for a NaN (R75). -/
def FunFn.run (fn : FunFn) (f : Fmt) (mode a : Nat) : FlRes :=
  match fn with
  | .rcp => counted (f.rcp mode (f.val a))
  | .rsq => counted (f.rsq mode (f.val a))
  | .sqrt => counted (f.sqrt mode (f.val a))
  | .abs => counted (if (f.val a).isNan then f.nanBits else a % 2 ^ (f.w - 1), 0)
  | .neg => counted (if (f.val a).isNan then f.nanBits else (a + 2 ^ (f.w - 1)) % 2 ^ f.w, 0)
  | .rnd => counted (f.rnd mode a, 0)
  | .fract => counted (f.fract mode (f.val a))

/-- The members of FUN with both widths. -/
noncomputable def funs : List ((Bool → BitVec 7 → BitVec 7 → BitVec 1 → Instr) × FunFn) :=
  [(.rcp, .rcp), (.rsq, .rsq), (.sqrt, .sqrt), (.absFloat, .abs), (.negFloat, .neg), (.rnd, .rnd), (.fract, .fract)]

/-- The members of FUN for f32 only. -/
noncomputable def fun32 : List ((Bool → BitVec 7 → BitVec 7 → Instr) × (Nat → Fl → FR)) :=
  [(.exp2, exp2F32), (.log2, log2F32), (.sinpi, sinpiF32), (.cospi, cospiF32)]

/-! ### Exact values -/

/-- The six formats of R73. -/
def formats : List Fmt := [.f16, .bf16, .f32, .f64, .e4m3, .e5m2]

/-- The real number that a finite value is. -/
noncomputable def real : Fl → ℝ
  | .fin n m e => (if n then -1 else 1) * m * (2 : ℝ) ^ e
  | _ => 0

/-- MAXF of a format. -/
noncomputable def maxF (f : Fmt) : ℝ := real (f.val f.maxBits)

/-- The integer that a mode takes for t ≥ 0, the magnitude of a number of this sign in quanta (R76). -/
def takes (mode : Nat) (neg : Bool) (t : ℝ) (n : ℤ) : Prop :=
  match mode with
  | 0 => |t - n| < 1 / 2 ∨ |t - n| = 1 / 2 ∧ n % 2 = 0
  | 1 => n = ⌊t⌋
  | 2 => n = if neg then ⌈t⌉ else ⌊t⌋
  | 3 => n = if neg then ⌊t⌋ else ⌈t⌉
  | _ => |t - n| < 1 / 2 ∨ |t - n| = 1 / 2 ∧ t < n

/-- The pattern and the events of a result are those of ROUND of the exact number x, not 0 (R76, R88): with q the
quantum at x's binade and n the integer that the mode takes for |x|/q, y = n·q with the sign of x, which may be 0 or
subnormal; beyond MAXF, OVERFLOW. -/
def Rounds (f : Fmt) (mode : Nat) (neg : Bool) (x : ℝ) (r : FR) : Prop :=
  ∀ e n : ℤ, (2 : ℝ) ^ e ≤ |x| → |x| < (2 : ℝ) ^ (e + 1) →
    let emin : ℤ := 1 - f.bias
    let q : ℝ := (2 : ℝ) ^ (max e emin - f.fb)
    takes mode neg (|x| / q) n →
    if maxF f < n * q then
      if mode = 0 ∨ mode = 4 ∨ (mode = 3 ∧ neg = false) ∨ (mode = 2 ∧ neg = true) then
        match f.infBits with
        | some i => r = (f.sign neg i, Ev.overflow)
        | none => r = (f.nanBits, Ev.overflow ||| Ev.nan)
      else r = (f.sign neg f.maxBits, Ev.overflow)
    else
      (∃ m k, f.val r.1 = .fin neg m k ∧ (m : ℝ) * (2 : ℝ) ^ k = n * q) ∧ r.1 < 2 ^ f.w ∧
      ((n * q ≠ |x| ∧ n * q < (2 : ℝ) ^ emin → r.2 = Ev.underflow) ∧
       (¬ (n * q ≠ |x| ∧ n * q < (2 : ℝ) ^ emin) → r.2 = 0))

/-- The extended real that a value other than NaN is. -/
noncomputable def ext : Fl → EReal
  | .nan => 0
  | .inf n => if n then ⊥ else ⊤
  | .fin n m e => (real (.fin n m e) : ℝ)

/-! ## Accesses (R148 to R156, R194, R215 to R223) -/

/-- What the checks of an access may have changed on the way (R97, R98, R103, R245, R252): translations, lines and
leaves in memory with the caches' copies of them, the numbers of messages that land at cores on the way, and the tags of a
page newly mapped; nothing that a thread or an engine holds. -/
structure Checked (s u : State) : Prop where
  rest : { u with cores := [], mem := [], poison := [], l2 := [], dir := [], msgs := [], xc := [], pageHome := [],
                  tagged := [], tags := [] } =
    { s with cores := [], mem := [], poison := [], l2 := [], dir := [], msgs := [], xc := [], pageHome := [],
             tagged := [], tags := [] }
  cores : ∀ k, { u.core k with l1 := [], seq := 0, landed := 0 } = { s.core k with l1 := [], seq := 0, landed := 0 }

/-- Bytes of an access by its size code (R148). -/
def accessSize (z : BitVec 3) : Nat := [1, 1, 2, 2, 4, 8, 16].getD z.toNat 1

/-- The load that lane x issues, the n-th of its unit; one into a uniform register is made once for the unit (R153). -/
def loadOf (s : State) (n x : Nat) (dest : LoadDest) (ea : Dword) (size : Nat) (spad : Bool) (policy : Nat) : LoadReq :=
  { id := s.nextId + n, place := s.cur.place, lane := x, dest, ea, size, spad, policy, asid := s.curLaunch.asid
    serial := s.nextId + n, issued := s.clock, word := s.curWord, unit := s.unitAddr, res := s.chainRes
    uni := match dest with | .uni _ _ => s.E | _ => [] }

/-- The state with more decided for the lanes of the chain. -/
def withDecided (s : State) (es : List (Nat × Effect)) : State :=
  { s with cur := { s.cur with effects := s.cur.effects ++ es } }

/-- Loads enter the core's list, in the order of their lanes. -/
def loading (s : State) (rs : List LoadReq) : State :=
  if rs = [] then s
  else
    let k := s.core s.cur.core
    { s.setCore s.cur.core { k with loads := k.loads ++ rs } with nextId := s.nextId + rs.length }

/-- A unit enters the store queue of the chain's group. -/
def queueing (s : State) (u : SqUnit) : State :=
  if u.accs = [] then s
  else
    let g := s.here
    { (s.modGroup s.cur.core s.cur.place fun _ => { g with sq := g.sq ++ [{ u with
        serial := s.nextId, asid := s.curLaunch.asid, task := (s.wg s.here.wg).task, word := s.curWord
        unit := s.unitAddr, res := s.chainRes, issued := s.clock }] }) with nextId := s.nextId + 1 }

/-- A trap of the lane is already decided in the chain. -/
def trapped (s : State) (x : Nat) : Bool := s.cur.effects.any fun e =>
  decide (e.1 = x) && (match e.2 with | .trap _ => true | _ => false)

/-- The lanes without a trap wait for their accesses, which are an acquire (R156, R199). -/
def acquires (s : State) (yes : Bool) (xs : List Nat) : State :=
  if yes = true then withDecided s ((xs.filter fun x => !trapped s x).map fun x =>
    (x, .wait (.fence s.nextId) s.unitPos)) else s

/-- An access of the scratchpad that passes its checks, outside MODE 3 (R108, R150, R241). -/
def SpadSound (s : State) (x : Nat) (ea : Dword) (size : Nat) : Prop :=
  s.flushed x = false ∧ ea.toNat % size = 0 ∧ ea.toNat + size ≤ (s.core s.cur.core).spadSize

/-- One thread executes, it may make accesses, and no region of it is open (R237, R241). -/
def OneThread (s : State) (x : Nat) : Prop := s.E = [x] ∧ s.flushed x = false ∧ ¬ InRegion s x

/-- The cause of the first of the checks 1 to 3 that an access fails (R150). -/
def early (s : State) (ea : Dword) (size : Nat) (spad : Bool) : Option Nat :=
  if spad = false ∧ ea.toNat / 2 ^ 57 % 8 ≠ 0 then some 0x11
  else if ea.toNat % size ≠ 0 then some 0x10
  else if spad = true ∧ (s.core s.cur.core).spadSize < ea.toNat + size then some 0x15
  else none

/-- The checks of a lane's access of memory pass, leaving `u` (R150). -/
def Passes (s u : State) (ea : Dword) (size : Nat) (q : Ask) : Prop :=
  ∃ loc, s.checkAcc s.cur.core s.curLaunch.asid ea size false q = (u, .ok loc)

/-- An atomic of the chain: its lanes' updates enter the store queue as one unit in lane order, on the scratchpad or on
memory; in a deterministic launch one on memory becomes a record, and what it returns is marked (R215, R216, R219,
R242). -/
def Updates (i : Bool → Instr) (op : SqOp) (size : Nat) (a : BitVec 7) (dest : Nat) (data cmp : State → Nat → Qword) :
    Prop :=
  ∀ (s : State) (c : Bool),
    let base := a.toNat / 2 * 2
    let waits : Bool := op.returns && decide (s.order = 1 ∨ s.order = 3)
    let acc (x : Nat) (ea : Dword) : SqAcc := { lane := x, ea, data := data s x, cmp := cmp s x, dest }
    let spadEa (x : Nat) : Dword := (s.cur.rd.rv x base).setWidth 64
    (a.toNat % 2 = 1 → (∀ x ∈ s.E, SpadSound s x (spadEa x) size) →
      exec (i c) s = .next (afterUnit c (acquires
        (queueing s { op, size, spad := true, accs := s.E.map fun x => acc x (spadEa x) }) waits s.E))) ∧
    (a.toNat % 2 = 0 → ∀ x u, OneThread s x →
      let ea := s.cur.rd.rv64 x base
      (s.curLaunch.hdr.det = false → s.routineMissing op ea = false →
        Passes s u ea size { write := true, atomic := true } →
        exec (i c) s = .next (afterUnit c (acquires (queueing u { op, size, accs := [acc x ea] }) waits [x]))) ∧
      (s.curLaunch.hdr.det = true → op.unbuffered = false → (s.core s.cur.core).det.length < 4096 →
        Passes s u ea size { write := true, atomic := true } → ea.getLsbD 56 = false → waits = false →
        let ms : List Nat := if op.returns then (if size = 8 then [dest, dest + 1] else [dest]) else []
        ∃ t r, exec (i c) s = .next (afterUnit c t) ∧
          t.core s.cur.core = { u.core s.cur.core with
            det := (u.core s.cur.core).det ++ [r], groups := (t.core s.cur.core).groups } ∧
          r.ea = ea ∧ r.operand = (data s x).setWidth 64 ∧ r.seq = (u.here.thread x).detSeq ∧ r.lane = x ∧
          t.here.thread x = { u.here.thread x with
            detSeq := (u.here.thread x).detSeq + 1
            marks := ms ++ (u.here.thread x).marks.filter fun n => !ms.contains n }))

/-- The members of ATOM by number (R217). -/
noncomputable def atoms : List ((Bool → BitVec 7 → BitVec 7 → BitVec 7 → Instr) × Nat) :=
  [(.atomAdd, 0), (.atomMin, 1), (.atomMax, 2), (.atomMinN, 3), (.atomMaxN, 4), (.atomAnd, 5), (.atomOr, 6),
   (.atomXor, 7), (.atomExch, 8), (.atomIncw, 9), (.atomDecw, 10), (.atomFaddF32, 11), (.atomFminF32, 12),
   (.atomFmaxF32, 13), (.atomFaddBf16x2, 14)]

/-- The members of ATOM64. -/
noncomputable def atoms64 : List ((Bool → BitVec 7 → BitVec 7 → BitVec 7 → Instr) × Nat) :=
  [(.atom64Add, 0), (.atom64Min, 1), (.atom64Max, 2), (.atom64MinN, 3), (.atom64MaxN, 4), (.atom64And, 5),
   (.atom64Or, 6), (.atom64Xor, 7), (.atom64Exch, 8), (.atom64Incw, 9), (.atom64Decw, 10), (.atom64FaddF64, 11),
   (.atom64FminF64, 12), (.atom64FmaxF64, 13)]

/-- The members of RED with both widths. -/
noncomputable def reds : List ((Bool → BitVec 1 → BitVec 7 → BitVec 7 → Instr) × Nat) :=
  [(.redAdd, 0), (.redMin, 1), (.redMax, 2), (.redMinN, 3), (.redMaxN, 4), (.redAnd, 5), (.redOr, 6), (.redXor, 7),
   (.redExch, 8), (.redIncw, 9), (.redDecw, 10), (.redFadd, 11), (.redFmin, 12), (.redFmax, 13)]

/-! ## Engine commands (R30, R166, R167, R170) -/

/-- The 64 bytes of a parameter block as a lane's command reads them. -/
def blockAt (s : State) (x : Nat) (p : Dword) : List Byte := s.spadSeen s.cur.core s.cur.place x p.toNat 64

/-- A block that can be read: aligned, inside the carve-out, and not poisoned (R170, R371). -/
def Whole (s : State) (p : Dword) : Prop :=
  p.toNat % 64 = 0 ∧ p.toNat + 64 ≤ (s.core s.cur.core).spadSize ∧
    (s.core s.cur.core).spadPoisoned p.toNat 64 = false

/-- Each executing thread decides a trap with one cause and address. -/
def allTrap (s : State) (k : Nat) (a : Dword) : State := withDecided s (s.E.map fun x => (x, trapOf s k a))

/-- The operation of lane x, the n-th of its unit. -/
def commandOf (s : State) (kind : EngKind) (p target : Dword) (x n : Nat) : EngOp :=
  { id := s.nextId + n, serial := s.nextId + n, kind, core := s.cur.core, place := s.cur.place, lane := x
    wg := s.here.wg, grp := s.here.index, task := (s.wg s.here.wg).task, asid := s.curLaunch.asid, word := s.curWord
    unit := s.unitAddr, res := s.chainRes, issued := s.clock, target, blk := blockAt s x p, blkOff := p }

/-- The operations of the executing threads have entered their engine, in lane order; `f` changes the group by their
number. -/
def commanded (s : State) (kind : EngKind) (p target : Dword) (f : Nat → Group → Group) : State :=
  if s.E = [] then s
  else { s.modGroup s.cur.core s.cur.place (f s.E.length) with
    ops := s.ops ++ s.E.zipIdx.map fun x => commandOf s kind p target x.1 x.2
    nextId := s.nextId + s.E.length }

/-- A tag counts n more operations. -/
def tagCounts (bank t n : Nat) (g : Group) : Group := g.modTag bank t fun x => { x with count := x.count + n }

/-- A uniform register waits for n more writes of an engine; s0 discards its writes. -/
def awaits (r n : Nat) (g : Group) : Group :=
  if r = 0 then g else { g with busyS := g.busyS ++ List.replicate n r }

/-- The member issues a command of each executing thread with the block at `p`: what turns it away, with the block's
offset as %TRAP_ADDR, and the state when nothing does. -/
def Commands (i : Bool → Instr) (may : State → Prop) (kind : EngKind) (p target : State → Dword)
    (fault : State → List Byte → Option Nat) (wrong : State → Option Nat) (f : State → Nat → Group → Group) : Prop :=
  ∀ (s : State) (c : Bool), may s →
    let ends (t : State) : Prop := exec (i c) s = .next (afterUnit c t)
    ((∀ x ∈ s.E, s.flushed x = true) → ends (allTrap s 0x31 0)) ∧
    ((∀ x ∈ s.E, s.flushed x = false) →
      ((p s).toNat % 64 ≠ 0 → ends (allTrap s 0x10 (p s))) ∧
      ((p s).toNat % 64 = 0 → (s.core s.cur.core).spadSize < (p s).toNat + 64 → ends (allTrap s 0x15 (p s))) ∧
      (Whole s (p s) → ∀ k, (∀ x ∈ s.E, fault s (blockAt s x (p s)) = some k) → ends (allTrap s k (p s))) ∧
      (Whole s (p s) → (∀ x ∈ s.E, fault s (blockAt s x (p s)) = none) →
        (∀ k, wrong s = some k → ends (allTrap s k 0)) ∧
        (wrong s = none → ends (commanded s kind (p s) (target s) (f s)))))

/-- The tag of a completion target is bits 61:58 (R166). -/
def tagOf (t : Dword) : Nat := t.toNat / 2 ^ 58 % 16

/-- A command with its block at s(A) and its completion target in s(B), on copy tags. -/
def CopyCommand (i : Bool → BitVec 5 → BitVec 5 → Instr) (kind : EngKind) (fault : State → List Byte → Option Nat) :
    Prop :=
  ∀ a b : BitVec 5, Commands (fun c => i c a b) (fun _ => True) kind (fun s => s.sr a) (fun s => s.sr b) fault
    (fun s => s.targetFault 0 (s.sr b)) fun s => tagCounts 0 (tagOf (s.sr b))

/-- The members of TT by number (R292). -/
noncomputable def tts : List ((Bool → BitVec 5 → BitVec 5 → Instr) × Nat) :=
  [(.seqnew, 0), (.seqfree, 1), (.tfork, 2), (.tapp, 3), (.kvwr, 4), (.tprune, 5), (.tcommit, 6), (.tqry, 7),
   (.twalk, 8), (.kvgath, 9), (.tmask, 10), (.pfxq, 11), (.pfxpub, 12), (.pfxatt, 13), (.kvresc, 14)]

/-- The members of SMPL by number (R314). -/
noncomputable def smpls : List ((Bool → BitVec 5 → BitVec 5 → Instr) × Nat) :=
  [(.sample, 0), (.rng, 1), (.rngf, 2), (.argmax, 3)]

/-- The trap of a lane of CPY, with its address (R150, R169, R241): the destination is checked first. -/
def cpyTrap (s : State) (x : Nat) (dst src : Dword) (size k : Nat) : Option Effect :=
  if s.flushed x = true then some (trapOf s 0x31 0)
  else match early s dst size (decide (k = 1 ∨ k = 3)) with
    | some e => some (trapOf s e dst)
    | none => (early s src size (decide (k = 2 ∨ k = 3))).map fun e => trapOf s e src

/-! ## Completion tags (R167, R280, R351) -/

/-- A wait for a tag: with its count at 0 each executing thread's p takes the complement of the flag, it has seen the
completions of a copy tag so far (R282), and the unit ends as `after` says; else each thread waits. -/
def TagWaits (i : Bool → Instr) (bank t : Nat) (p : BitVec 3) (w : Wait) (after : State → State) : Prop :=
  ∀ (s : State) (c : Bool),
    ((s.here.tag bank t).count ≠ 0 →
      exec (i c) s = .next (afterUnit c (withDecided s (s.E.map fun x => (x, .wait w s.unitPos))))) ∧
    ((s.here.tag bank t).count = 0 → ∃ u, exec (i c) s = .next (afterUnit c (if s.E = [] then u else after u)) ∧
      OutsideHere s u ∧ { u.here with lanes := [] } = { s.here with lanes := [] } ∧
      (∀ x, x ∉ s.E → u.here.thread x = s.here.thread x) ∧
      (∀ x ∈ s.E, { u.here.thread x with p := 0, seen := [] } = { s.here.thread x with p := 0, seen := [] }) ∧
      (∀ x ∈ s.E, (u.here.thread x).seen =
        if bank = 0 then (s.here.thread x).seen.set t (s.here.tag bank t).ended else (s.here.thread x).seen) ∧
      (∀ x ∈ s.E, ∀ n, n ≠ p.toNat → u.here.rp x n = s.here.rp x n) ∧
      ∀ x ∈ s.E, u.here.rp x p.toNat = (decide (p = 0) || !(s.here.tag bank t).flag))

/-- A read of a tag: flag in bit 16, code in 15:8, count in 7:0, and what `more` adds; then flag and code are clear. -/
def TagReads (i : Bool → Instr) (bank t : Nat) (a : BitVec 5) (more : State → Nat) : Prop :=
  ∀ (s : State) (c : Bool), ∃ u,
    exec (i c) s = .next (afterUnit c (if s.E = [] then u
      else u.modGroup u.cur.core u.cur.place fun g => g.modTag bank t fun x => { x with flag := false, code := 0 })) ∧
    OnlyS s u a.toNat ∧
    u.here.rs a.toNat = if s.E = [] ∨ a = 0 then s.here.rs a.toNat else
      let x := s.here.tag bank t
      BitVec.ofNat 64 (more s * 2 ^ 24 + x.flag.toNat * 2 ^ 16 + x.code % 256 * 2 ^ 8 + x.count % 256)

/-! ## Operand slots and tiles (R264 to R275, R282) -/

/-- Only the slots of the chain's core may differ. -/
structure OnlySlots (s u : State) : Prop where
  rest : { u with cores := [] } = { s with cores := [] }
  cores : ∀ k, k ≠ s.cur.core → u.core k = s.core k
  core : { u.core s.cur.core with slots := [] } = { s.core s.cur.core with slots := [] }

/-- Only the tiles of the chain's core may differ. -/
structure OnlyTiles (s u : State) : Prop where
  rest : { u with cores := [] } = { s with cores := [] }
  cores : ∀ k, k ≠ s.cur.core → u.core k = s.core k
  core : { u.core s.cur.core with tiles := [] } = { s.core s.cur.core with tiles := [] }

/-- A slot of the chain's core. -/
def slotOf (s : State) (k : Nat) : Slot := (s.core s.cur.core).slots.get {} k

/-- The slot n of the workgroup, as its core numbers it (R264). -/
def mySlot (s : State) (n : Nat) : Nat := (s.wg s.here.wg).slotBase + n

/-- The tile n of the workgroup, as its core numbers it (R264). -/
def myTile (s : State) (n : Nat) : Nat := (s.wg s.here.wg).tileBase + n

/-- A place word: part, number of the slot or tile, and row (R270). -/
def placeAt (part num row : Nat) : Dword := BitVec.ofNat 64 (part * 2 ^ 16 + num * 2 ^ 8 + row)

/-- No MMA or PACK that has not been observed has to do with a tile (R174, R282). -/
def Quiet (s : State) (k : Nat) : Prop :=
  s.tileWatched s.cur.core k = false ∧
    ∀ o ∈ s.ops, ¬ (o.core = s.cur.core ∧ o.kind = .pack ∧ (s.wg o.wg).tileBase + blkNat o.blk 16 1 = k)

/-! ## Signals, services and SYS (R313, R336 to R339, R352, R365 to R367, R377) -/

/-- Only the uniform registers from `a` on may differ, and they hold `xs`. -/
structure SetsRun (s u : State) (a : Nat) (xs : List Dword) : Prop where
  outside : OutsideHere s u
  group : { u.here with s := [], poison := [] } = { s.here with s := [], poison := [] }
  regs : ∀ n, u.here.rs n = if n ≠ 0 ∧ a ≤ n ∧ n < a + xs.length then xs.getD (n - a) 0 else s.here.rs n

/-- The unit of signals of the executing threads (R337, R352): `kind` 0 adds to a word, 1 and 2 reach a task. -/
def signalling (s : State) (kind : Nat) (a b : Dword) : State :=
  queueing s { op := .rsig, size := 8, accs := s.E.map fun x =>
    { lane := x, ea := a, data := b.setWidth 128, cmp := BitVec.ofNat 128 kind } }

/-- No executing thread has an open region. -/
def Outside (s : State) : Prop := ∀ x ∈ s.E, ¬ InRegion s x

/-- A trap of the lowest executing thread, for the unit (R113, R377). -/
def lowestTrap (s : State) (k : Nat) (a : Dword) : State :=
  withDecided s ((s.E.take 1).map fun x => (x, trapOf s k a))

/-- Each executing thread is to execute the unit again: the member waits (R377). -/
def again (s : State) : State := withDecided s (s.E.map fun x => (x, .resume s.unitPos))

/-- A load, an access of a store queue, a fetch of a line or an engine operation that is parked on a page (R256). -/
inductive ParkedThing where
  | load (core : Nat) (r : LoadReq)
  | queued (core place : Nat) (u : SqUnit) (a : SqAcc)
  | fetch (core place lane key : Nat)
  | op (o : EngOp)
  deriving DecidableEq

/-- The machine holds the thing once, under its own names. -/
def ParkedThing.Once (s : State) : ParkedThing → Prop
  | .load core r => (s.cores.map (·.1)).Nodup ∧ (s.core core).loads.filter (fun x => decide (x.id = r.id)) = [r]
  | .queued core place u a => (s.cores.map (·.1)).Nodup ∧ ((s.core core).groups.map (·.1)).Nodup ∧
      (s.group core place).sq.filter (fun x => decide (x.serial = u.serial)) = [u] ∧
      u.accs.filter (fun x => decide (x.lane = a.lane)) = [a] ∧ a.done = false
  | .fetch core place lane key => (s.cores.map (·.1)).Nodup ∧ ((s.core core).groups.map (·.1)).Nodup ∧
      ((s.group core place).lanes.map (·.1)).Nodup ∧
      ∃ w, (s.thread core place lane).waits.filter (fun x => decide (x.kind = .fetch key)) = [w]
  | .op o => s.ops.filter (fun x => decide (x.id = o.id)) = [o]

/-- The thing is all that is parked, or nothing is (R256). -/
structure OnlyParked (s : State) (x : Option ParkedThing) : Prop where
  loads : ∀ k ∈ s.cores, ∀ r ∈ k.2.loads, r.park ≠ none → x = some (.load k.1 r)
  queues : ∀ k ∈ s.cores, ∀ g ∈ k.2.groups, ∀ u ∈ g.2.sq, ∀ a ∈ u.accs, a.park ≠ none → x = some (.queued k.1 g.1 u a)
  fetches : ∀ k ∈ s.cores, ∀ g ∈ k.2.groups, ∀ t ∈ g.2.lanes, ∀ w ∈ t.2.waits, ∀ n, w.kind = .fetch n →
    x = some (.fetch k.1 g.1 t.1 n)
  polls : ∀ k ∈ s.cores, ∀ g ∈ k.2.groups, ∀ t ∈ g.2.lanes, ∀ w ∈ t.2.waits, ∀ a d b, w.kind = .poll a d b → a.park = none
  ops : ∀ o ∈ s.ops, (o.park ≠ none → x = some (.op o)) ∧ o.kind ≠ .pgreq
  once : ∀ y, x = some y → y.Once s
  images : ∀ i ∈ s.images, ∀ r ∈ i.2.loads, r.park = none
  remote : s.remoteIn = []
  dets : ∀ k ∈ s.cores, ∀ r ∈ k.2.det, r.park = none
  units : (∀ x ∈ s.tasks, x.2.park = none) ∧ (∀ m ∈ s.models, m.2.park = none) ∧
    ∀ p ∈ s.ports, p.2.park = none ∧ ∀ y ∈ p.2.sessions, y.2.park = none

/-- Nothing of the machine is parked on a page (R256). -/
abbrev NothingParked (s : State) : Prop := OnlyParked s none

/-! ## Events of the cores (R22, R23, R25, R89, R90) -/

/-- A core of the part that issues: it is not halted, and the part runs. -/
def Issues (s : State) (core part : Nat) : Prop :=
  core < s.coreCount ∧ part < 8 ∧ (s.core core).halted = false ∧ s.boot = .running

/-- A pending group of a partition that is ready. -/
def PendingReady (s : State) (core part p : Nat) : Prop :=
  p / 24 = part ∧ (s.group core p).present = true ∧ (s.group core p).active = false ∧ (s.group core p).ready = true

/-- The pending group that has waited longest; the lower place among equals: the place numbers order what the manual leaves
open (log 12). -/
def LongestReady (s : State) (core part p : Nat) : Prop :=
  PendingReady s core part p ∧ ∀ q, PendingReady s core part q → (s.group core q).waited < (s.group core p).waited ∨
    (s.group core q).waited = (s.group core p).waited ∧ p ≤ q

/-- An active group of a partition. -/
def ActiveIn (s : State) (core part q : Nat) : Prop :=
  q / 24 = part ∧ (s.group core q).present = true ∧ (s.group core q).active = true

/-- The number of active groups of a partition. -/
def activeCount (s : State) (core part : Nat) : Nat :=
  ((List.range 24).filter fun i =>
    (s.group core (24 * part + i)).present && (s.group core (24 * part + i)).active).length

/-- A group takes an active place. -/
def entered (s : State) (core p : Nat) : State :=
  s.modGroup core p fun g => { g with active := true, parked := false, blocked := false, waited := 0 }

/-- A group gives its active place up. -/
def displaced (s : State) (core q : Nat) : State :=
  s.modGroup core q fun g => { g with active := false, ready := false, waited := 0 }

/-- Only the numeric counts of a core differ. -/
structure OnlyCounts (s u : State) (core : Nat) : Prop where
  rest : { u with cores := [] } = { s with cores := [] }
  cores : ∀ k, k ≠ core → u.core k = s.core k
  core : { u.core core with numEvt := 0, fired := 0, epochs := [], counted := [] } =
    { s.core core with numEvt := 0, fired := 0, epochs := [], counted := [] }

/-! ## Coherence (R245 to R252) -/

/-- The oldest message in flight is one of this line and core; the others are `rest`. -/
def Heads (s : State) (line : LineKey) (die core seq : Nat) (kind : MsgKind) (rest : List Msg) : Prop :=
  s.msgs = { asid := line.asid, line := line.line, die, core, seq, kind } :: rest

/-- No message of this line and core is in flight. -/
def NoMessage (s : State) (line : LineKey) (core : Nat) : Prop :=
  ∀ m ∈ s.msgs, ¬ (m.asid = line.asid ∧ m.line = line.line ∧ m.core = core)

/-- The first message in flight of this line and core: those before it, `pre`, are of others, and `rest` come after. -/
def First (s : State) (line : LineKey) (die core seq : Nat) (kind : MsgKind) (pre rest : List Msg) : Prop :=
  s.msgs = pre ++ { asid := line.asid, line := line.line, die, core, seq, kind } :: rest ∧
    ∀ m ∈ pre, ¬ (m.asid = line.asid ∧ m.line = line.line ∧ m.core = core)

/-- Messages of a transaction leave. -/
def sends (s : State) (line : LineKey) (die seq : Nat) (ms : List (Nat × MsgKind)) : State :=
  { s with msgs := s.msgs ++ ms.map fun m =>
      { asid := line.asid, line := line.line, die, core := m.1, seq, kind := m.2 } }

/-- An INV to each of some cores, for a requester. -/
def invs (cs : List Nat) (req : Nat) : List (Nat × MsgKind) := cs.map fun c => (c, .inv req)

/-- Number v is greater than d, modulo 2^32 by signed difference (R245). -/
def later (v d : Nat) : Prop := (v + 2 ^ 32 - d) % 2 ^ 32 ≠ 0 ∧ (v + 2 ^ 32 - d) % 2 ^ 32 < 2 ^ 31

/-- The line of an L1 as a transaction leaves it, or none. -/
def l1Set (s : State) (line : LineKey) (core : Nat) (l : Option L1Line) : State :=
  let k := s.core core
  let key := l1Key line.asid line.line
  s.setCore core { k with l1 := match l with
    | some x => k.l1.set key x
    | none => k.l1.erase key }

/-! ## Loads and store queues (R148 to R153, R194, R222) -/

/-- Registers that a load of a size code writes. -/
def loadCount (z : BitVec 3) : Nat := if z = 5 then 2 else if z = 6 then 4 else 1

/-- The i-th word of a loaded value: codes 1 and 3 extend the sign (R151). -/
def loadedWord (z : BitVec 3) (bs : List Byte) (i : Nat) : Word :=
  if z = 0 then BitVec.ofNat 32 (leNat (bs.take 1))
  else if z = 1 then (BitVec.ofNat 8 (leNat (bs.take 1))).signExtend 32
  else if z = 2 then BitVec.ofNat 32 (leNat (bs.take 2))
  else if z = 3 then (BitVec.ofNat 16 (leNat (bs.take 2))).signExtend 32
  else BitVec.ofNat 32 (leNat ((bs.drop (4 * i)).take 4))

/-- A loaded value in a uniform register (R153). -/
def loadedDword (z : BitVec 3) (bs : List Byte) : Dword :=
  if z = 0 then BitVec.ofNat 64 (leNat (bs.take 1))
  else if z = 1 then (BitVec.ofNat 8 (leNat (bs.take 1))).signExtend 64
  else if z = 2 then BitVec.ofNat 64 (leNat (bs.take 2))
  else if z = 3 then (BitVec.ofNat 16 (leNat (bs.take 2))).signExtend 64
  else if z = 5 then BitVec.ofNat 64 (leNat (bs.take 8))
  else BitVec.ofNat 64 (leNat (bs.take 4))

/-- The registers of one lane of a group changed: `n` words from `d` on. -/
def WritesLane (g h : Group) (lane d n : Nat) (f : Nat → Word) : Prop :=
  { h with lanes := [] } = { g with lanes := [] } ∧ (∀ l, l ≠ lane → h.thread l = g.thread l) ∧
  { h.thread lane with v := [], marks := [], poison := [] } = { g.thread lane with v := [], marks := [], poison := [] } ∧
  ∀ r, h.rv lane r = if d ≤ r ∧ r < d + n then f (r - d) else g.rv lane r

/-- A load has taken these bytes: it has left the list, the later ones of its threads go on, and its destination holds
them (R151, R153, R155, R162, R194). What a
later MFOP of the thread may order among the writes of the core's slots may have grown (R164). -/
def Lands (s v : State) (core : Nat) (r : LoadReq) (bs : List Byte) : Prop :=
  let g := s.group core r.place
  let h := v.group core r.place
  { v with cores := [] } = { s with cores := [] } ∧ (∀ c, c ≠ core → v.core c = s.core c) ∧
  { v.core core with groups := [], loads := [], l1 := [], slots := [] } =
    { s.core core with groups := [], loads := [], l1 := [], slots := [] } ∧
  (∀ n, { (v.core core).slots.get {} n with writes := [] } = { (s.core core).slots.get {} n with writes := [] }) ∧
  (v.core core).loads = ((s.core core).loads.filter fun y => decide (y.id ≠ r.id)).map (fun y =>
    if r.id < y.id ∧ y.place = r.place ∧ y.accessBy r.lanes = true then { y with after := s.clock } else y) ∧
  (∀ p, p ≠ r.place → v.group core p = s.group core p) ∧
  match r.dest with
  | .vec z d => WritesLane g h r.lane d (loadCount z) (loadedWord z bs)
  | .uni z d => { h with s := [], poison := [] } = { g with s := [], poison := [] } ∧
      ∀ n, h.rs n = if n = d ∧ d ≠ 0 then loadedDword z bs else g.rs n
  | .probe z d pd =>
      WritesLane g (h.modThread r.lane fun t => { t with p := (g.thread r.lane).p }) r.lane d (loadCount z)
        (loadedWord z bs) ∧
      ∀ n < 8, h.rp r.lane n = (decide (n = pd) || g.rp r.lane n)
  | .tag d => WritesLane g h r.lane d 1 fun _ => BitVec.ofNat 32 (leNat (bs.take 1))
  | .tile d _ _ => WritesLane g h r.lane d 2 (loadedWord 5 bs)

/-- A load of memory or of the scratchpad that is next to take its value: it neither parks nor waits for another module,
it belongs to no open region, no older load of its threads is left, and nothing is queued in its group's store queue
(R194). -/
def LoadDue (s : State) (core id : Nat) (r : LoadReq) : Prop :=
  let k := s.core core
  let g := s.group core r.place
  id < 2 ^ 64 ∧ k.loads.find? (fun y => decide (y.id = id)) = some r ∧ r.park = none ∧ r.remote = none ∧ r.region = none ∧
    r.dest.isTile = false ∧ (∀ y ∈ k.loads, y.place = r.place → y.accessBy r.lanes = true → r.id ≤ y.id) ∧
    g.sq = [] ∧ g.present = true ∧
    (g.thread r.lane).live = true ∧ (g.thread r.lane).inRegion = false

/-- The head of a group's store queue is a unit with one access that may perform: no load of the group is outstanding,
the access neither parks nor waits for another module, and its thread is in no region; no memory that a thread could read
tells of an UNPK's completion. -/
def HeadDue (s : State) (core place : Nat) (u : SqUnit) (a : SqAcc) (us : List SqUnit) : Prop :=
  let g := s.group core place
  g.present = true ∧ g.sq = u :: us ∧ u.accs = [a] ∧ a.done = false ∧ a.park = none ∧ a.remote = none ∧ a.region = none ∧
    (∀ w ∈ us, w.serial ≠ u.serial ∧ ∃ b ∈ w.accs, b.done = false) ∧
    (∀ r ∈ (s.core core).loads, r.place ≠ place) ∧ (g.thread a.lane).live = true ∧ (g.thread a.lane).inRegion = false ∧
    a.dropped = false ∧ ∀ x ∈ (s.core core).slots, ∀ w ∈ x.2.writes, ∀ wg grp tag n e ts, w.writer ≠ .ended wg grp tag n (some e) ts

/-- The queue of a group. -/
def queueIs (s : State) (core place : Nat) (us : List SqUnit) : State :=
  s.modGroup core place fun g => { g with sq := us }

/-- The events of an update are counted at the core, for the lane of the access (R88, R90). -/
def updateCounts (s : State) (core place : Nat) (u : SqUnit) (a : SqAcc) (es : List Ev) : State :=
  s.countAway core { wg := (s.group core place).wg, grp := (s.group core place).index, lane := a.lane, word := u.word
                     unit := u.unit, issued := u.issued } es

/-- The thread of the access receives the old value. -/
def returned (s : State) (core place : Nat) (u : SqUnit) (a : SqAcc) (old : List Byte) : State :=
  s.modThread core place a.lane fun t =>
    t.putLoad (if u.size = 16 then 6 else if u.size = 8 then 5 else 4) a.dest old

/-- The thread of the access is owed a trap. -/
def owed (s : State) (core place : Nat) (u : SqUnit) (a : SqAcc) (cause : Nat) : State :=
  s.modThread core place a.lane fun t =>
    { t with pending := t.pending ++ [{ cause, word := u.word, addr := a.ea, unit := u.unit, res := u.res }] }

/-! ## Lines at rest (R245, R247) -/

/-- No line is in a transaction: no message travels, every copy in an L1 is of a line of an L2, in a stable state, and no
directory entry is in a transient one. -/
structure LinesRest (s : State) : Prop where
  msgs : s.msgs = []
  dir : ∀ key, (s.dirAt key).transient = false
  l1 : ∀ k ∈ s.cores, ∀ x ∈ k.2.l1, (x.2.st = .m ∨ x.2.st = .o ∨ x.2.st = .e ∨ x.2.st = .s) ∧
    ∃ die l, (die * 2 ^ 67 + x.1, l) ∈ s.l2 ∧ l.pa = x.2.pa
  l2 : ∀ x ∈ s.l2, x.2.pa % 64 = 0
  keys : (s.l2.map (·.1)).Nodup
  mem : Memory.wf s.mem = true

/-- Memory holds the newest bytes of the lines of a set, and all its others as before. -/
def WrittenBack (s u : State) (lines : Nat → Prop) : Prop :=
  ∀ a, (lines (a / 64 * 64) → Memory.read u.mem a = s.viewByte a) ∧
    (¬ lines (a / 64 * 64) → Memory.read u.mem a = Memory.read s.mem a)

/-! ## Requests between modules (R261) -/

/-- Nothing on this module but a task of the HTS waits for the answer to a request. -/
structure Unheld (s : State) (id : Nat) : Prop where
  loads : ∀ k ∈ s.cores, ∀ r ∈ k.2.loads, r.remote ≠ some id
  queues : ∀ k ∈ s.cores, ∀ g ∈ k.2.groups, ∀ u ∈ g.2.sq, ∀ a ∈ u.accs, a.remote ≠ some id
  waits : ∀ k ∈ s.cores, ∀ g ∈ k.2.groups, ∀ t ∈ g.2.lanes, ∀ w ∈ t.2.waits,
    w.kind ≠ .fetch (remoteFetch id) ∧ ∀ a d b, w.kind = .poll a d b → a.remote ≠ some id
  images : ∀ i ∈ s.images, ∀ r ∈ i.2.loads, r.remote ≠ some id
  ops : ∀ o ∈ s.ops, o.remote ≠ some id ∧ o.kind ≠ .pgreq

/-! ## Engine operations (R166, R171, R177, R280) -/

/-- An operation by its name, at its core, which is not quiesced, of a workgroup that has not been saved; it neither parks
nor waits for another module, no other operation has its name, and no release of a slot waits at its core. -/
structure OpHere (s : State) (core id : Nat) (o : EngOp) : Prop where
  listed : (s.cores.find? core).isSome = true
  quiet : (s.core core).quiesced = false
  held : ∀ x ∈ (s.core core).slots, x.2.releasing = none
  found : s.op id = some o
  one : ∀ x ∈ s.ops, x.id = id → x = o
  core : o.core = core
  wg : (s.wg o.wg).st ≠ .saved
  park : o.park = none
  remote : o.remote = none

/-- What the threads of a command have accessed before it has performed (R177, R207). -/
def AccessesDone (s : State) (o : EngOp) : Prop :=
  let before (r : LoadReq) : Prop := r.place = o.place ∧ r.accessBy o.lanes = true ∧ r.serial < o.serial
  (s.group o.core o.place).pendingBefore o.lanes o.serial = false ∧ (∀ r ∈ (s.core o.core).loads, ¬ before r) ∧
    ∀ i ∈ s.images, i.2.wg = o.wg → ∀ r ∈ i.2.loads, ¬ before r

/-- The kinds of the copy engine but KVCP. -/
def Copies : EngKind → Prop
  | .cpy _ _ | .tile | .unpk | .pack | .gath | .scat => True
  | _ => False

/-- A write of the device finds its place: the checks of R150 pass, no open region holds the line, the page is neither
replicated nor a window, and the bytes lie in no task record. -/
def DeviceMay (s t : State) (die : Nat) (asid : BitVec 16) (ea : Dword) (n : Nat) (q : Ask) (loc : Loc) : Prop :=
  ea.toNat / 2 ^ 57 % 8 = 0 ∧ s.check die asid ea n q = (t, .ok loc) ∧
  t.farHeld none loc.asid (lineOf loc.va) true = false ∧ loc.leaf.repl = false ∧ t.place loc.pa ≠ .window ∧
  t.recordsAt loc.pa n = []

/-- The request of a word that the device adds to (R380). -/
def deviceWord : Ask := { write := true, atomic := true, tag := false }

/-- Eight bytes of memory rise by an amount. -/
def raised (t : State) (pa : Nat) (x : Dword) : State :=
  t.agentWrite pa (leBytes 8 (BitVec.ofNat 64 (leNat (t.view pa 8)) + x).toNat)

/-- The amount by which a counter rises; the top bit tells an error (R166). -/
def riseOf (err : Nat) : Dword := if err = 0 then 1 else 0x8000000000000001

/-- The rows that slot i of a list of an MMA holds; the lists start at bytes 4 and 12 of its block. -/
def slotRows (s : State) (core : Nat) (j : MmaJob) (list i : Nat) : List (List Fl) :=
  let n := blkNat j.blk (list + i) 1
  ((s.core core).slots.get {} (j.slotBase + n)).rows (blkNat j.blk 1 1) j (s.free + 4096 * n)

/-- Row r of a full-mode operand: the rows of its slots, one after another. -/
def fullRow (s : State) (core : Nat) (j : MmaJob) (list r : Nat) : List Fl :=
  (List.range (blkNat j.blk 2 1)).flatMap fun i => (slotRows s core j list i).getD r []

/-- What an element of the tile starts from. -/
def tileStart (s : State) (core : Nat) (j : MmaJob) (r c : Nat) : FR :=
  (if blkNat j.blk 25 1 = 1 then ((s.core core).tileWord j.tile r c).toNat else 0, 0)

/-! ## Badger (R284 to R311) -/

/-- The members that change a sequence, SEQNEW apart, and those that check a generation (R292, R293). -/
def changing : List Nat := [1, 2, 3, 4, 5, 6, 12, 14]
def generational : List Nat := [2, 3, 4, 5, 6, 8, 9, 10, 12, 14]

/-- A TT command that is next to reach Badger: its threads' earlier accesses have performed, and no earlier command of its
workgroup is still on its way (R177, R293). -/
structure Reaches (s : State) (core id : Nat) (o : EngOp) (sub : Nat) : Prop where
  here : OpHere s core id o
  kind : o.kind = .tt sub
  accesses : AccessesDone s o
  fresh : o.arrived = false ∧ o.done = false ∧ o.started = false ∧ o.reason = 0
  first : ∀ x ∈ s.ops, x.id < id → x.arrived = true ∨ x.wg ≠ o.wg

/-- For a member that changes its sequence, no other command that names the sequence has reached Badger (R293). -/
def Alone (s : State) (id sub : Nat) (o : EngOp) : Prop :=
  sub ∈ changing → ∀ x ∈ s.ops, x.id ≠ id → x.arrived = false ∨ x.seqId ≠ o.seqId

/-- The command names a sequence and its pool, and a generation, if its member looks at one, that the node still has. -/
structure Names (s : State) (id sub : Nat) (o : EngOp) (q : Seq) (p : Pool) : Prop where
  seq : s.seqs.find? o.seqId = some q
  pool : s.pool q.pool = some p
  gen : sub ∈ generational → s.genStale o.gen = false
  alone : Alone s id sub o

/-- The command at Badger, and the machine with it there (R293). -/
def atBadger (s : State) (o : EngOp) (sub : Nat) : EngOp :=
  { o with arrived := true, cursor := if sub ∈ changing then s.nextId else 0, pool := s.ttPool o sub }
def arrived (s : State) (o : EngOp) (sub : Nat) : State := { s.setOp (atBadger s o sub) with nextId := s.nextId + 1 }

/-- The generation of the node that a command names; 0 where its sequence is not allocated (R287, R291). -/
def genNow (v : State) (o : EngOp) : Nat :=
  if v.seqs.find? o.seqId = none then 0 else v.slotGen.get 0 (slotKey o.seqId o.nodeId)

/-- A command has come to its end: its status, reason, generation and outputs are kept for its record (R291). -/
def ttEnds (v : State) (o : EngOp) (status reason gen : Nat) (out : List Byte) : State :=
  (v.setOp { o with done := true, err := status, reason
                    out := leBytes 2 gen ++ (out ++ List.replicate 12 0).take 12 }).retireStale

/-- A node's record changed. -/
def modNode (s : State) (id n : Nat) (f : Node → Node) : State :=
  match s.seqs.find? id with
  | some q => { s with seqs := s.seqs.set id { q with nodes := match q.nodes.find? n with
      | some x => q.nodes.set n (f x)
      | none => q.nodes } }
  | none => s

/-- A node that is not free: LIVE, SEALED or TRUNK. -/
def stands (q : Seq) (n : Nat) : Prop := ∃ x, q.nodes.find? n = some x ∧ 1 ≤ x.state ∧ x.state ≤ 3

/-- Only the sequence `id`, generations of node slots and the pages may differ. -/
structure OnlyTree (s v : State) (id : Nat) : Prop where
  rest : { v with seqs := [], slotGen := [], pages := [] } = { s with seqs := [], slotGen := [], pages := [] }
  others : ∀ k, k ≠ id → v.seqs.find? k = s.seqs.find? k

/-- A sequence whose nodes alone have changed: node k is what `f` gives. -/
def Renodes (v : State) (id : Nat) (q : Seq) (f : Nat → Option Node) : Prop :=
  ∃ q', v.seqs.find? id = some q' ∧ { q' with nodes := [] } = { q with nodes := [] } ∧ ∀ k, q'.nodes.find? k = f k

/-- The lowest free page of a pool, and a pool without one; which page is taken is the model's choice (log 43). -/
def LowestFree (s : State) (p : Pool) (g : Nat) : Prop :=
  g < p.npages ∧ g ∉ s.takenPages p.idx ∧ ∀ h < g, h ∈ s.takenPages p.idx
def NoneFree (s : State) (p : Pool) : Prop := ∀ g < p.npages, g ∈ s.takenPages p.idx

/-- A page is allocated for a node; in an N-format pool its blocks are empty (R285, R288, R296). -/
def Allocated (s : State) (die : Nat) (p : Pool) (owner : Nat × Nat) (g : Nat) (v : State) : Prop :=
  LowestFree s p g ∧
  let w := s.setPage p.idx g { refs := 1, owner := some owner }
  if p.fmt ≤ 1 then v = w else w.pageWrite die p g 0 (List.replicate p.pageb 0) = (v, .ok ())

/-- Pages are allocated one after another. -/
def AllAllocated (die : Nat) (p : Pool) (owner : Nat × Nat) : List Nat → State → State → Prop
  | [], s, v => v = s
  | g :: gs, s, v => ∃ t, Allocated s die p owner g t ∧ AllAllocated die p owner gs t v

/-- More nodes hold a page than its sealed owner and one other (R296). -/
def CountsShared (s : State) (p : Pool) (g : Nat) : Prop :=
  let x := s.page p.idx g
  let sealed := ∃ id n q y, x.owner = some (id, n) ∧ s.seqs.find? id = some q ∧ stands q n ∧ q.nodes.find? n = some y ∧
    g ∈ y.pages ∧ 0 < y.nchild
  (sealed → 2 < x.refs) ∧ (¬ sealed → 1 < x.refs)

/-- Page g at index i of a node's list is copied to page h (R296). -/
def Copied (s : State) (die : Nat) (p : Pool) (id n i g h : Nat) (v : State) : Prop :=
  LowestFree s p h ∧ ∃ t bs w, s.pageRead die p g 0 p.pageb = (t, .ok bs) ∧ t.pageWrite die p h 0 bs = (w, .ok ()) ∧
    v = modNode ((w.setPage p.idx h { refs := 1, owner := some (id, n), scale := (w.page p.idx g).scale }).dropRef p.idx g).1
      id n fun x => { x with pages := x.pages.set i h }

/-- The page that a writer of index i of a node's list uses: g itself, or, where it is shared, its copy (R296, R297). -/
def OwnPage (s : State) (die : Nat) (p : Pool) (id n i g : Nat) (v : State) (h : Nat) (copied : Bool) : Prop :=
  (¬ CountsShared s p g ∧ v = s ∧ h = g ∧ copied = false) ∨ (CountsShared s p g ∧ Copied s die p id n i g h v ∧ copied = true)

/-- Index i of a node's list, as an append finds it: its page, or a new one. -/
def PageReady (s : State) (die : Nat) (p : Pool) (id n i : Nat) (v : State) (copied : Bool) : Prop :=
  ∃ q x, s.seqs.find? id = some q ∧ q.nodes.find? n = some x ∧
    ((∃ g h, x.pages[i]? = some g ∧ OwnPage s die p id n i g v h copied) ∨
     (∃ g t, x.pages[i]? = none ∧ Allocated s die p (id, n) g t ∧ copied = false ∧
       v = modNode t id n fun x => { x with pages := x.pages ++ [g] }))

/-- The pages of an append, index by index from i on. -/
def PagesReady (die : Nat) (p : Pool) (id n : Nat) : Nat → Nat → State → State → Bool → Prop
  | _, 0, s, v, copied => v = s ∧ copied = false
  | i, k + 1, s, v, copied => ∃ t b c, PageReady s die p id n i t b ∧ PagesReady die p id n (i + 1) k t v c ∧ copied = (b || c)

/-- Index i of a node's list needs a page, and its pool has none. -/
def PageLacks (s : State) (p : Pool) (id n i : Nat) : Prop :=
  NoneFree s p ∧ ∃ q x, s.seqs.find? id = some q ∧ q.nodes.find? n = some x ∧
    ∀ g, x.pages[i]? = some g → CountsShared s p g

/-- The root of a windowed sequence has appended k positions from e on: the last of a ring index tells its wrap (R301). -/
def RingAppended (s v : State) (id : Nat) (q : Seq) (x : Node) (k : Nat) : Prop :=
  let e := x.first + x.count
  let ring (pos : Nat) : Nat := (pos - q.sink) % q.window
  { v with seqs := [] } = { s with seqs := [] } ∧ (∀ j, j ≠ id → v.seqs.find? j = s.seqs.find? j) ∧
  ∃ q', v.seqs.find? id = some q' ∧ { q' with nodes := [], wrap := [] } = { q with nodes := [], wrap := [] } ∧
    (∀ m, q'.nodes.find? m = if m = 0 then some { x with count := x.count + k } else q.nodes.find? m) ∧
    (∀ pos, e ≤ pos → pos < e + k → q.sink ≤ pos → e + k ≤ pos + q.window →
      q'.wrap.get 0 (ring pos) = (pos - q.sink) / q.window) ∧
    ∀ r, (∀ pos, e ≤ pos → pos < e + k → q.sink ≤ pos → ring pos ≠ r) → q'.wrap.get 0 r = q.wrap.get 0 r

/-- A node and those below it are pruned: `ns` are those of them that stood, and `gone` the pages that they held
(R287, R288, R299). -/
structure Pruned (s v : State) (pool id : Nat) (q : Seq) (n : Nat) (ns gone : List Nat) : Prop where
  stood : ∀ k, k ∈ ns ↔ k ∈ q.subtree n ∧ stands q k
  once : ns.Nodup
  pages : gone = ns.flatMap fun k => ((q.nodes.find? k).getD {}).pages
  only : OnlyTree s v id
  nodes : Renodes v id q fun k => (q.nodes.find? k).map fun x =>
    if k ∈ ns then { x with state := 4, gen := min 0xFFFF (x.gen + 1), pages := [] }
    else if (q.nodes.find? n).map Node.parent = some k then { x with nchild := x.nchild - 1 } else x
  gens : (∀ k ∈ ns, v.slotGen.get 0 (slotKey id k) = min 0xFFFF (((q.nodes.find? k).getD {}).gen + 1)) ∧
    ∀ key, (∀ k ∈ ns, slotKey id k ≠ key) → v.slotGen.get 0 key = s.slotGen.get 0 key
  refs : ∀ key, v.pages.get {} key =
    { s.pages.get {} key with refs := (s.pages.get {} key).refs - (gone.map (pageName pool)).count key }

/-- The nodes of a sequence form a tree: each is listed once, and none below a node is its parent. -/
def Treelike (q : Seq) : Prop :=
  (q.nodes.map (·.1)).Nodup ∧ ∀ n x, q.nodes.find? n = some x → x.parent ∉ q.subtree n

/-- Several nodes are pruned, one after another; so many nodes stood. -/
def AllPruned (pool id : Nat) : List Nat → State → State → Nat → Prop
  | [], s, v, count => v = s ∧ count = 0
  | n :: ns, s, v, count => ∃ q t low gone more, s.seqs.find? id = some q ∧ Pruned s t pool id q n low gone ∧
      AllPruned pool id ns t v more ∧ count = low.length + more

/-- Free node slots that a fork takes, the lowest first: the model's choice (log 43). -/
def freeSlots (s : State) (id : Nat) (q : Seq) : List Nat :=
  (List.range 1024).filter fun k => decide (q.nodes.find? k = none) && decide (s.slotGen.get 0 (slotKey id k) < 0xFFFF)

/-- The slots have been allocated with the next generation each. -/
def Generated (s v : State) (id : Nat) (ks : List Nat) : Prop :=
  ∀ key, v.slotGen.get 0 key = s.slotGen.get 0 key + if ∃ k ∈ ks, slotKey id k = key then 1 else 0

/-- The partly filled last page of a node's list, which its children share (R288). -/
def tailPage (q : Seq) (P n : Nat) (x : Node) : Option Nat :=
  let e := x.first + x.count
  if (q.windowed = true ∧ n = 0) ∨ e % P = 0 then none else x.pages[(e - 1) / P - x.first / P]?

/-- Children have been made at a node's end (R288, R295). -/
structure Forked (s v : State) (p : Pool) (id n : Nat) (q : Seq) (x : Node) (kids : List Nat) : Prop where
  only : OnlyTree s v id
  nodes : Renodes v id q fun k =>
    if k ∈ kids then some { parent := n, depth := x.depth + 1, state := 1, first := x.first + x.count
                            gen := s.slotGen.get 0 (slotKey id k) + 1, pages := (tailPage q p.P n x).toList }
    else if k = n then some { x with nchild := x.nchild + kids.length, state := if x.state = 1 then 2 else x.state }
    else q.nodes.find? k
  gens : Generated s v id kids
  refs : ∀ key, v.pages.get {} key = { s.pages.get {} key with
    refs := (s.pages.get {} key).refs + if (tailPage q p.P n x).map (pageName p.idx) = some key then kids.length else 0 }

/-- A node has been divided at a position: node m has what comes from there on (R295). -/
structure Divided (s v : State) (p : Pool) (id n m at_ : Nat) (q : Seq) (x : Node) : Prop where
  only : OnlyTree s v id
  nodes : Renodes v id q fun k =>
    if k = m then some { x with parent := n, depth := x.depth + 1, first := at_, count := x.first + x.count - at_
                                gen := s.slotGen.get 0 (slotKey id m) + 1, pages := x.pages.drop (at_ / p.P - x.first / p.P) }
    else if k = n then some { x with count := at_ - x.first, state := 2, nchild := 1
                                     pages := x.pages.take ((at_ - 1) / p.P - x.first / p.P + 1) }
    else (q.nodes.find? k).map fun z => if k ∈ q.subtree n then
      { z with depth := z.depth + 1, parent := if z.parent = n then m else z.parent } else z
  gens : Generated s v id [m]
  refs : ∀ key, v.pages.get {} key = { s.pages.get {} key with
    refs := (s.pages.get {} key).refs +
      if at_ % p.P ≠ 0 ∧ (x.pages[at_ / p.P - x.first / p.P]?).map (pageName p.idx) = some key then 1 else 0
    owner := if key ∈ (x.pages.drop ((at_ - 1) / p.P - x.first / p.P + 1)).map (pageName p.idx) then some (id, m)
      else (s.pages.get {} key).owner }

/-- A page has been rescaled by δ: every non-empty block of it gains δ (R297). -/
def Rescaled (s : State) (die : Nat) (p : Pool) (g delta : Nat) (v : State) (es : List Ev) : Prop :=
  if delta = 0 then v = s ∧ es = []
  else ∃ t bs w, let area := 2 * p.L * p.H * p.P * p.rb
    let blocks := (List.range (area / 64)).map fun i => (bs.drop (64 * i)).take 64
    let full (b : List Byte) : Bool := decide (blkNat b 0 1 ≠ 0)
    s.pageRead die p g 0 area = (t, .ok bs) ∧
    t.pageWrite die p g 0 (blocks.flatMap fun b => if full b then (rescaleBlock b delta).1 else b) = (w, .ok ()) ∧
    v = w.setPage p.idx g { w.page p.idx g with scale := (w.page p.idx g).scale.map (· + delta) } ∧
    es = 0x80 :: (blocks.filter full).flatMap fun b => List.replicate (rescaleBlock b delta).2 0x40

/-- A row has been written to its page, which it has made to rise by so much (R297): in BF16 and E4M3 each element is rounded
with RNE and SAT, and a NaN is +0 and counts invalid; in an N format the page takes the row's scale if it has none, and
rises by the least with which no group overflows, or to 254. -/
def RowWritten (die : Nat) (p : Pool) (g off : Nat) (xs : List Fl) (s v : State) (rise : Nat) (es : List Ev) : Prop :=
  if p.fmt ≤ 1 then
    let f := if p.fmt = 0 then Fmt.bf16 else Fmt.e4m3
    let elem (x : Fl) : FR := if x = .nan then (0, Ev.invalid) else f.cvt 0 true x true
    s.pageWrite die p g off (xs.flatMap fun x => leBytes (f.w / 8) (elem x).1) = (v, .ok ()) ∧ rise = 0 ∧
    es = xs.map fun x => (elem x).2
  else
    let m := if p.fmt = 2 then 7 else 4
    let first := chooseScale (xs.filter fun x => !x.isNan && !x.isInf)
    let S := (s.page p.idx g).scale.getD first
    let row (k : Nat) : SdbEnc := encodeRow p.sdb (some (S + k)) (kvValues m (S + k) xs)
    let t := if (s.page p.idx g).scale = none then s.setPage p.idx g { s.page p.idx g with scale := some first } else s
    (∀ k < rise, S + k < 254 ∧ (row k).ovf = true) ∧ (254 ≤ S + rise ∨ (row rise).ovf = false) ∧
    ∃ w es', Rescaled t die p g rise w es' ∧ w.pageWrite die p g off (row rise).bytes = (v, .ok ()) ∧
      es = es' ++ kvEvents xs ++ (row rise).evs

/-- The rows of several heads. -/
def RowsWritten (die : Nat) (p : Pool) (g layer part slot : Nat) :
    List (Nat × List Fl) → State → State → Nat → List Ev → Prop
  | [], s, v, rise, es => v = s ∧ rise = 0 ∧ es = []
  | (h, xs) :: rs, s, v, rise, es => ∃ t a b e f, RowWritten die p g (p.rowOff layer h part slot) xs s t a e ∧
      RowsWritten die p g layer part slot rs t v b f ∧ rise = a + b ∧ es = e ++ f

/-- Rows of one page's slot have been copied to another's, image by image, in a pool of BF16 or E4M3 (R301). -/
def RowsCopied (die : Nat) (p : Pool) (src srcSlot dst dstSlot : Nat) : List (Nat × Nat × Nat) → State → State → Prop
  | [], s, v => v = s
  | (l, h, part) :: rs, s, v => ∃ t bs w, s.pageRead die p src (p.rowOff l h part srcSlot) p.rb = (t, .ok bs) ∧
      t.pageWrite die p dst (p.rowOff l h part dstSlot) bs = (w, .ok ()) ∧ RowsCopied die p src srcSlot dst dstSlot rs w v

/-- The root of a windowed sequence takes one position more, as an append does (R301). -/
def rootTakes (s : State) (id : Nat) (q : Seq) (r : Node) : State :=
  let e := r.first + r.count
  { s with seqs := s.seqs.set id { q with
      nodes := q.nodes.set 0 { r with count := r.count + 1 }
      wrap := if e < q.sink then q.wrap else q.wrap.set ((e - q.sink) % q.window) ((e - q.sink) / q.window) } }

/-- The tokens of a path's nodes below the root have been appended to the ring of a windowed sequence of BF16 or E4M3, with
their rows (R301). -/
def TokensMoved (die : Nat) (p : Pool) (id : Nat) : List (Nat × Nat) → State → State → Prop
  | [], s, v => v = s
  | (n, pos) :: ts, s, v => ∃ q x r g g' w, s.seqs.find? id = some q ∧ q.nodes.find? n = some x ∧ q.nodes.find? 0 = some r ∧
      q.pageOf p.P n x pos = some g ∧ q.pageOf p.P 0 r (r.first + r.count) = some g' ∧
      RowsCopied die p g (pos % p.P) g' (q.slotOf p.P 0 (r.first + r.count)) p.lanes (rootTakes s id q r) w ∧ TokensMoved die p id ts w v

/-- The rows of gathered keys have been read; a ring position that is no longer current has none (R301, R305). -/
def KeysRead (die : Nat) (p : Pool) (id layer head part : Nat) : List (Nat × Dword × Dword) → State → State → List RowImage → Prop
  | [], s, v, rs => v = s ∧ rs = []
  | (g, slot, key) :: ks, s, v, rs =>
    if s.keyCurrent id key = true then
      ∃ t bs rs', s.pageRead die p g (p.rowOff layer head part slot.toNat) p.rb = (t, .ok bs) ∧
        KeysRead die p id layer head part ks t v rs' ∧ rs = some (bs, (t.page p.idx g).scale) :: rs'
    else ∃ rs', KeysRead die p id layer head part ks s v rs' ∧ rs = none :: rs'

/-- The scratchpad of a command's core holds a list that it reads: the bytes are not poisoned (R290, R371). -/
def listAt (s : State) (o : EngOp) (off n : Nat) : Option (List Byte) :=
  if (s.core o.core).spadPoisoned off n then none else some ((s.core o.core).spadRead off n)

/-- Queries of a list: node and position (R303). -/
def queries (bs : List Byte) (n : Nat) : List (Nat × Nat) := (List.range n).map fun i => (blkNat bs (8 * i) 2, blkNat bs (8 * i + 4) 4)

/-- A query stands on a position of its node. -/
def QueryWell (q : Seq) (e : Nat × Nat) : Prop :=
  ∃ x, q.nodes.find? e.1 = some x ∧ stands q e.1 ∧ x.first ≤ e.2 ∧ e.2 < x.first + x.count

/-- Key k is visible to query e (R304). -/
def Visible (q : Seq) (e k : Nat × Nat) : Prop :=
  k.1 ∈ q.chain e.1 256 ∧ k.2 ≤ e.2 ∧
  (q.windowed = true → k.1 = 0 → q.current 0 k.2 = true ∧ (k.2 < q.sink ∨ (e.2 : Int) - k.2 < q.window))

/-- A K gather's row of a BF16 or E4M3 pool, and a V gather's: the channels of one key, or one channel of every key (R305). -/
def gatherRow (p : Pool) (b : List Byte) (rs : List RowImage) (i : Nat) : List Byte :=
  let w := if p.fmt = 0 then 2 else 1
  let image (r : RowImage) : List Byte := match r with
    | some x => x.1
    | none => List.replicate p.rb 0
  let cells := if blkNat b 15 1 = 0 then (match rs[i]? with
      | some r => ((image r).drop (w * blkNat b 22 2)).take (w * blkNat b 24 2)
      | none => [])
    else if i < blkNat b 24 2 then rs.flatMap fun r => ((image r).drop (w * (blkNat b 22 2 + i))).take w
    else []
  (cells ++ List.replicate 144 0).take 144

/-- The partial attention of a query over a block's rows as R309 gives it: m, l and o. -/
def attends (scl : Nat) (q : List Fl) (ks vs : List (List Fl)) : List Byte :=
  let f := Fmt.f32
  let t := ks.map fun k => (f.mul 0 (f.val (roundSum [] (q.zip k)).1) (f.val scl)).1
  let m := t.tail.foldl (f.minmax true) (t.headD 0)
  let e := t.map fun x => (exp2F32 0 (f.val (f.sub 0 (f.val x) (f.val m)).1)).1
  let l := e.tail.foldl (fun a x => (f.add 0 (f.val a) (f.val x)).1) (e.headD 0)
  let o (d : Nat) : Nat := (e.zip vs).foldl (fun a x =>
    (f.fma 0 false (f.val x.1) (x.2.getD d (.fin false 0 0)) (f.val a)).1) 0
  leBytes 4 m ++ leBytes 4 l ++ (List.range q.length).flatMap fun d => leBytes 4 (o d)

/-- Nothing tagged with a generation of the sequence that no longer holds is still to run (R299). -/
def Quieted (s : State) (o : EngOp) : Prop :=
  let old (g : Dword) : Prop := g.toNat % 2 ^ 16 = o.seqId ∧ s.genStale g = true
  (∀ x ∈ s.ops, x.id ≠ o.id → x.done = true ∨ ¬ old x.gen) ∧
  ∀ k ∈ s.cores, ∀ j ∈ k.2.mq, j.started = true ∨ ¬ old (BitVec.ofNat 64 (blkNat j.blk 56 8))

/-- The completion of a command ends a prune (R294, R299, R300). -/
def EndsPrune (s : State) (o : EngOp) (sub : Nat) (q : Seq) : Prop :=
  o.err = 0 ∧ s.seqs.find? o.seqId = some q ∧ (sub = 1 ∨ sub = 5 ∨ (sub = 6 ∧ (o.flag1 = true ∨ q.windowed = true)))

/-- Pruned node slots are free; a freed sequence goes, with its sink and ring (R294, R299). -/
def pruneOver (s : State) (o : EngOp) (sub : Nat) (q : Seq) : State :=
  if sub = 1 then
    let t := (s.dropRefs q.pool q.ring).1
    { t with seqs := t.seqs.erase o.seqId }
  else { s with seqs := s.seqs.set o.seqId { q with nodes := q.nodes.filter fun n => decide (n.2.state ≠ 4) } }

/-! ## Regions and deterministic launches (R210, R212, R213, R233 to R236, R241, R335) -/

/-- A thread has the open region `r` in a slot of an instance. -/
def HasRegion (s : State) (core place lane : Nat) (ref : InstRef) (slot : Nat) (r : Region) : Prop :=
  let t := s.thread core place lane
  t.live = true ∧ (t.far.state = 1 ∨ t.far.state = 2) ∧ t.far.slot = slot ∧
  ref = (t.far.dieScope, if t.far.dieScope then core / 72 else core) ∧ (s.inst ref).regions.find? slot = some r

/-- No uncommitted region of the instance is older. -/
def OldestOf (s : State) (ref : InstRef) (r : Region) : Prop := ∀ x ∈ (s.inst ref).regions, r.order ≤ x.2.order

/-- The thread, told that its region has committed if it waits in FARE for that. -/
def toldCommit (s : State) (core place lane : Nat) : State :=
  s.modThread core place lane fun t =>
    match t.waits.findSome? fun w => match w.kind with
      | .fare pd => some pd
      | _ => none with
    | some pd => { t with p := putPred t.p pd true, waits := t.waits.filter fun w => w.kind ≠ .fare pd }
    | none => t

/-- Every wave of a deterministic launch has arrived at its flush, and what they stored has performed; some wave is
still at it. -/
structure AtFlush (s : State) (task : Nat) : Prop where
  det : (s.launch task).hdr.det = true
  go : (s.launch task).go = true
  arrived : ∀ x ∈ s.waves task, s.waveArrived (s.launch task) x.1 x.2 = true ∧ s.waveStored x.1 = true
  one : ∃ x ∈ s.waves task, ¬ (x.2.st = .ended ∧ x.2.segment < (s.launch task).flushes)

/-- The flush is over: the threads that wait for it go on. -/
def flushed (s : State) (task : Nat) (ws : List Nat) (n : Nat) : State :=
  (s.release ws (.dflush n)).modLaunch task fun l => { l with flushes := l.flushes + 1 }

/-! ## The scheduler (R316 to R339) -/

/-- A decrement that finds no task that counts (R317, R319). -/
def ignored (s : State) : State :=
  { s with htsIgn := BitVec.ofNat 64 (min 0xFFFFFFFF (s.htsIgn.toNat % 2 ^ 32 + 1)) }

/-- A task of the table that counts: it is in STATE 1, and not on its way to its end. -/
def Counts (s : State) (t : Nat) : Prop := t < s.tsz ∧ s.taskState t = 1 ∧ (s.task t).phase = 0

/-- A decrement with an error marks the task: bit 2 of POLICY. -/
def marked (s : State) (t : Nat) (err : Bool) : State := if err then s.taskPut t 7 1 (s.taskNat t 7 1 ||| 4) else s

/-- `u` is the state after a decrement of a task (R319, R321): the counter falls, not below zero; at zero the task is
ready, but for one of a stale generation, and one with an error whose POLICY asks to skip it. -/
def CountsDown (s : State) (t amount : Nat) (err : Bool) (u : State) : Prop :=
  let v := marked s t err
  let c := v.taskNat t 0 4 - amount
  let w := v.taskPut t 0 4 c
  (¬ Counts s t → u = ignored s) ∧
  (Counts s t → c ≠ 0 → u = w.inherit) ∧
  (Counts s t → c = 0 → w.taskStale t = true → u = (w.endTask t 5 0 0 4 0).inherit) ∧
  (Counts s t → c = 0 → w.taskStale t = false →
    let pol := w.taskNat t 7 1
    (pol / 4 % 2 = 1 ∧ pol % 2 = 1 → u = (w.endTask t 6 0 0 4 0).inherit) ∧
    (¬ (pol / 4 % 2 = 1 ∧ pol % 2 = 1) →
      u = ((w.taskPut t 6 1 2).modTask t fun x => { x with phase := 1, readyAt := s.timeNs }).inherit))

/-- STATUS and STATE of a task of the table that has ended are written, and what waiting tasks hand on follows
(R323, R327). -/
def statusWritten (s : State) (t : Nat) (x : HtsTask) : State :=
  let st := if x.status = 0 then 4 else if x.status = 2 then 7 else if x.status = 6 then 6 else 5
  (((s.taskPut t 28 4 (x.status + x.detail % 256 * 2 ^ 8 + x.cause2 % 256 * 2 ^ 16)).taskPut t 6 1 st).modTask t fun x =>
    { x with phase := 6, cancelled := false, got := [] }).inherit

/-- The decrements of a list of successors, which a task's ending sends (R318, R327). -/
def successors (b : List Byte) (n : Nat) (err : Bool) (sender : Nat) : List Decrement :=
  (List.range n).map fun i =>
    { task := blkNat b (8 * i) 4 % 2 ^ 18, amount := BitVec.ofNat 32 (blkNat b (8 * i + 4) 4), err, from_ := sender }

/-- A task's launch, as a workgroup on a core begins it: one that runs on one die takes the core's. -/
def beginsOn (s : State) (task core : Nat) : Launch :=
  let l := s.launch task
  if (s.task task).phase = 2 ∧ l.hdr.minDies = 1 ∧ l.elastic = false then
    { l with dieset := if core / 72 = 1 then 2 else 1 }
  else l

/-- The next workgroup of a launch may start on a core (R32, R212, R322, R325, R328, R334). -/
structure MayStart (s : State) (task core : Nat) : Prop where
  hasBoot : s.boot = .running
  hasCore : core < s.coreCount
  hasPhase : ((s.task task).phase = 2 ∧ s.heads task = true) ∨ (s.task task).phase = 3
  hasStopped : (s.launch task).stopped = false
  hasLeft : (s.launch task).nextWg < (beginsOn s task core).startable
  hasDie : (beginsOn s task core).mayRunOn (s.launch task).nextWg (core / 72) = true
  hasImages : ∀ y ∈ s.savedImages task, s.badGeometry y.2 = true
  hasReserve : s.reserveAllows core task = true
  hasWave : (s.launch task).hdr.det = true → s.waveMay task core (s.launch task).nextWg = true

/-- The workgroup starts: the launch counts it, and a task that waited runs. -/
def begun (s : State) (task core : Nat) : State :=
  let l := beginsOn s task core
  let u := { s with launches := s.launches.set task { l with
    nextWg := l.nextWg + 1, begun := if l.nextWg = 0 then s.timeNs else l.begun } }
  if (s.task task).phase = 2 then ((u.taskPut task 6 1 3).modTask task fun x => { x with phase := 3 }).inherit else u

/-- A waiting task that has no place: it may go onto no core that has room or will have. -/
structure NoPlace (s : State) (task : Nat) : Prop where
  waits : (s.task task).phase = 2 ∨ ((s.task task).phase = 3 ∧ s.savedImages task ≠ [])
  none : ∀ c, c < s.coreCount → s.mayUse task c = true →
    ¬ ((s.anySpot c task 0 []).isSome = true ∧ s.reserveAllows c task = true) ∧ s.roomComing task c = false

/-! ## The fabric, the host and the text path (R341 to R379) -/

/-- The link of a hop of a path, and the path's number of hops (R341). -/
def hopLink (p : BitVec 17) (hop : Nat) : Nat := p.toNat / 2 ^ (10 - 5 * hop) % 32
def hopCount (p : BitVec 17) : Nat := p.toNat / 2 ^ 15

/-- The path that an entry of the route table selects, SEL 3 being 0, and path k of it (R341). -/
def pathOf (e : Dword) (k : Nat) : BitVec 17 := e.extractLsb' (1 + 17 * k) 17
def selOf (e : Dword) : Nat := e.toNat / 2 ^ 53 % 4 % 3

/-- A packet leaves. -/
def leaves (s : State) (p : Packet) (link : Nat) (q : Packet) : State :=
  { s with packets := s.packets.erase p, wire := s.wire ++ [(link, q)] }

/-- A packet is lost here, or has arrived. -/
def lost (s : State) (p : Packet) : State := { s with packets := s.packets.erase p }

/-- A port as its record has been read, and the refusal told (R358, R359). -/
def refusedRecord (s : State) (port : Nat) (r : TkeRec) (code : Nat) : State :=
  let p := s.port port
  s.setPort port { p with
    sent := p.sent ++ [(r.conn, leBytes 4 0x4D5A5250 ++ [1, 2, BitVec.ofNat 8 code, 0] ++ leBytes 4 r.session ++ leBytes 4 0)]
    rptr := p.rptr + BitVec.ofNat 32 (recordBytes (if r.trunc then 0 else r.len)), failed := false, atHeader := false
    reserved := none }

/-- A port with one of its sessions as its oldest post leaves it. -/
def postTaken (s : State) (port slot : Nat) (y : Session) : State :=
  s.setPort port { s.port port with sessions := (s.port port).sessions.set slot y }

/-- A reply of a session to its connection (R359). -/
def replied (s : State) (y : Session) (kind code : Nat) (text : List Byte) : State :=
  s.setPort y.port { s.port y.port with sent := (s.port y.port).sent ++
    [(y.conn, leBytes 4 0x4D5A5250 ++ [1, BitVec.ofNat 8 kind, BitVec.ofNat 8 code, 0] ++ leBytes 4 y.session ++
      leBytes 4 text.length ++ text)] }

end Sys2Proof.Claims
end

