-- ==== Sys2Proof/Certificates/Slice0/Obligations.lean ====
section
/-! DEFINITION. The statements about the machine, by the chapters of the manual. -/

open Sys2Proof Sys2Proof.Machine Sys2Proof.Claims

/-- R129, R132: each member of IALU writes v(D) of every executing thread with OP(a, b), where b is v(B), the low word
of s(B), or the immediate; each member of I64 writes the pair v(D) with OP(a, b) on 64 bits. ADD, SUB and the low
product clamp under SAT. -/
def Obligations.VectorIntegerResults : Prop :=
  ((∀ m ∈ ialuVv, ∀ d a b, SetsVEv (fun c => m.1 c d a b) d fun s x => m.2.run s.cur.pfx.sat (s.v x a) (s.bv b x)) ∧
   (∀ m ∈ ialuVs, ∀ d a b, SetsVEv (fun c => m.1 c d a b) d fun s x => m.2.run s.cur.pfx.sat (s.v x a) (s.bs b)) ∧
   (∀ m ∈ ialuVi, ∀ d a i,
     SetsVEv (fun c => m.1 c d a i) d fun s x => m.2.run s.cur.pfx.sat (s.v x a) ((s.imm7 i).setWidth 32))) ∧
  (∀ m ∈ i64, ∀ d a b, SetsPairEv (fun c => m.1 c d a b) d fun s x => m.2.run s.cur.pfx.sat (s.v64 x a) (s.bv64 b x))

/-- R144 to R147: each member of SALU writes s(D) once for the unit with OP(a, b) on 64 bits; SMOVI, SCMP and SMAD,
once for the unit. SCMP writes every live thread of the group. -/
def Obligations.UniformResults : Prop :=
  ((∀ m ∈ saluSs, ∀ d a b, SetsSEv (fun c => m.1 c d a b) d fun s => m.2.run s.cur.pfx.sat (s.sr a) (s.bss b)) ∧
   (∀ m ∈ saluSi, ∀ d a i, SetsSEv (fun c => m.1 c d a i) d fun s => m.2.run s.cur.pfx.sat (s.sr a) (s.imm7 i))) ∧
  ((∀ d i, SetsS (fun c => .smovi c d i) d fun s => s.imm18 i) ∧
   (∀ k (p : BitVec 3) a b (s : State) (c : Bool), ∃ u, exec (.scmp c k p a b) s = .next (afterUnit c u) ∧
     OnlyP s u (if s.E = [] then [] else s.here.live) [p.toNat] ∧
     (s.E ≠ [] → ∀ x ∈ s.here.live, u.here.rp x p.toNat = (decide (p = 0) || cond k (s.sr a) (s.sr b)))) ∧
   (∀ d a b, SetsS (fun c => .smadMad c d a b) d fun s => BitVec.ofNat 64 ((s.sr a).toNat * (s.sr b).toNat + (s.sr d).toNat)) ∧
   (∀ d a b, SetsS (fun c => .smadMadhS c d a b) d fun s =>
     BitVec.ofInt 64 ((s.sr a).toInt * (s.sr b).toInt / 2 ^ 64 + (s.sr d).toInt)) ∧
   (∀ d a b, SetsS (fun c => .smadMadhN c d a b) d fun s =>
     BitVec.ofNat 64 ((s.sr a).toNat * (s.sr b).toNat / 2 ^ 64 + (s.sr d).toNat)))

/-- R130, R131: the members of IMAD write a·b + d, exact and then clamped under SAT or wrapped, to v(D) or the pair;
the members of IUN, by what relates the result to the source, BFE and BFI bit by bit. -/
def Obligations.MultiplyAddAndUnary : Prop :=
  ((∀ d a b, SetsVEv (fun c => .madS32 c d a b) d fun s x =>
     fitS 32 s.cur.pfx.sat ((s.v x a).toInt * (s.bv b x).toInt + (s.v x d).toInt)) ∧
   (∀ d a b, SetsVEv (fun c => .madN32 c d a b) d fun s x =>
     fitN 32 s.cur.pfx.sat ((s.v x a).toNat * (s.bv b x).toNat + (s.v x d).toNat)) ∧
   (∀ d a b, SetsPairEv (fun c => .madwS c d a b) d fun s x =>
     fitS 64 s.cur.pfx.sat ((s.v x a).toInt * (s.bv b x).toInt + (s.v64 x d).toInt)) ∧
   (∀ d a b, SetsPairEv (fun c => .madwN c d a b) d fun s x =>
     fitN 64 s.cur.pfx.sat ((s.v x a).toNat * (s.bv b x).toNat + (s.v64 x d).toNat)) ∧
   (∀ d a b, SetsVEv (fun c => .madhS c d a b) d fun s x =>
     fitS 32 s.cur.pfx.sat ((s.v x a).toInt * (s.bv b x).toInt / 2 ^ 32 + (s.v x d).toInt)) ∧
   (∀ d a b, SetsVEv (fun c => .madhN c d a b) d fun s x =>
     fitN 32 s.cur.pfx.sat ((s.v x a).toNat * (s.bv b x).toNat / 2 ^ 32 + (s.v x d).toNat))) ∧
  ((∀ m ∈ iun, ∀ d a, WritesV (fun c => m.1 c d a) d (fun s x w => m.2.holds (s.v x a) w) fun _ _ => []) ∧
   (∀ d a b, WritesV (fun c => .bfe c d a b) d (fun s x w =>
     let pos := (s.v x b).toNat % 2 ^ 8
     let len := fieldLen (s.v x b)
     ∀ i < 32, w.getLsbD i = (if i < len then (s.v x a).getLsbD (pos + i)
       else (s.v x b).getLsbD 16 && decide (0 < len) && (s.v x a).getLsbD (pos + len - 1))) fun _ _ => []) ∧
   (∀ d a b, WritesV (fun c => .bfi c d a b) d (fun s x w =>
     let pos := (s.v x b).toNat % 2 ^ 8
     let len := fieldLen (s.v x b)
     ∀ i < 32, w.getLsbD i = (if pos ≤ i ∧ i < pos + len then (s.v x a).getLsbD (i - pos)
       else (s.v x d).getLsbD i)) fun _ _ => []))

/-- R133 to R137: comparisons, selection and predicate logic; moves between registers, predicates and modulo
registers. -/
def Obligations.CompareAndMoveResults : Prop :=
  ((∀ k p a b, SetsP (fun c => .icmpS32Vv c k p a b) p fun s x => cond k (s.v x a) (s.bv b x)) ∧
   (∀ k p a b, SetsP (fun c => .icmpS32Vs c k p a b) p fun s x => cond k (s.v x a) (s.bs b)) ∧
   (∀ k p a b, SetsP (fun c => .icmpB64Vv c k p a b) p fun s x => cond k (s.v64 x a) (s.bv64 b x)) ∧
   (∀ k p a b, SetsP (fun c => .icmpB64Vs c k p a b) p fun s x => cond k (s.v64 x a) (s.sr b)) ∧
   (∀ k p a b, SetsP (fun c => .icmpAndS32Vv c k p a b) p fun s x => s.pr x p && cond k (s.v x a) (s.bv b x)) ∧
   (∀ k p a b, SetsP (fun c => .icmpAndS32Vs c k p a b) p fun s x => s.pr x p && cond k (s.v x a) (s.bs b)) ∧
   (∀ k p a b, SetsP (fun c => .icmpAndB64Vv c k p a b) p fun s x => s.pr x p && cond k (s.v64 x a) (s.bv64 b x)) ∧
   (∀ k p a b, SetsP (fun c => .icmpAndB64Vs c k p a b) p fun s x => s.pr x p && cond k (s.v64 x a) (s.sr b)) ∧
   (∀ d a b n p, SetsV (fun c => .sel c d a b n p) d fun s x =>
     if xor (s.pr x p) (n = 1#1) then s.v x a else s.bv b x) ∧
   (∀ d a b, SetsP (fun c => .pand c d a b) d fun s x => s.pr x a && s.pr x b) ∧
   (∀ d a b, SetsP (fun c => .por c d a b) d fun s x => s.pr x a || s.pr x b) ∧
   (∀ d a b, SetsP (fun c => .pxor c d a b) d fun s x => xor (s.pr x a) (s.pr x b)) ∧
   (∀ d a b, SetsP (fun c => .pandn c d a b) d fun s x => s.pr x a && !s.pr x b) ∧
   (∀ d a, SetsP (fun c => .pmov c d a) d fun s x => s.pr x a) ∧
   (∀ d a, SetsP (fun c => .pnot c d a) d fun s x => !s.pr x a)) ∧
  ((∀ d i, SetsV (fun c => .movi c d i) d fun s _ => (s.imm18 i).setWidth 32) ∧
   (∀ d b, SetsV (fun c => .mov c d b) d fun s x => s.bv b x) ∧
   (∀ d b, SetsV (fun c => .movb c d 0 b) d fun s _ => (s.sr b).setWidth 32) ∧
   (∀ d b, SetsV (fun c => .movb c d 1 b) d fun s _ => (s.sr b).extractLsb' 32 32) ∧
   (∀ d b, SetsPair (fun c => .mov64 c d b) d fun s x => s.v64 x b) ∧
   (∀ d, WritesV (fun c => .ptov c d) d (fun s x w =>
     ∀ i < 32, w.getLsbD i = (decide (i < 8) && s.cur.rd.rp x i)) fun _ _ => []) ∧
   (∀ a (s : State) (c : Bool), ∃ u, exec (.vtop c a) s = .next (afterUnit c u) ∧
     (∀ x ∈ s.E, ∀ i, 0 < i → i < 8 → u.here.rp x i = (s.v x a).getLsbD i) ∧ OnlyP s u s.E [1, 2, 3, 4, 5, 6, 7]) ∧
   (∀ (q : BitVec 3) (b : BitVec 5) (s : State) (c : Bool), ∃ u, exec (.qwr c q b) s = .next (afterUnit c u) ∧
     u.here.rq q.toNat = (if s.E = [] then s.here.rq q.toNat else s.sr b) ∧ OutsideHere s u ∧
     { u.here with q := [] } = { s.here with q := [] } ∧ ∀ n, n ≠ q.toNat → u.here.rq n = s.here.rq n) ∧
   (∀ d (q : BitVec 3), SetsS (fun c => .qrd c d q) d fun s => s.cur.rd.rq q.toNat))

/-- R138: one lane's value to or from the uniform file. The lowest lane of E is the first, since the lanes of a chain
rise. R142: SHFL exchanges a register between the executing threads; a source that is no executing lane leaves the
thread its own value. R143: VOTE combines values over the executing threads. -/
def Obligations.LaneExchanges : Prop :=
  ((∀ d a (f : Nat), (∀ (s : State) (c : Bool), s.cur.lanes.Pairwise (· < ·) → f ∈ s.E → (∀ x ∈ s.E, f ≤ x) →
     ∃ u, exec (.vrfl c d a 0) s = .next (afterUnit c u) ∧ OnlyS s u d.toNat ∧
       u.here.rs d.toNat = if d = 0 then 0 else (s.v f a).setWidth 64) ∧
     (∀ (s : State) (c : Bool), s.cur.lanes.Pairwise (· < ·) → f ∈ s.E → (∀ x ∈ s.E, f ≤ x) →
     ∃ u, exec (.vrfl c d a 1) s = .next (afterUnit c u) ∧ OnlyS s u d.toNat ∧
       u.here.rs d.toNat = if d = 0 then 0 else s.v64 f a)) ∧
   (∀ d a (n : BitVec 5), SetsS (fun c => .vrln c d a 0 n) d fun s =>
     if (s.here.thread n.toNat).present then (s.v n.toNat a).setWidth 64 else 0) ∧
   (∀ d a (n : BitVec 5), SetsS (fun c => .vrln c d a 1 n) d fun s =>
     if (s.here.thread n.toNat).present then s.v64 n.toNat a else 0) ∧
   (∀ d a (n : BitVec 5) (s : State) (c : Bool), ∃ u, exec (.vwln c d a 0 n) s = .next (afterUnit c u) ∧
     u.here.rv n.toNat d.toNat = (if s.E ≠ [] ∧ (s.here.thread n.toNat).present then (s.sr a).setWidth 32
       else s.here.rv n.toNat d.toNat) ∧
     OnlyV s u (if s.E ≠ [] ∧ (s.here.thread n.toNat).present then [n.toNat] else []) [d.toNat]) ∧
   (∀ d a (n : BitVec 5) (s : State) (c : Bool), ∃ u, exec (.vwln c d a 1 n) s = .next (afterUnit c u) ∧
     u.here.rv64 n.toNat d.toNat = (if s.E ≠ [] ∧ (s.here.thread n.toNat).present then s.sr a
       else s.here.rv64 n.toNat d.toNat) ∧
     OnlyV s u (if s.E ≠ [] ∧ (s.here.thread n.toNat).present then [n.toNat] else []) [d.toNat, d.toNat + 1])) ∧
  (let moved (s : State) (a : BitVec 7) (x : Nat) (src : Int) : Word :=
     if 0 ≤ src ∧ src ≤ 31 ∧ src.toNat ∈ s.E then s.v src.toNat a else s.v x a
   (∀ d a b, SetsV (fun c => .shflIdx c d a b) d fun s x => moved s a x ((s.v x b).toNat % 32)) ∧
   (∀ d a (n : BitVec 5), ∀ (s : State) (c : Bool), (∀ x ∈ s.E, x < 32) → ∃ u,
     exec (.shflUp c d a n) s = .next (afterUnit c u) ∧ OnlyV s u s.E [d.toNat] ∧
     ∀ x ∈ s.E, u.here.rv x d.toNat = moved s a x (x - n.toNat)) ∧
   (∀ d a (n : BitVec 5), SetsV (fun c => .shflDown c d a n) d fun s x => moved s a x (x + n.toNat)) ∧
   (∀ d a (n : BitVec 5), ∀ (s : State) (c : Bool), (∀ x ∈ s.E, x < 32) → ∃ u,
     exec (.shflXor c d a n) s = .next (afterUnit c u) ∧ OnlyV s u s.E [d.toNat] ∧
     ∀ x ∈ s.E, u.here.rv x d.toNat = moved s a x (x ^^^ n.toNat : Nat))) ∧
  ((∀ d a, SetsP (fun c => .voteAny c d a) d fun s _ => decide (∃ y ∈ s.E, s.pr y a = true)) ∧
   (∀ d a, SetsP (fun c => .voteAll c d a) d fun s _ => decide (∀ y ∈ s.E, s.pr y a = true)) ∧
   (∀ d a (s : State) (c : Bool), (∀ x ∈ s.E, x < 32) → ∃ u,
     exec (.voteBallot c d a) s = .next (afterUnit c u) ∧ OnlyS s u d.toNat ∧
     ∀ i < 64, (u.here.rs d.toNat).getLsbD i =
       if s.E = [] ∨ d = 0 then (s.here.rs d.toNat).getLsbD i else decide (i ∈ s.E ∧ s.pr i a = true)) ∧
   (∀ d a, SetsS (fun c => .voteRedaddS32 c d a) d fun s => (BitVec.ofInt 32 (sumOf s s.E a)).signExtend 64) ∧
   (∀ d a (s : State) (c : Bool), ∃ u, exec (.voteRedminS32 c d a) s = .next (afterUnit c u) ∧ OnlyS s u d.toNat ∧
     (s.E ≠ [] ∧ d ≠ 0 → (∃ y ∈ s.E, (u.here.rs d.toNat).toInt = (s.v y a).toInt) ∧
       ∀ y ∈ s.E, (u.here.rs d.toNat).toInt ≤ (s.v y a).toInt)) ∧
   (∀ d a (s : State) (c : Bool), ∃ u, exec (.voteRedmaxS32 c d a) s = .next (afterUnit c u) ∧ OnlyS s u d.toNat ∧
     (s.E ≠ [] ∧ d ≠ 0 → (∃ y ∈ s.E, (u.here.rs d.toNat).toInt = (s.v y a).toInt) ∧
       ∀ y ∈ s.E, (s.v y a).toInt ≤ (u.here.rs d.toNat).toInt)) ∧
   (∀ d a, SetsV (fun c => .voteScanS32 c d a) d fun s x => BitVec.ofInt 32 (sumOf s (s.E.filter (· ≤ x)) a)))

/-- R139, R140: WIDF and SRD write what the field or the special register holds for each executing thread, its low
word in the 32-bit form. R50, R140: what each number of the table names, for thread x of the chain's group, as the chain
began; at that moment it is what the group and the core hold. R12: the fields
of a work identifier name the thread's index and, in mixed radix with field 1 fastest, the number of its workgroup
(the order is the model's reading, log 4); R12, R14, R34 and R228 place the fields of %WID, %WID_W, %STEPC and
%FAR_STATUS. -/
def Obligations.SpecialReads : Prop :=
  ((∀ d k, SetsV (fun c => .widf c d 0 k) d fun s x =>
     (BitVec.ofNat 64 (s.curLaunch.hdr.widField (s.wg s.here.wg).number (32 * s.here.index + x) k.toNat)).setWidth 32) ∧
   (∀ d k, SetsPair (fun c => .widf c d 1 k) d fun s x =>
     BitVec.ofNat 64 (s.curLaunch.hdr.widField (s.wg s.here.wg).number (32 * s.here.index + x) k.toNat)) ∧
   (∀ d n, SetsV (fun c => .srd c d 0 n) d fun s x => (s.special x n.toNat).setWidth 32) ∧
   (∀ d n, SetsPair (fun c => .srd c d 1 n) d fun s x => s.special x n.toNat)) ∧
  (∀ (s : State) (x : Nat), x < 32 →
     (s.special x 0).toNat = x ∧
     s.special x 1 = BitVec.ofNat 64 s.cur.rd.index ∧
     (let h := s.curLaunch.hdr
      let f (k : Nat) : Nat := h.widField (s.wg s.cur.rd.wg).number (32 * s.here.index + x) k
      s.special x 2 = BitVec.ofNat 64 (f 0 + 2 ^ h.wid 0 * (f 1 + 2 ^ h.wid 1 * (f 2 + 2 ^ h.wid 2 * (f 3 +
        2 ^ h.wid 3 * (f 4 + 2 ^ h.wid 4 * f 5))))) ∧
      s.special x 3 = BitVec.ofNat 64 (h.wid 0 + h.wid 1 * 2 ^ 8 + h.wid 2 * 2 ^ 16 + h.wid 3 * 2 ^ 24 +
        h.wid 4 * 2 ^ 32 + h.wid 5 * 2 ^ 40)) ∧
     s.special x 4 = BitVec.ofNat 64 (s.wg s.cur.rd.wg).place ∧
     (s.cur.core < 144 → (s.special x 7).toNat * 72 + (s.special x 5).toNat * 9 + (s.special x 6).toNat = s.cur.core ∧
       (s.special x 5).toNat < 8 ∧ (s.special x 6).toNat < 9) ∧
     s.special x 8 = s.dev.setWidth 64 ∧
     s.special x 9 = BitVec.ofNat 64 (s.curLaunch.stepc % 2 ^ 32) ∧
     s.special x 10 = s.curLaunch.dieset.setWidth 64 ∧
     (s.part = .mz9A → s.special x 11 = 0x1F) ∧ (s.part = .mz9S → s.special x 11 = 0x10) ∧
     s.special x 12 = BitVec.ofNat 64 s.clock ∧
     s.special x 13 = BitVec.ofNat 64 (s.timeFs / 10 ^ 6) ∧
     s.special x 14 = BitVec.ofNat 64 s.cur.seq ∧
     s.special x 16 = (s.cur.rd.thread x).trapCause.setWidth 64 ∧
     s.special x 17 = (s.cur.rd.thread x).trapPc ∧
     s.special x 18 = (s.cur.rd.thread x).trapWord.setWidth 64 ∧
     s.special x 19 = (s.cur.rd.thread x).trapAddr ∧
     s.special x 20 = (s.cur.rd.thread x).trapRes ∧
     s.special x 21 = (s.cur.rd.thread x).trapUnit ∧
     (let f := (s.cur.rd.thread x).far
      s.special x 24 = BitVec.ofNat 64 (f.order.toNat * 2 ^ 32 + f.cause.toNat * 2 ^ 20 + f.dieScope.toNat * 2 ^ 19 +
        f.irrev.toNat * 2 ^ 18 + f.fwdIn.toNat * 2 ^ 17 + f.slot % 256 * 2 ^ 8 + f.state % 8)) ∧
     s.special x 25 = s.cur.rd.ropePart ∧
     s.special x 28 = s.cur.evt ∧
     s.special x 29 = s.cur.thr ∧
     s.special x 30 = s.cur.win) ∧
  (∀ (s : State) (core place : Nat) (ls : List Nat) (p : Pos) (ws : List Word),
     let c := s.chainOf core place ls p ws
     c.rd = s.group core place ∧ c.evt = (s.core core).numEvt ∧ c.thr = (s.core core).numThr ∧
     c.win = (s.core core).numWin ∧ c.seq = (s.core core).seq) ∧
  (∀ (h : Header) (number t : Nat), number < h.total →
     h.widField number t 0 = t ∧
     (∀ k, 1 ≤ k → k ≤ 5 → h.widField number t k < h.extent k) ∧
     number = h.widField number t 1 + h.extent 1 * (h.widField number t 2 + h.extent 2 * (h.widField number t 3 +
       h.extent 3 * (h.widField number t 4 + h.extent 4 * h.widField number t 5))))

/-- R140: SWR of a thread-scope register writes it for each executing thread; a read-only one stays; %ROPE_PART keeps
the last lane's value, without its reserved bits 31:30 (R7, R312). R89, R140: %NUM_EVT, %NUM_THR and %NUM_WIN are written by a launch with privilege only: there
%NUM_EVT loses the fields in which a written value has a bit, and the others take the value of the unit's highest
executing lane, over all the portions that issue as the unit (R26), %NUM_WIN without its reserved bits; without privilege every executing thread raises PRIVILEGE and nothing else happens. -/
def Obligations.SpecialWrites : Prop :=
  (let val (s : State) (w : BitVec 1) (a : BitVec 7) (x : Nat) : Dword :=
     if w = 1 then s.v64 x a else (s.v x a).setWidth 64
   let thread (n : Nat) (t : Thread) (v : Dword) : Thread :=
     match n with
     | 16 => { t with trapCause := v.setWidth 32 }
     | 17 => { t with trapPc := v }
     | 18 => { t with trapWord := v.setWidth 32 }
     | 19 => { t with trapAddr := v }
     | 20 => { t with trapRes := v }
     | _ => { t with trapUnit := v }
   ∀ (w : BitVec 1) (a : BitVec 7) (s : State) (c : Bool),
     (∀ n : BitVec 7, 16 ≤ n.toNat → n.toNat ≤ 21 → ∃ u, exec (.swr c w a n) s = .next (afterUnit c u) ∧
       OutsideHere s u ∧ { u.here with lanes := [] } = { s.here with lanes := [] } ∧
       ∀ x, u.here.thread x =
         if x ∈ s.E then thread n.toNat (s.here.thread x) (val s w a x) else s.here.thread x) ∧
     (∀ n : BitVec 7, n.toNat < 16 ∨ n.toNat = 24 → exec (.swr c w a n) s = .next (afterUnit c s)) ∧
     (∃ u, exec (.swr c w a 25) s = .next (afterUnit c u) ∧ OutsideHere s u ∧
       u.here = { s.here with ropePart :=
         ((s.E.map fun x => val s w a x &&& 0xFFFFFFFF3FFFFFFF).getLast?).getD s.here.ropePart })) ∧
  (let val (s : State) (w : BitVec 1) (a : BitVec 7) (x : Nat) : Dword :=
     if w = 1 then s.v64 x a else (s.v x a).setWidth 64
   -- the lanes that no higher lane of another portion of the issue group has written after
   let kept (s : State) : List Nat := s.E.filter fun x => decide (∀ k ∈ s.merged, ∀ h, k.top = some h → h ≤ x)
   let topped (s : State) : Cur := if s.cur.more then { s.cur with top := s.E.getLast? } else s.cur
   ∀ (w : BitVec 1) (a : BitVec 7) (s : State) (c : Bool),
     (s.curLaunch.priv = false → ∀ n : BitVec 7, 28 ≤ n.toNat → n.toNat ≤ 30 → ∃ u,
       exec (.swr c w a n) s = .next (afterUnit c u) ∧
       OnlyEffects s u (s.E.map fun x => (x, .trap { cause := 0x06, word := s.curWord, addr := 0, unit := s.unitAddr }))) ∧
     (s.curLaunch.priv = true →
       (∃ u, exec (.swr c w a 28) s = .next (afterUnit c u) ∧
         { u with cores := [] } = { s with cores := [] } ∧
         (∀ k, k ≠ s.cur.core → u.core k = s.core k) ∧
         { u.core s.cur.core with numEvt := 0 } = { s.core s.cur.core with numEvt := 0 } ∧
         ∀ k < 8, (u.core s.cur.core).cnt k =
           if ∃ x ∈ s.E, bitsNat (val s w a x) (8 * k + 7) (8 * k) ≠ 0 then 0 else (s.core s.cur.core).cnt k) ∧
       (∃ u, exec (.swr c w a 29) s = .next (afterUnit c u) ∧
         { u with cores := [], cur := {} } = { s with cores := [], cur := {} } ∧ u.cur = topped s ∧
         (∀ k, k ≠ s.cur.core → u.core k = s.core k) ∧
         u.core s.cur.core = { s.core s.cur.core with
           numThr := (((kept s).map (val s w a)).getLast?).getD (s.core s.cur.core).numThr }) ∧
       (∃ u, exec (.swr c w a 30) s = .next (afterUnit c u) ∧
         { u with cores := [], cur := {} } = { s with cores := [], cur := {} } ∧ u.cur = topped s ∧
         (∀ k, k ≠ s.cur.core → u.core k = s.core k) ∧
         { u.core s.cur.core with epochs := [] } = { s.core s.cur.core with
           epochs := []
           numWin := (((kept s).map fun x => val s w a x &&& 0xFFFFFFFFFF).getLast?).getD
             (s.core s.cur.core).numWin })))

/-- R88, R89, R90: counting n events of a class adds to its field alone, saturating; it says that the trap action
fires exactly when the count exceeds the threshold for the first time in the window and ACT selects the trap; with ACT
set the host's register reports the core and the class instead. R90: an instruction's counts leave everything but the
counts, the host's report and the trap of one lane; the trap of a class goes to the first lane that counted an event
of it. -/
def Obligations.EventCounting : Prop :=
  (∀ (s : State) (core k n : Nat), k < 8 → 0 < n →
     let old := s.core core
     let u := (s.count core k n).1
     let crossed : Bool := decide (old.thr k < min 255 (old.cnt k + n)) && !old.fired.getLsbD k
     (u.core core).cnt k = min 255 (old.cnt k + n) ∧
     (∀ j < 8, j ≠ k → (u.core core).cnt j = old.cnt j) ∧
     (s.count core k n).2 = (crossed && !old.act k) ∧
     (∀ j < 8, (u.core core).fired.getLsbD j = (old.fired.getLsbD j || (decide (j = k) && crossed))) ∧
     { u.core core with numEvt := 0, fired := 0 } = { old with numEvt := 0, fired := 0 } ∧
     (∀ c, c ≠ core → u.core c = s.core c) ∧
     { u with cores := [], numiStat := 0, msix := [] } = { s with cores := [], numiStat := 0, msix := [] } ∧
     (if crossed && old.act k then
       u.msix = s.msix ++ [0] ∧ u.numiStat.getLsbD 63 = true ∧
       u.numiStat.getLsbD 62 = (s.numiStat.getLsbD 63 || s.numiStat.getLsbD 62) ∧
       (core < 144 → u.numiStat.toNat % 2 ^ 24 = core / 72 * 2 ^ 16 + core % 72 * 2 ^ 8 + k)
     else u.msix = s.msix ∧ u.numiStat = s.numiStat)) ∧
  ((∀ (s : State) (es : List (Nat × List Ev)),
     let u := s.countUnit es
     { u with cores := [], numiStat := 0, msix := [], cur := {} } =
       { s with cores := [], numiStat := 0, msix := [], cur := {} } ∧
     (∀ c, c ≠ s.cur.core → u.core c = s.core c) ∧
     { u.core s.cur.core with numEvt := 0, fired := 0 } = { s.core s.cur.core with numEvt := 0, fired := 0 } ∧
     { u.cur with effects := [], tally := [] } = { s.cur with effects := [], tally := [] } ∧
     -- of an issue group of several portions, the counts are made when the last of them has run
     (s.cur.more = true ∨ s.merged ≠ [] → u = { s with cur := { s.cur with tally := s.cur.tally ++
       ((es.filter fun e => !e.2.isEmpty).map fun e =>
         { lane := e.1, word := s.curWord, unit := s.unitAddr, evs := e.2 }) } })) ∧
   (∀ (s : State) (x : Nat) (l : List Ev) (es : List (Nat × List Ev)) (k : Nat), k < 8 → s.cur.more = false → s.merged = [] →
     (∀ e ∈ es ++ [(x, l)], ∀ j < 8, j ≠ k → evCount e.2 j = 0) → (∀ e ∈ es, evCount e.2 k = 0) → 0 < evCount l k →
     (s.core s.cur.core).thr k < min 255 ((s.core s.cur.core).cnt k + evCount l k) →
     (s.core s.cur.core).fired.getLsbD k = false → (s.core s.cur.core).act k = false →
     (s.countUnit (es ++ [(x, l)])).cur.effects = s.cur.effects ++
       [(x, .trap { cause := 0x20, word := s.curWord, addr := BitVec.ofNat 64 k, unit := s.unitAddr })]))

/-- R58: decoding undoes encoding, for every well-formed instruction and every value of its fields. -/
def Obligations.RoundTrip : Prop :=
  ∀ i : Instr, i.wf = true → ∀ w, encode i = some w → decode w = .ok i

/-- R58, R63: a word decodes to at most one instruction, and it is the word of the instruction it decodes to: no bit
of a word is ignored. -/
def Obligations.DecodeKeepsEveryBit : Prop :=
  ∀ (w : Word) (i : Instr), decode w = .ok i → encode i = some w

/-- Words that the manual works out bit by bit, and what they stand for (R39, R41, R54, R58). -/
def Obligations.WorkedWords : Prop :=
  Decodes 0x08041030 (.addVv false 1 2 3) ∧ Decodes 0x88041030 (.addVv true 1 2 3) ∧
  Decodes 0x0C14307D (.addVi false 5 6 0x7D) ∧ Decodes 0x0203FFFE (.bra false 0x3FFFE) ∧
  Decodes 0x7E200003 (.guard 0 3) ∧ Decodes 0x7E20000B (.guard 1 3) ∧ Decodes 0x7E000018 (.ximm 0x18) ∧
  Decodes 0x3C203944 (.ld false 8 7 2 4 1 0) ∧ Decodes 0x2C04003B (.qwr false 1 3) ∧
  Decodes 0x06001000 (.join false 2) ∧ Decodes 0x00081230 (.trap false 0x123) ∧
  Decodes 0x14482050 (.icmpS32Vv false 2 2 4 5) ∧ Decodes 0x2C1808C7 (.srd false 6 1 12) ∧
  Decodes 0x320C2050 (.addSs false 3 4 5) ∧ Decodes 0x24142000 (.rcp false 5 4 0) ∧
  Decodes 0x423030EC (.sts false 12 6 1 6 3) ∧ Decodes 0x540001C0 (.fence false 3 4)

/-- R41: the all-zero word is NOP, the same word with bit 31 is a chained NOP, and the all-ones word is a prefix of a
reserved kind; NOP writes nothing. -/
def Obligations.NopWords : Prop :=
  decode 0 = .ok (.nop false) ∧ decode 0x80000000 = .ok (.nop true) ∧
  decode 0xFFFFFFFF = .error .illegalPrefix ∧ isPrefix 0xFFFFFFFF = true ∧ pipesOf 0 = [] ∧ pipesOf 0x80000000 = [] ∧
  ∀ (s : State) (c : Bool), exec (.nop c) s = .next (afterUnit c s)

/-- R55, R112: the executing threads are those of the chain that pass the GUARD, but for those the unit has turned
away because they read a marked or poisoned register (R242, R371). R57: the immediates, with and without XIMM, as
signed numbers; the f32 pattern; the displacement. R40, R54: a prefix word of the chain in hand is kept for the unit,
which goes on with the next word; nothing else changes. -/
def Obligations.UnitOperands : Prop :=
  (∀ (s : State) (x : Nat), x ∈ s.E ↔
     x ∈ s.cur.lanes ∧ x ∉ s.cur.barred ∧
     (s.cur.pfx.guard = none ∨ ∃ n p, s.cur.pfx.guard = some (n, p) ∧ s.cur.rd.rp x p = n)) ∧
  (∀ s : State,
     (s.cur.pfx.ximm = none →
       (∀ i : BitVec 7, (s.imm7 i).toInt = i.toInt) ∧ (∀ i : BitVec 18, (s.imm18 i).toInt = i.toInt) ∧
       (∀ b x, s.bv b x = s.v x b) ∧ (∀ b x, s.bv64 b x = s.v64 x b) ∧ (∀ b x, s.bf b x = s.v x b) ∧
       (∀ b : BitVec 7, b.toNat < 32 → s.bss b = s.cur.rd.rs b.toNat) ∧ s.disp = 0) ∧
     (∀ p, s.cur.pfx.ximm = some p →
       (∀ i : BitVec 7, (s.imm7 i).toInt = signed 28 (p.toNat * 2 ^ 7 + i.toNat)) ∧
       (∀ i : BitVec 18, (s.imm18 i).toInt = signed 39 (p.toNat * 2 ^ 18 + i.toNat)) ∧
       (∀ b x, (s.bv b x).toInt = signed 28 (p.toNat * 2 ^ 7 + b.toNat)) ∧
       (∀ b x, (s.bv64 b x).toInt = signed 28 (p.toNat * 2 ^ 7 + b.toNat)) ∧
       (∀ b x, (s.bf b x).toNat = p.toNat * 2 ^ 11 + b.toNat * 2 ^ 4) ∧
       (∀ b, (s.bss b).toInt = signed 28 (p.toNat * 2 ^ 7 + b.toNat)) ∧
       s.disp.toInt = p.toInt)) ∧
  (let kept (s : State) (p : Prefixes) : State := { s with cur := { s.cur with
     pfx := { p with first := some (s.cur.pfx.first.getD s.cur.next) }, next := s.cur.next + 1 } }
   ∀ s : State, s.cur.active = true →
     (∀ i, exec (.ximm i) s = .next (kept s { s.cur.pfx with ximm := some i })) ∧
     (∀ n p, exec (.guard n p) s = .next (kept s { s.cur.pfx with guard := some (decide (n = 1), p.toNat) })) ∧
     (∀ q o sc, exec (.cpol 0 q o sc) s = .next (kept s { s.cur.pfx with cpol := some (none, o.toNat, sc.toNat) })) ∧
     (∀ q o sc, exec (.cpol 1 q o sc) s =
       .next (kept s { s.cur.pfx with cpol := some (some q.toNat, o.toNat, sc.toNat) })) ∧
     (∀ p, exec (.probe p) s = .next (kept s { s.cur.pfx with probe := some p.toNat })) ∧
     (∀ r, exec (.round r) s = .next (kept s { s.cur.pfx with round := r.toNat })) ∧
     exec .sat s = .next (kept s { s.cur.pfx with sat := true }))

/-- R20, R25, R26, R49, R50, R116: a step runs the decoded instruction. With a chain in hand, the step is the meaning of
the instruction that the chain's next word decodes to. Before it, the lanes that read a marked or a poisoned register are
turned away (R242, R371); where there is none, the step is that meaning at the same state. A clock in which every partition
issues runs the first word of the first chain selected in it, and keeps the others, which run after it with the registers
of that same clock. Where the threads of the one group of the module stand at one unit, whose operands are there and whose
pipe is free, that chain is the one selected: its members read the registers of that moment (R50), and nothing but what the
issue logic keeps has changed before its first word runs. That a step is one word of a chain, and that the order of the
agents is the list of turns, are the model's choice (logs 3 and 61). -/
def Obligations.StepRunsDecoded : Prop :=
  (∀ (s : State) (i : Instr), s.boot ≠ .off → s.cur.active = true → decode (s.cur.words.getD s.cur.next 0) = .ok i →
     step s = exec i (s.barring i) ∧
     ((∀ x, (s.cur.rd.thread x).marks = []) → (∀ x, (s.cur.rd.thread x).poison = []) → s.cur.rd.poison = [] →
       step s = exec i s)) ∧
  (∀ (s : State) (c : Cur) (cs : List Cur), s.boot ≠ .off → s.cur.active = false → s.due = c :: cs →
     let ls := c.lanes.filter fun l => (s.thread c.core c.place l).live
     let there : Prop := (s.group c.core c.place).present = true ∧ (s.group c.core c.place).wg = c.rd.wg ∧ ls ≠ []
     (¬ there → c.more = true ∨ s.merged = [] → step s = .next { s with due := cs }) ∧
     (¬ there → c.more = false → s.merged ≠ [] →
       step s = .next (({ s with due := cs, merged := [] } : State).commitGroup s.merged)) ∧
     (there → ∀ i, decode (c.words.getD c.next 0) = .ok i →
       step s = exec i (({ s with cur := { c with lanes := ls }, due := cs } : State).barring i))) ∧
  (∀ (s : State) (e : Instr) (ts : List Turn), s.boot ≠ .off → s.cur.active = false → s.due = [] →
     s.sched = .event e :: ts → step s = exec e { s with sched := ts }) ∧
  (∀ (s : State) (late : List (Nat × Nat × Nat)) (ts : List Turn) (i : Instr),
     s.boot ≠ .off → s.cur.active = false → s.due = [] → s.sched = .clock late :: ts →
     let s1 := ({ ({ s with sched := ts } : State).nextClock with late } : State).beginParts
     (∀ s2 c cs, s1.selectAll = (s2, c :: cs) →
       let t : State := { s1.carryAll s2 with due := c :: cs }
       let ls := c.lanes.filter fun l => (t.thread c.core c.place l).live
       (t.group c.core c.place).present = true → (t.group c.core c.place).wg = c.rd.wg → ls ≠ [] →
       decode (c.words.getD c.next 0) = .ok i →
       step s = exec i (({ t with cur := { c with lanes := ls }, due := cs } : State).barring i)) ∧
     ∀ (core place lane : Nat) (ls : List Nat) (ws : List Word),
      let p := (s1.thread core place lane).pos
      OnlyGroup s1 core place → (s1.group core place).active = true → s1.plan core place lane = .chain ls ws →
      (∀ l ∈ (s1.group core place).live, (s1.thread core place l).pos = p ∧ s1.plan core place l = .chain ls ws) →
      (∀ n < 4, s1.pipeFree core (place / 24) n = true) → decode (ws.getD p.word 0) = .ok i →
      let c := s1.chainOf core place ls p ws
      ∃ s2, s1.selectAll = (s2, [c]) ∧
        step s = exec i (({ s2 with cur := c, due := [] } : State).barring i) ∧
        c.lanes = ls ∧ c.next = p.word ∧ c.pfx = {} ∧ c.effects = [] ∧ c.more = false ∧ s2.mem = s1.mem ∧
        { s2 with cores := [] } = { s1 with cores := [] } ∧ (∀ k, k ≠ core → s2.core k = s1.core k) ∧
        { s2.core core with groups := [], entries := [], busy := [] } =
          { s1.core core with groups := [], entries := [], busy := [] } ∧
        (∀ q, q ≠ place → s2.group core q = s1.group core q) ∧
        { s2.group core place with lanes := [], lastIssue := 0 } = { s1.group core place with lanes := [], lastIssue := 0 } ∧
        ∀ l, { s2.thread core place l with since := 0 } = { s1.thread core place l with since := 0 })

/-- R5, R51 to R53, R56, R62, R63, R120: decode. In a clock a thread that stands alone at a unit of one word, without
prefix and chain, takes the trap of a word that fails decode and does nothing else: RESERVED_OPCODE, ILLEGAL_ENCODING,
PRIVILEGE for a member of SYS in a launch without privilege, or UNIT_ABSENT, in this order, with the word and its address.
Of a packet, the chain from word i: a prefix before an instruction that does not accept it, at a packet's end, twice before
one instruction or of a reserved kind is ILLEGAL_PREFIX with that prefix word; C = 1 in word 2, two members of one pipe and
two members that write one register are ILLEGAL_CHAIN with the later member's word, where no prefix fails; and every lane of
the portion takes the trap of the chain's failing word. -/
def Obligations.DecodeTraps : Prop :=
  (∀ (s : State) (core place lane : Nat) (late : List (Nat × Nat × Nat)) (ts : List Turn) (ws : List Word),
    s.boot ≠ .off → s.cur.active = false → s.due = [] → s.sched = .clock late :: ts →
    let s1 := ({ ({ s with sched := ts } : State).nextClock with late } : State).beginParts
    OnlyGroup s1 core place → (s1.group core place).active = true → (s1.group core place).live = [lane] →
    let p := (s1.thread core place lane).pos
    let la := s1.launchOf core place
    let w := ws.getD p.word 0
    let here : Dword := p.pc + BitVec.ofNat 64 (4 * p.word)
    let traps (k : Nat) : Prop := step s = .next
      { (((s1.selectAll).1.takeTrap core place lane { cause := k, word := w, addr := here, unit := here } p.pc p).settle
          core place) with due := [] }
    StandsAlone s1 core place lane ws → p.word < 3 → isPrefix w = false → chainBit w = false →
    (decode w = .error .reservedOpcode → traps 0x04) ∧
    (∀ i, decode w = .error (.illegalEncoding i) → traps 0x01) ∧
    (∀ i, decode w = .ok i → i.legal la.hdr.vregs false = false → traps 0x01) ∧
    (∀ i, decode w = .ok i → i.legal la.hdr.vregs false = true → major w = 0x32 → la.priv = false → traps 0x06) ∧
    (∀ i, decode w = .error (.haltqMode i) → la.priv = false → traps 0x06) ∧
    ∀ i, decode w = .ok i → i.legal la.hdr.vregs false = true → s1.absent i = true → traps 0x61) ∧
  (∀ (s : State) (w0 w1 w2 : Word) (n : Nat) (priv : Bool),
    let ws := [w0, w1, w2]
    let found (i : Nat) : Option Failing := s.chainFault ws n priv (unitsFrom ws [] i (3 - i))
    -- a prefix
    (isPrefix w0 = true → isPrefix w1 = false → accepts w1 (prefixKind w0) = false →
      found 0 = some { rank := 0, at_ := 0, first := 0 }) ∧
    (isPrefix w0 = true → isPrefix w1 = false → 6 ≤ prefixKind w0 → found 0 = some { rank := 0, at_ := 0, first := 0 }) ∧
    (isPrefix w0 = true → isPrefix w1 = false → chainBit w0 = true → found 0 = some { rank := 0, at_ := 0, first := 0 }) ∧
    (isPrefix w0 = true → isPrefix w1 = true → isPrefix w2 = false → prefixKind w0 = prefixKind w1 →
      accepts w2 (prefixKind w0) = true → chainBit w0 = false → prefixKind w0 < 6 → reservedPayload w0 = false →
      (∃ i, decode w0 = .ok i ∧ i.legal 128 false = true) →
      found 0 = some { rank := 0, at_ := 1, first := 0 }) ∧
    (isPrefix w2 = true → found 2 = some { rank := 0, at_ := 2, first := 2 }) ∧
    -- a chain
    (isPrefix w2 = false → chainBit w2 = true → found 2 = some { rank := 1, at_ := 2, first := 2 }) ∧
    (∀ i j, isPrefix w0 = false → isPrefix w1 = false → chainBit w0 = true → chainBit w1 = false →
      decode w0 = .ok i → decode w1 = .ok j →
      distinctPipes [pipesOf w0, pipesOf w1] = false ∨ (∃ o, o ∈ i.writes false ∧ o ∈ j.writes false) →
      found 0 = some { rank := 1, at_ := 1, first := 1 })) ∧
  (∀ (s : State) (core place lane : Nat) (ls : List Nat) (ws : List Word) (f : Failing),
    s.plan core place lane = .fault ls ws f →
    let p := (s.thread core place lane).pos
    s.carryOut core place lane = (ls.foldl (fun s l => s.takeTrap core place l
      { cause := [0x03, 0x02, 0x04, 0x01, 0x06, 0x61].getD f.rank 0, word := ws.getD f.at_ 0
        addr := p.pc + BitVec.ofNat 64 (4 * f.at_), unit := p.pc + BitVec.ofNat 64 (4 * f.first) } p.pc p) s).settle
        core place)

/-- R1, R6, R65, R89, R140, R257, R369: the values the manual gives for reset, beside those that the model names (log
6), among them that memory nothing has written reads 0 (log 1) and that the module has booted (log 2). The event RESET
gives every register its reset value, and keeps flash, fuses, physical memory and the journal but for what is on its way
to it (what it keeps is the model's, log 16); the boot ROM's check decides whether the module runs. -/
def Obligations.ResetValues : Prop :=
  (let s := State.reset
   s.clock = 0 ∧ s.timeNs = 0 ∧ (∀ a, Memory.read s.mem a = 0) ∧ s.cur.active = false ∧ s.boot = .running ∧
   (∀ c, (s.core c).numEvt = 0 ∧ (s.core c).numThr = 0xFFFFFFFFFFFFFFFF ∧ (s.core c).numWin = 0xAAAAAAAA ∧
     (s.core c).carve = 0 ∧ (s.core c).dbgCtl = 0 ∧ (s.core c).snapCtl = 0 ∧ (s.core c).halted = false ∧
     (s.core c).groups = []) ∧
   (∀ d, (s.gatherers.get {} d).win = 0x108 ∧ (s.gatherers.get {} d).ctl = 0) ∧
   s.remap0 = 0x0909090909090909 ∧ s.remap1 = 0x0909090909090909 ∧ s.poolEnd = 0x8000000000000 ∧
   s.mbxDb = 0 ∧ s.numiStat = 0 ∧ s.htsTbase = 0 ∧ s.htsTsz = 0 ∧ s.htsIgn = 0) ∧
  ∀ s : State, ∃ u, exec .reset s = .next u ∧
    { u with part := .mz9A, boot := .running, flash := {}, fusedCounter := 0, journal := {}, mem := []
             remap0 := State.reset.remap0, remap1 := State.reset.remap1, sched := [], free := 0, msix := []
             reports := [] } = State.reset ∧
    u.part = s.part ∧ u.flash = s.flash ∧ u.fusedCounter = s.fusedCounter ∧ u.mem = s.mem ∧
    u.remap0 = s.remap0 ∧ u.remap1 = s.remap1 ∧ u.journal = { s.journal with incoming := [] } ∧
    (s.flash.signed = true ∧ s.fusedCounter ≤ s.flash.version → u.boot = .running) ∧
    (¬ (s.flash.signed = true ∧ s.fusedCounter ≤ s.flash.version) → u.boot = .recovery)

/-- Every meaning answers a next state, in every state: no instruction and no event stops the model. A step stops only
where the module has no power and the next turn is no reset, which is the model's reading (log 59; R373 does not say
it); it refuses nothing. -/
def Obligations.MeaningsAnswer : Prop :=
  (∀ (i : Instr) (s : State), ∃ t, exec i s = .next t) ∧
  (∀ s : State,
     (∀ r, step s ≠ .refused r) ∧
     (∀ f, step s = .fault f → f = .poweredOff ∧ s.boot = .off ∧ ∀ ts, s.sched ≠ .event .reset :: ts) ∧
     (s.boot = .off → (∀ ts, s.sched ≠ .event .reset :: ts) → step s = .fault .poweredOff))

/-- R6: memory is read back as it was written, byte by byte and little-endian, and every other byte stays. The
canonical form of memory (a form of the model, log 1) is kept by the one operation that writes it, holds at reset, and
makes equal memories equal lists. -/
def Obligations.MemoryReadsBack : Prop :=
  ((∀ (s : State) (a : Nat) (bs : List Byte) (x : Nat), Memory.wf s.mem = true →
     Memory.read (s.poke a bs).mem x = if a ≤ x ∧ x < a + bs.length then bs.getD (x - a) 0 else Memory.read s.mem x) ∧
   (∀ (s : State) (a n v : Nat), Memory.wf s.mem = true → (s.poke a (leBytes n v)).peekNat a n = v % 2 ^ (8 * n))) ∧
  (State.reset.sound = true ∧
   (∀ (s : State) (a : Nat) (bs : List Byte), s.sound = true → (s.poke a bs).sound = true) ∧
   (∀ m n : List Host.Cell, Memory.wf m = true → Memory.wf n = true → (∀ a, Memory.read m a = Memory.read n a) → m = n))

/-- Every step keeps the canonical form of physical memory: from any state whose list of bytes has strictly rising
addresses and lists no 0, a step that answers a next state leaves such a list (R6, R104; the form is the model's, log
1). -/
def Obligations.StepKeepsMemoryCanonical : Prop :=
  ∀ s t : State, s.sound = true → step s = .next t → t.sound = true

/-- R114, R115: s0 reads as 0 and p0 as 1 in every state, and a write of either is discarded. -/
def Obligations.HardwiredRegisters : Prop :=
  ∀ (g : Group) (x : Nat), g.rs 0 = 0 ∧ g.rp x 0 = true ∧
    (∀ v, g.ws 0 v = g) ∧ (∀ b n, (g.wp x 0 b).rp x n = g.rp x n) ∧
    (∀ n v, n ≠ 0 → (g.ws n v).rs n = v) ∧ (∀ n b, n ≠ 0 → n < 8 → (g.wp x n b).rp x n = b)

open Classical in
/-- R16, R120 to R123, R128, R237: what EXIT, TRAP, YIELD, STEP and the barriers decide for each executing thread: a
thread in an open region may not execute EXIT, STEP or a barrier. R49, R121, R123, R330: TRET and YDONE in handler mode
leave it after the chain and continue at %TRAP_RES, or wait for the save; outside it they are illegal. That TRET acts in
handler mode of any kind, and that STEP and BARL look for coop before they look for an open region, are the model's
readings (log 35). -/
def Obligations.ControlDecisions : Prop :=
  (let kept (s : State) (x : Nat) (es : List Effect) : List Effect :=
     if InRegion s x then [trapOf s 0x40 0] else es
   Decides (fun c => .exit c) (fun s x => kept s x [.exit s.unitPos]) ∧
   (∀ k, Decides (fun c => .trap c k) fun s _ => [trapOf s 0x70 (k.setWidth 64)]) ∧
   Decides (fun c => .yield c) (fun s _ => [.wait (.yield (s.clock + 32)) s.unitPos]) ∧
   Decides (fun c => .step c) (fun s x =>
     if s.curLaunch.hdr.coop then kept s x (arrivals s x .step) else [trapOf s 0x01 0]) ∧
   Decides (fun c => .bar c) (fun s x => kept s x (arrivals s x (.barrier 0))) ∧
   ∀ k : BitVec 3, Decides (fun c => .barl c k) fun s x =>
     if (k = 0 ∨ s.curLaunch.hdr.coop) ∧ k.toNat < 6 then kept s x (arrivals s x (.barrier k.toNat))
     else [trapOf s 0x01 0]) ∧
  (let back (s : State) (x : Nat) : Effect := .leave (posOf (s.cur.rd.thread x).trapRes)
   Decides (fun c => .tret c) (fun s x =>
     [if (s.here.thread x).handler = .none then trapOf s 0x01 0 else back s x]) ∧
   Decides (fun c => .ydone c) fun s x =>
     [if (s.here.thread x).handler ≠ .restore ∧ (s.here.thread x).handler ≠ .preempt then trapOf s 0x01 0
      else if InRegion s x then trapOf s 0x40 0
      else if (s.here.thread x).handler = .restore then back s x
      else .wait .ydone s.unitPos])

/-- R124, R375: BRK is NOP while debug is disabled; else its threads stop and the core's snapshot registers latch. What
the registers latch, the core's sequence number and its live threads, is the model's choice (log 11). SNAP fires an
armed trigger with its code, once for the unit, and is otherwise NOP. -/
def Obligations.DebugMembers : Prop :=
  let live (k : Core) : Nat := (k.groups.map fun g => g.2.live.length).sum
  ∀ (s : State) (c : Bool),
    (s.E = [] ∨ (s.core s.cur.core).dbgCtl.getLsbD 0 = false → exec (.brk c) s = .next (afterUnit c s)) ∧
    (s.E ≠ [] → (s.core s.cur.core).dbgCtl.getLsbD 0 = true → ∃ u, exec (.brk c) s = .next (afterUnit c u) ∧
      u.cur = { s.cur with effects := s.cur.effects ++ s.E.map fun x => (x, .wait .brk s.unitPos) } ∧
      { u with cores := [], cur := {} } = { s with cores := [], cur := {} } ∧
      (∀ k, k ≠ s.cur.core → u.core k = s.core k) ∧
      u.core s.cur.core =
        let k := s.core s.cur.core
        { k with snapshot := some (k.seq, live k), seq := k.seq + 1, landed := max k.landed k.seq }) ∧
    ∀ code : BitVec 14,
      let armed (k : Nat) : Bool := (s.core k).snapCtl.getLsbD 0
      let latched (x y : Dword) : Prop := ∀ i < 64,
        y.getLsbD i = if i = 0 then false else if 50 ≤ i then code.getLsbD (i - 50) else x.getLsbD i
      let fires := (∃ k ∈ s.cores, (k.2.snapCtl.getLsbD 0 && k.2.snapCtl.getLsbD 1) = true) ∨
        ∃ b ∈ s.blocks, (b.2.ctl.getLsbD 0 && b.2.ctl.getLsbD 1) = true
      (s.E = [] ∨ ¬ fires → exec (.snap c code) s = .next (afterUnit c s)) ∧
      (s.E ≠ [] → fires →
        ∃ u, exec (.snap c code) s = .next (afterUnit c u) ∧
          { u with cores := [], blocks := [] } = { s with cores := [], blocks := [] } ∧
          -- every armed unit beside the cores latches with them
          (∀ b, ((s.block b).ctl.getLsbD 0 = false → u.block b = s.block b) ∧
            ((s.block b).ctl.getLsbD 0 = true → { u.block b with ctl := 0 } =
                { ctl := 0, seq := (s.block b).seq + 1, latched := some (s.block b).seq } ∧
              latched (s.block b).ctl (u.block b).ctl)) ∧
          ∀ k, (armed k = false → u.core k = s.core k) ∧
            (armed k = true →
              { u.core k with snapCtl := 0 } =
                { s.core k with
                  snapCtl := 0, snapshot := some ((s.core k).seq, live (s.core k)), seq := (s.core k).seq + 1
                  landed := max (s.core k).landed (s.core k).seq } ∧
              latched (s.core k).snapCtl (u.core k).snapCtl))

/-- R47, R48, R125, R126: the branches: which threads they move and where to; CALL and CALLI leave the index of the
next packet in their link register. -/
def Obligations.Branches : Prop :=
  let rel (s : State) (d : BitVec 18) : Effect := jumpTo s (packetNo s + d.toInt)
  let calls (i : Bool → Instr) (d : Nat) (f : State → Nat → Effect) : Prop :=
    ∀ (s : State) (c : Bool), ∃ u, exec (i c) s = .next (afterUnit c u) ∧
      u.cur = { s.cur with effects := s.cur.effects ++ s.E.map fun x => (x, f s x) } ∧
      (∀ x ∈ s.E, u.here.rv x d = BitVec.ofInt 32 (packetNo s + 1)) ∧ OnlyV s { u with cur := s.cur } s.E [d]
  (∀ d, Decides (fun c => .bra c d) fun s _ => [rel s d]) ∧
  (∀ p d, Decides (fun c => .brt c p d) fun s x => if s.pr x p then [rel s d] else []) ∧
  (∀ p d, Decides (fun c => .brf c p d) fun s x => if s.pr x p then [] else [rel s d]) ∧
  (∀ p d, Decides (fun c => .brany c p d) fun s _ => if ∃ y ∈ s.E, s.pr y p then [rel s d] else []) ∧
  (∀ p d, Decides (fun c => .brall c p d) fun s _ => if ∀ y ∈ s.E, s.pr y p then [rel s d] else []) ∧
  (∀ a, Decides (fun c => .bri c a) fun s x => [jumpTo s (s.v x a).toNat]) ∧
  (∀ a, Decides (fun c => .ret c a) fun s x => [jumpTo s (s.v x a).toNat]) ∧
  (∀ d, calls (fun c => .call c d) 126 fun s _ => rel s d) ∧
  (∀ d a, calls (fun c => .calli c d a) d.toNat fun s x => jumpTo s (s.v x a).toNat)

open Classical in
/-- R29, R127: the lane masks: JOIN, LEAVE and MWR write their mask, LEAVE and MWR then check for a release, WAITM's
threads that the mask names arrive and wait, and MRD and MACT read. -/
def Obligations.LaneMasks : Prop :=
  (∀ (ls : List Nat) (l : Nat), l < 32 → (laneMask ls).getLsbD l = decide (l ∈ ls)) ∧
  (∀ d m, SetsS (fun c => .mrd c d m) d fun s => (s.here.rm m.toNat).setWidth 64) ∧
  (∀ d, SetsS (fun c => .mact c d) d fun s => (laneMask s.E).setWidth 64) ∧
  (∀ (s : State) (c : Bool) (m : BitVec 4),
    (∃ u, exec (.join c m) s = .next (afterUnit c u) ∧ OutsideHere s u ∧
      maskSet s.here u.here m.toNat (s.here.rm m.toNat ||| laneMask s.E)) ∧
    (∃ u g, exec (.leave c m) s = .next (afterUnit c u) ∧ OutsideHere s u ∧
      maskSet s.here g m.toNat (s.here.rm m.toNat &&& ~~~ laneMask s.E) ∧
      u.here = if s.E = [] then s.here else g.releaseCheck m.toNat) ∧
    (∀ a : BitVec 5, ∃ u g, exec (.mwr c a m) s = .next (afterUnit c u) ∧ OutsideHere s u ∧
      maskSet s.here g m.toNat ((s.sr a).setWidth 32 &&& laneMask s.here.live) ∧
      u.here = if s.E = [] then s.here else g.releaseCheck m.toNat) ∧
    (∃ u, exec (.waitm c m) s = .next (afterUnit c u) ∧
      let named (x : Nat) : Prop := (s.here.rm m.toNat).getLsbD x = true
      u.cur = { s.cur with effects := s.cur.effects ++ s.E.flatMap fun x =>
        (if InRegion s x then [trapOf s 0x40 0]
         else if named x then [.wait (.waitm m.toNat) s.unitPos] else []).map fun e => (x, e) } ∧
      OutsideHere s { u with cur := s.cur } ∧ { u.here with arrived := [] } = { s.here with arrived := [] } ∧
      ∀ k, u.here.arrived.get 0 k =
        if k = m.toNat then
          s.here.arrived.get 0 k ||| laneMask (s.E.filter fun x => decide (named x ∧ ¬ InRegion s x))
        else s.here.arrived.get 0 k)) ∧
  -- RELEASE_CHECK
  ∀ (g : Group) (k : Nat),
    let a := g.arrived.get 0 k
    (a = 0 ∨ g.rm k &&& ~~~ a ≠ 0 → g.releaseCheck k = g) ∧
    (a ≠ 0 → g.rm k &&& ~~~ a = 0 →
      { g.releaseCheck k with arrived := [], lanes := [] } = { g with arrived := [], lanes := [] } ∧
      (∀ j, (g.releaseCheck k).arrived.get 0 j = if j = k then 0 else g.arrived.get 0 j) ∧
      ∀ l, (g.releaseCheck k).thread l =
        if a.getLsbD l then { g.thread l with waits := (g.thread l).waits.filter fun w => w.kind ≠ .waitm k }
        else g.thread l)

/-- R49, R50, R52, R120 to R122: at the end of a chain every lane of it that waits for nothing stands at the unit after
the chain; what its members decided is then taken: an EXIT ends it, a branch or a resumption moves it, TRET leaves handler
mode, its waits hold it, and its trap is taken there. A chain without decisions changes nothing else but the lanes'
positions. Beside a trap, where a branch leads is the trap's resumption point, and so is the unit of an EXIT; this is the
model's choice (log 20). -/
def Obligations.ChainEnds : Prop :=
  (∀ s : State, s.cur.active = true → s.cur.more = false → s.merged = [] → s.cur.effects = [] → ∃ g : Group,
    s.commit = ({ s with cur := {} } : State).modGroup s.cur.core s.cur.place (fun _ => g.releaseAll) ∧
    { g with lanes := [] } = { s.here with lanes := [] } ∧
    ∀ l, g.thread l = if l ∈ s.cur.lanes ∧ (s.here.thread l).waits = [] then
      { s.here.thread l with pos := s.cur.after, since := s.clock } else s.here.thread l) ∧
  (∀ c : Cur, c.after = if c.next < 2 then { pc := c.pc, word := c.next + 1 } else
    { pc := c.pc + (if c.pc.toNat % 64 < 48 then 12 else 16), word := 0 }) ∧
  ∀ (s : State) (core place l : Nat) (after : Pos) (es : List Effect), (s.thread core place l).live = true →
    let u := s.finishLane core place after es l
    let moved (p : Pos) (ws : List Waiting) : State :=
      s.modThread core place l fun t => { t with pos := p, waits := ws }
    (∀ q, .exit q ∈ es → (∀ p, .trap p ∉ es) → u = s.endThread core place l) ∧
    ((s.thread core place l).waits = [] →
      (∀ p w, es = [.trap p] → p.cause ≠ 0x20 → w = packetOf p.unit →
        u = (moved after []).takeTrap core place l p w after) ∧
      (∀ p, es = [.trap p] → p.cause = 0x20 → u = (moved after []).takeTrap core place l p after.pc after) ∧
      (∀ p d q, es = [.jump d, .trap p] ∨ es = [.trap p, .jump d] → q = { pc := d, word := 0 } → p.cause ≠ 0x20 →
        u = (moved q []).takeTrap core place l p (packetOf p.unit) q) ∧
      (∀ p q, es = [.exit q, .trap p] ∨ es = [.trap p, .exit q] → p.cause ≠ 0x20 →
        u = (moved q []).takeTrap core place l p (packetOf p.unit) q) ∧
      (∀ d, es = [.jump d] → u = moved { pc := d, word := 0 } []) ∧
      (∀ p, es = [.resume p] → u = moved p []) ∧
      (∀ p, es = [.leave p] → u = s.modThread core place l fun t => { t with pos := p, waits := [], handler := .none }) ∧
      (∀ w p, es = [.wait w p] → u = moved after [{ at_ := p, kind := w }]))

/-- R118 to R121, R327: a trap of a thread outside handler mode and outside a region, in a launch with a trap entry,
writes the trap registers and goes on at the entry; in handler mode, or without an entry, it ends the launch with
status 1. A resumption point is read back as it was written. A trap that reaches a thread away from its chain names the
unit after that chain; WATCHDOG, and a count made away from it, the unit at which the thread stands (log 20). -/
def Obligations.TrapEntry : Prop :=
  (∀ (s : State) (core place l : Nat) (p : Pending) (pc : Dword) (res : Pos),
    let t := s.thread core place l
    let task := s.taskOf core place
    let h := (s.launch task).hdr
    p.cause ≠ 0x13 → p.cause ≠ 0x32 → t.far.state ≠ 1 → t.far.state ≠ 2 →
    (t.handler = .none → h.trap ≠ 0 →
      s.takeTrap core place l p pc res = s.modThread core place l fun t =>
        { t with
          trapCause := BitVec.ofNat 32 p.cause, trapPc := pc, trapWord := p.word, trapAddr := p.addr
          trapUnit := p.unit, trapRes := res.res, handler := .trap
          pos := { pc := h.entryAt h.trap, word := 0 }, waits := [], since := s.clock }) ∧
    (t.handler = .none → h.trap = 0 → s.takeTrap core place l p pc res = s.endLaunch task 1 p.cause 0) ∧
    (t.handler ≠ .none →
      s.takeTrap core place l p pc res = s.endLaunch task 1 (t.trapCause.toNat % 256) p.cause)) ∧
  (∀ p : Pos, p.word < 3 → p.pc.toNat < 2 ^ 57 → p.pc.toNat % 64 ∈ [0, 12, 24, 36, 48] → posOf p.res = p) ∧
  ∀ (s : State) (core place l : Nat) (p : Pending) (ps : List Pending),
    (s.thread core place l).pending = p :: ps → p.later = false →
    let t := s.thread core place l
    let v := s.modThread core place l fun t => { t with pending := ps }
    (p.cause ≠ 0x20 → s.takePending core place l =
      v.takeTrap core place l p (packetOf p.unit) (if p.cause = 0x32 then t.pos else p.res)) ∧
    (p.cause = 0x20 → t.pos.word = 0 → s.takePending core place l = v.takeTrap core place l p t.pos.pc t.pos)

/-- R183, R184, R185: F32, F64, FFMA and FH write the result of the operation in the unit's mode and count its events;
FH computes its two elements apart. R143, R186 to R190: FUN, FCMP, CVT and the tree sum of VOTE write the result of
the function and count its events; CLASS writes one register in both forms, and CVT's narrow integers are extended to
the register. -/
def Obligations.FloatArithmetic : Prop :=
  (let fma (f : Fmt) (s : State) (negate : Bool) (a b d : Nat) : FlRes :=
     counted (f.fma s.cur.pfx.round negate (f.val a) (f.val b) (f.val d))
   (∀ m ∈ f32Vv, ∀ d a b, SetsVEv (fun c => m.1 c d a b) d fun s x =>
     in32 (m.2.run .f32 s.cur.pfx.round (s.v x a).toNat (s.bf b x).toNat (s.bf b x).toInt)) ∧
   (∀ m ∈ f32Vs, ∀ d a b, SetsVEv (fun c => m.1 c d a b) d fun s x =>
     in32 (m.2.run .f32 s.cur.pfx.round (s.v x a).toNat (s.bs b).toNat (s.bs b).toInt)) ∧
   (∀ m ∈ f64Vv, ∀ d a b, SetsPairEv (fun c => m.1 c d a b) d fun s x =>
     in64 (m.2.run .f64 s.cur.pfx.round (s.v64 x a).toNat (s.v64 x b).toNat (s.v x b).toInt)) ∧
   (∀ m ∈ fh, ∀ d a b, SetsVEv (fun c => m.1 c d a b) d fun s x =>
     let element (hi : Bool) : FlRes := m.2.2.run m.2.1 s.cur.pfx.round (half hi (s.v x a)) (half hi (s.v x b)) 0
     halves (element false) (element true)) ∧
   (∀ d a b, SetsVEv (fun c => .ffmaF32 c d a b) d fun s x =>
     in32 (fma .f32 s false (s.v x a).toNat (s.bf b x).toNat (s.v x d).toNat)) ∧
   (∀ d a b, SetsVEv (fun c => .ffmaF32S c d a b) d fun s x =>
     in32 (fma .f32 s false (s.v x a).toNat (s.bs b).toNat (s.v x d).toNat)) ∧
   (∀ d a b, SetsVEv (fun c => .fnmaF32 c d a b) d fun s x =>
     in32 (fma .f32 s true (s.v x a).toNat (s.bf b x).toNat (s.v x d).toNat)) ∧
   (∀ d a b, SetsPairEv (fun c => .ffmaF64 c d a b) d fun s x =>
     in64 (fma .f64 s false (s.v64 x a).toNat (s.v64 x b).toNat (s.v64 x d).toNat)) ∧
   (∀ d a b, SetsPairEv (fun c => .ffmaF64S c d a b) d fun s x =>
     in64 (fma .f64 s false (s.v64 x a).toNat (s.sr b).toNat (s.v64 x d).toNat)) ∧
   (∀ d a b, SetsPairEv (fun c => .fnmaF64 c d a b) d fun s x =>
     in64 (fma .f64 s true (s.v64 x a).toNat (s.v64 x b).toNat (s.v64 x d).toNat)) ∧
   (∀ d a b, SetsVEv (fun c => .ffmaF16x2 c d a b) d fun s x =>
     let element (hi : Bool) : FlRes := fma .f16 s false (half hi (s.v x a)) (half hi (s.v x b)) (half hi (s.v x d))
     halves (element false) (element true)) ∧
   (∀ d a b, SetsVEv (fun c => .ffmaBf16x2 c d a b) d fun s x =>
     let element (hi : Bool) : FlRes := fma .bf16 s false (half hi (s.v x a)) (half hi (s.v x b)) (half hi (s.v x d))
     halves (element false) (element true))) ∧
  ((∀ m ∈ funs, ∀ d a,
     SetsVEv (fun c => m.1 c d a 0) d (fun s x => in32 (m.2.run .f32 s.cur.pfx.round (s.v x a).toNat)) ∧
     SetsPairEv (fun c => m.1 c d a 1) d fun s x => in64 (m.2.run .f64 s.cur.pfx.round (s.v64 x a).toNat)) ∧
   (∀ m ∈ fun32, ∀ d a, SetsVEv (fun c => m.1 c d a) d fun s x =>
     in32 (counted (m.2 s.cur.pfx.round (Fmt.f32.val (s.v x a).toNat)))) ∧
   (∀ d a, SetsV (fun c => .classF c d a 0) d fun s x => BitVec.ofNat 32 (Fmt.f32.classOf (s.v x a).toNat)) ∧
   (∀ d a, SetsV (fun c => .classF c d a 1) d fun s x => BitVec.ofNat 32 (Fmt.f64.classOf (s.v64 x a).toNat)) ∧
   (∀ k p a b, SetsP (fun c => .fcmpF32 c k p a b) p fun s x =>
     fcmp k.toNat (Fmt.f32.val (s.v x a).toNat) (Fmt.f32.val (s.bf b x).toNat)) ∧
   (∀ k p a b, SetsP (fun c => .fcmpF64 c k p a b) p fun s x =>
     fcmp k.toNat (Fmt.f64.val (s.v64 x a).toNat) (Fmt.f64.val (s.v64 x b).toNat)) ∧
   (∀ k p a b, SetsP (fun c => .fcmpF32S c k p a b) p fun s x =>
     fcmp k.toNat (Fmt.f32.val (s.v x a).toNat) (Fmt.f32.val (s.bs b).toNat)) ∧
   (∀ d a t (r : BitVec 3) f,
     let val (s : State) (x : Nat) : Dword × Ev :=
       cvtValue f.toNat t.toNat r.toNat s.cur.pfx.sat (if type64 f then (s.v64 x a).toNat else (s.v x a).toNat)
     (type64 t = true → SetsPairEv (fun c => .cvt c d a t r f) d fun s x => ((val s x).1, [(val s x).2])) ∧
     (type64 t = false → SetsVEv (fun c => .cvt c d a t r f) d fun s x =>
       (if t = 4 then ((val s x).1.setWidth 8).setWidth 32
        else if t = 5 then ((val s x).1.setWidth 16).setWidth 32
        else (val s x).1.setWidth 32, [(val s x).2]))) ∧
   (∀ d a, SetsSEv (fun c => .voteRedaddF32 c d a) d fun s =>
     let r := treeF32 (fun l => if l ∈ s.E then some (s.v l a) else none) 0 5
     ((r.1.getD 0).setWidth 64, r.2)))

/-- R76, R79, R88: EXP2, LOG2, SINPI and COSPI of a finite f32 give ROUND, with its events, of a value that is the exact
one to 90 bits: the exact value's own ROUND unless a rounding boundary lies that close to it. How many digits the model
evaluates is its own (log 7). The operands whose exact value is a zero are among the special ones, which are stated
apart. -/
def Obligations.RoundingFollowsTheRule : Prop :=
  ∀ mode < 5, ∀ b < 2 ^ 32, ∀ n m e, Fmt.f32.val b = .fin n m e →
    let a : ℝ := real (.fin n m e)
    let near (x : ℝ) (r : FR) : Prop :=
      ∃ y : ℝ, |y - x| ≤ |x| / 2 ^ 90 ∧ Rounds .f32 mode (decide (x < 0)) y r
    near ((2 : ℝ) ^ a) (exp2F32 mode (.fin n m e)) ∧
    (0 < a → a ≠ 1 → near (Real.logb 2 a) (log2F32 mode (.fin n m e))) ∧
    ((∀ k : ℤ, a ≠ k) → near (Real.sin (Real.pi * a)) (sinpiF32 mode (.fin n m e))) ∧
    ((∀ k : ℤ, a ≠ k + 1 / 2) → near (Real.cos (Real.pi * a)) (cospiF32 mode (.fin n m e)))

/-- R76, R88: in every format and mode, rounding a non-zero ±m·2^e gives ROUND of it, with its overflow and underflow
events. R76 to R79, R183, R184: addition, subtraction, multiplication, fused multiply-add, division, scaling, square root
and the reciprocals of finite operands are ROUND of the exact result where it is not 0; a zero sum takes its sign by
R77, and a zero product or quotient the exclusive OR of the signs. -/
def Obligations.ArithmeticIsCorrectlyRounded : Prop :=
  (∀ f ∈ formats, ∀ mode < 5, ∀ (neg : Bool) (m : Nat) (e : Int), m ≠ 0 →
    Rounds f mode neg (real (.fin neg m e)) (f.round mode neg m e)) ∧
  ∀ f ∈ formats, ∀ mode < 5, ∀ (n1 n2 n3 : Bool) (m1 m2 m3 : Nat) (e1 e2 e3 : Int),
    let a : Fl := .fin n1 m1 e1
    let b : Fl := .fin n2 m2 e2
    let c : Fl := .fin n3 m3 e3
    let zero (n : Bool) : FR := (f.sign n 0, 0)
    -- ROUND of x, or a zero of the sign given
    let is (x : ℝ) (n : Bool) (r : FR) : Prop :=
      (x ≠ 0 → Rounds f mode (decide (x < 0)) x r) ∧ (x = 0 → r = zero n)
    is (real a + real b) (decide (m1 = 0 ∧ m2 = 0 ∧ n1 = true ∧ n2 = true) || decide (mode = 2)) (f.add mode a b) ∧
    is (real a - real b) (decide (m1 = 0 ∧ m2 = 0 ∧ n1 = true ∧ n2 = false) || decide (mode = 2)) (f.sub mode a b) ∧
    is (real a * real b) (n1 != n2) (f.mul mode a b) ∧
    is (real a * real b + real c)
      (decide (m1 * m2 = 0 ∧ m3 = 0 ∧ n1 ≠ n2 ∧ n3 = true) || decide (mode = 2)) (f.fma mode false a b c) ∧
    is (-(real a * real b) + real c)
      (decide (m1 * m2 = 0 ∧ m3 = 0 ∧ n1 = n2 ∧ n3 = true) || decide (mode = 2)) (f.fma mode true a b c) ∧
    (m2 ≠ 0 → is (real a / real b) (n1 != n2) (f.div mode a b)) ∧
    (∀ n : Int, is (real a * (2 : ℝ) ^ n) n1 (f.scale mode a n)) ∧
    (m1 ≠ 0 → is (1 / real a) false (f.rcp mode a)) ∧
    (n1 = false ∨ m1 = 0 → is (Real.sqrt (real a)) n1 (f.sqrt mode a)) ∧
    (n1 = false ∧ m1 ≠ 0 → is (1 / Real.sqrt (real a)) false (f.rsq mode a))

/-- R75, R77 to R81, R188: NaN operands, infinities and the tables' special operands, for the arithmetic, the fused
multiply-add and the functions; the order of MIN and MAX with −0 below +0; FCMP's conditions; the conversions of NaN and
of infinities, the clamp of SAT, and the conversions from and to integers. The events of a fused multiply-add with NaN
operands are as log 8 reads R78. -/
def Obligations.FloatSpecials : Prop :=
  let bad (f : Fmt) : FR := (f.nanBits, Ev.invalid ||| Ev.nan)
  (∀ f ∈ formats, ∀ (mode : Nat) (a b : Fl),
    (a = .nan ∨ b = .nan →
      f.add mode a b = (f.nanBits, 0) ∧ f.sub mode a b = (f.nanBits, 0) ∧ f.mul mode a b = (f.nanBits, 0) ∧
      f.div mode a b = (f.nanBits, 0)) ∧
    (a = .nan → f.sqrt mode a = (f.nanBits, 0) ∧ f.rsq mode a = (f.nanBits, 0) ∧ f.rcp mode a = (f.nanBits, 0)) ∧
    (∀ n, f.add mode (.inf n) (.inf !n) = bad f ∧ f.sub mode (.inf n) (.inf n) = bad f ∧
      f.add mode (.inf n) (.inf n) = (f.infinite n, 0)) ∧
    (∀ n z m k, f.mul mode (.inf n) (.fin z 0 k) = bad f ∧ f.mul mode (.fin z 0 k) (.inf n) = bad f ∧
      f.div mode (.inf n) (.inf z) = bad f ∧ f.div mode (.fin n 0 k) (.fin z 0 k) = bad f ∧
      (m ≠ 0 → f.div mode (.fin n m k) (.fin z 0 k) = (f.infinite (n != z), Ev.divZero) ∧
        f.sqrt mode (.fin true m k) = bad f ∧ f.rsq mode (.fin true m k) = bad f) ∧
      f.div mode (.fin n m k) (.inf z) = (f.sign (n != z) 0, 0) ∧
      f.rcp mode (.fin n 0 k) = (f.infinite n, Ev.divZero) ∧ f.rsq mode (.fin n 0 k) = (f.infinite n, Ev.divZero) ∧
      f.sqrt mode (.inf false) = (f.infinite false, 0) ∧ f.rsq mode (.inf false) = (f.sign false 0, 0) ∧
      f.sqrt mode (.inf true) = bad f ∧ f.rsq mode (.inf true) = bad f ∧
      f.rcp mode (.inf n) = (f.sign n 0, 0)) ∧
    -- a·b + c, or −(a·b) + c
    (∀ (negate : Bool) (c : Fl),
      (a = .nan ∨ b = .nan → f.fma mode negate a b c = (f.nanBits, 0)) ∧
      (∀ n z k, let r : FR := if c = .nan then (f.nanBits, Ev.invalid) else bad f
        f.fma mode negate (.inf n) (.fin z 0 k) c = r ∧ f.fma mode negate (.fin z 0 k) (.inf n) c = r) ∧
      (∀ n z m k, m ≠ 0 →
        let r (c : Fl) : FR := match c with
          | .nan => (f.nanBits, 0)
          | .inf y => if y = ((n != z) != negate) then (f.infinite y, 0) else bad f
          | .fin _ _ _ => (f.infinite ((n != z) != negate), 0)
        f.fma mode negate (.inf n) (.fin z m k) c = r c ∧ f.fma mode negate (.fin z m k) (.inf n) c = r c ∧
        f.fma mode negate (.inf n) (.inf z) c = r c) ∧
      ∀ n z m k j i, f.fma mode negate (.fin n m k) (.fin z j i) .nan = (f.nanBits, 0) ∧
        ∀ y, f.fma mode negate (.fin n m k) (.fin z j i) (.inf y) = (f.infinite y, 0))) ∧
  (∀ mode : Nat, exp2F32 mode .nan = (0x7FC00000, 0) ∧ log2F32 mode .nan = (0x7FC00000, 0) ∧
    sinpiF32 mode .nan = (0x7FC00000, 0) ∧ cospiF32 mode .nan = (0x7FC00000, 0) ∧
    exp2F32 mode (.inf true) = (0, 0) ∧ exp2F32 mode (.inf false) = (0x7F800000, 0) ∧
    (∀ n k, exp2F32 mode (.fin n 0 k) = (0x3F800000, 0) ∧ cospiF32 mode (.fin n 0 k) = (0x3F800000, 0)) ∧
    (∀ k : Nat, log2F32 mode (.fin false (2 ^ k) (-k)) = (0, 0)) ∧
    (∀ m k, m ≠ 0 → log2F32 mode (.fin true m k) = bad .f32) ∧
    (∀ n (j k : Nat), sinpiF32 mode (.fin n (j * 2 ^ k) (-k)) = (Fmt.f32.sign n 0, 0) ∧
      cospiF32 mode (.fin n ((2 * j + 1) * 2 ^ k) (-k - 1)) = (0, 0)) ∧
    log2F32 mode (.inf false) = (0x7F800000, 0) ∧ log2F32 mode (.inf true) = bad .f32 ∧
    (∀ n k, log2F32 mode (.fin n 0 k) = (0xFF800000, Ev.divZero) ∧ sinpiF32 mode (.fin n 0 k) = (Fmt.f32.sign n 0, 0) ∧
      sinpiF32 mode (.inf n) = bad .f32 ∧ cospiF32 mode (.inf n) = bad .f32) ∧
    (∀ n (m : Nat) (k : Int), 0 ≤ k → sinpiF32 mode (.fin n m k) = (Fmt.f32.sign n 0, 0))) ∧
  (∀ f ∈ formats, ∀ (max : Bool) (a b : Nat), f.val a ≠ .nan → f.val b ≠ .nan →
    let r := f.minmax max a b
    (r = a ∨ r = b) ∧
    ext (f.val r) = (if max then Max.max (ext (f.val a)) (ext (f.val b)) else Min.min (ext (f.val a)) (ext (f.val b))) ∧
    (ext (f.val a) = 0 → ext (f.val b) = 0 → (f.val r).negative =
      if max then (f.val a).negative && (f.val b).negative else (f.val a).negative || (f.val b).negative)) ∧
  (∀ f ∈ formats, ∀ (max : Bool) (a b : Nat), f.val a = .nan →
    f.minmax max a b = if f.val b = .nan then f.nanBits else b) ∧
  (∀ f ∈ formats, ∀ (max : Bool) (a b : Nat), f.val a ≠ .nan → f.val b = .nan → f.minmax max a b = a) ∧
  (∀ a b : Fl, (a = .nan ∨ b = .nan → ∀ k < 8, fcmp k a b = decide (k = 1 ∨ k = 6)) ∧
    (a ≠ .nan → b ≠ .nan →
      (fcmp 0 a b = true ↔ ext a = ext b) ∧ (fcmp 1 a b = true ↔ ext a ≠ ext b) ∧ (fcmp 2 a b = true ↔ ext a < ext b) ∧
      (fcmp 3 a b = true ↔ ext a ≤ ext b) ∧ (fcmp 4 a b = true ↔ ext b < ext a) ∧ (fcmp 5 a b = true ↔ ext b ≤ ext a) ∧
      fcmp 6 a b = false ∧ fcmp 7 a b = true)) ∧
  (∀ f ∈ formats, ∀ (mode : Nat) (narrower : Bool) (n : Bool),
    (∀ sat, f.cvt mode sat .nan narrower = (f.nanBits, 0)) ∧
    f.cvt mode true (.inf n) true = (f.sign n f.maxBits, Ev.sat) ∧
    (∀ sat, sat = false ∨ narrower = false → f.cvt mode sat (.inf n) narrower =
      match f.infBits with
      | some i => (f.sign n i, 0)
      | none => (f.nanBits, Ev.nan)) ∧
    (mode < 5 → ∀ m e, m ≠ 0 → ∃ r, Rounds f mode n (real (.fin n m e)) r ∧
      f.cvt mode false (.fin n m e) narrower = r ∧
      f.cvt mode true (.fin n m e) true =
        if f.val r.1 = .inf n ∨ f.val r.1 = .nan then (f.sign n f.maxBits, r.2 &&& Ev.overflow ||| Ev.sat) else r)) ∧
  (∀ (mode : Nat) (lo hi : Int), Fl.toInt mode lo hi .nan = (0, Ev.sat) ∧
    Fl.toInt mode lo hi (.inf true) = (lo, Ev.sat) ∧ Fl.toInt mode lo hi (.inf false) = (hi, Ev.sat)) ∧
  (∀ mode < 5, ∀ (lo hi : Int), lo ≤ 0 → 0 ≤ hi → hi < 2 ^ 64 → -2 ^ 64 ≤ lo → ∀ (neg : Bool) (m : Nat) (e n : Int),
    takes mode neg (|real (.fin neg m e)|) n →
    let x : Int := if neg then -n else n
    Fl.toInt mode lo hi (.fin neg m e) =
      if x < lo then (lo, Ev.sat) else if hi < x then (hi, Ev.sat) else (x, 0)) ∧
  (∀ f ∈ formats, ∀ mode < 5, ∀ x : Int, x ≠ 0 → Rounds f mode (decide (x < 0)) (x : ℝ) (f.ofInt mode x))

/-- R149, R150, R151, R153, R162: the loads. A lane whose checks pass enters one load of its effective address, which
under a CPOL order it waits for; the scratchpad's lanes go together; the first of the checks 1 to 3 that fails traps.
-/
def Obligations.LoadsIssue : Prop :=
  (∀ (s : State) (die : Nat) (asid : BitVec 16) (ea : Dword) (size : Nat) (q : Ask),
    Checked s (s.check die asid ea size q).1) ∧
  (∀ (s : State) (core : Nat) (asid : BitVec 16) (ea : Dword) (size k : Nat) (spad : Bool) (q : Ask),
    s.cur.core = core → early s ea size spad = some k → s.checkAcc core asid ea size spad q = (s, .trap k)) ∧
  ∀ (s : State) (c : Bool),
    let base (b : BitVec 4) : Dword := if b = 0 then 0 else s.cur.rd.rs b.toNat
    (∀ d a b z r x u, OneThread s x →
      (∀ m ea, m = 0 ∧ ea = base b + s.v64 x a + s.disp ∨ m = 1 ∧ ea = base b + (s.v x a).setWidth 64 + s.disp ∨
          m = 2 ∧ ea = base b + (s.v x a).setWidth 64 * BitVec.ofNat 64 (accessSize z) + s.disp →
        (Passes s u ea (accessSize z) { policy := s.policy r.toNat } →
          let dest : LoadDest := match s.cur.pfx.probe with
            | some p => .probe z d.toNat p
            | none => .vec z d.toNat
          exec (.ld c d a b z m r) s = .next (afterUnit c (acquires
            (loading u [loadOf u 0 x dest ea (accessSize z) false (s.policy r.toNat)]) (decide (s.order ≠ 0)) [x]))) ∧
        (∀ k, early s ea (accessSize z) false = some k →
          exec (.ld c d a b z m r) s = .next (afterUnit c (withDecided s [(x, trapOf s k ea)])))) ∧
      (∀ a' : BitVec 5, ∀ m ea, m = 0 ∧ ea = base b + s.sr a' + s.disp ∨
          m = 2 ∧ ea = base b + s.sr a' * BitVec.ofNat 64 (accessSize z) + s.disp →
        Passes s u ea (accessSize z) { policy := s.policy r.toNat } → ∀ d' : BitVec 5,
        exec (.sld c d' a' b z m r) s = .next (afterUnit c (acquires
          (loading u [loadOf u 0 x (.uni z d'.toNat) ea (accessSize z) false (s.policy r.toNat)]) (decide (s.order ≠ 0))
          [x]))) ∧
      (∀ b' : BitVec 7, Passes s u (s.v64 x a) 1 { tag := false } →
        exec (.tagget c a b') s =
          .next (afterUnit c (loading u [loadOf u 0 x (.tag b'.toNat) (s.v64 x a) 1 false 0])))) ∧
    (s.E = [] → ∀ d a b z m r, exec (.sld c d a b z m r) s = .next (afterUnit c s)) ∧
    (∀ d a b z m, m ≠ 3 → (∀ x ∈ s.E, SpadSound s x (s.ea x a b z m) (accessSize z)) →
      exec (.lds c d a b z m) s = .next (afterUnit c (acquires (loading s (s.E.zipIdx.map fun x =>
        loadOf s x.2 x.1 (.vec z d.toNat) (s.ea x.1 a b z m) (accessSize z) true 0)) (decide (s.order ≠ 0)) s.E))) ∧
    -- MODE 3: a ring of `len` bytes from `lo`; the address register moves on
    (∀ d a b z x lo len, s.E = [x] → SpadSound s x (s.ea x a b z 3) (accessSize z) →
      s.ring (b.toNat % 8) x a (accessSize z) = some (lo, len) → ∃ u,
      exec (.lds c d a b z 3) s = .next (afterUnit c (acquires u (decide (s.order ≠ 0)) [x])) ∧
      (u.core s.cur.core).loads = (s.core s.cur.core).loads ++
        [loadOf s 0 x (.vec z d.toNat) (s.ea x a b z 3) (accessSize z) true 0] ∧
      u.here.rv x a.toNat = BitVec.ofNat 32 (lo + ((s.v x a).toNat - lo + accessSize z) % len) ∧
      (∀ n, n ≠ a.toNat → u.here.rv x n = s.here.rv x n) ∧ u.mem = s.mem) ∧
    -- LDFE: one that empties its granules under an order also waits for the lane's earlier accesses
    (∀ d a b z m (k : BitVec 1), ∃ u, exec (.ldfe c d a b z m k) s = .next (afterUnit c u) ∧
      OnlyEffects s u (s.E.flatMap fun x =>
        let ea := s.ea x a b z m
        (if s.flushed x = true then [trapOf s 0x31 0]
          else if (s.here.thread x).inRegion = true then [trapOf s 0x40 0]
          else match s.spadFault x ea (accessSize z) a b m with
            | some k => [trapOf s k ea]
            | none =>
              (if k = 1 ∧ s.order ≠ 0 ∧ s.fenceDone s.cur.core s.cur.place x s.nextId = false then
                [.wait (.fence s.nextId) s.unitPos] else []) ++
              [.wait (.ldfe
                { ea, size := accessSize z, sz := z, dest := d.toNat, clear := decide (k = 1), spad := true
                  ring := if m = 3 then (s.ring (b.toNat % 8) x a (accessSize z)).map fun r =>
                      (a.toNat, BitVec.ofNat 32 (r.1 + ((s.v x a).toNat - r.1 + accessSize z) % r.2)) else none
                  word := s.curWord }) s.unitPos]).map fun e => (x, e)))

/-- R109, R152, R153, R162, R163, R194: the stores enter the group's store queue as one unit, in lane order, with
their addresses and data; nothing is written yet. -/
def Obligations.StoresQueue : Prop :=
  ∀ (s : State) (c : Bool),
    let base (b : BitVec 4) : Dword := if b = 0 then 0 else s.cur.rd.rs b.toNat
    (∀ d a b z r x u, OneThread s x →
      (∀ m ea, m = 0 ∧ ea = base b + s.v64 x a + s.disp ∨ m = 1 ∧ ea = base b + (s.v x a).setWidth 64 + s.disp ∨
          m = 2 ∧ ea = base b + (s.v x a).setWidth 64 * BitVec.ofNat 64 (accessSize z) + s.disp →
        (Passes s u ea (accessSize z) { write := true, policy := s.policy r.toNat } →
          exec (.st c d a b z m r) s = .next (afterUnit c (queueing u
            { op := .store, size := accessSize z, policy := s.policy r.toNat
              accs := [{ lane := x, ea, data := s.source x z d }] }))) ∧
        (∀ k, early s ea (accessSize z) false = some k →
          exec (.st c d a b z m r) s = .next (afterUnit c (withDecided s [(x, trapOf s k ea)])))) ∧
      (∀ a' d' : BitVec 5, ∀ m ea, m = 0 ∧ ea = base b + s.sr a' + s.disp ∨
          m = 2 ∧ ea = base b + s.sr a' * BitVec.ofNat 64 (accessSize z) + s.disp →
        Passes s u ea (accessSize z) { write := true, policy := s.policy r.toNat } →
        exec (.sst c d' a' b z m r) s = .next (afterUnit c (queueing u
          { op := .store, size := accessSize z, policy := s.policy r.toNat
            accs := [{ lane := x, ea, data := (s.sr d').setWidth 128 }], uni := [x] }))) ∧
      (∀ b' : BitVec 7, (s.v64 x a).toNat % 32 = 0 →
        (s.v64 x a).toNat % 65536 + 32 * (s.v x b').toNat ≤ 65536 → s.v x b' ≠ 0 → ∀ loc,
        s.checkAcc s.cur.core s.curLaunch.asid (s.v64 x a) 32 false { write := true, tag := false, kvm := true } =
          (u, .ok loc) →
        loc.leaf.tagen = true →
        exec (.tagset c a b') s = .next (afterUnit c (queueing u
          { op := .tagset, size := 32
            accs := [{ lane := x, ea := s.v64 x a, data := BitVec.ofNat 128 (s.v x b').toNat }] })))) ∧
    (s.E = [] → ∀ d a b z m r, exec (.sst c d a b z m r) s = .next (afterUnit c s)) ∧
    (∀ d a b z m, m ≠ 3 → (∀ x ∈ s.E, SpadSound s x (s.ea x a b z m) (accessSize z)) →
      exec (.sts c d a b z m) s = .next (afterUnit c (queueing s
        { op := .store, size := accessSize z, spad := true
          accs := s.E.map fun x => { lane := x, ea := s.ea x a b z m, data := s.source x z d } }))) ∧
    (∀ d a b z x lo len, s.E = [x] → SpadSound s x (s.ea x a b z 3) (accessSize z) →
      s.ring (b.toNat % 8) x a (accessSize z) = some (lo, len) → ∃ u,
      exec (.sts c d a b z 3) s = .next (afterUnit c (queueing u
        { op := .store, size := accessSize z, spad := true
          accs := [{ lane := x, ea := s.ea x a b z 3, data := s.source x z d }] })) ∧
      u.here.rv x a.toNat = BitVec.ofNat 32 (lo + ((s.v x a).toNat - lo + accessSize z) % len) ∧
      OnlyV s u [x] [a.toNat]) ∧
    (∀ (full : Bool) (a b : BitVec 7),
      (∀ x ∈ s.E, s.flushed x = false ∧ (s.v x a).toNat % 16 = 0 ∧ (s.v x b).toNat % 16 = 0 ∧
        (s.v x a).toNat + (s.v x b).toNat ≤ (s.core s.cur.core).spadSize) →
      exec (if full then .feset c a b else .feclr c a b) s = .next (afterUnit c (queueing s
        { op := .fullBits full, size := 16, spad := true
          accs := (s.E.filter fun x => decide (s.v x b ≠ 0)).map fun x =>
            { lane := x, ea := (s.v x a).setWidth 64, data := (s.v x b).setWidth 128 } })))

/-- R215 to R223, R242: ATOM, ATOM64, RED, CAS and PATOM: the unit that each enters, with its operands; and what the
integer members make of the old value. -/
def Obligations.AtomicsQueue : Prop :=
  let ext32 (b : BitVec 7) (s : State) (x : Nat) : Qword := (s.v x b).setWidth 128
  let ext64 (b : BitVec 7) (s : State) (x : Nat) : Qword := (s.v64 x b).setWidth 128
  let none' (_ : State) (_ : Nat) : Qword := 0
  (∀ m ∈ atoms, ∀ d a b, Updates (fun c => m.1 c d a b) (.rmw m.2 false true) 4 a d.toNat (ext32 b) none') ∧
  (∀ m ∈ atoms64, ∀ d a b, Updates (fun c => m.1 c d a b) (.rmw m.2 true true) 8 a d.toNat (ext64 b) none') ∧
  (∀ m ∈ reds, ∀ a b, Updates (fun c => m.1 c 0 a b) (.rmw m.2 false false) 4 a 0 (ext32 b) none' ∧
    Updates (fun c => m.1 c 1 a b) (.rmw m.2 true false) 8 a 0 (ext64 b) none') ∧
  (∀ a b, Updates (fun c => .redFaddBf16x2 c a b) (.rmw 14 false false) 4 a 0 (ext32 b) none') ∧
  (∀ d a b, Updates (fun c => .casB32 c d a b) .cas 4 a d.toNat (ext32 b) (ext32 d) ∧
    Updates (fun c => .casB64 c d a b) .cas 8 a d.toNat (ext64 b) (ext64 d) ∧
    Updates (fun c => .casB128 c d a b) .cas 16 a d.toNat (fun s x => s.v128 x b.toNat) fun s x => s.v128 x d.toNat) ∧
  (∀ d (a : BitVec 6) b f, Updates (fun c => .patom c d a b f) (.patom f.toNat) 8 (a ++ 0#1) d.toNat (ext64 b) none') ∧
  ∀ (w : Nat) (old b : BitVec w),
    rmwInt w 0 old b = BitVec.ofInt w (old.toInt + b.toInt) ∧
    (rmwInt w 1 old b).toInt = min old.toInt b.toInt ∧ (rmwInt w 2 old b).toInt = max old.toInt b.toInt ∧
    (rmwInt w 3 old b).toNat = min old.toNat b.toNat ∧ (rmwInt w 4 old b).toNat = max old.toNat b.toNat ∧
    rmwInt w 5 old b = old &&& b ∧ rmwInt w 6 old b = old ||| b ∧ rmwInt w 7 old b = old ^^^ b ∧ rmwInt w 8 old b = b ∧
    (rmwInt w 9 old b).toNat = (if b.toNat ≤ old.toNat then 0 else old.toNat + 1) ∧
    (rmwInt w 10 old b).toNat = (if old.toNat = 0 ∨ b.toNat < old.toNat then b.toNat else old.toNat - 1)

/-- R158 to R165, R199, R225 to R235, R241: the rest of SYNC: the fence and the waits, the regions and their status, the
deterministic flush, residency, the cache operations and the orders. PREF brings the lines of its ranges that memory or
the pool backs, CWB writes back what is dirty in them, and CINV discards them. In an open region FARB, POLL and DFLUSH
raise FAR_ILLEGAL. The model's readings: what MFOP orders (logs 36 and 79), that a POLL is left waiting for an event
(log 37), and that FARB keeps CAUSE (log 39). -/
def Obligations.SyncMembers : Prop :=
  let fenced (s : State) (x : Nat) : List (Nat × Effect) :=
    if s.fenceDone s.cur.core s.cur.place x s.nextId then [] else [(x, .wait (.fence s.nextId) s.unitPos)]
  (∀ o sc, Decides (fun c => .fence c o sc) fun s x =>
    if s.fenceDone s.cur.core s.cur.place x s.nextId then [] else [.wait (.fence s.nextId) s.unitPos]) ∧
  (∀ a, SetsS (fun c => .seqr c a) a fun s => BitVec.ofNat 64 (s.core s.cur.core).landed) ∧
  ∀ (s : State) (c : Bool),
    (∀ x u (a b : BitVec 7) (w : BitVec 1) (k : BitVec 2), OneThread s x →
      let p : WaitAcc := { ea := s.v64 x a, size := if w = 1 then 8 else 4, cond := k.toNat
                           operand := if w = 1 then s.v64 x b else (s.v x b).setWidth 64, word := s.curWord }
      Passes s u p.ea p.size {} →
      exec (.poll c a b 0 w k) s = .next (afterUnit c (withDecided u [(x, .wait (.poll p s.clock 64) s.unitPos)]))) ∧
    (∀ a b w k, (∀ x ∈ s.E, SpadSound s x ((s.v x a).setWidth 64) (if w = 1#1 then 8 else 4) ∧ ¬ InRegion s x) →
      exec (.poll c a b 1 w k) s = .next (afterUnit c (withDecided s (s.E.map fun x =>
        (x, .wait (.poll { ea := (s.v x a).setWidth 64, size := if w = 1 then 8 else 4, spad := true, cond := k.toNat
                           operand := if w = 1 then s.v64 x b else (s.v x b).setWidth 64, word := s.curWord }
          s.clock 64) s.unitPos))))) ∧
    -- inside an open region
    ((∀ x ∈ s.E, InRegion s x) →
      (s.curLaunch.hdr.det = false → ∀ d sc, exec (.farb c d sc) s = .next (afterUnit c (allTrap s 0x40 0))) ∧
      ((∀ x ∈ s.E, s.flushed x = false) → exec (.dflush c) s = .next (afterUnit c (allTrap s 0x40 0)) ∧
        ∀ a b x w k, exec (.poll c a b x w k) s = .next (afterUnit c (allTrap s 0x40 0)))) ∧
    (s.curLaunch.hdr.det = false →
      -- FARB: the lowest free slot and the next order number of the instance
      (∀ x (d : BitVec 14) (sc : BitVec 1) slot, s.E = [x] → ¬ InRegion s x →
        (∀ t ∈ s.here.lanes, ¬ (t.2.live = true ∧ t.2.preempt = true)) →
        let die : Bool := decide (sc = 1)
        let ref : InstRef := (die, if die then s.cur.core / 72 else s.cur.core)
        let i := s.inst ref
        leastFree i.regions.keys 0 (if die then 256 else 64) = some slot →
        ∃ u, exec (.farb c d sc) s = .next (afterUnit c u) ∧ u.cur = s.cur ∧ u.mem = s.mem ∧
          u.inst ref = { i with
            next := i.next + 1
            regions := i.regions.set slot
              { order := i.next, core := s.cur.core, place := s.cur.place, lane := x } } ∧
          u.here.thread x = { s.here.thread x with
            farTarget := s.target (BitVec.ofInt 32 (s.pi.toInt + d.toInt)), farSince := s.clock
            far := { order := BitVec.ofNat 32 i.next, cause := (s.here.thread x).far.cause, dieScope := die
                     slot, state := 1 } }) ∧
      -- while a pre-emption is pending in a thread of the group, FARB waits
      (∀ (d : BitVec 14) (sc : BitVec 1), Outside s → (∃ t ∈ s.here.lanes, t.2.live = true ∧ t.2.preempt = true) →
        exec (.farb c d sc) s = .next (afterUnit c (again s))) ∧
      (∀ x (p : BitVec 3), s.E = [x] →
        let t := s.here.thread x
        (t.far.state = 1 → ∃ u, exec (.fare c p) s = .next (afterUnit c u) ∧
          u.cur = { s.cur with effects := s.cur.effects ++ [(x, .wait (.fare p.toNat) s.unitPos)] } ∧
          u.here.thread x = { t with far := { t.far with state := 2 } } ∧ OutsideHere s { u with cur := s.cur }) ∧
        (t.far.state = 4 → ∃ u, exec (.fare c p) s = .next (afterUnit c u) ∧ OutsideHere s u ∧
          { u.here.thread x with p := 0 } = { t with p := 0, far := { t.far with state := 5 } } ∧
          u.here.rp x p.toNat = decide (p = 0) ∧ (∀ n, n ≠ p.toNat → u.here.rp x n = s.here.rp x n)) ∧
        (t.far.state ≠ 1 → t.far.state ≠ 4 →
          exec (.fare c p) s = .next (afterUnit c (withDecided s [(x, trapOf s 0x40 0)])))) ∧
      (∀ x, s.E = [x] →
        (¬ InRegion s x → exec (.farx c) s = .next (afterUnit c (withDecided s [(x, trapOf s 0x40 0)]))) ∧
        (InRegion s x → (s.here.thread x).far.irrev = false →
          exec (.farx c) s = .next (afterUnit c
            (s.farAbort (instOf s.cur.core (s.here.thread x).far.dieScope) (s.here.thread x).far.slot 3)))) ∧
      (∀ a, ∃ u, exec (.fars c a) s = .next (afterUnit c u) ∧ OnlyV s u s.E [a.toNat, a.toNat + 1] ∧
        ∀ x ∈ s.E, let f := (s.here.thread x).far
          u.here.rv64 x a.toNat = BitVec.ofNat 64 (f.order.toNat * 2 ^ 32 + f.cause.toNat * 2 ^ 20 +
            f.dieScope.toNat * 2 ^ 19 + f.irrev.toNat * 2 ^ 18 + f.fwdIn.toNat * 2 ^ 17 + f.slot % 256 * 2 ^ 8 +
            f.state % 8)) ∧
      ((∀ x ∈ s.E, ¬ InRegion s x) → exec (.dflush c) s = .next (afterUnit c s))) ∧
    (s.curLaunch.hdr.det = true → ∀ x, OneThread s x → ∃ u, exec (.dflush c) s = .next (afterUnit c u) ∧
      u.cur = { s.cur with effects := s.cur.effects ++
        (arrivals s x (.dflush (s.wg s.here.wg).segment)).map fun e => (x, e) } ∧
      u.here.thread x = { s.here.thread x with flushed := true } ∧ OutsideHere s { u with cur := s.cur }) ∧
    (∀ x a (b : BitVec 5), OneThread s x → s.sr b = 0 → (s.v64 x a).toNat / 2 ^ 57 % 8 = 0 →
      (s.v64 x a).getLsbD 56 = false → ∀ u l, s.xlate (s.cur.core / 72) (spaceOf s.curLaunch.asid (s.v64 x a))
          ((s.v64 x a).toNat % 2 ^ 57) = (u, .leaf l) →
        exec (.pgreq c a b) s = .next (afterUnit c u)) ∧
    (∀ x a (b : BitVec 5), OneThread s x → (s.sr b).toNat % 8 ≠ 0 →
      exec (.pgreq c a b) s = .next (afterUnit c (withDecided s [(x, trapOf s 0x10 (s.sr b))]))) ∧
    (∀ a l p, (∀ x ∈ s.E, s.flushed x = false ∧ (s.v64 x a).toNat / 2 ^ 57 % 8 = 0) →
      ∃ u, exec (.pref c a l p) s = .next (afterUnit c u) ∧ u.cur = s.cur ∧ ∀ k, (u.core k).groups = (s.core k).groups) ∧
    -- PREF: a fill of the line in the L2, and in the L1 but for the form .l2
    (∀ x a (l : BitVec 1) (p : BitVec 2), OneThread s x → (s.v64 x a).toNat / 2 ^ 57 % 8 = 0 →
      let r := s.check (s.cur.core / 72) s.curLaunch.asid (s.v64 x a) 1 { policy := p.toNat }
      ((∀ loc, r.2 ≠ .ok loc) → exec (.pref c a l p) s = .next (afterUnit c s)) ∧
      ∀ u loc, r = (u, .ok loc) →
        (2 ≤ loc.leaf.cls ∨ p = 3 ∨ u.place loc.pa = .window →
          exec (.pref c a l p) s = .next (afterUnit c s)) ∧
        (loc.leaf.cls < 2 → p ≠ 3 → u.place loc.pa = .memory ∨ u.place loc.pa = .pool →
          let line : LineKey := ⟨loc.asid, lineOf loc.va⟩
          let found := (u.core s.cur.core).l1.find? (l1Key line.asid line.line)
          (l = 1 ∨ found ≠ none → exec (.pref c a l p) s = .next (afterUnit c u)) ∧
          (l = 0 → found = none → (u.core s.cur.core).l1.length < (u.core s.cur.core).l1Lines →
            exec (.pref c a l p) s = .next (afterUnit c (sends (l1Set u line s.cur.core (some
              { st := .isD, asid := line.asid, line := line.line, die := loc.home, pa := loc.pa / 64 * 64
                rrpv := rrpvOf p.toNat loc.leaf.cls })) line loc.home 0 [(s.cur.core, .req .gets 0 false)]))))) ∧
    -- CWB and CINV: the lines of the address space, or of ASID 0 for the shared space, that hold a byte of the range
    (∀ a b : BitVec 5, s.E ≠ [] → (∀ x ∈ s.E, s.flushed x = false) → s.sr b ≠ 0 → LinesRest s →
      let lo := (s.sr a).toNat % 2 ^ 57
      let covered (pa : Nat) : Prop := ∃ die line l,
        (homeKey die (if line.getLsbD 49 then 0 else s.curLaunch.asid) line, l) ∈ s.l2 ∧ l.pa = pa ∧
        line.toNat * 64 < lo + (s.sr b).toNat ∧ lo < line.toNat * 64 + 64
      (∃ u, exec (.cwb c a b) s = .next (afterUnit c u) ∧ WrittenBack s u covered ∧ u.l2 = s.l2) ∧
      ∃ u, exec (.cinv c a b) s = .next (afterUnit c u) ∧ WrittenBack s u covered ∧
        (∀ x, x ∈ u.l2 ↔ x ∈ s.l2 ∧ ¬ covered x.2.pa) ∧
        ∀ k, ∀ x ∈ (u.core k).l1, ¬ covered x.2.pa) ∧
    (∀ a b : BitVec 5, (∀ x ∈ s.E, s.flushed x = false) →
      (s.E = [] ∨ s.sr b = 0 → exec (.cwb c a b) s = .next (afterUnit c s) ∧ exec (.cinv c a b) s = .next (afterUnit c s)) ∧
      (∃ u, exec (.cwb c a b) s = .next (afterUnit c u) ∧ u.cur = s.cur ∧ ∀ k, (u.core k).groups = (s.core k).groups) ∧
      ∃ u, exec (.cinv c a b) s = .next (afterUnit c u) ∧ u.cur = s.cur ∧ ∀ k, (u.core k).groups = (s.core k).groups) ∧
    (∀ x, s.E = [x] → ∃ u, exec (.mfop c) s = .next (afterUnit c u) ∧ u.nextId = s.nextId + 1 ∧
      u.cur = { s.cur with effects := s.cur.effects ++ fenced s x } ∧ u.mem = s.mem ∧
      u.core s.cur.core = { s.core s.cur.core with
        slots := (s.core s.cur.core).slots.mapVals fun _ y =>
          y.order { wg := s.here.wg, grp := s.here.index, lane := x } ((s.here.thread x).seen.get 0) s.nextId })

/-- R240: in a deterministic launch, FARB, FARE, FARX and FARS raise DET_VIOLATION in every executing thread, and do
nothing else. -/
def Obligations.DeterministicRegionTraps : Prop :=
  ∀ (s : State) (c : Bool), s.curLaunch.hdr.det = true →
    (∀ (d : BitVec 14) (sc : BitVec 1), exec (.farb c d sc) s = .next (afterUnit c (allTrap s 0x31 0))) ∧
    (∀ p : BitVec 3, exec (.fare c p) s = .next (afterUnit c (allTrap s 0x31 0))) ∧
    exec (.farx c) s = .next (afterUnit c (allTrap s 0x31 0)) ∧
    ∀ a : BitVec 7, exec (.fars c a) s = .next (afterUnit c (allTrap s 0x31 0))

/-- R30, R166 to R175, R316: CPY starts one operation for the lanes whose two addresses pass checks 1 to 3; the others
take their traps. TILE, UNPK, PACK, GATH, SCAT and KVCP start one operation for each executing thread, with the block at
s(A) and the completion target in s(B); a block or a target that fails its checks starts nothing. A unit whose tag has
no room (R167), and one of an open region that R233 has continue irrevocably first, waits where it is selected, before
its meaning runs: so the meaning needs no premise of either. The model's readings (log 41): a malformed target is looked
at after the block, with %TRAP_ADDR 0, and before the addresses of a CPY's lanes, of which the destination comes first;
a task out of range raises PROTECTION. -/
def Obligations.CopyCommands : Prop :=
  (∀ (s : State) (c : Bool) (d : BitVec 5) (a b : BitVec 7) (k z : BitVec 2),
    let target := s.sr d
    let size := 4 * 2 ^ z.toNat
    let trap (x : Nat) : Option Effect := cpyTrap s x (s.v64 x a) (s.v64 x b) size k.toNat
    let good := s.E.filter fun x => (trap x).isNone
    let t := withDecided s (s.E.filterMap fun x => (trap x).map fun e => (x, e))
    (∀ e, s.targetFault 0 target = some e → exec (.cpy c d a b k z) s = .next (afterUnit c (allTrap s e 0))) ∧
    (s.targetFault 0 target = none → good = [] → exec (.cpy c d a b k z) s = .next (afterUnit c t)) ∧
    (s.targetFault 0 target = none → good ≠ [] → exec (.cpy c d a b k z) s = .next (afterUnit c
      { t.modGroup s.cur.core s.cur.place (tagCounts 0 (tagOf target) 1) with
        ops := s.ops ++ [{ commandOf s (.cpy size k.toNat) 0 target (s.E.headD 0) 0 with
          blk := [], elems := good.map fun x => (x, s.v64 x a, s.v64 x b), policy := s.policy 0 }]
        nextId := s.nextId + 1 }))) ∧
  CopyCommand .tile .tile (fun s => tileFault (s.core s.cur.core).spadSize) ∧
  CopyCommand .unpk .unpk (fun s => unpkFault (s.core s.cur.core).spadSize s.curLaunch.hdr.slots fun n =>
    ((s.core s.cur.core).slots.get {} ((s.wg s.here.wg).slotBase + n)).claim) ∧
  CopyCommand .pack .pack (fun s => packFault (s.core s.cur.core).spadSize s.curLaunch.hdr.tiles) ∧
  CopyCommand .gath .gath (fun s => gathFault false (s.core s.cur.core).spadSize) ∧
  CopyCommand .scat .scat (fun s => gathFault true (s.core s.cur.core).spadSize) ∧
  CopyCommand .kvcp .kvcp fun s b => kvcpFault (s.core s.cur.core).spadSize
    ((s.seqs.find? (blkNat b 56 2)).bind fun q => s.pool q.pool) b

/-- R289 to R292, R314, R338, R348, R350: each member of TT starts one command of each executing thread on a copy tag;
SAMPLE, RNG, RNGF and ARGMAX one whose result s(B) waits for, TASKNEW one whose result s(A) waits for; and COLL one on a
collective tag, with the next number of its group. R167, R280, R282, R351: CPW, MWAIT and COLLW write the complement of
their tag's flag to p once its count is 0, and wait for that else; an MWAIT that does not wait ends the watch on its
group's MMAs of the tag. CPS and MSTAT read a tag and clear its flag and code; MSTAT adds the number of queued MMAs. The
model's readings: the end of a watch by MWAIT (log 36), the check of the target (log 41), SMPL and TASKNEW of several
lanes (log 44), and what COLL refuses (log 48). -/
def Obligations.EngineCommands : Prop :=
  ((∀ m ∈ tts, CopyCommand m.1 (.tt m.2) fun s => s.ttFault m.2) ∧
   (∀ m ∈ smpls, ∀ a b : BitVec 5, Commands (fun c => m.1 c a b) (fun _ => True) (.smpl m.2 b.toNat) (fun s => s.sr a)
     (fun _ => 0) (fun s => smplFault m.2 (s.core s.cur.core).spadSize) (fun _ => none) fun _ => awaits b.toNat) ∧
   (∀ a b : BitVec 5, Commands (fun c => .tasknew c a b) (fun s => ∀ x ∈ s.E, ¬ InRegion s x) (.tasknew a.toNat)
     (fun s => s.sr b) (fun s => if s.curLaunch.asid = 0 then 0 else s.htsRange.get 0 s.curLaunch.asid.toNat)
     (fun s => s.tasknewFault) (fun _ => none) fun _ => awaits a.toNat) ∧
   ∀ (s : State) (c : Bool) (a b : BitVec 5) (x : Nat), s.E = [x] → s.flushed x = false →
     let p := s.sr a
     let rank (g : Nat) : Bool := (s.myRank g).isSome
     let blk := blockAt s x p
     let g := blk[2]!.toNat + 256 * blk[3]!.toNat
     (p.toNat % 64 ≠ 0 → exec (.coll c a b) s = .next (afterUnit c (allTrap s 0x10 p))) ∧
     (p.toNat % 64 = 0 → (s.core s.cur.core).spadSize < p.toNat + 64 →
       exec (.coll c a b) s = .next (afterUnit c (allTrap s 0x15 p))) ∧
     (Whole s p → ∀ k, collFault rank blk = some k → exec (.coll c a b) s = .next (afterUnit c (allTrap s k p))) ∧
     (Whole s p → collFault rank blk = none →
       (∀ k, s.targetFault 2 (s.sr b) = some k → exec (.coll c a b) s = .next (afterUnit c (allTrap s k 0))) ∧
       (s.targetFault 2 (s.sr b) = none → exec (.coll c a b) s = .next (afterUnit c
         { s.modGroup s.cur.core s.cur.place (tagCounts 2 (tagOf (s.sr b)) 1) with
           ops := s.ops ++ [{ commandOf s .coll p (s.sr b) x 0 with order := s.collSeq.get 0 g }]
           collSeq := s.collSeq.set g (s.collSeq.get 0 g + 1)
           nextId := s.nextId + 1 })))) ∧
  ((∀ (t : BitVec 4) p, TagWaits (fun c => .cpw c t p) 0 t.toNat p (.cpw t.toNat p.toNat) id) ∧
   (∀ (t : BitVec 4) p, TagWaits (fun c => .mwait c t p) 1 t.toNat p (.mwait t.toNat p.toNat) fun u =>
     u.modWg u.here.wg fun w => { w with unseen := w.unseen.filter fun m =>
       ¬ (m.2.1 = u.here.index ∧ m.2.2 = t.toNat) }) ∧
   (∀ (t p : BitVec 3), TagWaits (fun c => .collw c t p) 2 t.toNat p (.collw t.toNat p.toNat) id) ∧
   (∀ a (t : BitVec 4), TagReads (fun c => .cps c a t) 0 t.toNat a fun _ => 0) ∧
   ∀ a (t : BitVec 4), TagReads (fun c => .mstat c a t) 1 t.toNat a fun s =>
     ((s.core s.cur.core).mq.filter fun j => j.entered && !j.started).length)

/-- R264, R270 to R273: the members of MX that act on slots and tiles: OSCLM and OSREL on a slot's claim, OSST and OSLD
on the row of a claimed slot (4 bytes of a lane, or the row's scale), ACZ, ACLD and ACST on a tile that no MMA or PACK
has in use; a slot or tile outside the allocation, or a slot in the wrong state, raises SLOT_STATE, a malformed place
word FORMAT. R274 to R276, R282: an MMA whose block passes its checks enters the core's queue, its matrix tag counts it,
and its tile is watched until an MWAIT; one whose block fails them raises that trap and is not queued. An MMA whose tag
counts 255 waits where it is selected, before its meaning runs (R276). The model's readings (log 36): how the products
of a unit enter the queue, what watches a tile, and when OSREL and ACST take effect. -/
def Obligations.MatrixEngine : Prop :=
  (∀ (s : State) (c : Bool),
     let slots := s.curLaunch.hdr.slots
     let tiles := s.curLaunch.hdr.tiles
     -- OSCLM: the first of the executing threads claims the slot
     (∀ (n : BitVec 6) (f : BitVec 4) x xs, s.E = x :: xs → n.toNat < slots → (slotOf s (mySlot s n.toNat)).claim = none →
       ∃ u, OnlySlots s u ∧
         exec (.osclm c n f) s = .next (afterUnit c (withDecided u (xs.map fun y => (y, trapOf s 0x16 0)))) ∧
         ∀ k, slotOf u k = if k = mySlot s n.toNat then { slotOf s k with claim := some f.toNat } else slotOf s k) ∧
     (∀ (n : BitVec 6) (f : BitVec 4), slots ≤ n.toNat ∨ (slotOf s (mySlot s n.toNat)).claim ≠ none →
       exec (.osclm c n f) s = .next (afterUnit c (allTrap s 0x16 0))) ∧
     -- OSREL: at once where no earlier MMA or UNPK names the slot, else later
     (∀ (n : BitVec 6) x, s.E = [x] → n.toNat < slots → (slotOf s (mySlot s n.toNat)).claim ≠ none →
       (∀ k, (slotOf s k).releasing = none) → (s.core s.cur.core).mq = [] →
       (∀ o ∈ s.ops, ¬ (o.wg = s.here.wg ∧ o.kind = .unpk)) →
       ∃ u, OnlySlots s { u with nextId := s.nextId } ∧ exec (.osrel c n) s = .next (afterUnit c u) ∧
         u.nextId = s.nextId + 1 ∧
         ∀ k, slotOf u k = if k = mySlot s n.toNat then { slotOf s k with claim := none } else slotOf s k) ∧
     (∀ n : BitVec 6, slots ≤ n.toNat ∨ (slotOf s (mySlot s n.toNat)).claim = none →
       exec (.osrel c n) s = .next (afterUnit c (allTrap s 0x16 0))) ∧
     -- OSST and OSLD
     (∀ (a : BitVec 7) (b : BitVec 5) part num row, part < 3 → num < 64 → row < 64 → s.sr b = placeAt part num row →
       let k := mySlot s num
       (num < slots → (slotOf s k).claim ≠ none →
         (∃ u, OnlySlots s u ∧ exec (.osst c a b) s = .next (afterUnit c u) ∧
           (∀ j, j ≠ k → slotOf u j = slotOf s j) ∧
           (slotOf u k).claim = (slotOf s k).claim ∧ (slotOf u k).releasing = (slotOf s k).releasing ∧
           (∀ x ∈ s.E, part = 0 ∨ part = 1 ∧ x < 4 → (slotOf u k).unitWord (36 * row + 32 * part + x) = s.v x a) ∧
           (∀ w, (∀ x ∈ s.E, part = 0 ∨ part = 1 ∧ x < 4 → w ≠ 36 * row + 32 * part + x) →
             (slotOf u k).unitWord w = (slotOf s k).unitWord w) ∧
           ∀ r, (slotOf u k).scales.get 0x7F r =
             if part = 2 ∧ r = row ∧ 0 ∈ s.E then (s.v 0 a).setWidth 8 else (slotOf s k).scales.get 0x7F r) ∧
         (row ∈ (slotOf s k).poison → exec (.osld c a b) s = .next (afterUnit c (allTrap s 0x13 0))) ∧
         (row ∉ (slotOf s k).poison → ∃ u, OnlyV s u s.E [a.toNat] ∧ exec (.osld c a b) s = .next (afterUnit c u) ∧
           ∀ x ∈ s.E, u.here.rv x a.toNat =
             if part = 0 ∨ part = 1 ∧ x < 4 then (slotOf s k).unitWord (36 * row + 32 * part + x)
             else if part = 2 ∧ x = 0 then ((slotOf s k).scales.get 0x7F row).setWidth 32 else 0)) ∧
       (slots ≤ num ∨ (slotOf s k).claim = none →
         exec (.osst c a b) s = .next (afterUnit c (allTrap s 0x16 0)) ∧
         exec (.osld c a b) s = .next (afterUnit c (allTrap s 0x16 0)))) ∧
     -- a place word with another bit set, of part 3, or for a tile of another part or number
     (∀ (a : BitVec 7) (b : BitVec 5),
       let w := (s.sr b).toNat
       (3 ≤ w / 2 ^ 16 ∨ w / 2 ^ 14 % 4 ≠ 0 ∨ w / 2 ^ 6 % 4 ≠ 0 →
         ∀ i ∈ [Instr.osst c a b, .osld c a b, .acld c a b, .acst c a b],
           exec i s = .next (afterUnit c (allTrap s 0x17 (s.sr b)))) ∧
       (w / 2 ^ 16 ≠ 0 ∨ 32 ≤ w / 2 ^ 8 % 64 → ∀ i ∈ [Instr.acld c a b, .acst c a b],
         exec i s = .next (afterUnit c (allTrap s 0x17 (s.sr b))))) ∧
     -- ACZ, ACLD and ACST
     (∀ n : BitVec 5, n.toNat < tiles → Quiet s (myTile s n.toNat) → s.E ≠ [] →
       ∃ u, OnlyTiles s u ∧ exec (.acz c n) s = .next (afterUnit c u) ∧
         ∀ k r q, (u.core s.cur.core).tileWord k r q =
           if k = myTile s n.toNat then 0 else (s.core s.cur.core).tileWord k r q) ∧
     (∀ n : BitVec 5, tiles ≤ n.toNat → exec (.acz c n) s = .next (afterUnit c (allTrap s 0x16 0))) ∧
     ∀ (a : BitVec 7) (b : BitVec 5) num row, num < 32 → row < 64 → s.sr b = placeAt 0 num row →
       let k := myTile s num
       (tiles ≤ num → exec (.acld c a b) s = .next (afterUnit c (allTrap s 0x16 0)) ∧
         exec (.acst c a b) s = .next (afterUnit c (allTrap s 0x16 0))) ∧
       (num < tiles → Quiet s k → (∀ x ∈ s.E, x < 32) →
         (∃ u, OnlyTiles s u ∧ exec (.acld c a b) s = .next (afterUnit c u) ∧
           (∀ x ∈ s.E, (u.core s.cur.core).tileWord k row (2 * x) = s.v x a ∧
             (u.core s.cur.core).tileWord k row (2 * x + 1) = s.v x (a + 1)) ∧
           ∀ j r q, q < 64 → (j = k → r = row → q / 2 ∉ s.E) →
             (u.core s.cur.core).tileWord j r q = (s.core s.cur.core).tileWord j r q) ∧
         ((s.core s.cur.core).tilePoisoned k row = true →
           exec (.acst c a b) s = .next (afterUnit c (allTrap s 0x13 0))) ∧
         -- ACST: the pair is taken now, and written when its data arrives
         ((s.core s.cur.core).tilePoisoned k row = false →
           exec (.acst c a b) s = .next (afterUnit c (loading s (s.E.zipIdx.map fun x =>
             loadOf s x.2 x.1 (.tile a.toNat ((s.core s.cur.core).tileWord k row (2 * x.1))
               ((s.core s.cur.core).tileWord k row (2 * x.1 + 1))) 0 8 true 0)))))) ∧
  (∀ (s : State) (c : Bool) (a : BitVec 5) (x : Nat), s.E = [x] → s.flushed x = false →
     let p := s.sr a
     let blk := blockAt s x p
     let queue := (s.core s.cur.core).mq
     let job : MmaJob :=
       { place := s.cur.place, lane := x, wg := s.here.wg, grp := s.here.index, issued := s.clock, blk, serial := s.nextId
         slotBase := (s.wg s.here.wg).slotBase, tileBase := (s.wg s.here.wg).tileBase
         word := s.curWord, unit := s.unitAddr }
     let tag := blkNat blk 26 1
     (p.toNat % 64 ≠ 0 → exec (.mma c a) s = .next (afterUnit c (allTrap s 0x10 p))) ∧
     (p.toNat % 64 = 0 → (s.core s.cur.core).spadSize < p.toNat + 64 →
       exec (.mma c a) s = .next (afterUnit c (allTrap s 0x15 p))) ∧
     (Whole s p → ∀ k, s.mmaFault p.toNat blk = some k → exec (.mma c a) s = .next (afterUnit c (allTrap s k p))) ∧
     (Whole s p → s.mmaFault p.toNat blk = none → (∀ j ∈ queue, j.entered = true ∧ j.serial ≠ s.nextId) →
       -- the queue has room: the product enters it
       (s.core s.cur.core).mmaQueued < 16 →
       (∀ g ∈ (s.core s.cur.core).groups, ∀ t ∈ g.2.lanes, ∀ w ∈ t.2.waits, w.kind ≠ .mmaq) →
       exec (.mma c a) s = .next (afterUnit c
         (({ (s.modCore s.cur.core fun k => { k with mq := k.mq ++ [job] }) with
             wgs := s.wgs.set s.here.wg { s.wg s.here.wg with
               unseen := (blkNat blk 24 1, s.here.index, tag) :: (s.wg s.here.wg).unseen }
             nextId := s.nextId + 1 } : State).landGroup s.here.wg s.here.index (tagCounts 1 tag 1)))) ∧
     -- the queue is full: the thread waits until its product has entered
     (Whole s p → s.mmaFault p.toNat blk = none → 16 ≤ (s.core s.cur.core).mmaQueued →
       (∀ g ∈ (s.core s.cur.core).groups, ∀ t ∈ g.2.lanes, ∀ w ∈ t.2.waits, w.kind ≠ .mmaq) →
       exec (.mma c a) s = .next (afterUnit c (withDecided
         { (s.modCore s.cur.core fun k => { k with mq := k.mq ++ [{ job with entered := false }] }) with
           nextId := s.nextId + 1 } [(x, .wait .mmaq s.unitPos)]))))

/-- R312, R313 (the fraction as log 28 reads it): ROPE leaves a pair beyond HALF as it is and rotates the others by
the angle of their position, each component the correctly rounded value of the exact sum, with the events counted per
lane. -/
def Obligations.RotatedPairs : Prop :=
  (∀ (s : State) (c : Bool) (d a b : BitVec 7),
    let p := s.cur.rd.ropePart.toNat
    let AA := p % 2 ^ 10
    let BB := p / 2 ^ 10 % 2 ^ 10
    let HALF := p / 2 ^ 20 % 2 ^ 10
    let q (x i : Nat) : Nat := (s.cur.rd.rv x (b.toNat + i)).toNat
    let off (x : Nat) : Nat := p / 2 ^ 32 + 4 * q x 0
    (BB < AA ∨ HALF < BB → exec (.rope c d a b) s = .next (afterUnit c (allTrap s 0x01 0))) ∧
    (AA ≤ BB → BB ≤ HALF →
      (∀ x ∈ s.E, q x 0 < HALF → s.flushed x = false ∧ off x + 4 ≤ (s.core s.cur.core).spadSize ∧
        (s.core s.cur.core).spadPoisoned (off x) 4 = false) →
      let f (x : Nat) : Word := BitVec.ofNat 32 (leNat (s.spadSeen s.cur.core s.cur.place x (off x) 4))
      let pos (x : Nat) : Nat := if q x 0 < AA then q x 1 else if q x 0 < BB then q x 2 else q x 3
      let r (x : Nat) : Word × Word × Ev :=
        if HALF ≤ q x 0 then (s.cur.rd.rv x a.toNat, s.cur.rd.rv x (a.toNat + 1), 0)
        else ropePair (s.cur.rd.rv x a.toNat) (s.cur.rd.rv x (a.toNat + 1)) (pos x) (f x)
      ∃ u, exec (.rope c d a b) s = .next (afterUnit c (u.countUnit (s.E.map fun x => (x, [(r x).2.2])))) ∧
        OnlyV s u s.E [d.toNat, d.toNat + 1] ∧
        ∀ x ∈ s.E, u.here.rv x d.toNat = (r x).1 ∧ u.here.rv x (d.toNat + 1) = (r x).2.1)) ∧
  (∀ (x y f : Word) (pos : Nat), (∀ n m e, f32v f ≠ .fin n m e) →
    (ropePair x y pos f).1 = 0x7FC00000 ∧ (ropePair x y pos f).2.1 = 0x7FC00000) ∧
  ∀ (x y f : Word) (pos : Nat) n1 m1 e1 n2 m2 e2 n m e, f32v x = .fin n1 m1 e1 → f32v y = .fin n2 m2 e2 →
    f32v f = .fin n m e →
    let t : ℝ := Int.fract (pos * real (f32v f))
    ∃ ph c s : Nat, (t = 0 → ph = 0) ∧ (t ≠ 0 → ∃ v, Rounds .f32 0 false t (ph, v)) ∧
      (let two := (Fmt.f32.scale 0 (Fmt.f32.val ph) 1).1
       c = (cospiF32 0 (Fmt.f32.val two)).1 ∧ s = (sinpiF32 0 (Fmt.f32.val two)).1) ∧
      (let d0 := real (f32v x) * real (Fmt.f32.val c) - real (f32v y) * real (Fmt.f32.val s)
       d0 ≠ 0 → ∃ v, Rounds .f32 0 (decide (d0 < 0)) d0 ((ropePair x y pos f).1.toNat, v)) ∧
      (let d1 := real (f32v x) * real (Fmt.f32.val s) + real (f32v y) * real (Fmt.f32.val c)
       d1 ≠ 0 → ∃ v, Rounds .f32 0 (decide (d1 < 0)) d1 ((ropePair x y pos f).2.1.toNat, v))

/-- R113, R241, R317, R336 to R339, R352, R365 to R367: RSIG and TASKDEC queue a signal of each executing thread, or
raise what their operands are turned away for, and DET_VIOLATION after DFLUSH; a signal to a task of this module outside
the range that the address space has at the issue is told apart; TASKQ reads a record's word; TKRCV claims the oldest
request of a model; TKPOST queues a post of a session, and counts it where there is none. In an open region TASKDEC and
TASKNEW raise FAR_ILLEGAL. The model's readings: a trap for the unit goes to its lowest lane (log 40), TKPOST only
queues, and a drop counts at the port modulo 4 (log 49). -/
def Obligations.Signals : Prop :=
  (∀ a b : BitVec 5, SetsS (fun c => .taskq c a b) a fun s =>
    let t := (s.sr b).toNat
    if 2 ^ 18 ≤ t ∨ s.inRange s.curLaunch.asid t = false then BitVec.allOnes 64
    else BitVec.ofNat 64 (s.taskNat t 28 1 * 2 ^ 48 + s.taskNat t 5 1 % 8 * 2 ^ 40 + s.taskNat t 6 1 * 2 ^ 32 +
      s.taskNat t 0 4)) ∧
  ∀ (s : State) (c : Bool) (a b : BitVec 5),
    let A := s.sr a
    let B := s.sr b
    let toTask : Prop := B.getLsbD 63 = true
    let outside : Prop := A.toNat / 2 ^ 18 % 2 ^ 9 = s.dev.toNat ∧ s.inRange s.curLaunch.asid (A.toNat % 2 ^ 18) = false
    ((∀ x ∈ s.E, s.flushed x = true) → exec (.rsig c a b) s = .next (afterUnit c (allTrap s 0x31 0)) ∧
      (Outside s → exec (.taskdec c a b) s = .next (afterUnit c (allTrap s 0x31 0)))) ∧
    ((∀ x ∈ s.E, s.flushed x = false) →
      (toTask → A.toNat / 2 ^ 27 ≠ 0 ∨ B.toNat / 2 ^ 32 % 2 ^ 30 ≠ 0 →
        exec (.rsig c a b) s = .next (afterUnit c (allTrap s 0x17 0))) ∧
      (toTask → A.toNat / 2 ^ 27 = 0 → B.toNat / 2 ^ 32 % 2 ^ 30 = 0 →
        (s.routed (A.toNat / 2 ^ 18) = false → exec (.rsig c a b) s = .next (afterUnit c (allTrap s 0x14 0))) ∧
        (s.routed (A.toNat / 2 ^ 18) = true → exec (.rsig c a b) s =
          .next (afterUnit c (signalling s (if outside then 3 else 1) A B)))) ∧
      (¬ toTask → A.toNat / 2 ^ 57 % 8 ≠ 0 → exec (.rsig c a b) s = .next (afterUnit c (allTrap s 0x11 A))) ∧
      (¬ toTask → A.toNat / 2 ^ 57 % 8 = 0 → A.toNat % 8 ≠ 0 →
        exec (.rsig c a b) s = .next (afterUnit c (allTrap s 0x10 A))) ∧
      (¬ toTask → A.toNat / 2 ^ 57 % 8 = 0 → A.toNat % 8 = 0 →
        (A.getLsbD 56 = true → s.routed (A.toNat / 2 ^ 47 % 2 ^ 9) = false →
          exec (.rsig c a b) s = .next (afterUnit c (allTrap s 0x14 A))) ∧
        ((A.getLsbD 56 = true → s.routed (A.toNat / 2 ^ 47 % 2 ^ 9) = true) →
          exec (.rsig c a b) s = .next (afterUnit c (signalling s 0 A (B &&& 0x7FFFFFFFFFFFFFFF#64))))) ∧
      (Outside s →
        (A.toNat / 2 ^ 18 % 2 ^ 45 ≠ 0 ∨ 2 ^ 32 ≤ B.toNat →
          exec (.taskdec c a b) s = .next (afterUnit c (allTrap s 0x17 0))) ∧
        (A.toNat / 2 ^ 18 % 2 ^ 45 = 0 → B.toNat < 2 ^ 32 →
          let t := A.toNat % 2 ^ 18
          (s.inRange s.curLaunch.asid t = false → exec (.taskdec c a b) s = .next (afterUnit c (allTrap s 0x14 0))) ∧
          (s.inRange s.curLaunch.asid t = true → exec (.taskdec c a b) s = .next (afterUnit c (signalling s 2 A B)))))) ∧
    ((∀ x ∈ s.E, InRegion s x) → exec (.taskdec c a b) s = .next (afterUnit c (allTrap s 0x40 0)) ∧
      exec (.tasknew c a b) s = .next (afterUnit c (allTrap s 0x40 0))) ∧
    (s.E = [] → exec (.tkrcv c a b) s = .next (afterUnit c s) ∧ exec (.tkpost c a b) s = .next (afterUnit c s)) ∧
    (∀ l ls, s.E = l :: ls → s.flushed l = true → exec (.tkrcv c a b) s = .next (afterUnit c (lowestTrap s 0x31 0)) ∧
      exec (.tkpost c a b) s = .next (afterUnit c (lowestTrap s 0x31 0))) ∧
    (∀ l ls, s.E = l :: ls → s.flushed l = false →
      (let m := B.toNat
       let x := s.models.get {} m
       (256 ≤ m ∨ x.valid = false ∨ x.asid ≠ s.curLaunch.asid →
         exec (.tkrcv c a b) s = .next (afterUnit c (lowestTrap s 0x17 0))) ∧
       (m < 256 → x.valid = true → x.asid = s.curLaunch.asid → a.toNat + 4 < 32 →
         (x.queue = [] → ∃ u, SetsRun s u a.toNat [0xFFFFFFFF, 0, 0, 0, 0] ∧
           exec (.tkrcv c a b) s = .next (afterUnit c u)) ∧
         ∀ r rs, x.queue = r :: rs → ∃ u, SetsRun s { u with models := s.models } a.toNat
             [BitVec.ofNat 64 (r.count * 2 ^ 32 + r.seq), r.slotVa,
              BitVec.ofNat 64 (r.session * 2 ^ 32 + r.port * 2 ^ 16 + r.slot),
              BitVec.ofNat 64 (r.maxtok * 2 ^ 48 + r.topk * 2 ^ 32 + r.w.toNat), r.key] ∧
           u.models = s.models.set m { x with queue := rs } ∧ exec (.tkrcv c a b) s = .next (afterUnit c u))) ∧
      (B.toNat / 2 ^ 32 % 2 ^ 31 ≠ 0 → exec (.tkpost c a b) s = .next (afterUnit c (lowestTrap s 0x17 0))) ∧
      (B.toNat / 2 ^ 32 % 2 ^ 31 = 0 →
        let port := A.toNat / 2 ^ 16 % 2 ^ 4
        let slot := A.toNat % 2 ^ 16
        let p := s.ports.get {} port
        (∀ y, p.sessions.find? slot = some y → port < 4 → A.toNat / 2 ^ 20 % 2 ^ 12 = 0 →
          y.session = A.toNat / 2 ^ 32 → y.ended = false →
          exec (.tkpost c a b) s = .next (afterUnit c { s with
            ports := s.ports.set port { p with
              sessions := p.sessions.set slot { y with
                posts := y.posts ++ [(B.toNat % 2 ^ 32, B.getLsbD 63)], order := y.order ++ [s.nextId] } }
            nextId := s.nextId + 1 })) ∧
        (p.sessions.find? slot = none ∨ (∃ y, p.sessions.find? slot = some y ∧ ¬ (port < 4 ∧
            A.toNat / 2 ^ 20 % 2 ^ 12 = 0 ∧ y.session = A.toNat / 2 ^ 32 ∧ y.ended = false)) →
          let o := s.ports.get {} (port % 4)
          exec (.tkpost c a b) s = .next (afterUnit c { s with
            ports := s.ports.set (port % 4) { o with
              drop := BitVec.ofNat 32 (min (2 ^ 32 - 1) (o.drop.toNat + 1)) } }))))

/-- R62, R113, R237, R258, R262, R331, R332, R375, R377: the members of SYS, once per unit: the forced save and its
restore, TLBI, the cancelling and the replay of a fault batch, HALTQ in its three forms, and SNAPARM; a refused operand
raises FORMAT in the lowest executing thread, a thread in an open region FAR_ILLEGAL. A replay is stated where one thing
is parked, of whatever kind, and where nothing is; an operand that names another die or whose low bits are set raises
FORMAT. The model's readings: the operands of CTXSV and CTXLD (log 30), FORMAT in the lowest lane (log 40), and the
waits and the answers of TLBI and HALTQ (log 51). -/
def Obligations.SystemMembers : Prop :=
  ∀ (s : State) (c : Bool) (a b : BitVec 5) (p : BitVec 3),
    let A := s.sr a
    let B := s.sr b
    let all : List Instr := [.ctxsv c a b, .ctxld c a b, .tlbi c a b, .fltcan c a b, .fltrpl c a b, .haltqNow c a p,
      .haltqQuiesce c a p, .haltqRelease c a p, .snaparm c a]
    (s.E = [] → ∀ i ∈ all, exec i s = .next (afterUnit c s)) ∧
    (∀ x, s.E = [x] → InRegion s x → ∀ i ∈ all, exec i s = .next (afterUnit c (allTrap s 0x40 0))) ∧
    (s.E ≠ [] → Outside s →
      let ends (i : Instr) (u : State) : Prop := exec i s = .next (afterUnit c u)
      -- CTXSV
      (∀ w, s.wgOperand B = some w → w ≠ s.here.wg → s.imageAddr A = true →
        (s.wgQuiet w = false → ends (.ctxsv c a b) (again s)) ∧
        (s.wgQuiet w = true → ∃ u i, ends (.ctxsv c a b) u ∧ u.images.find? s.nextId = some i ∧ i.wg = w ∧
          i.fullImage = true ∧ i.manual = true ∧ i.addr = A.toNat ∧ (u.wg w).st = .saved ∧ u.wgGroups w = [] ∧
          ∀ n g, (s.wgGroups w).find? n = some g → ∃ h, i.groups.find? n = some h ∧ h.s = g.s ∧ h.q = g.q ∧ h.m = g.m ∧
            ∀ l, (h.thread l).v = (g.thread l).v ∧ (h.thread l).p = (g.thread l).p)) ∧
      (s.wgOperand B = none ∨ s.wgOperand B = some s.here.wg ∨ s.imageAddr A = false →
        ends (.ctxsv c a b) (lowestTrap s 0x17 0)) ∧
      -- CTXLD
      (∀ core, s.coreOperand B = some core → s.imageAddr A = true →
        (s.viewNat A.toNat 8 ≠ geometryWord → ends (.ctxld c a b) (lowestTrap s 0x33 A)) ∧
        (s.viewNat A.toNat 8 = geometryWord → ∀ id i, s.imageAt A.toNat = some (id, i) → (s.task i.task).phase = 3 →
          (s.launch i.task).stopped = false →
          (s.wgDrained i.wg = false → ends (.ctxld c a b) (again s)) ∧
          (s.wgDrained i.wg = true → s.coreWgs core [] ≠ [] →
            (s.anySpot core i.task (s.wg i.wg).base [] = none → ends (.ctxld c a b) (lowestTrap s 0x17 0)) ∧
            ∀ spot, s.anySpot core i.task (s.wg i.wg).base [] = some spot →
              -- the workgroup is back; accesses that its threads wait for may have performed meanwhile
              ends (.ctxld c a b) ((spot.places.foldl (fun v p => v.afterAccess core p)
                (({ s.putImage i core spot with images := s.images.erase id } : State).modWg i.wg fun x =>
                  { x with st := if ∃ g ∈ i.groups, g.2.live ≠ [] then .running else .ended })).unrefused i.task)))) ∧
      (s.coreOperand B = none ∨ s.imageAddr A = false → ends (.ctxld c a b) (lowestTrap s 0x17 0)) ∧
      -- TLBI
      (tlbiWell A B = true → s.tlbiBusy A B = false → ∃ u, ends (.tlbi c a b) u ∧ u.cur = s.cur ∧
        (∀ k, u.xc.find? k = if s.tlbiPage A B k then none else s.xc.find? k) ∧
        (∀ k, u.pageHome.find? k = if s.tlbiPage A B k then none else s.pageHome.find? k) ∧
        (∀ k, s.tlbiHome A B k = true → u.l2.find? k = none ∧ u.dir.find? k = none) ∧
        (∀ k, s.tlbiPage A B k = false → u.tagged.find? k = s.tagged.find? k) ∧
        (s.l2 = [] → ∀ k, s.tlbiPage A B k = true →
          u.tagged.find? k = if s.keepsTags k = true then s.tagged.find? k else none) ∧
        ∀ k, (u.core k).groups = (s.core k).groups) ∧
      (tlbiWell A B = true → s.tlbiBusy A B = true → ends (.tlbi c a b) (again s)) ∧
      (tlbiWell A B = false → ends (.tlbi c a b) (lowestTrap s 0x17 0)) ∧
      -- FLTCAN and FLTRPL
      (let die := B.toNat / 2 ^ 16 % 2
       let g := s.gatherer die
       let n := B.toNat % 2 ^ 16
       (∀ y, s.batch die A.toNat = some y → B.toNat < 2 ^ 17 → die < s.dies →
         (n < y.entries.length → ends (.fltcan c a b) { s with
           gatherers := s.gatherers.set die { g with batches := g.batches.map fun x =>
             if x.number = y.number then { x with
               entries := x.entries.zipIdx.map fun e => if e.2 = n then { e.1 with cancelled := true } else e.1 }
             else x } }) ∧
         (y.entries.length ≤ n → ends (.fltcan c a b) (lowestTrap s 0x17 0)) ∧
         (n ≠ 0 → ends (.fltrpl c a b) (lowestTrap s 0x17 0)) ∧
         -- the batch's slot is free for another; f is what becomes of the accesses parked on it
         (n = 0 → g.later = [] →
           let freed : State := { s with gatherers := s.gatherers.set die { g with
             batches := g.batches.filter fun x => x.number ≠ y.number
             slots := g.slots.filter fun x => x.2 ≠ y.number } }
           let replays (f : State → State) : Prop := NothingParked (f freed) → ends (.fltrpl c a b)
             ((f freed).deliverBatches die (g.batches.filter fun x => x.number ≠ y.number).length)
           replays id ∧
           ∀ e, y.entries = [e] → e.freed = none →
             let key := parkKey die e.asid (e.page * 2 ^ 16)
             (∀ core r, OnlyParked s (some (.load core r)) → r.park = some key →
               (e.cancelled = false → replays fun v => v.setLoad core { r with park := none }) ∧
               (e.cancelled = true → (s.group core r.place).present = true → (s.thread core r.place r.lane).live = true →
                 replays fun v => ((v.dropLoad core r).modThread core r.place r.lane fun t => { t with
                   pending := t.pending ++ [{ cause := 0x13, word := r.word, addr := r.ea, unit := r.unit, res := r.res }]
                 }).afterAccess core r.place)) ∧
             (∀ core p u x, OnlyParked s (some (.queued core p u x)) → x.park = some key →
               let set (v : State) (f : SqAcc → SqAcc) : State := v.setAcc core p u.serial x.lane f
               (e.cancelled = false → replays fun v => set v fun x => { x with park := none }) ∧
               (e.cancelled = true → u.op ≠ .rsig → (s.group core p).present = true →
                 ((s.thread core p x.lane).live = true →
                   replays fun v => (set (owed v core p u x 0x13) fun x => { x with done := true }).afterAccess core p) ∧
                 -- the thread has ended: the access is dropped, and its launch completes with status 3
                 ((s.thread core p x.lane).live = false →
                   replays fun v => (set ((v.noteDropped u.asid x.ea).noteStatus u.task 3 1 0) fun x =>
                     { x with done := true }).afterAccess core p))) ∧
             (∀ core p l, OnlyParked s (some (.fetch core p l key)) →
               let z := (s.thread core p l).pos
               (e.cancelled = false → replays fun v => v.modThread core p l fun t =>
                 { t with waits := t.waits.filter fun w => w.kind ≠ .fetch key }) ∧
               (e.cancelled = true → replays fun v => v.takeTrap core p l
                 { cause := 0x13, word := 0, addr := z.pc, unit := z.pc + BitVec.ofNat 64 (4 * z.word) } z.pc z)) ∧
             ∀ o, OnlyParked s (some (.op o)) → o.park = some key → o.done = false →
               (e.cancelled = false → replays fun v => v.setOp { o with park := none }) ∧
               (e.cancelled = true →
                 ((∃ m, o.kind = .tt m) → ∃ out, replays fun v => v.setOp
                   { o with park := none, done := true, err := 1, reason := 13, out }) ∧
                 ((∃ f n, o.kind = .smpl f n) ∨ (∃ n, o.kind = .tasknew n) → replays fun v => v.setOp
                   { o with park := none, err := 1 }) ∧
                 ((∀ m, o.kind ≠ .tt m) → (∀ f n, o.kind ≠ .smpl f n) → (∀ n, o.kind ≠ .tasknew n) →
                   replays fun v => v.setOp { o with
                     park := none, started := true, done := true, err := if o.err = 0 then 1 else o.err })))) ∧
       (2 ^ 17 ≤ B.toNat ∨ s.dies ≤ die → ends (.fltcan c a b) (lowestTrap s 0x17 0) ∧
         ends (.fltrpl c a b) (lowestTrap s 0x17 0)) ∧
       (s.batch die A.toNat = none → ends (.fltcan c a b) (lowestTrap s 0x17 0) ∧
         ends (.fltrpl c a b) (lowestTrap s 0x17 0))) ∧
      -- HALTQ
      (∀ core, s.coreOperand A = some core → core ≠ s.cur.core →
        let k := s.core core
        let k' : Core := if k.halted then k else { k with halted := true, haltSince := s.clock, haltFail := false }
        (∃ u, ends (.haltqNow c a p) u ∧ OnlyP (s.setCore core k') u s.E [p.toNat] ∧
          ∀ x ∈ s.E, u.here.rp x p.toNat = true) ∧
        (k.haltQuiesce = true → ∃ u, ends (.haltqQuiesce c a p) u ∧ OnlyP s u s.E [p.toNat] ∧
          ∀ x ∈ s.E, u.here.rp x p.toNat = true) ∧
        (k.haltQuiesce = false → ends (.haltqQuiesce c a p) (withDecided
          (s.setCore core { k' with haltQuiesce := true, haltFail := false, haltBy := s.timeNs + 20000 })
          (s.E.map fun x => (x, .wait (.haltq core p.toNat) s.unitPos)))) ∧
        (k.halted = true → k.held = [] → ∃ u, ends (.haltqRelease c a p) u ∧ (u.core core).halted = false ∧
          (u.core core).haltQuiesce = false ∧ (u.core core).quiesced = false ∧ (u.core core).held = [] ∧
          ∀ x ∈ s.E, u.here.rp x p.toNat = true) ∧
        (k.halted = false → ends (.haltqRelease c a p) (lowestTrap s 0x17 0))) ∧
      (s.coreOperand A = none ∨ s.coreOperand A = some s.cur.core →
        ∀ i ∈ [Instr.haltqNow c a p, .haltqQuiesce c a p, .haltqRelease c a p], ends i (lowestTrap s 0x17 0)) ∧
      -- SNAPARM
      (A.toNat < 16 → ∃ u, ends (.snaparm c a) u ∧
        { u with cores := [], blocks := [] } = { s with cores := [], blocks := [] } ∧
        (∀ b ∈ s.blockList, u.block b = { s.block b with ctl := ((s.block b).ctl &&& ~~~0xF) ||| A }) ∧
        ∀ k, u.core k = if k < s.coreCount then { s.core k with snapCtl := ((s.core k).snapCtl &&& ~~~0xF) ||| A }
          else s.core k) ∧
      (16 ≤ A.toNat → ends (.snaparm c a) (lowestTrap s 0x17 0)))

/-- R22, R23, R25, R45, R89, R90, R107, R121, R124, R226: the events by which a core goes on: a line is fetched for the
threads that stand in it, or its check traps them; an entry passed over goes first; the active set changes; a YIELD
ends; a numeric window begins anew, a trap that a thread is owed is taken and counts are cleared; a POLL reads again; a
thread stopped by BRK is released; an empty core takes another carve-out, where its L1 holds nothing. The model's
choices: of groups that have waited alike the lower place goes (log 9), and a fetched line serves the threads that stand
in it (log 56). -/
def Obligations.CoreEvents : Prop :=
  ∀ (s : State) (core : Nat),
    let k := s.core core
    -- CODE_LINE_FETCH
    (∀ (asid : BitVec 16) (line : BitVec 64),
      let va := line &&& ~~~63#64
      (s.needLine core asid va = [] → exec (.codeLineFetch core asid line) s = .next s) ∧
      ∀ t loc, va.toNat / 2 ^ 57 % 8 = 0 →
        s.check (core / 72) asid va 64 { fetch := true, tag := false } = (t, .ok loc) →
        let bs := t.readAt loc.pa 64
        let trail := blkNat bs 60 4
        let sound := trail / 2 ^ 15 % 2 ^ 4 = 1 ∧ trail / 2 ^ 19 = crc13 (bs.take 60)
        (s.needLine core asid va ≠ [] → sound → exec (.codeLineFetch core asid line) s = .next (t.setCore core
          { t.core core with code :=
              { asid, va, words := (List.range 16).map fun i => BitVec.ofNat 32 (blkNat bs (4 * i) 4) } ::
                (t.core core).code.filter fun c => decide (¬ (c.asid = asid ∧ c.va = va)) })) ∧
        ∀ place lane, s.needLine core asid va = [(place, lane)] → ¬ sound →
          let pos := (t.thread core place lane).pos
          exec (.codeLineFetch core asid line) s = .next (t.takeTrap core place lane
            { cause := 0x05, word := BitVec.ofNat 32 trail, addr := va, unit := pos.pc } pos.pc pos)) ∧
    -- ISSUE_STARVATION_PRIORITY and the exchanges of the active set
    (∀ part, Issues s core part →
      (∀ ns, k.entries.find? part = some ns → exec (.issueStarvationPriority core part) s =
        .next (s.setCore core { k with entries := k.entries.set part (ns.map fun n =>
          if 64 ≤ n.missed then { n with first := true } else n) })) ∧
      ((∀ p, ¬ PendingReady s core part p) → exec (.activeSetExchange core part) s = .next s ∧
        exec (.forcedExchange core part) s = .next s) ∧
      ∀ p, LongestReady s core part p →
        -- every parked group leaves, and the groups that are not parked stay
        (∃ u, exec (.activeSetExchange core part) s = .next u ∧
          ∀ q, ActiveIn s core part q →
            if (s.group core q).parked = true then (u.group core q).active = false else u.group core q = s.group core q) ∧
        ((∀ q, ActiveIn s core part q → (s.group core q).parked = false) →
          (activeCount s core part = 7 → exec (.activeSetExchange core part) s = .next (entered s core p)) ∧
          (8 ≤ activeCount s core part → exec (.activeSetExchange core part) s = .next s)) ∧
        (activeCount s core part = 8 → ∀ q, ActiveIn s core part q → (s.group core q).parked = true →
          (∀ r, ActiveIn s core part r → r ≠ q → (s.group core r).parked = false) →
          exec (.activeSetExchange core part) s = .next (entered (displaced s core q) core p)) ∧
        -- at most one forced exchange of a partition in a clock
        ((s.group core p).waited < 1984 ∨ k.forced.find? part = some s.clock →
          exec (.forcedExchange core part) s = .next s) ∧
        (1984 ≤ (s.group core p).waited → k.forced.find? part ≠ some s.clock → ∀ q, ActiveIn s core part q →
          (∀ r, ActiveIn s core part r → (s.group core q).lastIssue < (s.group core r).lastIssue ∨
            (s.group core q).lastIssue = (s.group core r).lastIssue ∧ q ≤ r) →
          let t := s.setCore core { k with forced := k.forced.set part s.clock }
          exec (.forcedExchange core part) s =
            .next (entered (if activeCount s core part < 8 then t else displaced t core q) core p))) ∧
    -- CARVEOUT_APPLY
    (∀ setting, core < s.coreCount → setting ≤ 4 → k.quiesced = false →
      ((∀ g ∈ k.groups, g.2.present = false) → k.carve ≠ setting → k.l1 = [] →
        exec (.carveoutApply core setting) s =
          .next (s.setCore core { k with carve := setting, spad := [], full := [], poison := [] })) ∧
      (k.carve = setting ∨ (∃ g ∈ k.groups, g.2.present = true) →
        exec (.carveoutApply core setting) s = .next s)) ∧
    -- NUMERIC_WINDOW_RESTART and NUM_EVT_CLEAR
    (∀ cls, cls < 8 →
      let period := s.clock / 2 ^ (10 + k.numWin.toNat / 2 ^ (4 * cls) % 2 ^ 4)
      (k.epochs.get 0 cls = period → exec (.numericWindowRestart core cls) s = .next s) ∧
      (k.epochs.get 0 cls ≠ period → ∃ u, exec (.numericWindowRestart core cls) s = .next u ∧ OnlyCounts s u core ∧
        ∀ j < 8, (u.core core).cnt j = (if j = cls then 0 else k.cnt j) ∧
          (u.core core).fired.getLsbD j = (k.fired.getLsbD j && decide (j ≠ cls)) ∧
          (u.core core).epochs.get 0 j = if j = cls then period else k.epochs.get 0 j)) ∧
    (∀ val, ∃ u, exec (.numEvtClear core val) s = .next u ∧ OnlyCounts s u core ∧
      (u.core core).fired = k.fired ∧ (u.core core).epochs = k.epochs ∧
      ∀ j < 8, (u.core core).cnt j = if val.toNat / 2 ^ (8 * j) % 2 ^ 8 = 0 then k.cnt j else 0) ∧
    ∀ place lane : Nat,
      let t := s.thread core place lane
      -- NUMERIC_THRESHOLD_TRAP, at a packet boundary
      (∀ p ps, (s.group core place).present = true → t.live = true → t.waits = [] → t.pending = p :: ps →
        p.cause = 0x20 → p.later = false →
        (t.pos.word = 0 → exec (.numericThresholdTrap core place lane) s = .next
          ((s.modThread core place lane fun t => { t with pending := ps }).takeTrap core place lane p t.pos.pc t.pos)) ∧
        (t.pos.word ≠ 0 → exec (.numericThresholdTrap core place lane) s = .next s)) ∧
      -- YIELD_EXPIRY
      (∀ at_ till, t.waits = [⟨at_, .yield till⟩] → ∃ u, exec (.yieldExpiry core place lane) s = .next u ∧
        u.thread core place lane = { t with waits := if till ≤ s.clock then [] else t.waits } ∧
        { u with cores := [] } = { s with cores := [] } ∧ (∀ c, c ≠ core → u.core c = s.core c) ∧
        { u.core core with groups := [] } = { k with groups := [] }) ∧
      -- BREAKPOINT_RELEASE
      ((s.group core place).present = true → ∀ at_, t.waits = [⟨at_, .brk⟩] →
        exec (.breakpointRelease core place lane) s = .next (s.modThread core place lane fun t =>
          { t with
            waits := []
            farSince := if t.far.state = 1 ∨ t.far.state = 2 then t.farSince + (s.clock - t.since) else t.farSince
            since := s.clock })) ∧
      -- POLL_REREAD of a word of the scratchpad or of memory
      ∀ at_ a due backoff, t.waits = [⟨at_, .poll a due backoff⟩] → a.park = none → a.remote = none →
        ∀ u bs,
          s.tryLoad core { id := s.nextId, place, lane, dest := .vec 5 0, ea := a.ea, size := a.size, spad := a.spad
                           asid := (s.launchOf core place).asid, serial := s.nextId, issued := s.clock } = (u, .val bs) →
          let m := leNat bs
          let holds : Prop := a.cond = 0 ∧ m = a.operand.toNat ∨ a.cond = 1 ∧ m ≠ a.operand.toNat ∨
            a.cond = 2 ∧ a.operand.toNat ≤ m ∨ 3 ≤ a.cond ∧ m &&& a.operand.toNat ≠ 0
          -- it reads when the back-off is over, or at once when its line has been written or invalidated
          let reads : Prop := due ≤ s.clock ∨ s.pollStale core place a = true
          let v := u.observe core (u.who core place lane) a.spad a.ea a.size
          (¬ reads → exec (.pollReread core place lane) s = .next s) ∧
          (reads → holds → exec (.pollReread core place lane) s =
            .next ((v.modThread core place lane fun t => { t with waits := [] }).settle core place)) ∧
          (reads → ¬ holds → exec (.pollReread core place lane) s = .next (v.modThread core place lane fun t =>
            { t with waits := [⟨at_, .poll { a with seen := v.pollSeen core place a bs } (u.clock + backoff)
                (min 4096 (2 * backoff))⟩] }))

/-- R105, R106, R262: a write through a window of a core: a register's value is replaced, the scratchpad's bytes and
their granules' full bits are set, a slot's bytes are stored whether or not it is claimed, a tile's words too where no
MMA waits for its MWAIT; a quiesced core's writes are held. Of other sizes, not aligned, or of fewer than 4 bytes but
into the scratchpad, nothing is written. An access of any size to window 1 is read and written bit for bit, and one of
the control window is a register's value, at the offsets that the model gives them (log 13). -/
def Obligations.WindowWrites : Prop :=
  ∀ (s : State) (pa : BitVec 52) (size : Nat) (val : BitVec 128) (c : Nat),
    let n := pa.toNat
    let win := n / 2 ^ 36 % 2 ^ 4
    let off := n % 2 ^ 36
    let bs := leBytes size val.toNat
    let k := s.core c
    2 ^ 48 * 0xF ≤ n → s.windowCore (windowOf n) = some c →
    (∃ u, exec (.windowWrite pa size val) s = .next u) ∧
    (n % size ≠ 0 ∨ size ∉ [1, 2, 4, 8, 16] ∨ (size < 4 ∧ win ∈ [0, 1, 3, 4]) →
      exec (.windowWrite pa size val) s = .next s) ∧
    (size ∈ [1, 2, 4, 8, 16] → n % size = 0 → 4 ≤ size ∨ win = 2 →
      (k.quiesced = true → win < 5 → off + size ≤ s.windowSize c win →
        exec (.windowWrite pa size val) s =
          .next (s.setCore c { k with held := k.held ++ [{ pa := n, bytes := bs }] })) ∧
      (k.quiesced = false →
        (win = 0 → off + size ≤ 2 ^ 20 →
          let row := off / 2 ^ 7 % 2 ^ 10
          ∀ p, s.rowOwner c (off / 2 ^ 17) row = some p → ∃ u, exec (.windowWrite pa size val) s = .next u ∧
            (∀ q, q ≠ p → u.group c q = s.group c q) ∧
            ∀ l r, (u.group c p).rv l r =
              if r = row - (s.group c p).rb ∧ off % 2 ^ 7 ≤ 4 * l ∧ 4 * l < off % 2 ^ 7 + size then
                BitVec.ofNat 32 (val.toNat / 2 ^ (8 * (4 * l - off % 2 ^ 7)))
              else (s.group c p).rv l r) ∧
        (win = 1 → off + size ≤ 0xC000 → (s.group c (off / 2 ^ 8)).present = true →
          ∃ u, exec (.windowWrite pa size val) s = .next u ∧
            (∀ q, q ≠ off / 2 ^ 8 → u.group c q = s.group c q) ∧
            ∀ r, ∀ i < 64, let o := 8 * r + i / 8
              ((u.group c (off / 2 ^ 8)).rs r).getLsbD i =
                if r ≠ 0 ∧ off % 2 ^ 8 ≤ o ∧ o < off % 2 ^ 8 + size then val.getLsbD (8 * (o - off % 2 ^ 8) + i % 8)
                else ((s.group c (off / 2 ^ 8)).rs r).getLsbD i) ∧
        (win = 2 → off + size ≤ k.spadSize → ∃ u, exec (.windowWrite pa size val) s = .next u ∧
          (∀ a, (u.core c).spad.get 0 a = if off ≤ a ∧ a < off + size then bs.getD (a - off) 0 else k.spad.get 0 a) ∧
          ∀ g, g ∈ (u.core c).full ↔ g ∈ k.full ∨ off / 16 = g) ∧
        (win = 3 → off + size ≤ 0x80000 → s.tileWatched c (off / 2 ^ 14) = false → (∀ o ∈ s.ops, o.core ≠ c) →
          ∃ u, exec (.windowWrite pa size val) s = .next u ∧ ∀ tile row col, row < 64 → col < 64 →
            (u.core c).tileWord tile row col =
              let w := tile * 2 ^ 14 + row * 2 ^ 8 + col * 4
              if off ≤ w ∧ w < off + size then BitVec.ofNat 32 (val.toNat / 2 ^ (8 * (w - off)))
              else k.tileWord tile row col) ∧
        (win = 4 → off + size ≤ 0x90000 → ∃ u, exec (.windowWrite pa size val) s = .next u ∧
          ∀ n, (u.core c).slots.get {} n = if n = off / 9216 then
            (k.slots.get {} n).store (off % 9216) bs .other else k.slots.get {} n)) ∧
      -- window 5: the register at o takes the bytes written and keeps its others, but those of %NUM_EVT count as zero
      (win = 5 → size ≤ 8 → off + size ≤ 0x10000 → ∀ x : Dword,
        let o := off / 8 * 8
        let old : Dword := if o = 8 then k.numThr else if o = 0x10 then k.numWin else if o = 0x108 then k.dbgCtl
          else if o = 0x110 then k.snapCtl else 0
        (∀ i < 64, x.getLsbD i = if off % 8 ≤ i / 8 ∧ i / 8 < off % 8 + size then val.getLsbD (i - 8 * (off % 8))
          else old.getLsbD i) →
        let ends (u : State) : Prop := exec (.windowWrite pa size val) s = .next u
        (o = 0 → ∃ u, ends u ∧ { u with cores := [] } = { s with cores := [] } ∧
          (∀ q, q ≠ c → u.core q = s.core q) ∧ { u.core c with numEvt := 0 } = { k with numEvt := 0 } ∧
          ∀ j < 8, (u.core c).cnt j = if bitsNat x (8 * j + 7) (8 * j) ≠ 0 then 0 else k.cnt j) ∧
        (o = 8 → ends (s.setCore c { k with numThr := x })) ∧
        (o = 0x10 → ∃ e, ends (s.setCore c { k with numWin := x &&& 0xFFFFFFFFFF, epochs := e })) ∧
        (o = 0x108 →
          let u := s.setCore c { k with dbgCtl := x &&& 1 }
          ends (if x.getLsbD 1 then u.shoot 2 none else u)) ∧
        (o = 0x110 → ends (s.setCore c { k with snapCtl := (k.snapCtl &&& ~~~0xF) ||| (x &&& 0xF) })) ∧
        (o ∉ [0, 8, 0x10, 0x108, 0x110] → ends s)) ∧
      (win = 5 → size = 16 → off + 16 ≤ 0x10000 → ∃ u, exec (.windowWrite pa 8 val) s = .next u ∧
        exec (.windowWrite pa 16 val) s = exec (.windowWrite (pa + 8) 8 (val >>> 64)) u))

/-- R245 to R248, R251: a request that reaches the home. In a transient state it waits in the line's queue; where the L2
does not hold the line, a GETS, GETX or UPG waits in D_F; else the directory's next state and the messages sent are
those of the table, with the next sequence number. A UPG from a core in neither set is a GETX. R247, R248, R250: UNBLOCK
ends the transaction: after a forwarded GETS the line is O if the data was dirty and else S, with the requester among
the sharers unless it reports I; after a GETX, UPG or GETS in I the requester is the owner in X. The first request that
has waited is then taken. An UPG of the owner is served as a sharer's (log 21). At an UPG the owner's dirty data is
written back to the home before its copy goes, which the row of R248 does not say; what an access of the line reads
stays the same. -/
def Obligations.HomeRequests : Prop :=
  (∀ (s : State) (line : LineKey) (die core seq : Nat) (rest : List Msg) (d : BitVec 512) (dirty : Bool),
     let key := homeKey die line.asid line.line
     let e := s.dirAt key
     let n := (e.seq + 1) % 2 ^ 32
     let r : State := { s with msgs := rest }
     let stable : Prop := e.st = .i ∨ e.st = .s ∨ e.st = .o ∨ e.st = .x
     let heads (k : ReqKind) : Prop := Heads s line die core seq (.req k d dirty) rest
     let cs := e.sharers.filter fun c => decide (c ≠ core ∧ e.owner ≠ some c)
     -- the line waits
     (¬ stable →
       let waits (k : ReqKind) : State := r.setDir key { e with queue := e.queue ++ [(k, core)] }
       (heads .gets → exec (.gets line core) s = .next (waits .gets)) ∧
       (heads .getx → exec (.getx line core) s = .next (waits .getx)) ∧
       (heads .upg → exec (.upg line core) s = .next (waits .upg)) ∧
       (heads .putm → exec (.putm line core) s = .next (waits .putm)) ∧
       (heads .puto → exec (.puto line core) s = .next (waits .puto)) ∧
       (heads .pute → exec (.pute line core) s = .next (waits .pute))) ∧
     -- absent from the L2
     (stable → s.l2.find? key = none →
       let fetches (k : ReqKind) : State := r.setDir key { e with st := .dF, queue := (k, core) :: e.queue }
       (heads .gets → exec (.gets line core) s = .next (fetches .gets)) ∧
       (heads .getx → exec (.getx line core) s = .next (fetches .getx)) ∧
       (heads .upg → exec (.upg line core) s = .next (fetches .upg))) ∧
     ∀ l2, stable → s.l2.find? key = some l2 →
       let data := lineBits (s.peek l2.pa 64)
       let goTo (e' : DirEntry) (ms : List (Nat × MsgKind)) : State :=
         sends (r.setDir key { e' with seq := n }) line die n ms
       let getx : State :=
         goTo { e with st := .dBX, pendingFor := some core }
           ((if e.st = .i ∨ e.st = .s then (core, .dataEx data cs.length false)
             else (e.owner.getD 0, .fwdGetx core cs.length)) :: invs cs core)
       (heads .gets →
         (e.st = .i → exec (.gets line core) s =
           .next (goTo { e with st := .dBX, pendingFor := some core } [(core, .dataEx data 0 false)])) ∧
         (e.st = .s → exec (.gets line core) s =
           .next (goTo { e with sharers := core :: e.sharers.filter fun c => decide (c ≠ core) }
             [(core, .data data false false)])) ∧
         ∀ o, e.st = .o ∨ e.st = .x → e.owner = some o → exec (.gets line core) s =
           .next (goTo { e with st := .dBS, pendingFor := some core } [(o, .fwdGets core)])) ∧
       (e.st = .i ∨ e.st = .s ∨ e.owner ≠ none →
         (heads .getx → exec (.getx line core) s = .next getx) ∧
         (heads .upg → core ∉ e.sharers → e.owner ≠ some core → exec (.upg line core) s = .next getx)) ∧
       (heads .upg → core ∈ e.sharers ∨ e.owner = some core →
         let all := cs ++ (if e.owner = some core then [] else e.owner.toList)
         exec (.upg line core) s = .next (sends ((r.recallData l2.pa).setDir key
           { e with st := .dBX, pendingFor := some core, seq := n }) line die n
             ((core, .upgAck all.length) :: invs all core))) ∧
       -- write-backs
       (let stale : State := goTo e [(core, .putAck true)]
        let back (l : L1Line) : State :=
          sends ((r.poke l2.pa (lineBytes l.data)).setDir key
            { e with st := if e.st = .x then .i else .s, owner := none, seq := n }) line die n [(core, .putAck false)]
        (∀ l, (s.core core).l1.find? (l1Key line.asid line.line) = some l → e.owner = some core →
          e.st = .x ∨ e.st = .o →
          (heads .putm → exec (.putm line core) s = .next (back l)) ∧
          (heads .puto → exec (.puto line core) s = .next (back l))) ∧
        (e.owner = some core → e.st = .x → heads .pute → exec (.pute line core) s =
          .next (goTo { e with st := .i, owner := none } [(core, .putAck false)])) ∧
        (e.owner ≠ some core →
          (heads .putm → exec (.putm line core) s = .next stale) ∧
          (heads .puto → exec (.puto line core) s = .next stale) ∧
          (heads .pute → exec (.pute line core) s = .next stale)))) ∧
  (∀ (s : State) (line : LineKey) (die core seq : Nat) (rest : List Msg) (final : L1St) (dirty : Bool),
     let key := homeKey die line.asid line.line
     let e := s.dirAt key
     let r : State := { s with msgs := rest }
     Heads s line die core seq (.unblock final dirty) rest →
     ∀ e' : DirEntry, e'.seq = e.seq → e'.pendingFor = none → e'.queue = e.queue →
       ((e.st = .dBS ∧ ∃ o, e.owner = some o ∧
           (let named := (if final = .iiA then [] else [core]) ++ (if dirty = true then [] else [o])
            e'.st = (if dirty = true then .o else .s) ∧ e'.owner = (if dirty = true then some o else none) ∧
            e'.sharers = named ++ e.sharers.filter fun c => decide (c ∉ named))) ∨
         (e.st = .dBX ∧ final ≠ .iiA ∧ e'.st = .x ∧ e'.owner = some core ∧ e'.sharers = []) ∨
         (e.st = .dBX ∧ final = .iiA ∧ e'.st = .i ∧ e'.owner = none ∧ e'.sharers = [])) →
       (e.queue = [] → exec (.unblock line core) s = .next (r.setDir key e')) ∧
       ∀ k c, e.queue = [(k, c)] → exec (.unblock line core) s =
         .next ((r.setDir key { e' with queue := [] }).homeTake die line.asid line.line k c)) ∧
  -- in every state GETS, GETX, UPG and UNBLOCK are received: the first message of the line and core, or nothing
  ∀ (s : State) (line : LineKey) (core : Nat),
    (NoMessage s line core → exec (.gets line core) s = .next s ∧ exec (.getx line core) s = .next s ∧
      exec (.upg line core) s = .next s ∧ exec (.unblock line core) s = .next s) ∧
    ∀ (die seq : Nat) (pre rest : List Msg),
      let r : State := { s with msgs := pre ++ rest }
      (∀ d dirty, First s line die core seq (.req .gets d dirty) pre rest →
        exec (.gets line core) s = .next (r.homeRequest die line.asid line.line .gets core)) ∧
      (∀ d dirty, First s line die core seq (.req .getx d dirty) pre rest →
        exec (.getx line core) s = .next (r.homeRequest die line.asid line.line .getx core)) ∧
      (∀ d dirty, First s line die core seq (.req .upg d dirty) pre rest →
        exec (.upg line core) s = .next (r.homeRequest die line.asid line.line .upg core)) ∧
      ∀ final dirty, First s line die core seq (.unblock final dirty) pre rest →
        exec (.unblock line core) s = .next (r.homeUnblock die line.asid line.line core final dirty)

/-- R248 to R250: what an L1 does with a message, by the state of its line: forwards, INV, data with and without an
UNBLOCK, data that an INV has overtaken, the acks of a GETX or UPG, and the end of a write-back. R249: a line that is
evicted from M, O or E waits in the write-back buffer and its request leaves; one in S goes silently. The moment is
the model's to choose: no message of the line is in flight (log 22). -/
def Obligations.L1Messages : Prop :=
  (∀ (s : State) (line : LineKey) (die core seq : Nat) (rest : List Msg),
     let key := l1Key line.asid line.line
     let find := (s.core core).l1.find? key
     let r : State := { s with msgs := rest }
     let heads (k : MsgKind) : Prop := Heads s line die core seq k rest
     -- a message that lands is a numbered event of its core
     let lands (u : State) (ms : List (Nat × MsgKind)) : State := (sends u line die seq ms).stamp core
     let goTo (l : Option L1Line) (ms : List (Nat × MsgKind)) : State := lands (l1Set r line core l) ms
     (∀ l, find = some l →
       (∀ req, heads (.fwdGets req) →
         (l.st = .m ∨ l.st = .o → exec (.fwdGets line core) s =
           .next (goTo (some { l with st := .o }) [(req, .data l.data true true)])) ∧
         (l.st = .e → exec (.fwdGets line core) s =
           .next (goTo (some { l with st := .s }) [(req, .data l.data false true)])) ∧
         (l.st = .miA ∨ l.st = .oiA → exec (.fwdGets line core) s =
           .next (goTo (some { l with st := .oiA }) [(req, .data l.data true true)])) ∧
         (l.st = .eiA → exec (.fwdGets line core) s =
           .next (goTo (some { l with st := .iiA }) [(req, .data l.data false true)]))) ∧
       (∀ req n, heads (.fwdGetx req n) →
         (l.st = .m ∨ l.st = .o → exec (.fwdGetx line core) s = .next (goTo none [(req, .dataEx l.data n true)])) ∧
         (l.st = .e → exec (.fwdGetx line core) s = .next (goTo none [(req, .dataEx l.data n false)])) ∧
         (l.st = .miA ∨ l.st = .oiA → exec (.fwdGetx line core) s =
           .next (goTo (some { l with st := .iiA }) [(req, .dataEx l.data n true)])) ∧
         (l.st = .eiA → exec (.fwdGetx line core) s =
           .next (goTo (some { l with st := .iiA }) [(req, .dataEx l.data n false)]))) ∧
       (∀ req, heads (.inv req) →
         (l.st = .m ∨ l.st = .o ∨ l.st = .e ∨ l.st = .s → exec (.inv line core) s = .next (goTo none [(req, .invAck)])) ∧
         (l.st = .isD → exec (.inv line core) s = .next (goTo (some { l with
             invs := l.invs ++ [(seq, s.nextId, s.clock)] })
           [(req, .invAck)])) ∧
         (l.st = .smAD → exec (.inv line core) s =
           .next (goTo (some { l with st := .imAD, dirty := false }) [(req, .invAck)])) ∧
         (l.st = .imAD ∨ l.st = .iiA → exec (.inv line core) s = .next (lands r [(req, .invAck)]))) ∧
       -- data of a GETS
       (l.st = .isD →
         -- the first INV with a greater number; the waiting loads that it does not come before take the data (log 71)
         let overtaken (b : Nat × Nat) : Prop :=
           ∃ pre v post, l.invs = pre ++ (v, b) :: post ∧ later v seq ∧ ∀ x ∈ pre, ¬ later x.1 seq
         let fresh : Prop := ∀ x ∈ l.invs, ¬ later x.1 seq
         let served (b : Nat × Nat) : List Nat := ((s.core core).loads.filter (s.takesLate core key b)).map LoadReq.id
         let serves (d : BitVec 512) (b : Nat × Nat) : L1Line := { l with st := .isDI, data := d, serve := served b }
         let waits (b : Nat × Nat) : Prop := served b ≠ []
         (∀ d dirty, heads (.data d dirty true) →
           (fresh → exec (.data line core) s =
             .next (goTo (some { l with st := .s, data := d, invs := [] }) [(core, .unblock .s dirty)])) ∧
           ∀ b, overtaken b →
             (waits b → exec (.data line core) s = .next (goTo (some (serves d b)) [(core, .unblock .iiA dirty)])) ∧
             (¬ waits b → exec (.data line core) s = .next (goTo none [(core, .unblock .iiA dirty)]))) ∧
         (∀ d dirty, heads (.data d dirty false) →
           (fresh → exec (.data line core) s = .next (goTo (some { l with st := .s, data := d, invs := [] }) [])) ∧
           ∀ b, overtaken b →
             (waits b → exec (.data line core) s = .next (goTo (some (serves d b)) [])) ∧
             (¬ waits b → exec (.data line core) s = .next (goTo none []))) ∧
         ∀ d n dirty, heads (.dataEx d n dirty) →
           (fresh → exec (.dataEx line core) s =
             .next (goTo (some { l with st := .e, data := d, invs := [] }) [(core, .unblock .e false)])) ∧
           ∀ b, overtaken b →
             (waits b → exec (.dataEx line core) s = .next (goTo (some (serves d b)) [(core, .unblock .iiA false)])) ∧
             (¬ waits b → exec (.dataEx line core) s = .next (goTo none [(core, .unblock .iiA false)]))) ∧
       -- a GETX or UPG: M and UNBLOCK once the data or UPG_ACK and every ack have come
       (l.asid = line.asid → l.line = line.line → l.die = die →
         let gets (l' : L1Line) : State :=
           if l'.got = true ∧ l'.acks = 0 then
             goTo (some { l' with st := .m, dirty := false, got := false, invs := [] }) [(core, .unblock .m false)]
           else goTo (some l') []
         (∀ d n dirty, l.st = .imAD ∨ l.st = .smAD → heads (.dataEx d n dirty) → exec (.dataEx line core) s =
           .next (gets { l with st := .imA, data := d, got := true, dirty, acks := l.acks + n })) ∧
         (∀ n, l.st = .smAD → heads (.upgAck n) → exec (.upgAck line core) s =
           .next (gets { l with st := .smA, got := true, acks := l.acks + n })) ∧
         (heads .invAck → exec (.invAck line core) s = .next (gets { l with acks := l.acks - 1 }))) ∧
       -- the end of a write-back
       (heads (.putAck false) → exec (.putAck line core) s = .next (goTo none [])) ∧
       (heads (.putAck true) → exec (.putAckStale line core) s = .next (goTo none []))) ∧
     (find = none → ∀ req, heads (.inv req) →
       exec (.inv line core) s = .next (lands r [(req, .invAck)]))) ∧
  (∀ (s : State) (line : LineKey) (core : Nat) (l : L1Line),
     (s.core core).l1.find? (l1Key line.asid line.line) = some l → NoMessage s line core →
     let goes (st : L1St) (k : ReqKind) (dirty : Bool) : State :=
       sends (l1Set s line core (some { l with st })) line l.die 0 [(core, .req k l.data dirty)]
     (l.st = .m → exec (.putm line core) s = .next (goes .miA .putm true)) ∧
     (l.st = .o → exec (.puto line core) s = .next (goes .oiA .puto true)) ∧
     (l.st = .e → exec (.pute line core) s = .next (goes .eiA .pute false)) ∧
     (l.st = .s → exec (.pute line core) s = .next (l1Set s line core none)))

/-- R252: an agent without an L1 acts at the home. In a transaction it waits until UNBLOCK has ended it. Else the
owner's dirty data comes back; for a read the owner's M becomes O and its E becomes S; for a write every copy goes, and
the line is in I. That a step of the agent delivers the messages up to the UNBLOCK itself and then acts is the model's
reading (log 22). -/
def Obligations.HomeAgents : Prop :=
  ∀ (s : State) (pa : BitVec 52) (write : Bool) (key : Nat),
    let base := pa.toNat / 64 * 64
    let e := s.dirAt key
    let n := (e.seq + 1) % 2 ^ 32
    s.place pa.toNat = .memory ∨ s.place pa.toNat = .pool → s.homesOf base = [key] →
    (∀ line die core seq final dirty, e.st = .dBS ∨ e.st = .dBX → e.queue = [] → key = homeKey die line.asid line.line →
      Heads s line die core seq (.unblock final dirty) [] → exec (.homeAgentAccess pa write) s =
        exec (.homeAgentAccess pa write)
          (({ s with msgs := [] } : State).homeUnblock die line.asid line.line core final dirty)) ∧
    (e.st = .i ∨ e.st = .s ∨ e.st = .o ∨ e.st = .x → ∃ u, exec (.homeAgentAccess pa write) s = .next u ∧
      { u with cores := [], mem := [], dir := [] } = { s with cores := [], mem := [], dir := [] } ∧
      u.mem = (match s.dirtyCopy base with
        | some d => (s.poke base (lineBytes d)).mem
        | none => s.mem) ∧
      (∀ c, { u.core c with l1 := [] } = { s.core c with l1 := [] }) ∧
      (∀ k, k ≠ key → u.dir.find? k = s.dir.find? k) ∧ (u.dirAt key).seq = n ∧
      (write = true → (u.dirAt key).st = .i ∧ (u.dirAt key).owner = none ∧ (u.dirAt key).sharers = []) ∧
      ∀ c k l, (k, l) ∈ (u.core c).l1 ↔ ∃ l0, (k, l0) ∈ (s.core c).l1 ∧
        if l0.pa ≠ base then l = l0
        else if write = true then l0.st ≠ .m ∧ l0.st ≠ .o ∧ l0.st ≠ .e ∧ l0.st ≠ .s ∧
          l = (if l0.st = .isD then { l0 with invs := l0.invs ++ [(n, s.nextId, s.clock)] }
            else if l0.st = .smAD then { l0 with st := .imAD, dirty := false }
            else if l0.st = .miA ∨ l0.st = .oiA ∨ l0.st = .eiA then { l0 with st := .iiA }
            else l0)
        else l = { l0 with st := if l0.st = .m then .o else if l0.st = .e then .s
                                 else if l0.st = .miA then .oiA else l0.st })

/-- R151 to R155, R162, R192, R249: a load takes its value from the scratchpad, from its core's L1 where the line
serves loads, or from the home where its line is not allocated; where the L1 does not hold the line, a GETS leaves and
the load waits. A thread in LDFE takes its data once its granules are full, and with .clr empties them. After 400
clocks a load counts as a long one (R27). -/
def Obligations.LoadArrivals : Prop :=
  ∀ (s : State) (core id : Nat),
    (exec (.longLatencyLoad core id) s = .next (s.setCore core { s.core core with
      loads := (s.core core).loads.map fun r =>
        if r.id = id ∧ r.issued + 400 ≤ s.clock then { r with long := true } else r })) ∧
    ((∀ r ∈ (s.core core).loads, r.id ≠ id) → id < 2 ^ 64 → exec (.loadDataArrival core id) s = .next s) ∧
    (∀ r, LoadDue s core id r → r.spad = true →
      (s.core core).spadPoisoned r.ea.toNat r.size = false → ∃ v, exec (.loadDataArrival core id) s =
        .next (v.afterAccess core r.place) ∧ Lands s v core r ((s.core core).spadRead r.ea.toNat r.size)) ∧
    (∀ r u loc, LoadDue s core id r → r.spad = false → (∀ d, r.dest ≠ .tag d) →
      s.check (core / 72) r.asid r.ea r.size { policy := r.policy, again := true } = (u, .ok loc) →
      u.farHeld none loc.asid (lineOf loc.va) false = false →
      let line : LineKey := ⟨loc.asid, lineOf loc.va⟩
      let found := (u.core core).l1.find? (l1Key line.asid line.line)
      (∀ l, found = some l → l.st = .m ∨ l.st = .o ∨ l.st = .e ∨ l.st = .s → ∃ v,
        exec (.loadDataArrival core id) s = .next (v.afterAccess core r.place) ∧
        Lands u v core r (((lineBytes l.data).drop (loc.va % 64)).take r.size) ∧
        ∀ k, (v.core core).l1.find? k = if k = l1Key line.asid line.line then
          some { l with rrpv := if r.policy = 3 ∨ l.filler = id then l.rrpv else 0 } else (u.core core).l1.find? k) ∧
      (found = none → loc.leaf.cls < 2 → r.policy < 3 → loc.place = .memory ∨ loc.place = .pool →
        u.place loc.pa = loc.place → (u.core core).l1.length < (u.core core).l1Lines →
        exec (.loadDataArrival core id) s = .next (sends (l1Set u line core (some
          { st := .isD, asid := line.asid, line := line.line, die := loc.home, pa := loc.pa / 64 * 64
            rrpv := rrpvOf r.policy loc.leaf.cls, filler := id })) line loc.home 0 [(core, .req .gets 0 false)])) ∧
      (found = none → 2 ≤ loc.leaf.cls → loc.place ≠ .window →
        ∃ v, exec (.loadDataArrival core id) s = .next (v.afterAccess core r.place) ∧
          Lands (u.agentTouch loc.pa r.size) v core r ((u.agentTouch loc.pa r.size).readAt loc.pa r.size))) ∧
    (∀ r u loc d, LoadDue s core id r → r.spad = false → r.dest = .tag d →
      s.check (core / 72) r.asid r.ea r.size { policy := r.policy, tag := false, again := true } = (u, .ok loc) →
      (∀ l, (u.core core).l1.find? (l1Key loc.asid (lineOf loc.va)) = some l → l.st ≠ .isDI) →
      ∃ v, exec (.loadDataArrival core id) s = .next (v.afterAccess core r.place) ∧
        Lands u v core r [if loc.leaf.tagen then (u.tagAt loc.asid loc.va).setWidth 8 else 0]) ∧
    -- LDFE, by the name of its lane
    ∀ place lane at_ a, lane < 32 → id = 2 ^ 64 + 32 * place + lane →
      let k := s.core core
      let t := s.thread core place lane
      let gs := granules a.ea.toNat a.size
      t.waits = [⟨at_, .ldfe a⟩] → a.ring = none → (∀ r ∈ k.loads, r.place ≠ place) → (s.group core place).sq = [] →
      (∀ l < lane, ∀ w ∈ (s.thread core place l).waits, w.at_ ≠ at_) →
      ((∃ g ∈ gs, g ∉ k.full) → exec (.loadDataArrival core id) s = .next s) ∧
      ((∀ g ∈ gs, g ∈ k.full) → k.spadPoisoned a.ea.toNat a.size = false → ∃ v,
        exec (.loadDataArrival core id) s = .next v ∧ { v with cores := [] } = { s with cores := [] } ∧
        (∀ c, c ≠ core → v.core c = s.core c) ∧
        { v.core core with groups := [], full := [] } = { k with groups := [], full := [] } ∧
        (∀ g, g ∈ (v.core core).full ↔ g ∈ k.full ∧ ¬ (a.clear = true ∧ g ∈ gs)) ∧
        (v.thread core place lane).waits = [] ∧
        WritesLane (s.group core place) ((v.group core place).modThread lane fun x => { x with waits := t.waits }) lane
          a.dest (loadCount a.sz) (loadedWord a.sz (k.spadRead a.ea.toNat a.size)))

/-- R109, R152, R163, R194, R217, R222 to R224, R249, R256, R352, R377: the head of a group's store queue performs: on
the scratchpad; in the L1 where the line is in M or E, else its line is asked for; through the home for an atomic or a
line that is not allocated; a signal to a task leaves; a failed check is owed to the thread; a missing page parks the
access. The floating members 11 to 14 and CAS update what they find, at the home and in the scratchpad, and their events
are counted. A core in its quiet window writes nothing. A PATOM runs its routine at the home atomic core. -/
def Obligations.QueueDrains : Prop :=
  ∀ (s : State) (core place : Nat),
    ((s.group core place).sq = [] → exec (.storeQueueDrain core place) s = .next s) ∧
    ∀ u a us, HeadDue s core place u a us →
      let k := s.core core
      let o := a.ea.toNat
      let ends (t : State) : Prop :=
        exec (.storeQueueDrain core place) s = .next ((queueIs t core place us).afterAccess core place)
      let counts (t : State) (es : List Ev) : Prop := exec (.storeQueueDrain core place) s =
        .next ((updateCounts (queueIs t core place us) core place u a es).afterAccess core place)
      (u.spad = true →
        (u.op = .store → ends (s.setCore core (k.spadWrite o (leBytes u.size a.data.toNat)))) ∧
        (∀ b, u.op = .fullBits b → ends (s.setCore core (k.setFull o a.data.toNat b))) ∧
        (∀ m w ret, u.op = .rmw m w ret → m ≤ 10 → k.spadPoisoned o u.size = false → 0 < u.size →
          let old := k.spadRead o u.size
          let new := (rmwValue m w (BitVec.ofNat 64 (leNat old)) (a.data.setWidth 64)).1
          let t := s.setCore core (k.spadWrite o (leBytes u.size new.toNat))
          ends (if ret then returned t core place u a old else t)) ∧
        (∀ m w ret, u.op = .rmw m w ret → 11 ≤ m → m ≤ 14 → k.spadPoisoned o u.size = false →
          u.size = (if w then 8 else 4) → (m = 14 → w = false) →
          let old := k.spadRead o u.size
          let new := floatUpdate m w (leNat old) (a.data.toNat % 2 ^ (8 * u.size))
          let t := s.setCore core (k.spadWrite o (leBytes u.size new.1))
          counts (if ret then returned t core place u a old else t) new.2) ∧
        (u.op = .cas → k.spadPoisoned o u.size = false → 0 < u.size →
          let old := k.spadRead o u.size
          ends (returned (if leNat old = a.cmp.toNat % 2 ^ (8 * u.size) then
            s.setCore core (k.spadWrite o (leBytes u.size a.data.toNat)) else s) core place u a old))) ∧
      (u.spad = false → ∀ t loc,
        s.check (core / 72) u.asid a.ea u.size { u.op.ask u.policy with again := true } = (t, .ok loc) →
        loc.leaf.repl = false → t.farHeld none loc.asid (lineOf loc.va) true = false →
        -- a task record that an access meets is another matter (R318)
        t.recordsAt loc.pa u.size = [] → t.recordsAt (loc.pa / 64 * 64) 64 = [] →
        let room : Prop := (t.core core).l1.length < (t.core core).l1Lines
        let line : LineKey := ⟨loc.asid, lineOf loc.va⟩
        let found := (t.core core).l1.find? (l1Key line.asid line.line)
        (u.op = .store →
          let bs := leBytes u.size a.data.toNat
          (t.quietAt loc.pa = true → exec (.storeQueueDrain core place) s = .next t) ∧
          (t.quietAt loc.pa = false → loc.place = .window ∨ 2 ≤ loc.leaf.cls → ends (t.writeAt loc.pa bs
            (.thread { wg := (s.group core place).wg, grp := (s.group core place).index, lane := a.lane }))) ∧
          (loc.place ≠ .window → loc.leaf.cls < 2 → u.policy < 3 →
            (∀ l, found = some l → l.st = .m ∨ l.st = .e → ends (l1Set t line core (some
              { l with st := .m, data := patchLine l.data (loc.va % 64) bs
                       rrpv := if l.filler = u.serial then l.rrpv else 0 }))) ∧
            (∀ l, found = some l → l.st = .s ∨ l.st = .o → exec (.storeQueueDrain core place) s =
              .next (sends (l1Set t line core (some
                { l with st := .smAD, dirty := decide (l.st = .o), acks := 0, got := false })) line l.die 0
                [(core, .req .upg 0 false)])) ∧
            (found = none → room → exec (.storeQueueDrain core place) s = .next (sends (l1Set t line core (some
              { st := .imAD, asid := line.asid, line := line.line, die := loc.home, pa := loc.pa / 64 * 64
                rrpv := rrpvOf u.policy loc.leaf.cls, filler := u.serial })) line loc.home 0
                [(core, .req .getx 0 false)])))) ∧
        (∀ m w ret, u.op = .rmw m w ret → m ≤ 10 → 0 < u.size →
          let old := t.view loc.pa u.size
          let new := (rmwValue m w (BitVec.ofNat 64 (leNat old)) (a.data.setWidth 64)).1
          let v := t.agentWrite loc.pa (leBytes u.size new.toNat)
          ends (if ret then returned v core place u a old else v)) ∧
        (∀ m w ret, u.op = .rmw m w ret → 11 ≤ m → m ≤ 14 → u.size = (if w then 8 else 4) → (m = 14 → w = false) →
          let old := t.view loc.pa u.size
          let new := floatUpdate m w (leNat old) (a.data.toNat % 2 ^ (8 * u.size))
          let v := t.agentWrite loc.pa (leBytes u.size new.1)
          counts (if ret then returned v core place u a old else v) new.2) ∧
        (u.op = .cas → 0 < u.size →
          let old := t.view loc.pa u.size
          ends (returned (if leNat old = a.cmp.toNat % 2 ^ (8 * u.size) then
            t.agentWrite loc.pa (leBytes u.size a.data.toNat) else t.agentTouch loc.pa u.size) core place u a old)) ∧
        (∀ f, u.op = .patom f →
          exec (.storeQueueDrain core place) s = .next t ∧
          ∀ code line' x, t.hac.find? f = some code →
            hacRun code (t.view (loc.pa / 64 * 64) 64) a.ea (a.data.setWidth 64) u.asid = some (line', x) → u.size = 8 →
            exec (.hacRoutine core place) s = .next ((queueIs (returned (t.agentWrite (loc.pa / 64 * 64) line')
              core place u a (leBytes 8 x.toNat)) core place us).afterAccess core place)) ∧
        (∀ f, u.op = .patom f → ∀ code, t.hac.find? f = some code →
          hacRun code (t.view (loc.pa / 64 * 64) 64) a.ea (a.data.setWidth 64) u.asid = none →
          exec (.hacRoutine core place) s =
            .next ((queueIs (owed t core place u a 0x13) core place us).afterAccess core place))) ∧
      (u.spad = false → u.op = .rsig → a.cmp = 2 → ends { s with
        decs := s.decs ++ [{ task := o % 2 ^ 18, amount := a.data.setWidth 32, err := a.ea.getLsbD 63 }] }) ∧
      (u.spad = false → u.op ≠ .rsig → ∀ t c,
        s.check (core / 72) u.asid a.ea u.size { u.op.ask u.policy with again := true } = (t, .trap c) → ends (owed t core place u a c)) ∧
      (u.spad = false → u.op = .store → ∀ t m,
        s.check (core / 72) u.asid a.ea u.size { write := true, policy := u.policy, again := true } = (t, .park m) →
        let asid := spaceOf u.asid a.ea
        let va := o % 2 ^ 57
        exec (.storeQueueDrain core place) s = .next (queueIs (t.parkOn (core / 72) asid va 0x2 m) core place
          ({ u with accs := [{ a with park := some (parkKey (core / 72) asid va) }] } :: us)))

/-- R97, R98, R248, R254 to R257, R259: a miss of the L2 is walked: a line that waits for it goes on with its first
request, and a page that is not there parks the access, but for a probe; a replicated page that is written becomes one
page on the writer's die; a fault window that is over becomes a batch, which is written where its slot is free; a
destroyed address space has no root any more. The model's choices: one table of translations a die and the frame of a
large leaf's replica (log 12), the waits of a collapse and the end of an ASID's root (log 56), and the tags that a newly
mapped page loses (log 66). -/
def Obligations.TranslationEvents : Prop :=
  ∀ (s : State),
    (∀ (die : Nat) (asid : BitVec 16) (va : BitVec 57) (acc : AccKind) (t : State), die < s.dies →
      let kinds : BitVec 8 := match acc with
        | .read => 1
        | .write => 2
        | .fetch => 4
        | .probe => 0
      (∀ m, s.leafFor die asid va.toNat 1 false = (t, .fault m) → exec (.l2MissTranslation die asid va acc) s =
        .next (if acc = .probe then s else t.faultOn die asid va.toNat kinds m 0)) ∧
      (∀ l, s.leafFor die asid va.toNat 1 false = (t, .leaf l) →
        let key := homeKey (t.homeDie die asid va.toNat l) asid (lineOf va.toNat)
        let e := t.dirAt key
        (e.st ≠ .dF → exec (.l2MissTranslation die asid va acc) s = .next t) ∧
        ∀ k c, e.st = .dF → e.queue = [(k, c)] → (t.l2.find? key).isSome = true →
          exec (.l2MissTranslation die asid va acc) s = .next
            ((t.setDir key { e with st := .i, queue := [] }).homeTake (t.homeDie die asid va.toNat l) asid
              (lineOf va.toNat) k c))) ∧
    -- REPLICA_COLLAPSE
    (∀ (asid : BitVec 16) (page : BitVec 41) (die : Nat) rest t l,
      let key := pageKey asid (page.toNat * 2 ^ 16)
      let ours (k : Nat) : Prop := k % 2 ^ 67 / 2 ^ 51 = asid.toNat ∧ k % 2 ^ 51 / 2 ^ 10 = page.toNat
      die < 2 → s.collapse = (key, die) :: rest → s.xlate die asid (page.toNat * 2 ^ 16) = (t, .leaf l) → l.big = false →
      -- no transaction of a line of the page is under way
      (∀ e ∈ t.dir, ours e.1 → e.2.st ≠ .dBS ∧ e.2.st ≠ .dBX) →
      (∀ m ∈ t.msgs, m.asid = asid → m.line.toNat / 2 ^ 10 = page.toNat → ∃ k d dirty, m.kind = .req k d dirty) →
      (l.repl = false → exec (.replicaCollapse asid page die) s =
        .next { t with collapse := t.collapse.filter fun x => decide (x.1 ≠ key) }) ∧
      (l.repl = true → (s.gatherer l.home).entries.length < 1023 → (s.gatherer l.home).lists asid page.toNat = false →
        let kept := if die = l.home then l.frame else s.replica.get l.frame key
        let freed := if die = l.home then s.replica.get l.frame key else l.frame
        ∃ u l', exec (.replicaCollapse asid page die) s = .next u ∧
          u.collapse = s.collapse.filter (fun x => decide (x.1 ≠ key)) ∧ u.xc.find? (die * 2 ^ 57 + key) = some l' ∧
          l'.repl = false ∧ l'.home = die ∧ l'.frame = kept / 2 ^ 16 % 2 ^ 36 * 2 ^ 16 ∧ l'.addr = l.addr ∧
          (∀ d < 2, ∀ h, u.pageHome.find? (d * 2 ^ 57 + key) = some h → d = die ∧ h = die) ∧ u.replica.find? key = none ∧
          (∀ x ∈ u.l2, ¬ (ours x.1 ∧ x.1 / 2 ^ 67 ≠ die)) ∧ (∀ x ∈ u.dir, ¬ (ours x.1 ∧ x.1 / 2 ^ 67 ≠ die)) ∧
          (u.gatherer l.home).entries = (s.gatherer l.home).entries ++ [{ asid, page := page.toNat, freed := some freed }])) ∧
    -- FAULT_WINDOW_CLOSE
    (∀ (die t : Nat),
      let g := s.gatherer die
      let length := max 1 (g.win.toNat % 2 ^ 6) * 1000
      g.opened = some t →
      (s.timeNs < t + length → g.entries.length < 1024 → exec (.faultWindowClose die) s = .next s) ∧
      (t + length ≤ s.timeNs ∨ 1024 ≤ g.entries.length → ∀ es : List FaultEntry, es.Perm g.entries →
        (es.Pairwise fun x y => x.asid.toNat * 2 ^ 42 + x.page < y.asid.toNat * 2 ^ 42 + y.page) →
        (∀ b ∈ g.batches, b.delivered = true ∧ b.number ≠ g.next) →
        let b : Batch := { number := g.next, opened := t, closed := s.timeNs, entries := es }
        let slot := g.next % max 1 (g.win.toNat / 2 ^ 8 % 2 ^ 8)
        let closed : Gatherer := { g with opened := none, entries := [], next := g.next + 1 }
        let written : Gatherer :=
          { closed with batches := g.batches ++ [{ b with delivered := true }], slots := g.slots.set slot g.next
                        interrupts := g.interrupts + 1 }
        ((g.slots.find? slot).isSome = true → exec (.faultWindowClose die) s =
          .next { s with gatherers := s.gatherers.set die { closed with batches := g.batches ++ [b] } }) ∧
        (g.slots.find? slot = none → exec (.faultWindowClose die) s =
          .next (({ s with gatherers := s.gatherers.set die written } : State).agentWrite (g.ctl.toNat / 2 ^ 6 % 2 ^ 46 * 64 + 32768 * slot) (b.bytes die))))) ∧
    -- ASID_DESTROY
    ∀ (asid : BitVec 16),
      let v : State := { s with asidRoot := s.asidRoot.erase asid.toNat
                                tagged := s.tagged.filter fun x => decide (x.1 / 2 ^ 41 ≠ asid.toNat) }
      ((∀ k ∈ s.cores, ∀ g ∈ k.2.groups, ∀ u ∈ g.2.sq, u.asid = asid → ∀ a ∈ u.accs, a.park = none) →
        (∀ k ∈ s.cores, ∀ r ∈ k.2.det, r.asid = asid → r.park = none) → exec (.asidDestroy asid) s = .next v) ∧
      (∀ core place k g u a p, s.cores = [(core, k)] → k.groups = [(place, g)] → k.det = [] → g.present = true →
        g.sq = [u] → u.asid = asid → u.accs = [a] → a.park = some p → a.done = false → (g.thread a.lane).live = false →
        exec (.asidDestroy asid) s =
          .next (queueIs ((v.noteDropped asid a.ea).noteStatus u.task 3 1 0) core place [])) ∧
      -- a record of a deterministic launch that waits for its page
      ∀ core place k g r p, s.cores = [(core, k)] → k.groups = [(place, g)] → g.sq = [] → g.present = true →
        k.det = [r] → r.asid = asid → r.park = some p → r.place = place → (g.thread r.lane).live = false →
        exec (.asidDestroy asid) s = .next (((v.setDet core r none).noteDropped asid r.ea).noteStatus
          (s.taskOf core place) 3 1 0)

/-- R95, R208, R260, R261, R343, R344: a request of another module is read or written at its home and answered,
redirected to a peer, answered with an error, or parked, with a notice to the requester every 100 µs; one that has
arrived before changes nothing; the requester's 2 ms timer begins anew with a notice, an answer is handed to who waits
for it, and one that comes late is dropped. The bytes of a packet are the model's (log 18), and that requests are served
and parked through die 0 (log 50). -/
def Obligations.RemoteAccesses : Prop :=
  ∀ (s : State),
    (∀ (r : RemoteMsg) t,
      let ea : Dword := BitVec.ofNat 64 (r.tag.toNat * 2 ^ 60 + r.va.toNat)
      let answers (u : State) (err : Nat) (redirected : Bool) (data : List Byte) : State := { u with
        packets := u.packets ++ [{ src := u.dev.toNat, dst := r.src, hops := 0, vc := 1, path := 0
                                   payload := leBytes 8 r.seq ++ leBytes 8 u.nextId ++
                                     [BitVec.ofNat 8 err, if redirected then 1 else 0] ++ data }]
        nextId := u.nextId + 1 }
      let name := (r.src, r.seq, r.redirected)
      let h : State := { s with heard := name :: s.heard }
      -- a request passed on, which is kept until it is acknowledged (R343)
      let passed (u : State) (peer : Nat) : Packet :=
        { src := u.dev.toNat, dst := peer, hops := 0, vc := 0, path := 0
          payload := requestBytes r.src r.seq r.asid ea r.op true }
      s.remoteIn = [] →
      (name ∈ s.heard → exec (.remoteRequest r) s = .next s) ∧
      (name ∉ s.heard →
      -- a request that has been redirected does not go on from a page with FWD = 1 (R260)
      let twice : Bool := r.redirected && h.redirects r
      (∀ n x, twice = true → r.op = .read n ∨ r.op = .write n x ∨ r.op = .fetch ∨ r.op = .probe n →
        exec (.remoteRequest r) s = .next (answers h 1 true [])) ∧
      (twice = false →
      (∀ n loc, h.check 0 r.asid ea n {} = (t, .ok loc) → loc.place ≠ .window → r.op = .read n →
        t.farHeld none loc.asid (lineOf loc.va) false = false →
        exec (.remoteRequest r) s =
          .next (answers (t.agentTouch loc.pa n) 0 (r.redirected || loc.leaf.fwd) (t.readAt loc.pa n))) ∧
      (∀ n x loc, h.check 0 r.asid ea n { write := true } = (t, .ok loc) → r.op = .write n x → loc.leaf.repl = false →
        t.quietAt loc.pa = false → t.farHeld none loc.asid (lineOf loc.va) true = false →
        exec (.remoteRequest r) s =
          .next (answers (t.writeAt loc.pa (leBytes n x.toNat)) 0 (r.redirected || loc.leaf.fwd) [])) ∧
      (∀ n peer, h.check 0 r.asid ea n {} = (t, .remote peer) → r.op = .read n →
        (r.redirected = false → exec (.remoteRequest r) s = .next { t with
          packets := t.packets ++ [passed t peer], sent := t.sent ++ [(t.nextId, passed t peer)]
          nextId := t.nextId + 1 }) ∧
        (r.redirected = true → exec (.remoteRequest r) s = .next (answers t 1 true []))) ∧
      (∀ n c, (r.op = .read n ∧ h.check 0 r.asid ea n {} = (t, .trap c)) ∨
          (∃ x, r.op = .write n x ∧ h.check 0 r.asid ea n { write := true } = (t, .trap c)) →
        exec (.remoteRequest r) s =
          .next (answers t (if c = 0x14 then 2 else if c = 0x12 then 3 else if c = 0x10 then 6 else 1)
            (r.redirected || h.redirects r) [])) ∧
      (∀ n m, h.check 0 r.asid ea n {} = (t, .park m) → r.op = .read n →
        let u := t.parkOn 0 r.asid r.va.toNat 0x21 m
        exec (.remoteRequest r) s = .next { u with
          remoteIn := u.remoteIn.set u.nextId { msg := r, park := parkKey 0 r.asid r.va.toNat, notice := u.timeNs }
          nextId := u.nextId + 1 })))) ∧
    (∀ id x, s.remoteIn.find? id = some x →
      (s.timeNs < x.notice + 100000 → exec (.keepWaitingNotice id) s = .next s) ∧
      (x.notice + 100000 ≤ s.timeNs → ∃ p, p.src = s.dev.toNat ∧ p.dst = x.msg.src ∧ exec (.keepWaitingNotice id) s =
        .next { s with remoteIn := s.remoteIn.set id { x with notice := s.timeNs }, packets := s.packets ++ [p] })) ∧
    (∀ id, s.remotes.find? id = none → exec (.keepWaitingReceipt id) s = .next s ∧ exec (.remoteTimeout id) s = .next s ∧
      ∀ data b err, exec (.remoteReply id data b err) s = .next { s with sent := s.sent.filter fun x => decide (x.1 ≠ id) }) ∧
    ∀ id q, s.remotes.find? id = some q →
      (exec (.keepWaitingReceipt id) s =
        .next { s with remotes := s.remotes.set id { q with deadline := s.timeNs + 2000000 } }) ∧
      (s.timeNs < q.deadline → exec (.remoteTimeout id) s = .next s) ∧
      let ends (u : State) (f : HtsTask → HtsTask) : State := { u with
        remotes := u.remotes.erase id
        sent := u.sent.filter fun x => decide (x.1 ≠ id)
        tasks := u.tasks.mapVals fun _ t => if t.remote = some id then f { t with remote := none } else t }
      -- an answer lands with the target's number of the event, at the core that asked (R208, R344)
      let lands (n : Nat) : State := s.setCore q.core { s.core q.core with landed := max (s.core q.core).landed n }
      Unheld s id →
      (q.deadline ≤ s.timeNs → exec (.remoteTimeout id) s =
        .next (ends s fun t => { t with cancelled := true })) ∧
      -- one for a quiesced core is held at its source (R262)
      ((s.core q.core).quiesced = true → ∀ data b e, exec (.remoteReply id data b e) s = .next s) ∧
      ((s.core q.core).quiesced = false → ∀ n,
        (∀ data, exec (.remoteReply id data false ⟨.none, n⟩) s =
          .next (ends (lands n) fun t => { t with got := t.got ++ [(q.ea, data)] })) ∧
        (∀ data, exec (.remoteReply id data true ⟨.none, n⟩) s = .next (ends
          ((lands n).setCore q.core
            { (lands n).core q.core with redirects := (s.core q.core).redirects + 1 })
          fun t => { t with got := t.got ++ [(q.ea, data)] })) ∧
        ∀ data err, err ≠ .none → exec (.remoteReply id data false ⟨err, n⟩) s =
          .next (ends (lands n) fun t => { t with cancelled := true }))

/-- R166, R168 to R171, R276 to R281, R314: the engines: a CPY reads its lanes' bytes and then writes them, a command of
a stale generation ends with code 5, and a copy whose writes are done completes on its target: a tag alone, a counter in
memory, or a task. The first MMA of a core's queue that has not started starts once the interval of K/k clocks of those
before it is over, and the oldest one writes its tile, each element summed in the order of R277 and R278, but for one
that reads poison, which ends with code 1 (log 55). R159, R348 to R350, R380: a PGREQ adds to its status word; a
collective whose blocks have come has its result, sums being taken in the order of R349, writes it and completes. A SMPL
that has ended writes s(B). -/
def Obligations.EngineEvents : Prop :=
  ∀ (s : State) (core id : Nat),
    -- ENGINE_WRITE
    (∀ o, OpHere s core id o → Copies o.kind → o.done = false →
      s.genStale (o.word64 56) = true → exec (.engineWrite core id) s =
        .next (s.setOp { o with err := 5, done := true }).retireStale) ∧
    (∀ o size k, OpHere s core id o → o.kind = .cpy size k → AccessesDone s o → o.done = false →
      s.genStale (o.word64 56) = false →
      (o.started = false → k = 2 ∨ k = 3 → (∀ e ∈ o.elems, (s.core core).spadPoisoned e.2.2.toNat size = false) →
        exec (.engineWrite core id) s = .next (s.setOp { o with
          buf := o.buf ++ o.elems.flatMap fun e => (s.core core).spadRead e.2.2.toNat size
          started := true }).retireStale) ∧
      (∀ l dst src, o.started = true → o.elems = [(l, dst, src)] → o.cursor = 0 → o.skip = [] → 0 < size → size ≤ 16 →
        (k = 1 ∨ k = 3 → dst.toNat + size ≤ (s.core core).spadSize → exec (.engineWrite core id) s = .next
          { (s.spadPut core dst.toNat (o.buf.take size)).setOp { o with cursor := 1, done := true } with
            free := s.free + o.buf.length }.retireStale) ∧
        (∀ t loc, k = 0 ∨ k = 2 → DeviceMay s t (dieOf core) o.asid dst size { write := true, policy := o.policy } loc →
          exec (.engineWrite core id) s = .next
            { (t.agentWrite loc.pa (o.buf.take size)).setOp { o with cursor := 1, done := true } with
              free := s.free + o.buf.length }.retireStale))) ∧
    -- COPY_COMPLETE
    (∀ o, OpHere s core id o → Copies o.kind →
      let tag := o.target.toNat / 2 ^ 58 % 16
      let kind := o.target.toNat / 2 ^ 62
      (o.done = false → exec (.copyComplete core id) s = .next s) ∧
      (o.done = true → kind = 0 → exec (.copyComplete core id) s = .next (s.opEnd o 0 tag o.err)) ∧
      (∀ t loc, o.done = true → kind = 1 → o.acked = false →
        DeviceMay s t (dieOf core) o.asid (o.target &&& 0x1FFFFFFFFFFFFFF#64) 8 deviceWord loc →
        exec (.copyComplete core id) s = .next ((raised t loc.pa (riseOf o.err)).opEnd o 0 tag o.err)) ∧
      (o.done = true → kind = 2 → exec (.copyComplete core id) s = .next { s.opEnd o 0 tag o.err with
        decs := s.decs ++ [{ task := o.target.toNat % 2 ^ 18, amount := 1, err := decide (o.err ≠ 0) }] })) ∧
    -- MMA_START
    ((∀ j ∈ (s.core core).mq, j.started = true) → exec (.mmaStart core) s = .next s) ∧
    (∀ before j js, (s.core core).mq = before ++ j :: js → (∀ x ∈ before, x.started = true) → j.started = false →
      let soon := ∃ x ∈ before ++ j :: js, x.started = true ∧
        s.clock < x.startedAt + blkNat x.blk 20 4 / kstep (blkNat x.blk 1 1)
      let old := s.genStale (BitVec.ofNat 64 (blkNat j.blk 56 8))
      (j.entered = false ∨ soon → exec (.mmaStart core) s = .next s) ∧
      (j.entered = true → ¬ soon → old = true → exec (.mmaStart core) s = .next (s.mmaEnd core j 5)) ∧
      -- with every product of the queue's units in it, and no unit that waits for room
      (¬ soon → old = false → (∀ x ∈ before ++ j :: js, x.entered = true) →
        ((before ++ j :: js).map MmaJob.serial).Nodup →
        (∀ g ∈ (s.core core).groups, ∀ t ∈ g.2.lanes, ∀ w ∈ t.2.waits, w.kind ≠ .mmaq) →
        exec (.mmaStart core) s = .next (s.setCore core { s.core core with
          mq := before ++ { j with started := true, startedAt := s.clock } :: js }))) ∧
    -- MMA_COMPLETE
    (∀ j js, (s.core core).mq = j :: js →
      (j.started = false → exec (.mmaComplete core) s = .next s) ∧
      (j.started = true → s.mmaPoisoned core j = true → exec (.mmaComplete core) s = .next (s.mmaEnd core j 1)) ∧
      (j.started = true → s.mmaPoisoned core j = false → j.spoiled = false → ∃ cells : Nat → FR,
        exec (.mmaComplete core) s = .next ((({ s.setCore core { s.core core with
              tiles := (s.core core).tiles.set j.tile
                ((List.range 4096).map fun i => (i, BitVec.ofNat 32 (cells i).1)) } with
            free := s.free + 262144 } : State).countAway core
              { wg := j.wg, grp := j.grp, lane := j.lane, word := j.word, unit := j.unit, issued := j.issued }
              ((List.range 4096).map fun i => (cells i).2)).mmaEnd core j 0) ∧
        ∀ r c, r < 64 → c < 64 →
          let k := kstep (blkNat j.blk 1 1)
          (blkNat j.blk 0 1 = 0 → cells (64 * r + c) =
            let a := fullRow s core j 4 r
            cellRun k (tileStart s core j r c) (a.zip (fullRow s core j 12 c)) (a.length + 1)) ∧
          (blkNat j.blk 0 1 ≠ 0 → r / 16 < blkNat j.blk 2 1 → cells (64 * r + c) =
            let a := (slotRows s core j 4 (r / 16)).getD (16 * (c / 16) + r % 16) []
            cellRun k (tileStart s core j r c)
              (a.zip ((slotRows s core j 12 (r / 16)).getD (16 * (c / 16) + c % 16) [])) (a.length + 1)))) ∧
    -- PGREQ_COMPLETE
    (∀ o, s.op id = some o → o.kind = .pgreq → o.elems = [] → o.park = none → o.remote = none →
      (o.acked = true → exec (.pgreqComplete id) s = .next (s.dropOp id)) ∧
      ∀ t loc, o.acked = false → o.blk = [] → DeviceMay s t (dieOf o.core) o.asid o.target 8 deviceWord loc →
        exec (.pgreqComplete id) s = .next (((raised t loc.pa (riseOf o.err)).dropOp id).stamp o.core)) ∧
    -- COLL_COMPLETE
    (∀ group ranks,
      ((∀ o ∈ s.ops, o.kind = .coll → blkNat o.blk 2 2 ≠ group) → exec (.collComplete group ranks) s = .next s) ∧
      ∀ o, s.ops = [o] → o.kind = .coll → blkNat o.blk 2 2 = group → o.park = none → o.remote = none → o.started = true →
        let ends (v : State) : Prop := exec (.collComplete group ranks) s =
          .next (v.opEnd o 2 (o.target.toNat / 2 ^ 58 % 16) o.err)
        (o.done = true → o.target.toNat / 2 ^ 62 = 0 → ends s) ∧
        -- all blocks have come, of an all-reduce in place, and the thread's earlier stores have not performed
        (o.done = false → s.genStale (o.word64 56) = false → o.reason = 0 → ¬ AccessesDone s o → blkNat o.blk 0 1 ≤ 1 → o.word64 8 = o.word64 16 →
          ∀ (k : Nat) (block : Nat → CollBlock), s.myRank group = some k → k < s.nrank group →
            (∀ r, r < s.nrank group → r ≠ k → ranks.find? (fun x => decide (x.rank = r)) = some (block r)) →
            (∀ r, r < s.nrank group → r ≠ k → (block r).op = blkNat o.blk 0 1 ∧ (block r).ty = blkNat o.blk 1 1 ∧
              (block r).count = blkNat o.blk 24 8 ∧ (block r).lost = false) →
            let e := collElem (blkNat o.blk 1 1)
            let data (r : Nat) : List Byte := if r = k then o.buf else (block r).data
            let sum (i : Nat) : Nat × List Ev :=
              collTree (collComb (blkNat o.blk 0 1 = 1) (blkNat o.blk 1 1))
                ((List.range (s.nrank group)).map fun r => blkNat (data r) (e * i) e) (s.nrank group) []
            let out := (List.range (blkNat o.blk 24 8)).flatMap fun i => leBytes e (sum i).1
            let o' : EngOp := { o with reason := 1, buf := out }
            exec (.collComplete group ranks) s = .next (({ s with free := s.free + out.length }.setOp o').countOp o'
              ((List.range (blkNat o.blk 24 8)).flatMap fun i => (sum i).2))) ∧
        -- the result, of one word
        (∀ t loc, o.done = false → s.genStale (o.word64 56) = false → o.reason = 1 → AccessesDone s o → o.buf.length = 4 → o.cursor = 0 →
          o.target.toNat / 2 ^ 62 = 0 → (o.word64 16).toNat % 4 = 0 →
          DeviceMay s t (dieOf o.core) o.asid (o.word64 16) 4 { write := true } loc →
          let o' : EngOp := { o with cursor := 1, done := true }
          exec (.collComplete group ranks) s = .next (((t.agentWrite loc.pa o.buf).setOp o').opEnd o' 2
            (o.target.toNat / 2 ^ 58 % 16) o.err))) ∧
    -- SMPL_COMPLETE
    ∀ o sub r, s.op id = some o → o.kind = .smpl sub r →
      (o.done = false → exec (.smplComplete core id) s = .next s) ∧
      (o.done = true → (∀ x ∈ s.ops, x.id < id → x.wg = o.wg → x.grp = o.grp → ∀ k, x.kind ≠ .smpl k r) →
        (s.wg o.wg).st = .running → exec (.smplComplete core id) s =
          .next (((s.modGroup (s.wg o.wg).core ((s.wg o.wg).places.getD o.grp 0) fun g =>
            { g.ws r (BitVec.ofNat 64 (leNat o.out)) with busyS := g.busyS.erase r }).dropOp id).stamp o.core))

/-- R288, R290 to R309: a TT command that has come to its turn reaches Badger and is applied, and its status, reason,
generation and outputs are kept until it is signalled; what the members change, and where they fail. The lowest free
page, node slot and sequence are taken (log 43), how requests of the prefix directory are answered is log 18, poison in
a list ends a command with code 1 (log 55), and a block of a reserved format with code 4 (log 73). A KVGATH and a PFXATT
then write their results, 4 KiB a transfer. A completion writes the result record, ends a prune once nothing tagged with
what it pruned is left to run, and under TRAPE owes its thread the trap of its status. A page without references is
free. The prefix directory finds, adds and removes entries. -/
def Obligations.ServiceEvents : Prop :=
  ∀ (s : State) (core id : Nat),
    -- BADGER_COMMAND_ARRIVAL
    (∀ o sub, Reaches s core id o sub →
      let die := dieOf core
      let seq := o.seqId
      let node := o.nodeId
      let field (off n : Nat) : Nat := blkNat o.blk off n
      let u := arrived s o sub
      let a := atBadger s o sub
      let answers (v : State) : Prop := exec (.badgerCommandArrival id) s = .next v
      let fails (status reason : Nat) : Prop := answers (ttEnds u a status reason (genNow u o) [])
      let gives (v : State) (out : List Byte) : Prop := answers (ttEnds v a 0 0 (genNow v o) out)
      -- the sequence, its pool and the generation (R290 to R292)
      (sub ∉ [0, 13] → s.seqs.find? seq = none → Alone s id sub o → fails 7 1) ∧
      (∀ q, sub ∉ [0, 13] → s.seqs.find? seq = some q → s.pool q.pool = none → Alone s id sub o → fails 7 8) ∧
      (∀ q p, sub ∈ generational → s.seqs.find? seq = some q → s.pool q.pool = some p → s.genStale o.gen = true → fails 5 11) ∧
      -- SEQNEW
      (sub = 0 →
        let win := field 9 1 = 1
        let size := if win then field 12 4 + field 16 4 else 0
        let fails (reason : Nat) : Prop := answers (ttEnds u a 7 reason 0 [])
        let taken (i : Nat) : Prop := s.seqs.find? i ≠ none ∨ ∃ r ∈ s.reservations, r.seq = i
        (s.pool (field 8 1) = none → fails 8) ∧
        ∀ p, s.pool (field 8 1) = some p →
          let bad := win ∧ ¬ (field 12 4 % p.P = 0 ∧ field 12 4 ≤ 65536 ∧ field 16 4 % p.P = 0 ∧ p.P ≤ field 16 4 ∧ field 16 4 ≤ 1048576)
          (bad → fails 12) ∧
          (¬ bad → (∀ i < 65536, taken i) → fails 6) ∧
          ∀ new ring v, ¬ bad → new < 65536 → ¬ taken new → (∀ i < new, taken i) → s.slotGen.get 0 (slotKey new 0) < 0xFFFF →
            AllAllocated die p (new, 0) ring u v →
            (ring.length < size / p.P → NoneFree v p → fails 4) ∧
            (ring.length = size / p.P →
              let g := v.slotGen.get 0 (slotKey new 0) + 1
              answers (ttEnds { v with
                slotGen := v.slotGen.set (slotKey new 0) g
                seqs := v.seqs.set new { pool := p.idx, windowed := decide win, sink := if win then field 12 4 else 0
                                         window := if win then field 16 4 else 0, nodes := [(0, { state := 1, gen := g })], ring } }
                a 0 0 g (leBytes 4 new)))) ∧
      -- PFXATT of a block whose directory entry is here, and that is held here
      (let h := o.word64 8
       sub = 13 → s.pfxHome h = s.dev.toNat →
       (s.pfxFind h = none → fails 7 10) ∧
       ∀ e p, s.pfxFind h = some e → e.holder = s.dev.toNat → s.pfxHeld h = some e → s.pool e.pool = some p →
         let within := field 21 1 < p.L ∧ field 22 1 < p.H ∧ field 16 4 + 4 * field 20 1 * p.DH ≤ (s.core core).spadSize ∧
           field 28 4 + field 20 1 * (8 + 4 * p.DH) ≤ (s.core core).spadSize
         (¬ within → fails 7 12) ∧
         (within → listAt s o (field 16 4) (4 * field 20 1 * p.DH) = none → fails 1 13) ∧
         ∀ bs t w kb vb ks vs, within → listAt s o (field 16 4) (4 * field 20 1 * p.DH) = some bs → 1 ≤ field 20 1 →
           u.pageRead die p e.page (p.rowOff (field 21 1) (field 22 1) 0 0) (p.P * p.rb) = (t, .ok kb) →
           t.pageRead die p e.page (p.rowOff (field 21 1) (field 22 1) 1 0) (p.P * p.rb) = (w, .ok vb) →
           p.values kb = some ks → p.values vb = some vs →
           let query (i : Nat) : List Fl := (List.range p.DH).map fun d => Fmt.f32.val (blkNat bs (4 * (i * p.DH + d)) 4)
           (∀ i < field 20 1, ∀ c < 8, evCount (attRow (field 24 4) (query i) ks vs).2 c = 0) →
           answers (w.setOp { a with
             buf := (List.range (field 20 1)).flatMap fun i => attends (field 24 4) (query i) ks vs
             out := leBytes 4 p.P, reason := 1 }).retireStale) ∧
      ∀ q p, Names s id sub o q p →
        -- SEQFREE
        (sub = 1 → Treelike q → ∃ v ns gone, Pruned u v q.pool seq q 0 ns gone ∧ gives v []) ∧
        -- a node that is not there, or has been pruned (R291)
        (sub ∈ [3, 4, 5, 6, 8, 14] → q.nodes.find? node = none → fails 7 1) ∧
        (sub = 2 → q.nodes.find? node = none → fails 7 2) ∧
        (sub ∈ [2, 4, 5, 6, 8, 14] → q.nodes.find? node ≠ none → ¬ stands q node → fails 7 2) ∧
        -- TQRY
        (sub = 7 →
          let done := if s.pruneDone seq q then 128 else 0
          (q.nodes.find? node = none → gives u (leBytes 3 0 ++ leBytes 1 done ++ leBytes 8 0)) ∧
          ∀ x, q.nodes.find? node = some x →
            gives u (leBytes 2 x.parent ++ leBytes 1 x.depth ++ leBytes 1 (x.state + done) ++ leBytes 4 x.first ++ leBytes 4 x.count)) ∧
        -- the other members that read a list
        (let list := if sub = 11 ∨ sub = 12 then listAt s o (field 16 4) (4 * p.P) else listAt s o (field 8 4) (8 * field 12 1)
         let within := field 13 1 < p.L ∧ field 14 1 < p.H ∧ field 22 2 + field 24 2 ≤ p.DH
         let tokens := field 16 4 + 4 * p.P ≤ (s.core core).spadSize
         (sub = 9 → ¬ within → fails 7 12) ∧
         (sub = 11 ∨ sub = 12 → ¬ tokens → fails 7 12) ∧
         (sub = 10 ∨ (sub = 9 ∧ within ∧ o.flag1 = false) ∨ ((sub = 11 ∨ sub = 12) ∧ tokens) → list = none → fails 1 13) ∧
         -- KVGATH and TMASK: the queries
         (∀ bs, sub = 10 ∨ (sub = 9 ∧ within ∧ o.flag1 = false) → list = some bs →
           let ql := queries bs (field 12 1)
           let all := q.keys ql
           ((∃ e ∈ ql, ¬ QueryWell q e) → fails 7 3) ∧
           ((∀ e ∈ ql, QueryWell q e) → sub = 9 →
             let ks := q.gathered p.P (field 16 4) (field 26 2) all
             let a : EngOp := { a with elems := ks, snap := ks.map fun k => (p.idx, k.1), started := true
                                       out := leBytes 4 all.length ++ leBytes 4 ks.length }
             ∀ v rs, KeysRead die p seq (field 13 1) (field 14 1) (field 15 1) ks (u.setOp a) v rs →
               ((∃ b sc, some (b, sc) ∈ rs ∧ p.row b = none) →
                 answers (ttEnds ((u.setOp a).opTrap a 0x04 0) a 4 13 (genNow u a) [])) ∧
               ((∀ b sc, some (b, sc) ∈ rs → p.row b ≠ none) →
                 let r := gathRows p o.blk (Config.freeByte v.free).toNat rs
                 let a : EngOp := { a with buf := r.1, reason := 1 }
                 answers ((({ v with free := v.free + 1 } : State).setOp a).countOp a r.2).retireStale)) ∧
           ((∀ e ∈ ql, QueryWell q e) → sub = 10 →
             let sees (i j : Nat) : Prop := ∃ e k, ql[i]? = some e ∧ (all.drop (field 16 4))[j]? = some k ∧ Visible q e k
             (field 20 1 = 0 → ∃ bits : List Byte, bits.length = 512 ∧
               (∀ i < 64, ∀ j < 64, (bits.getD (8 * i + j / 8) 0).getLsbD (j % 8) = true ↔ sees i j) ∧
               gives (u.spadPut core (field 24 4) bits) (leBytes 4 all.length)) ∧
             -- a tile that neither an MMA nor a PACK has in hand
             (let tile := (s.wg o.wg).tileBase + field 21 1
              field 20 1 ≠ 0 → s.tileWatched core tile = false →
              (∀ x ∈ s.ops, ¬ (x.core = core ∧ x.kind = .pack ∧ (s.wg x.wg).tileBase + blkNat x.blk 16 1 = tile)) →
              ∃ v, { v with cores := [] } = { u with cores := [] } ∧ (∀ c, c ≠ core → v.core c = u.core c) ∧
                { v.core core with tiles := [] } = { u.core core with tiles := [] } ∧
                (∀ t, t ≠ tile → (v.core core).tiles.find? t = (u.core core).tiles.find? t) ∧
                (∀ i < 64, ∀ j < 64, (sees i j → (v.core core).tileWord tile i j = (s.core core).tileWord tile i j) ∧
                  (¬ sees i j → (v.core core).tileWord tile i j = 0xFF800000)) ∧
                gives v (leBytes 4 all.length)))) ∧
         -- PFXQ and PFXPUB of a hash whose directory entry is here
         ∀ bs, sub = 11 ∨ sub = 12 → tokens → list = some bs →
           let h := pfxHash (o.word64 8) ((List.range p.P).map fun i => blkNat bs (4 * i) 4)
           let dev := s.dev.toNat
           let out (found : Nat) : List Byte := leBytes 1 found ++ leBytes 3 0 ++ leBytes 8 h.toNat
           s.pfxHome h = dev →
           (sub = 11 → (s.pfxFind h = none → gives u (out 0)) ∧
             ∀ e, s.pfxFind h = some e → gives u (leBytes 1 1 ++ leBytes 1 0 ++ leBytes 2 e.holder ++ leBytes 8 h.toNat)) ∧
           (sub = 12 → o.flag1 = true → (s.pfxHeld h = none → gives u (out 0)) ∧
             ∀ e, s.pfxHeld h = some e →
               (e.leases = [] → gives (({ u with pfxDir := u.pfxDir.erase e } : State).dropRef e.pool e.page).1 (out 1)) ∧
               (e.leases ≠ [] → gives { u with pfxDir := u.pfxDir.map fun (x : PfxEntry) =>
                 if x = e then { x with gone := true } else x } (out 1))) ∧
           (sub = 12 → o.flag1 = false →
             let bpos := field 20 4
             (q.nodes.find? node = none → fails 7 1) ∧
             (q.nodes.find? node ≠ none → ¬ stands q node → fails 7 2) ∧
             (stands q node → bpos % p.P ≠ 0 → fails 7 12) ∧
             (stands q node → bpos % p.P = 0 → (∃ i < p.P, q.holder node (bpos + i) = none) → fails 7 3) ∧
             ∀ n y, stands q node → bpos % p.P = 0 → (∀ i < p.P, q.holder node (bpos + i) ≠ none) →
               q.holder node (bpos + p.P - 1) = some (n, y) →
               (q.windowed = true → n = 0 → fails 7 2) ∧
               ∀ g, ¬ (q.windowed = true ∧ n = 0) → q.pageOf p.P n y (bpos + p.P - 1) = some g →
                 let x := s.page p.idx g
                 (s.pfxFind h ≠ none → gives u (out 1)) ∧
                 (s.pfxFind h = none → 0xFFFF ≤ x.refs → fails 7 7) ∧
                 (s.pfxFind h = none → x.refs < 0xFFFF →
                   gives (({ u with pfxDir := u.pfxDir ++ [{ hash := h, holder := dev, pool := p.idx, page := g }] } : State).setPage
                     p.idx g { x with refs := x.refs + 1 }) (out 0)))) ∧
        ∀ x, q.nodes.find? node = some x →
          let e := x.first + x.count
          let pos := field 8 4
          let inNode := x.first ≤ pos ∧ pos < e
          let appends := x.state = 1 ∨ (x.state = 3 ∧ x.nchild = 0)
          let root := q.windowed = true ∧ node = 0
          -- TFORK
          (sub = 2 → stands q node →
            let kids := field 8 1
            let free := freeSlots s seq q
            (o.flag1 = false →
              (254 < x.depth → fails 7 5) ∧
              (x.depth ≤ 254 → free.length < kids → fails 7 6) ∧
              (x.depth ≤ 254 → 1 ≤ kids → kids ≤ free.length →
                let tooMany := ∃ t, tailPage q p.P node x = some t ∧ 0xFFFF < (s.page p.idx t).refs + kids
                (tooMany → fails 7 7) ∧
                (¬ tooMany → ∃ v, Forked u v p seq node q x (free.take kids) ∧ gives v (leBytes 2 0xFFFF ++
                  (List.range 5).flatMap fun i => leBytes 2 ((free.take kids).getD i 0xFFFF))))) ∧
            (o.flag1 = true →
              let at_ := field 12 4
              let deep := ∃ k ∈ q.subtree node, ∃ y, q.nodes.find? k = some y ∧ 254 < y.depth
              (root → fails 7 2) ∧
              (¬ root → ¬ (x.first < at_ ∧ at_ < e) → fails 7 3) ∧
              (¬ root → x.first < at_ → at_ < e →
                (deep → fails 7 5) ∧
                (¬ deep → free.length < kids + 1 → fails 7 6) ∧
                ∀ m ms, ¬ deep → 1 ≤ kids → free = m :: ms → kids ≤ ms.length →
                  let tooMany := at_ % p.P ≠ 0 ∧ ∃ t, x.pages[at_ / p.P - x.first / p.P]? = some t ∧
                    0xFFFF < (s.page p.idx t).refs + 1 + kids
                  (tooMany → fails 7 7) ∧
                  (¬ tooMany → ∃ w q' x' v, Divided u w p seq node m at_ q x ∧ w.seqs.find? seq = some q' ∧
                    q'.nodes.find? node = some x' ∧ Forked w v p seq node q' x' (ms.take kids) ∧ gives v (leBytes 2 m ++
                      (List.range 5).flatMap fun i => leBytes 2 ((ms.take kids).getD i 0xFFFF)))))) ∧
          -- TAPP
          (sub = 3 →
            let k := field 8 4
            let i := e / p.P - x.first / p.P
            let n := (e + k - 1) / p.P - x.first / p.P + 1 - i
            let out (copied : Bool) : List Byte := leBytes 4 e ++ leBytes 4 (x.count + k) ++ leBytes 1 copied.toNat
            (¬ appends → fails 7 2) ∧
            (appends → root → ∃ v, RingAppended u v seq q x k ∧ gives v (out false)) ∧
            (appends → ¬ root →
              (∀ v copied, PagesReady die p seq node i n u v copied →
                gives (modNode v seq node fun x => { x with count := x.count + k }) (out copied)) ∧
              ∀ j v copied, j < n → PagesReady die p seq node i j u v copied → PageLacks v p seq node (i + j) → fails 7 4)) ∧
          -- KVWR
          (sub = 4 → stands q node →
            let layer := field 12 1
            let heads := field 14 1
            let bytes := 4 * heads * p.DH
            let within := layer < p.L ∧ field 13 1 + heads ≤ p.H ∧ (o.flag1 = true → field 16 8 + bytes ≤ (s.core core).spadSize)
            (¬ inNode → fails 7 3) ∧
            (inNode → ¬ appends → fails 7 2) ∧
            (inNode → appends → ¬ within → fails 7 12) ∧
            (inNode → appends → within → q.current node pos = false → fails 7 9) ∧
            ∀ t src g, inNode → appends → within → q.current node pos = true →
              u.engFrom a o.flag1 (o.word64 16) bytes 0 = (t, .ok src) → q.pageOf p.P node x pos = some g →
              let rows := (List.range heads).map fun i => (field 13 1 + i,
                (List.range p.DH).map fun c => Fmt.f32.val (blkNat src (4 * (i * p.DH + c)) 4))
              (¬ root → CountsShared t p g → NoneFree t p → fails 7 4) ∧
              ∀ w h copied v rise es,
                (if root then w = t ∧ h = g ∧ copied = false
                 else OwnPage t die p seq node (pos / p.P - x.first / p.P) g w h copied) →
                RowsWritten die p h layer (field 15 1) (q.slotOf p.P node pos) rows w v rise es →
                gives (v.countOp a es) (leBytes 1 rise ++ leBytes 1 copied.toNat ++ leBytes 1 ((v.page p.idx h).scale.getD 0))) ∧
          -- TPRUNE
          (sub = 5 →
            (node = 0 → fails 7 2) ∧
            (node ≠ 0 → stands q node → Treelike q → ∃ v ns gone freed, Pruned u v q.pool seq q node ns gone ∧
              (let key (g : Nat) : Nat := pageName q.pool g
               (∀ g ∈ gone, (gone.map key).count (key g) ≤ (s.page q.pool g).refs) → freed =
                ((gone.map key).dedup.filter fun k => decide ((gone.map key).count k = (s.pages.get {} k).refs)).length) ∧
              gives v (leBytes 4 ns.length ++ leBytes 4 freed))) ∧
          -- TCOMMIT
          (sub = 6 → stands q node →
            let path := q.chain node 256
            let top : State := { u with seqs := u.seqs.set seq { q with nodes := q.nodes.map fun y =>
              (y.1, if y.1 ∈ path then { y.2 with state := 3 } else y.2) } }
            let sibs := if o.flag1 then (q.nodes.filter fun y => decide (1 ≤ y.2.state ∧ y.2.state ≤ 3 ∧ y.2.parent ∈ path ∧
              y.1 ∉ path)).map (·.1) else []
            (q.windowed = false → Treelike q → ∃ v pruned, AllPruned p.idx seq sibs top v pruned ∧ gives v (leBytes 4 pruned)) ∧
            ∀ t q', q.windowed = true → p.fmt ≤ 1 →
              TokensMoved die p seq ((path.filter (· ≠ 0)).reverse.flatMap fun n =>
                let y := (q.nodes.find? n).getD {}
                (List.range y.count).map fun i => (n, y.first + i)) u t →
              t.seqs.find? seq = some q' → Treelike q' →
              ∃ v pruned, AllPruned p.idx seq ((q.nodes.filter fun y => decide (y.2.parent = 0 ∧ 1 ≤ y.2.state ∧
                  y.2.state ≤ 3)).map (·.1)) t v pruned ∧
                gives (modNode v seq 0 fun y => { y with state := 1 }) (leBytes 4 pruned)) ∧
          -- TWALK
          (sub = 8 → stands q node →
            let row := field 12 1 < p.L ∧ field 13 1 < p.H
            (¬ row → fails 7 12) ∧
            (row → q.holder node pos = none → fails 7 3) ∧
            ∀ n y, row → q.holder node pos = some (n, y) →
              (q.current n pos = false → fails 7 9) ∧
              ∀ g, q.current n pos = true → q.pageOf p.P n y pos = some g →
                let slot := q.slotOf p.P n pos
                gives u (leBytes 2 n ++ leBytes 2 slot ++
                  leBytes 8 (p.addr g ((((field 12 1 * p.H + field 13 1) * 2 + field 14 1) * p.P + slot) * p.rb)))) ∧
          -- KVRESC
          (sub = 14 → stands q node →
            (p.fmt ≤ 1 → fails 7 8) ∧
            (2 ≤ p.fmt → ¬ inNode → fails 7 3) ∧
            (2 ≤ p.fmt → inNode → q.current node pos = false → fails 7 9) ∧
            ∀ g, 2 ≤ p.fmt → inNode → q.current node pos = true → q.pageOf p.P node x pos = some g →
              ((s.page p.idx g).scale = none → fails 7 3) ∧
              ∀ sc, (s.page p.idx g).scale = some sc →
                (254 < sc + field 12 1 → fails 7 12) ∧
                (sc + field 12 1 ≤ 254 → ¬ root → CountsShared u p g → NoneFree u p → fails 7 4) ∧
                ∀ w h copied v es, sc + field 12 1 ≤ 254 →
                  (if root then w = u ∧ h = g ∧ copied = false
                   else OwnPage u die p seq node (pos / p.P - x.first / p.P) g w h copied) →
                  Rescaled w die p h (field 12 1) v es →
                  gives (v.countOp a es) (leBytes 1 (sc + field 12 1) ++ leBytes 1 copied.toNat))) ∧
    -- ENGINE_WRITE: the transfers of a KVGATH and of a PFXATT
    (∀ o sub, OpHere s core id o → o.kind = .tt sub → o.arrived = true → o.done = false → o.reason = 1 →
      let ends (w : State) (o : EngOp) (last : Prop) : Prop :=
        (last → exec (.engineWrite core id) s = .next (ttEnds w o 0 0 (genNow w o) o.out)) ∧
        (¬ last → exec (.engineWrite core id) s = .next (w.setOp o).retireStale)
      (sub = 9 → s.genStale o.gen = true →
        exec (.engineWrite core id) s = .next (ttEnds s o 5 11 (genNow s o) [])) ∧
      (sub = 9 → s.genStale o.gen = false → o.buf.length = 146 * 64 →
        let slot := (s.wg o.wg).slotBase + blkNat o.blk 21 1
        let now (v : State) : Slot := (v.core core).slots.get {} slot
        let written (i : Nat) : Prop := o.cursor ≤ i ∧ i < o.cursor + 28 ∧ i < 64
        ∃ w, { w with cores := [] } = { s with cores := [] } ∧ (∀ c, c ≠ core → w.core c = s.core c) ∧
          { w.core core with slots := [] } = { s.core core with slots := [] } ∧
          (∀ n, n ≠ slot → (w.core core).slots.find? n = (s.core core).slots.find? n) ∧
          (now w).claim = (now s).claim ∧
          (∀ i k, k < 144 → (written i → (now w).bytes.find? (144 * i + k) = some (o.buf.getD (146 * i + k) 0)) ∧
            (¬ written i → (now w).bytes.find? (144 * i + k) = (now s).bytes.find? (144 * i + k))) ∧
          (∀ i, (written i → o.buf.getD (146 * i + 144) 0 = 1 → (now w).scales.find? i = some (o.buf.getD (146 * i + 145) 0)) ∧
            (¬ written i ∨ o.buf.getD (146 * i + 144) 0 ≠ 1 → (now w).scales.find? i = (now s).scales.find? i)) ∧
          ends w { o with cursor := o.cursor + 28 } (64 ≤ o.cursor + 28)) ∧
      (sub = 13 →
        ends (s.spadPut core (blkNat o.blk 28 4 + o.cursor) ((o.buf.drop o.cursor).take 4096))
          { o with cursor := o.cursor + 4096 } (o.buf.length ≤ o.cursor + 4096))) ∧
    -- what the members compute
    (∀ p b free rs, p.fmt ≤ 1 → ∀ i < 64, ((gathRows p b free rs).1.drop (146 * i)).take 146 = gatherRow p b rs i ++ [0, 0]) ∧
    (∀ (q : Seq) ql, (∀ x ∈ q.nodes, x.1 < 1024) →
      (∀ k, k ∈ q.keys ql ↔ (∃ e ∈ ql, k.1 ∈ q.chain e.1 256) ∧ q.current k.1 k.2 = true ∧
        ∃ x, q.nodes.find? k.1 = some x ∧ x.first ≤ k.2 ∧ k.2 < x.first + x.count) ∧
      (q.keys ql).Pairwise fun k l =>
        let first (n : Nat) : Nat := ((q.nodes.find? n).getD {}).first
        first k.1 < first l.1 ∨ (first k.1 = first l.1 ∧ (k.1 < l.1 ∨ (k.1 = l.1 ∧ k.2 < l.2)))) ∧
    (∀ h ts t, pfxHash h [] = h ∧ pfxHash h (ts ++ [t]) =
      let x := (pfxHash h ts).toNat
      let y := (((x * 2 ^ 23 + x / 2 ^ 41) % 2 ^ 64).xor (t % 2 ^ 64) * 0x9E3779B97F4A7C15) % 2 ^ 64
      BitVec.ofNat 64 (y.xor (y / 2 ^ 29))) ∧
    -- TT_COMPLETE
    (∀ o sub, OpHere s core id o → o.kind = .tt sub →
      (o.done = false → exec (.ttComplete id) s = .next s) ∧
      (∀ q, o.done = true → EndsPrune s o sub q → ¬ Quieted s o → exec (.ttComplete id) s = .next s) ∧
      ∀ r, o.done = true → o.skip ≠ [1] → o.target.toNat / 2 ^ 62 = 0 → sub ≠ 9 ∨ o.flag1 = false →
        blkNat o.blk 48 4 = 0xFFFFFFFF ∨ blkNat o.blk 48 4 + (2 + o.out.length) ≤ (s.core core).spadSize →
        let u := if blkNat o.blk 48 4 = 0xFFFFFFFF then s
          else s.spadPut core (blkNat o.blk 48 4) (leBytes 1 o.err ++ leBytes 1 o.reason ++ o.out)
        ((∀ q, ¬ EndsPrune s o sub q) ∧ r = u) ∨ (∃ q, EndsPrune s o sub q ∧ Quieted s o ∧ r = pruneOver u o sub q) →
        let o' : EngOp := { o with started := true, skip := [1] }
        let v := (r.setOp o').opEnd o' 0 (o.target.toNat / 2 ^ 58 % 16) o.err
        (o.err = 0 ∨ blkNat o.blk 6 1 % 2 = 0 → exec (.ttComplete id) s = .next v) ∧
        ∀ k, (o.err, k) ∈ [(7, 0x50), (5, 0x51), (1, 0x13), (2, 0x14), (3, 0x12)] → blkNat o.blk 6 1 % 2 = 1 →
          exec (.ttComplete id) s = .next (v.opTrap o' k o.blkOff)) ∧
    -- PAGE_FREE
    (∀ pool page, exec (.pageFree pool page) s =
      .next (if (s.page pool page).refs = 0 ∧ page ∉ s.takenPages pool then { s with pages := s.pages.erase (pool * 2 ^ 24 + page) } else s)) ∧
    -- PREFIX_DIRECTORY_REQUEST
    ∀ h holder pool page,
      exec (.prefixDirectoryRequest (.query h)) s = .next s ∧
      ((∀ e ∈ s.pfxDir, e.hash = h → e.gone = true) → exec (.prefixDirectoryRequest (.publish h holder pool page)) s =
        .next { s with pfxDir := s.pfxDir ++ [{ hash := h, holder, pool, page }] }) ∧
      ((∃ e ∈ s.pfxDir, e.hash = h ∧ e.gone = false) →
        exec (.prefixDirectoryRequest (.publish h holder pool page)) s = .next s) ∧
      (holder ≠ s.dev.toNat → exec (.prefixDirectoryRequest (.unpublish h holder)) s =
        .next { s with pfxDir := s.pfxDir.filter fun e => decide (¬ (e.hash = h ∧ e.holder = holder)) })

/-- R210, R233 to R237: an open region at its FARE commits when it is the oldest of its instance, waits for nothing
and has not run too long; a thread that aborted resumes at its target once its loads, and the reads of its atomics, have
landed; the oldest region may go on irrevocably; one that runs longer than FAR_MAX_CLOCKS, clocks of a halt or of a stop at
BRK apart, aborts with cause 4, or, being irrevocable, commits and raises WATCHDOG. A commit writes the versions of the region, and its slot is free. -/
def Obligations.RegionEvents : Prop :=
  ∀ (s : State) (core place lane : Nat),
    let t := s.thread core place lane
    let clocks := s.clock - t.farSince
    (∀ ref slot r, HasRegion s core place lane ref slot r →
      -- REGION_COMMIT
      (t.far.state = 2 → OldestOf s ref r → r.waiting = false → clocks ≤ Config.farMaxClocks →
        s.fenceDone core place lane s.nextId = true → (∀ w ∈ t.waits, ∃ pd, w.kind = .fare pd) →
        exec (.regionCommit core place lane) s = .next (toldCommit (s.farCommit ref slot) core place lane)) ∧
      (t.far.state = 1 ∨ ¬ OldestOf s ref r ∨ r.waiting = true ∨ Config.farMaxClocks < clocks →
        exec (.regionCommit core place lane) s = .next s) ∧
      -- REGION_IRREVOCABLE
      (r.irrev = false → OldestOf s ref r → (∃ w ∈ t.waits, w.kind = .irrevocable) →
        exec (.regionIrrevocable core place lane) s = .next (s.farIrrevocable ref slot)) ∧
      (r.irrev = true ∨ ¬ OldestOf s ref r ∨ (∀ w ∈ t.waits, w.kind ≠ .irrevocable) →
        exec (.regionIrrevocable core place lane) s = .next s) ∧
      -- REGION_WATCHDOG
      let counts := (s.core core).halted = false ∧ ∀ w ∈ t.waits, w.kind ≠ .brk
      (clocks < Config.farMaxClocks ∨ ¬ counts → exec (.regionWatchdog core place lane) s = .next s) ∧
      (Config.farMaxClocks ≤ clocks → counts → r.irrev = false →
        exec (.regionWatchdog core place lane) s = .next (s.farAbort ref slot 4)) ∧
      (Config.farMaxClocks ≤ clocks → counts → r.irrev = true → exec (.regionWatchdog core place lane) s =
        .next ((toldCommit (s.farCommit ref slot) core place lane).watchdogTrap core place lane 0)) ∧
      -- what a commit does
      ((s.farCommit ref slot).inst ref).regions.find? slot = none ∧
      (∀ v ∈ ((s.farCommit ref slot).inst ref).versions, v.slot ≠ slot) ∧
      ((s.farCommit ref slot).thread r.core r.place r.lane).far =
        { (s.thread r.core r.place r.lane).far with state := 3 } ∧
      ∀ v o b, (s.inst ref).versions.filter (fun w => decide (w.slot = slot)) = [v] → v.bytes = [(o, b)] →
        s.recordsAt (v.pa + o) 1 = [] → (s.farCommit ref slot).mem = (s.agentWriteLine (v.pa + o) [b]).mem) ∧
    -- ABORT_TARGET_RESUME
    (let load := ∃ r ∈ (s.core core).loads, r.place = place ∧ r.by [lane] = true
    let read := ∃ u ∈ (s.group core place).sq, u.op.returns = true ∧
      ∃ a ∈ u.accs, a.lane = lane ∧ a.dropped = true ∧ a.done = false
    ((s.group core place).present = true → (∃ w ∈ t.waits, w.kind = .landing) → ¬ load → ¬ read →
      exec (.abortTargetResume core place lane) s = .next (s.modThread core place lane fun t =>
        { t with waits := t.waits.filter fun w => w.kind ≠ .landing, since := s.clock })) ∧
    (load ∨ read → exec (.abortTargetResume core place lane) s = .next s))

/-- R212, R213, R217, R241, R335: when every wave of a deterministic launch has arrived at its flush, its records are
applied at their homes and the waves go on; a wave whose segment has ended runs its next workgroup, or frees its places
when it has none; a segment that runs longer than SEG_BOUND raises WATCHDOG in its threads, once. A wave of a launch
that is to leave at the flush is saved instead. -/
def Obligations.SegmentEvents : Prop :=
  ∀ (s : State) (task : Nat),
    let l := s.launch task
    let ws := (s.waves task).map Prod.fst
    -- DFLUSH_COMPLETE
    (l.hdr.det = false ∨ l.go = false → exec (.dflushComplete task) s = .next s) ∧
    (AtFlush s task → s.detRecords task = [] → exec (.dflushComplete task) s = .next (flushed s task ws l.flushes)) ∧
    (∀ core r t loc, AtFlush s task → s.detRecords task = [(core, r)] → r.park = none →
      let n := if r.wide then 8 else 4
      s.check (core / 72) r.asid r.ea n { write := true, atomic := true } = (t, .ok loc) →
      t.farHeld none loc.asid (lineOf loc.va) true = false → loc.leaf.repl = false → t.recordsAt loc.pa n = [] →
      let g := s.group core r.place
      let x := rmwValue r.member r.wide (BitVec.ofNat 64 (leNat (t.view loc.pa n))) r.operand
      exec (.dflushComplete task) s = .next (flushed
        (((t.agentWrite loc.pa (leBytes n x.1.toNat)).setDet core r none).countAway core
          { wg := g.wg, grp := g.index, lane := r.lane, word := r.word, unit := r.unit, issued := r.issued } x.2)
        task ws l.flushes)) ∧
    -- SEGMENT_START and SEGMENT_WATCHDOG
    ∀ wave w x, s.waveWg task wave = some (w, x) →
      (l.hdr.det = false ∨ l.go = false ∨ l.stopped = true ∨ x.st ≠ .ended ∨ l.flushes ≤ x.segment →
        exec (.segmentStart task wave) s = .next s) ∧
      (l.hdr.det = true → l.go = true → l.stopped = false → x.st = .ended → x.segment < l.flushes → x.places ≠ [] →
        s.waveStored w = true →
        (l.hdr.total ≤ x.number + l.hdr.waveCount →
          exec (.segmentStart task wave) s = .next ((s.freeWg w).modWg w fun x => { x with places := [] })) ∧
        (x.number + l.hdr.waveCount < l.hdr.total → l.saveAt ≠ some x.segment → exec (.segmentStart task wave) s =
          .next ((s.modWg w fun y => { y with number := y.number + l.hdr.waveCount, segment := y.segment + 1, st := .running
                                              segStart := s.timeNs, warned := false }).fillWg w
            (x.places.map fun p => (s.group x.core p).rb))) ∧
        -- a wave of a launch that is to leave at this flush is saved instead
        (x.number + l.hdr.waveCount < l.hdr.total → l.saveAt = some x.segment → ∃ first, exec (.segmentStart task wave) s =
          .next (match s.ctxFree (unitsOf (s.launch (s.wg w).task).hdr.fullBytes) with
            | none => s
            | some u => s.saveFull w (u * 65536 + s.ctxBase) first))) ∧
      (s.timeNs ≤ x.segStart + l.hdr.segBound * 1000 → exec (.segmentWatchdog task wave) s = .next s) ∧
      (l.hdr.det = true → l.go = true → l.stopped = false → x.st = .running → x.warned = false →
        x.segStart + l.hdr.segBound * 1000 < s.timeNs → exec (.segmentWatchdog task wave) s =
          .next ((s.modWg w fun y => { y with warned := true }).watchdogWg w 2))

/-- R11, R319 to R322, R326 to R328: a decrement reaches its task, from a task or from the host's counter window; a task
ages while it waits; its launch header is read and checked; a launch whose workgroups have ended and whose operations
have drained ends; and a task that ends writes its completion word, STATUS and STATE, decrements its successors, and
leaves. The decrements of one task reach theirs in the order in which it sends them. The model's readings: a dormant
workgroup does not keep a launch (log 29), a completion word and STATUS are written in one step (log 45), and a short
write of the counter window is not counted (log 47). -/
def Obligations.TaskEvents : Prop :=
  ∀ (s : State) (t : Nat),
    let x := s.task t
    -- TASK_DECREMENT and COUNTER_WINDOW_WRITE
    (∀ amount err,
      let is (d : Decrement) : Prop := d.task = t ∧ d.amount = amount ∧ d.err = err
      (∀ ds d ds', s.decs = ds ++ d :: ds' → is d → (∀ x ∈ ds, ¬ is x) → (d.from_ ≠ 0 → ∀ x ∈ ds, x.from_ ≠ d.from_) →
        ∃ u, exec (.taskDecrement t amount err) s = .next u ∧
          CountsDown { s with decs := ds ++ ds' } t amount.toNat err u) ∧
      -- there is none, or each comes after another of the task that sends it
      ((∀ ds d ds', s.decs = ds ++ d :: ds' → is d → d.from_ ≠ 0 ∧ ∃ x ∈ ds, x.from_ = d.from_) →
        exec (.taskDecrement t amount err) s = .next s)) ∧
    (∀ n (val : BitVec 64), n ≠ 8 ∨ s.boot ≠ .running → exec (.counterWindowWrite t n val) s = .next s) ∧
    (∀ val : BitVec 64, s.boot = .running → 2 ^ 33 ≤ val.toNat → exec (.counterWindowWrite t 8 val) s = .next (ignored s)) ∧
    (∀ val : BitVec 64, s.boot = .running → val.toNat < 2 ^ 33 → ∃ u, exec (.counterWindowWrite t 8 val) s = .next u ∧
      CountsDown s t (val.toNat % 2 ^ 32) (decide (2 ^ 32 ≤ val.toNat)) u) ∧
    -- AGING_TICK
    (let aged := min 6 ((s.timeNs - x.readyAt) / 500000)
     (s.taskState t = 2 → x.aged < aged → exec (.agingTick t) s = .next (s.modTask t fun x => { x with aged }).inherit) ∧
     (s.taskState t ≠ 2 ∨ aged ≤ x.aged → exec (.agingTick t) s = .next s)) ∧
    -- LAUNCH_HEADER_CHECK
    (x.phase ≠ 1 → exec (.launchHeaderCheck t) s = .next s) ∧
    (x.phase = 1 → x.park = none → x.remote = none → ∀ u,
      let hdr := s.taskNat t 8 8
      (∀ b, s.taskRead t (BitVec.ofNat 64 hdr) 128 = (u, .ok b) →
        (blkNat b 0 4 ≠ 0x4D5A3948 → exec (.launchHeaderCheck t) s = .next (u.endTask t 2 1 0 5 0)) ∧
        (blkNat b 0 4 = 0x4D5A3948 → blkNat b 4 2 ≠ 1 → exec (.launchHeaderCheck t) s = .next (u.endTask t 2 2 0 5 0)) ∧
        (∀ r, headerFault b hdr u.dies = some r → exec (.launchHeaderCheck t) s =
          .next (u.endTask t 2 r 0 5 (if 3 ≤ r ∧ r ≤ 10 then doneOf b else 0))) ∧
        (headerFault b hdr u.dies = none →
          let h : Header := { bytes := b }
          let l : Launch := { hdr := h, asid := u.taskAsid t, priv := decide (u.taskNat t 7 1 / 2 % 2 = 1),
                              param := BitVec.ofNat 64 (if u.taskNat t 16 8 = 0 then h.params else u.taskNat t 16 8),
                              dieset := if h.minDies = 2 then 3 else 1 }
          exec (.launchHeaderCheck t) s = .next (({ u with launches := u.launches.set t l } : State).modTask t fun x =>
            { x with phase := 2, got := [] }))) ∧
      ∀ k, s.taskRead t (BitVec.ofNat 64 hdr) 128 = (u, .error (.err k)) → exec (.launchHeaderCheck t) s =
        .next (u.endTask t 2 (if hdr % 64 ≠ 0 ∨ 3968 < hdr % 4096 then 5 else 11) 0 5 0)) ∧
    -- LAUNCH_END
    (let l := s.launch t
     (x.phase ≠ 3 → exec (.launchEnd t) s = .next s) ∧
     (x.phase = 3 → (∀ w ∈ s.wgs, w.2.task = t → w.2.st = .ended ∨ w.2.st = .dormant) →
      l.stopped = true ∨ (l.startable ≤ l.nextWg ∧ l.hdr.det = false) → s.launchDrained t = true →
      exec (.launchEnd t) s = .next (({ s with
        wgs := s.wgs.filter fun w => decide (w.2.task ≠ t)
        images := s.images.filter fun i => decide (i.2.task ≠ t) } : State).endTask t
          (if l.status = 4 then 0 else l.status) l.detail l.cause2 5 (doneOf l.hdr.bytes)))) ∧
    -- TASK_COMPLETION
    (x.park = none → x.remote = none →
      (∀ u b, x.phase = 4 → s.taskRead t (BitVec.ofNat 64 (s.taskNat t 8 8)) 128 = (u, .ok b) →
        exec (.taskCompletion t) s = .next (u.modTask t fun x => { x with phase := 5, doneAt := doneOf b, got := [] })) ∧
      (x.phase = 5 → t < s.tsz → s.taskNat t 40 8 = 0 → exec (.taskCompletion t) s = .next (statusWritten s t x)) ∧
      (∀ u loc, x.phase = 5 → t < s.tsz → s.taskNat t 40 8 ≠ 0 → x.got = [] → x.cancelled = false →
        let cword := BitVec.ofNat 64 (s.taskNat t 40 8)
        DeviceMay s u 0 (s.taskAsid t) cword 8 deviceWord loc →
        let word := s.timeNs / 1000 % 2 ^ 32 * 2 ^ 32 + x.cause2 % 256 * 2 ^ 24 + s.taskNat t 7 1 / 4 % 2 * 2 ^ 16 +
          x.detail % 256 * 2 ^ 8 + x.status
        let v := u.agentWrite loc.pa (leBytes 8 (BitVec.ofNat 64 word).toNat)
        exec (.taskCompletion t) s = .next (statusWritten v t x)) ∧
      (x.phase = 6 → t < s.tsz → exec (.taskCompletion t) s = .next (({ s with
        decs := s.decs ++ successors (s.view (s.taskAddr t + 48) 48) (min 6 (s.taskNat t 26 1)) (decide (x.status ≠ 0)) (t + 1)
        launches := s.launches.erase t } : State).modTask t fun x => { x with phase := 7 })) ∧
      (x.phase = 7 → x.doneAt = 0 → exec (.taskCompletion t) s = .next ({ s with tasks := s.tasks.erase t } : State).inherit) ∧
      ∀ u v b b', x.phase = 7 → x.doneAt ≠ 0 → s.taskRead t (BitVec.ofNat 64 x.doneAt) 8 = (u, .ok b) →
        let n := min 64 (leNat b)
        u.taskRead t (BitVec.ofNat 64 (x.doneAt + 8)) (8 * n) = (v, .ok b') →
        let ds := successors b' n (decide (x.status ≠ 0)) (t + 1)
        (∀ d ∈ ds, v.inRange (v.taskAsid t) d.task = true) →
        exec (.taskCompletion t) s = .next ({ v with decs := v.decs ++ ds, tasks := v.tasks.erase t } : State).inherit)

/-- R17, R31 to R33, R118, R239, R324, R325, R328 to R332: the next workgroup of a checked launch starts on a core that
has a place for it; a waiting task without a place takes workgroups off the core that costs least; a thread takes its
request to leave at its handler, or, without one, waits for the forced save, and its waits are withdrawn; a workgroup
that has not left in 40 µs is saved whole; saved workgroups return to a core of their die; a launch that runs too long
raises WATCHDOG; an elastic launch changes its die set at a STEP. The model's readings: how a launch is placed and
starts (log 46), on which core a pre-emption is decided and how the watchdog meets a wait (log 47), and restores of a
launch as a whole (log 78). -/
def Obligations.PlacementEvents : Prop :=
  ∀ (s : State) (task core : Nat),
    let l := s.launch task
    let h := l.hdr
    -- WORKGROUP_DISPATCH
    (∀ base, s.boot ≠ .running ∨ s.coreCount ≤ core ∨ l.stopped = true →
      exec (.workgroupDispatch task core base) s = .next s) ∧
    (∀ base, MayStart s task core →
      (s.findSpot core task base [] = none → exec (.workgroupDispatch task core base) s = .next s) ∧
      ∀ spot, s.findSpot core task base [] = some spot →
        let u := (begun s task core).startWg task core l.nextWg spot
        ((h.coop = true ∨ h.det = true) → l.nextWg + 1 ≠ (beginsOn s task core).startable →
          exec (.workgroupDispatch task core base) s = .next u) ∧
        ((h.coop = false ∧ h.det = false) ∨ l.nextWg + 1 = (beginsOn s task core).startable →
          exec (.workgroupDispatch task core base) s = .next (u.launchGo task))) ∧
    -- PREEMPT_DECISION
    ((s.task task).phase ≠ 2 → (s.task task).phase ≠ 3 → exec (.preemptDecision task core) s = .next s) ∧
    (∀ w, NoPlace s task → core < s.coreCount → s.mayUse task core = true → s.ctxSize ≠ 0 →
      s.chosen task core = some [w] → (s.launch (s.wg w).task).hdr.coop = false →
      (s.launch (s.wg w).task).hdr.det = false → (s.wg w).preempt = none → s.ctxRoom [w] = true →
      (∀ c vs, c < s.coreCount → s.mayUse task c = true → s.chosen task c = some vs → s.cost [w] ≤ s.cost vs) →
      exec (.preemptDecision task core) s = .next (s.preemptWg w)) ∧
    -- PREEMPT_REQ
    (∀ place lane,
      let t := s.thread core place lane
      let lh := (s.launchOf core place).hdr
      (s.preemptible core place lane = false → exec (.preemptReq core place lane) s = .next s) ∧
      (s.preemptible core place lane = true → t.waits = [] → lh.preempt = 0 → exec (.preemptReq core place lane) s =
        .next (s.modThread core place lane fun t =>
          { t with preempt := false, waits := [{ at_ := t.pos, kind := .forcedSave }] })) ∧
      (s.preemptible core place lane = true → t.waits = [] → lh.preempt ≠ 0 → exec (.preemptReq core place lane) s =
        .next (s.modThread core place lane fun x =>
          { x with preempt := false, handler := .preempt, trapCause := 0x30, trapPc := t.pos.pc, trapWord := 0, trapAddr := 0
                   trapUnit := t.pos.pc, trapRes := BitVec.ofNat 64 (t.pos.pc.toNat % 2 ^ 57)
                   pos := { pc := lh.entryAt lh.preempt, word := 0 }, since := s.clock }))) ∧
    -- PREEMPT_REQ of a thread that waits: the wait is withdrawn, with its arrivals at masks, and its unit is where the
    -- thread goes on
    (∀ place lane w ws,
      let t := s.thread core place lane
      let lh := (s.launchOf core place).hdr
      let withdrawn := s.modGroup core place fun g => { g with
        arrived := g.arrived.mapVals fun k x =>
          if t.waits.any fun w => decide (w.kind = .waitm k) then x &&& ~~~ BitVec.ofNat 32 (2 ^ lane) else x }
      t.waits = w :: ws → s.preemptible core place lane = true →
      (lh.preempt = 0 → exec (.preemptReq core place lane) s = .next (withdrawn.modThread core place lane fun x =>
        { x with preempt := false, pos := w.at_, waits := [{ at_ := w.at_, kind := .forcedSave }] })) ∧
      (lh.preempt ≠ 0 → exec (.preemptReq core place lane) s = .next (withdrawn.modThread core place lane fun x =>
        { x with preempt := false, waits := [], handler := .preempt, trapCause := 0x30, trapPc := w.at_.pc, trapWord := 0
                 trapAddr := 0, trapUnit := w.at_.pc, trapRes := w.at_.res
                 pos := { pc := lh.entryAt lh.preempt, word := 0 }, since := s.clock }))) ∧
    -- FORCED_SAVE
    (∀ w, (s.wg w).preempt = none → exec (.forcedSave task w) s = .next s) ∧
    -- with a carve-out, every workgroup of the core is saved together, and the first takes the copy of the carve-out
    (∀ w t, (s.wg w).preempt = some t → (s.wg w).task = task → (s.wg w).st = .running → h.det = false →
      s.cur.active = false → h.preempt = 0 ∨ t + 40000 ≤ s.timeNs → (s.core (s.wg w).core).carve ≠ 0 →
      let others := (s.coreWgs (s.wg w).core []).filter fun x => decide (x ≠ w)
      let save (v : State) (x : Nat) (first : Bool) : State :=
        match v.ctxFree (unitsOf (v.launch (v.wg x).task).hdr.fullBytes) with
        | none => v
        | some u => v.saveFull x (u * 65536 + v.ctxBase) first
      ((∀ x ∈ w :: others, s.wgQuiet x = true) →
        exec (.forcedSave task w) s = .next (others.foldl (fun v x => save v x false) (save s w true))) ∧
      ((∃ x ∈ w :: others, s.wgQuiet x = false) → exec (.forcedSave task w) s = .next s)) ∧
    (∀ w t, (s.wg w).preempt = some t → (s.wg w).task = task → (s.wg w).st = .running → h.det = false →
      s.cur.active = false → h.preempt = 0 ∨ t + 40000 ≤ s.timeNs → s.wgQuiet w = true →
      (s.core (s.wg w).core).carve = 0 →
      (s.ctxFree (unitsOf h.fullBytes) = none → exec (.forcedSave task w) s = .next s) ∧
      ∀ u, s.ctxFree (unitsOf h.fullBytes) = some u →
        exec (.forcedSave task w) s = .next (s.saveFull w (u * 65536 + s.ctxBase) false)) ∧
    -- CONTEXT_RESTORE
    ((s.task task).phase ≠ 3 ∨ l.stopped = true ∨ s.coreCount ≤ core → exec (.contextRestore task core) s = .next s) ∧
    (∀ id i spot, s.boot = .running → (s.task task).phase = 3 → l.stopped = false → core < s.coreCount →
      s.savedImages task = [(id, i)] → s.badGeometry i = false → l.refused = [] → i.carve = none → i.core / 72 = core / 72 →
      l.mayRunOn (s.wg i.wg).number (core / 72) = true → s.wgDrained i.wg = true →
      let u := s.modLaunch task fun l => { l with refused := [] }
      u.reserveAllows core task = true → u.anySpot core i.task (s.wg i.wg).base [] = some spot →
      -- the workgroup is back; accesses that its threads wait for may have performed meanwhile
      let v := ((spot.places.foldl (fun v p => v.afterAccess core p)
        (({ u.putImage i core spot with images := s.images.erase id } : State).modWg i.wg fun x =>
          { x with st := if ∃ g ∈ i.groups, g.2.live ≠ [] then .running else .ended }))).modLaunch task fun l =>
            { l with refused := [] }
      (h.coop = false → h.det = false → exec (.contextRestore task core) s = .next v) ∧
      -- the last of a launch whose workgroups go together
      (h.coop = true ∨ h.det = true → (h.det = true → ∀ w ∈ u.coreWgs core [], (u.wg w).task ≠ task) →
        (∀ y ∈ s.wgs, y.2.task = task → y.2.preempt = none ∧ s.waveDue y.1 = false ∧ ∀ x ∈ s.images, x.2.wg = y.1 → x.2.manual = false) →
        (l.startable ≤ l.nextWg → exec (.contextRestore task core) s = .next (v.launchGo task)) ∧
        (l.nextWg < l.startable → exec (.contextRestore task core) s =
          .next (v.modLaunch task fun l => { l with go := false })))) ∧
    -- LAUNCH_WATCHDOG
    ((s.task task).phase ≠ 3 ∨ h.watchdog = 0 ∨ s.runTime l ≤ h.watchdog * 1000 →
      exec (.launchWatchdog task) s = .next s) ∧
    ((s.task task).phase = 3 → l.stopped = false → l.watchdog = false → h.watchdog ≠ 0 →
      h.watchdog * 1000 < s.runTime l → exec (.launchWatchdog task) s = .next ((s.runningWgs task).foldl
        (fun s w => s.watchdogWg w 1) (s.modLaunch task fun l => { l with watchdog := true }))) ∧
    -- DIESET_CHANGE
    (∀ add, l.elastic = false ∨ l.stopped = true ∨ s.stepHeld task = false →
      exec (.diesetChange task add) s = .next s) ∧
    (l.elastic = true → l.stopped = false → l.go = true → s.stepHeld task = true →
      (l.dieset = 3 → exec (.diesetChange task true) s = .next (s.stepComplete task)) ∧
      (l.dieset = 1 → exec (.diesetChange task false) s = .next (s.stepComplete task)) ∧
      (l.dieset = 1 → s.dies = 2 → ∀ u, s.addDie task = some u →
        exec (.diesetChange task true) s = .next (u.stepComplete task)) ∧
      (l.dieset = 3 → ∀ u, s.dropDie task = some u →
        exec (.diesetChange task false) s = .next (u.stepComplete task)) ∧
      (s.addDie task = none → exec (.diesetChange task true) s = .next (s.stepComplete task)) ∧
      (s.dropDie task = none → exec (.diesetChange task false) s = .next (s.stepComplete task)))

/-- R341 to R345, R352: a packet takes the next link of its path, those of one core and class to one module in their
order; another module's packet is lost at a link that is down, this module's own waits. The failure of a link moves the
routes whose path uses it; the failure of a module ends the requests to it and its collectives, and maps its number to
the spare. A remote signal raises its counter or decrements its task, once, and is acknowledged (the bytes of the packet
are the model's, log 18; so is the name of a link of another module, log 80). The model's readings (log 52): another
module's packet is lost at a dead link, the spare takes the failed module's number, and a signal's word is added to as a
PGREQ's is. -/
def Obligations.FabricEvents : Prop :=
  ∀ s : State,
    -- PACKET_FORWARD
    (∀ p : Packet, p.src = s.dev.toNat → p.hops = 0 →
      let e := s.routes.get 0 p.dst
      let path := pathOf e (selOf e)
      let link := hopLink path 0
      let next := ∃ before rest, s.packets = before ++ p :: rest ∧
        ∀ q ∈ before, ¬ (q.src = p.src ∧ q.core = p.core ∧ q.dst = p.dst ∧ q.vc % 2 = p.vc % 2)
      (¬ next → exec (.packetForward p) s = .next s) ∧
      (next → p.dst = s.dev.toNat ∨ e.getLsbD 0 = true ∨ e.getLsbD 52 = false ∨ hopCount path = 0 →
        exec (.packetForward p) s = .next (lost s p)) ∧
      (next → p.dst ≠ s.dev.toNat → e.getLsbD 0 = false → e.getLsbD 52 = true → 0 < hopCount path →
        ([link] ∈ s.linksDown → exec (.packetForward p) s = .next s) ∧
        ([link] ∉ s.linksDown → exec (.packetForward p) s =
          .next (leaves s p link { p with hops := 1, vc := p.vc % 2, path })))) ∧
    (∀ p : Packet, p.src ≠ s.dev.toNat ∨ p.hops ≠ 0 →
      let link := hopLink p.path p.hops
      (p.dst = s.dev.toNat ∨ (s.routes.get 0 p.dst).getLsbD 0 = true ∨ 2 < p.hops ∨ hopCount p.path ≤ p.hops ∨
        [link] ∈ s.linksDown → exec (.packetForward p) s = .next (lost s p)) ∧
      (p.dst ≠ s.dev.toNat → (s.routes.get 0 p.dst).getLsbD 0 = false → p.hops ≤ 2 → p.hops < hopCount p.path →
        [link] ∉ s.linksDown → exec (.packetForward p) s =
          .next (leaves s p link { p with hops := p.hops + 1, vc := 2 * p.hops + p.vc % 2 }))) ∧
    -- LINK_FAILURE
    (∀ links, links = [] ∨ 3 < links.length ∨ (∃ l ∈ links, 32 ≤ l) ∨ links ∈ s.linksDown →
      exec (.linkFailure links) s = .next s) ∧
    (∀ links, links ≠ [] → links.length ≤ 3 → (∀ l ∈ links, l < 32) → links ∉ s.linksDown →
      let u : State := { s with linksDown := links :: s.linksDown }
      let linksOf (e : Dword) (k : Nat) : List Nat := (List.range (hopCount (pathOf e k))).map (hopLink (pathOf e k))
      let usable (e : Dword) (k : Nat) : Prop := hopCount (pathOf e k) ≠ 0 ∧ ∀ d ∈ u.linksDown, ¬ d <+: linksOf e k
      ((∀ r ∈ s.routes, r.2.getLsbD 0 = true ∨ r.2.getLsbD 52 = false ∨ ¬ links <+: linksOf r.2 (selOf r.2)) →
        exec (.linkFailure links) s = .next u) ∧
      ∀ m e, s.routes = [(m, e)] → e.getLsbD 0 = false → e.getLsbD 52 = true → links <+: linksOf e (selOf e) →
        let next := (selOf e + 1) % 3
        let last := (selOf e + 2) % 3
        (usable e next → exec (.linkFailure links) s =
          .next (({ u with routes := [(m, putBits e 54 53 next)] } : State).resendTo m)) ∧
        (¬ usable e next → usable e last → exec (.linkFailure links) s =
          .next (({ u with routes := [(m, putBits e 54 53 last)] } : State).resendTo m)) ∧
        (¬ usable e next → ¬ usable e last → exec (.linkFailure links) s =
          .next (({ u with routes := [(m, putBits e 52 52 0)] } : State).timeOutTo m))) ∧
    -- what is sent again: each request to the module that is not acknowledged, before anything else of its class
    (∀ m id q, s.sent = [(id, q)] → q.dst = m →
      ((s.remotes.find? id).isSome = true → s.resendTo m = { s with
        packets := q :: s.packets.filter fun p => decide (p ≠ q) }) ∧
      (s.remotes.find? id = none → (∀ o ∈ s.ops, o.id ≠ id) → s.resendTo m = s)) ∧
    -- MODULE_FAILURE
    (∀ failed spare, 320 ≤ failed ∨ failed = s.dev.toNat → exec (.moduleFailure failed spare) s = .next s) ∧
    (∀ failed spare, failed < 320 → failed ≠ s.dev.toNat → (∀ r ∈ s.remotes, r.2.target ≠ failed) →
      let ended (o : EngOp) : EngOp :=
        if s.collOf failed o = true then
          { o with err := if o.err = 0 then 9 else o.err, started := true, done := true, park := none, remote := none }
        else o
      let spareOk := spare < 320 ∧ spare ≠ failed ∧ (s.routes.get 0 spare).getLsbD 52 = true
      let u : State := { s with ops := s.ops.map ended, heard := s.heard.filter fun x => decide (x.1 ≠ failed) }
      (spareOk → exec (.moduleFailure failed spare) s = .next { u with
        routes := s.routes.set failed (s.routes.get 0 spare)
        failed := s.failed.filter fun m => decide (m ≠ failed) }) ∧
      (¬ spareOk → exec (.moduleFailure failed spare) s = .next { u with
        routes := s.routes.set failed (putBits (s.routes.get 0 failed) 52 52 0)
        failed := failed :: s.failed.filter fun m => decide (m ≠ failed) })) ∧
    -- RSIG_ARRIVAL
    ∀ r : RsigMsg,
      let task := r.target.toNat % 2 ^ 18
      let name := (r.src, r.seq, false)
      let h : State := { s with
        heard := name :: s.heard
        packets := s.packets ++ [{ src := s.dev.toNat, dst := r.src, hops := 0, vc := 1, path := 0
                                   payload := leBytes 8 r.seq }] }
      (name ∈ s.heard → exec (.rsigArrival r) s = .next s) ∧
      (name ∉ s.heard → r.kind ≠ 0 → s.inRange r.asid task = true → exec (.rsigArrival r) s = .next { h with
        decs := s.decs ++ [{ task, amount := r.operand.setWidth 32, err := r.operand.getLsbD 62 }] }) ∧
      (name ∉ s.heard → r.kind ≠ 0 → s.inRange r.asid task = false → exec (.rsigArrival r) s = .next (ignored h)) ∧
      ∀ t loc, name ∉ s.heard → r.kind = 0 →
        let x := r.operand &&& 0x7FFFFFFFFFFFFFFF#64
        let ea := if r.target.getLsbD 56 then
          BitVec.ofNat 64 (r.target.toNat / 2 ^ 60 * 2 ^ 60 + r.target.toNat % 2 ^ 47) else r.target
        let o : EngOp := { id := s.nextId, kind := .pgreq, asid := r.asid, target := ea, task := 2 ^ 32,
                           blk := leBytes 8 x.toNat }
        DeviceMay { h with ops := s.ops ++ [o], nextId := s.nextId + 1 } t 0 r.asid ea 8 deviceWord loc →
        exec (.rsigArrival r) s = .next (((raised t loc.pa x).dropOp s.nextId).stamp 0)

/-- R124, R252, R257, R284, R307, R317, R340, R341, R343, R346, R353, R356, R360, R368, R376, R379: the host reads and
writes memory at the homes of its lines; the mailboxes hand a message over with a bit of MBX_DB; a register of BAR 0
takes the bits that it has; firmware loads its tables; NUMI_STAT loses the bits that are written as one; and a quiesced
halt completes, or fails when its time is over. The model's choices: firmware's tables are loaded by REGISTER_WRITE (log
17); and log 53 settles MBX_DB, accesses that meet an open region, and pieces that no memory backs. -/
def Obligations.HostEvents : Prop :=
  ∀ s : State,
    -- HOST_MEMORY_WRITE and HOST_MEMORY_READ
    (∀ pa data, s.boot ≠ .running ∨ s.hostMay pa.toNat data.length true = false →
      exec (.hostMemoryWrite pa data) s = .next s) ∧
    (∀ pa n, s.boot ≠ .running ∨ s.hostMay pa.toNat n false = false → exec (.hostMemoryRead pa n) s = .next s) ∧
    (∀ (pa : BitVec 52) n, s.boot = .running → n ∈ [1, 2, 4, 8, 16] → pa.toNat % n = 0 →
      (∀ data, data.length = n → s.hostMay pa.toNat n true = true → exec (.hostMemoryWrite pa data) s =
        .next (if s.populated pa.toNat then s.writeAt pa.toNat data else s)) ∧
      (s.hostMay pa.toNat n false = true → ∃ bs : List Byte, bs.length = n ∧
        exec (.hostMemoryRead pa n) s = .next { s.agentTouch pa.toNat n with hostRead := bs, free := s.free + n } ∧
        (s.populated pa.toNat = false → bs = List.replicate n 0) ∧
        -- what holds no poison is read as it is
        (s.populated pa.toNat = true → (s.place pa.toNat ≠ .window → s.poisoned pa.toNat n = false) →
          (s.place pa.toNat = .window →
            ∀ c, s.windowCore (windowOf pa.toNat) = some c → s.windowPoisoned (windowOf pa.toNat) c n = false) →
          bs = s.readAt pa.toNat n))) ∧
    -- the mailboxes and NUMI_STAT
    (∀ msg, exec (.mailboxInDoorbell msg) s = .next { s with
      mbxIn := (msg ++ List.replicate 2048 0).take 2048, mbxDb := s.mbxDb ||| 1 }) ∧
    (∀ msg, exec (.mailboxOutPost msg) s = .next { s with
      mbxOut := (msg ++ List.replicate 2048 0).take 2048, mbxDb := s.mbxDb ||| 2, msix := s.msix ++ [3] }) ∧
    (∀ val, ∃ x : Dword, exec (.mailboxOutAck val) s = .next { s with mbxDb := x } ∧
      x.getLsbD 0 = val.getLsbD 0 ∧ x.getLsbD 1 = (s.mbxDb.getLsbD 1 && !val.getLsbD 1) ∧ x.toNat < 4) ∧
    (∀ val core, s.boot ≠ .running → exec (.numiStatClear val) s = .next s ∧ exec (.debugRequest core) s = .next s) ∧
    (∀ val, s.boot = .running → ∃ x : Dword, exec (.numiStatClear val) s = .next { s with numiStat := x } ∧
      ∀ i, x.getLsbD i = (s.numiStat.getLsbD i && !(decide (i = 62 ∨ i = 63) && val.getLsbD i))) ∧
    -- DEBUG_REQUEST
    (∀ core, s.coreCount ≤ core → exec (.debugRequest core) s = .next s) ∧
    (∀ core, s.boot = .running → core < s.coreCount → exec (.debugRequest core) s = .next
      ((s.setCore core { s.core core with dbgCtl := (s.core core).dbgCtl &&& 1 }).shoot 2 none)) ∧
    -- HALT_QUIESCE_COMPLETE and HALT_QUIESCE_TIMEOUT
    (∀ core,
      let k := s.core core
      let waits := k.halted = true ∧ k.haltQuiesce = true ∧ k.quiesced = false
      (¬ waits → exec (.haltQuiesceComplete core) s = .next s ∧ exec (.haltQuiesceTimeout core) s = .next s) ∧
      (waits → s.timeNs ≤ k.haltBy → exec (.haltQuiesceTimeout core) s = .next s ∧
        (s.inflight core = 0 → exec (.haltQuiesceComplete core) s =
          .next ((s.setCore core { k with quiesced := true }).haltTell core true)) ∧
        (s.inflight core ≠ 0 → exec (.haltQuiesceComplete core) s = .next s)) ∧
      (waits → k.haltBy < s.timeNs → exec (.haltQuiesceComplete core) s = .next s ∧
        exec (.haltQuiesceTimeout core) s =
          .next ((s.setCore core { k with haltQuiesce := false, haltFail := true }).haltTell core false))) ∧
    -- REGISTER_WRITE: BAR 0
    (∀ o x, o % 8 ≠ 0 ∨ (s.boot ≠ .running ∧ (o < 0x8000 ∨ 0x9000 < o)) →
      exec (.registerWrite (.bar0 o x)) s = .next s) ∧
    (s.boot = .running → ∀ x : Dword,
      exec (.registerWrite (.bar0 0x1000 x)) s = .next { s with htsTbase := x &&& 0x000FFFFFFFFFFF80#64 } ∧
      exec (.registerWrite (.bar0 0x1008 x)) s = .next { s with htsTsz := x &&& 0x7FFFF#64 } ∧
      exec (.registerWrite (.bar0 0x1010 x)) s = .next { s with htsRes := x &&& 0xFFFF#64 } ∧
      exec (.registerWrite (.bar0 0x1018 x)) s = .next { s with htsCtx := x &&& 0x000FFFFFFFFFF000#64 } ∧
      exec (.registerWrite (.bar0 0x1020 x)) s = .next { s with htsCtxsz := x &&& 0xFFFFFFFF#64 } ∧
      exec (.registerWrite (.bar0 0x1028 x)) s = .next { s with htsIgn := x &&& 0xFFFFFFFF#64 } ∧
      (∀ m, m < 320 →
        let e := x &&& 0x007FFFFFFFFFFFFF#64
        let u : State := { s with routes := s.routes.set m e }
        exec (.registerWrite (.bar0 (0x40000 + 8 * m) x)) s =
          .next (if selOf (s.routes.get 0 m) = selOf e then u else u.resendTo m)) ∧
      (∀ g o, g < 256 → o < 1024 → o % 8 = 0 → ∃ b : List Byte,
        exec (.registerWrite (.bar0 (0x80000 + 1024 * g + o) x)) s = .next { s with groups := s.groups.set g b } ∧
        ∀ i, blkNat b i 1 =
          if i = 2 ∨ i = 3 ∨ 644 ≤ i then 0
          else if o ≤ i ∧ i < o + 8 then x.toNat / 2 ^ (8 * (i - o)) % 256
          else blkNat (s.groups.get [] g) i 1) ∧
      (∀ a, a < 65536 → exec (.registerWrite (.bar0 (0x100000 + 8 * a) x)) s =
        .next { s with htsRange := s.htsRange.set a (x &&& 0x8003FFFF0003FFFF#64) }) ∧
      (∀ d, d < s.dies → exec (.registerWrite (.bar0 (0x10000 + 0x10000 * d) x)) s =
        .next { s with gatherers := s.gatherers.set d { s.gatherer d with ctl := x &&& 0x000FFFFFFFFFFFC0#64 } } ∧
        exec (.registerWrite (.bar0 (0x10008 + 0x10000 * d) x)) s =
        .next { s with gatherers := s.gatherers.set d { s.gatherer d with win := x &&& 0xFF3F#64 } })) ∧
    -- REGISTER_WRITE: firmware's
    (∀ x, exec (.registerWrite (.poolEnd x)) s = .next { s with poolEnd := x &&& 0x000FFFFFFFFF0000#64 }) ∧
    exec (.registerWrite .mailboxTaken) s = .next { s with mbxDb := s.mbxDb &&& 2 } ∧
    (∀ i bytes, exec (.registerWrite (.pool i bytes)) s = .next
      (if i < 256 then { s with pools := s.pools.set i ((bytes ++ List.replicate 64 0).take 64) } else s)) ∧
    (∀ a r, exec (.registerWrite (.asidRoot a (some r))) s = .next { s with asidRoot := s.asidRoot.set a.toNat r }) ∧
    (∀ a, exec (.registerWrite (.asidRoot a none)) s = .next { s with asidRoot := s.asidRoot.erase a.toNat }) ∧
    (∀ f code, f < 16 → exec (.registerWrite (.hac f (some code))) s = .next { s with hac := s.hac.set f code } ∧
      exec (.registerWrite (.hac f none)) s = .next { s with hac := s.hac.erase f }) ∧
    (∀ f code, 16 ≤ f → exec (.registerWrite (.hac f code)) s = .next s) ∧
    (∀ a (page : BitVec 41) frame, exec (.registerWrite (.replica a page frame)) s =
      .next { s with replica := s.replica.set (a.toNat * 2 ^ 41 + page.toNat) (frame / 65536 * 65536) }) ∧
    (∀ i (row : ModelRow),
      let m : Model := { valid := row.valid, vocab := row.vocab, template := row.template, pool := row.pool,
                         inBase := row.inBase, inSlots := row.inSlots, inCap := row.inCap, asid := row.asid }
      exec (.registerWrite (.model i row)) s = .next (if i < 256 then { s with models := s.models.set i m } else s)) ∧
    (∀ i m, exec (.registerWrite (.prefixMap i m)) s =
      .next (if i < 512 ∧ m < 320 then { s with pfxMap := s.pfxMap.set i m } else s)) ∧
    (∀ n, exec (.registerWrite (.dev n)) s = .next (if n < 320 then { s with dev := BitVec.ofNat 32 n } else s)) ∧
    (∀ bytes version signed, exec (.registerWrite (.flash bytes version signed)) s =
      .next { s with flash := { bytes, version, signed } }) ∧
    ∀ n signed, exec (.registerWrite (.rollback n signed)) s = .next
      (if s.boot = .running ∧ signed = true then { s with fusedCounter := max s.fusedCounter n } else s)

/-- R355 to R360, R363, R364, R367, R368: a port with an enabled ring takes connections and their messages, as long as
they fit; the tokeniser takes the oldest record, and refuses it with its code or makes it a request; the posts of a
session become text, which is sent when 1 KiB of it is complete, when its oldest byte is 20 µs old, or at the end. A
model is enabled when its vocabulary passes the check. The model's readings: a log of length 0, a chunk of all that may
be sent, and what a vocabulary is refused for (log 54); what goes with a dropped post (log 49). -/
def Obligations.TextEvents : Prop :=
  ∀ (s : State) (port : Nat),
    let p := s.port port
    (s.hasPort port = false → (∀ conn b, exec (.ueConnectionSetup port conn b) s = .next s) ∧
      (∀ v, exec (.ueRingEnable port v) s = .next s) ∧ (∀ conn msg, exec (.ueMessageReceive port conn msg) s = .next s) ∧
      (∀ v, exec (.tkeLogWrite port v) s = .next s) ∧ exec (.tkeRecord port) s = .next s) ∧
    (s.hasPort port = true →
      -- UE_RING_ENABLE and TKE_LOG_WRITE
      (∀ v : BitVec 64, exec (.ueRingEnable port v) s = .next (s.setPort port
        (if p.ring.getLsbD 0 = false ∧ v.getLsbD 0 = true then
          { p with ring := v &&& 0x000FFFFFFFC00001#64, wptr := 0, rptr := 0, park := none, failed := false,
                   atHeader := false, reserved := none }
        else { p with ring := v &&& 0x000FFFFFFFC00001#64 }))) ∧
      (∀ v : BitVec 64, exec (.tkeLogWrite port v) s = .next (s.setPort port
        { p with logBase := v &&& 0x000FFFFFFFFFF000#64, logN := p.logN &&& 0xFFFFFFFF#64 })) ∧
      -- UE_CONNECTION_SETUP
      (∀ conn b, p.ring.getLsbD 0 = true → conn ∉ p.conns → p.conns.length < 4096 →
        exec (.ueConnectionSetup port conn b) s =
          .next (if b then s.setPort port { p with conns := p.conns ++ [conn] } else s)) ∧
      -- UE_MESSAGE_RECEIVE: send and receive only
      (∀ conn msg, conn ∉ p.conns → exec (.ueMessageReceive port conn msg) s = .next s) ∧
      (∀ conn, conn ∈ p.conns → ∀ msg ∈ [UeMsg.read, .write, .atomic],
        exec (.ueMessageReceive port conn msg) s = .next (s.setPort port { p with refused := p.refused ++ [conn] })) ∧
      (∀ conn (msg : List Byte), p.ring.getLsbD 0 = true → conn ∈ p.conns →
        let used := (p.wptr - p.rptr).toNat
        let takes (trunc : Byte) (body : List Byte) : Prop := exec (.ueMessageReceive port conn (.send msg)) s =
          .next ((s.ringPut p.base p.wptr.toNat (leBytes 4 msg.length ++ leBytes 4 conn.toNat ++ [trunc] ++
            List.replicate 7 0 ++ body)).setPort port
              { p with wptr := p.wptr + BitVec.ofNat 32 ((16 + body.length + 63) / 64 * 64) })
        (msg.length ≤ 0x100000 → used + 16 + msg.length ≤ 0x400000 → takes 0 msg) ∧
        (msg.length ≤ 0x100000 → 0x400000 < used + 16 + msg.length →
          exec (.ueMessageReceive port conn (.send msg)) s = .next s) ∧
        (0x100000 < msg.length → used + 16 ≤ 0x400000 → takes 1 [])) ∧
      -- TKE_RECORD
      (s.capUnits.getLsbD 0 = false ∨ p.wptr = p.rptr ∨ p.park ≠ none → exec (.tkeRecord port) s = .next s) ∧
      (s.capUnits.getLsbD 0 = true → p.wptr ≠ p.rptr → p.park = none →
        let r := s.tkeHead p
        (p.logN.toNat % 2 ^ 16 = 0 → (r.code ≠ 0 → exec (.tkeRecord port) s = .next (refusedRecord s port r r.code)) ∧
          (r.code = 0 → p.failed = true → p.atHeader = false →
            exec (.tkeRecord port) s = .next (refusedRecord s port r 9)) ∧
          ∀ k, r.code = 0 → p.failed = false → tkeRequest port r false s = .error (.code k) →
            exec (.tkeRecord port) s = .next (refusedRecord s port r k)) ∧
        (∀ u, r.code = 0 → p.failed = false → tkeRequest port r false s = .ok (u, ()) →
          exec (.tkeRecord port) s = .next (u.setPort port { u.port port with
            rptr := (u.port port).rptr + BitVec.ofNat 32 (recordBytes (if r.trunc then 0 else r.len))
            failed := false, atHeader := false, reserved := none })) ∧
        -- while an access waits, a request whose reservation is made keeps it
        ∀ die asid ea bad header x, r.code = 0 → p.failed = false →
          tkeRequest port r false s = .error (.park die asid ea bad header) →
          (∃ u v, tkeReserve port r s = .ok (u, x, v)) → ∃ t, exec (.tkeRecord port) s = .next t ∧
            t.port port = { p with park := (t.port port).park, atHeader := header, reserved := some x })) ∧
    -- what one port has reserved is given to nobody else
    (∀ q x, (s.port q).reserved = some x → s.freeSeq ≠ some x.seq ∧ (∀ range, s.freeRecord range ≠ some x.task) ∧
      ∀ r y v, let m := s.models.get {} (blkNat r.msg 6 2)
        p.reserved = none → tkVocab (port / 2) m.asid m.vocab.toNat s = .ok (s, v) →
        tkeReserve port r s = .ok (s, y, v) → y.seq ≠ x.seq ∧ y.task ≠ x.task ∧ (y.model = x.model → y.slot ≠ x.slot)) ∧
    -- DKE_POST
    ((∀ y ∈ p.sessions, y.2.posts = [] ∨ y.2.park ≠ none) → exec (.dkePost port) s = .next s) ∧
    -- the post that was made first of those of the port's sessions
    (∀ slot y id last rest, (slot, y) ∈ p.sessions → y.posts = (id, last) :: rest → y.park = none →
      (∀ z ∈ p.sessions, z ≠ (slot, y) → z.2.posts = [] ∨ z.2.park ≠ none ∨ y.order.headD 0 < z.2.order.headD 0) →
      let y' : Session := { y with posts := rest, order := y.order.drop 1 }
      (y.ended = true → exec (.dkePost port) s = .next ((postTaken s port slot y').dkeDrop port)) ∧
      (y.ended = false → y.failed = true →
        exec (.dkePost port) s = .next ((replied s y 2 9 []).endSession slot y')) ∧
      (∀ u, y.ended = false → y.failed = false →
        tkPosted (port / 2) (s.models.get {} y.model) id s = .ok (u, none) →
        exec (.dkePost port) s = .next ((postTaken u port slot y').dkeDrop port)) ∧
      ∀ u bs, y.ended = false → y.failed = false → y.port = port →
        tkPosted (port / 2) (s.models.get {} y.model) id s = .ok (u, some bs) →
        let z : Session := { y' with pendingBytes := y.pendingBytes ++ bs, posted := y.posted + 1,
                                     stamps := y.stamps ++ List.replicate bs.length u.timeNs }
        (last = true ∨ y.maxtok ≤ y.posted + 1 → exec (.dkePost port) s = .next ((replied u z 1 (if last then 0 else 1)
          (z.sendable.1 ++ z.sendable.2.flatMap fun _ => [0xEF, 0xBF, 0xBD])).endSession slot z)) ∧
        (last = false → y.posted + 1 < y.maxtok → z.sendable.1.length < 1024 →
          exec (.dkePost port) s = .next (postTaken u port slot z)) ∧
        (last = false → y.posted + 1 < y.maxtok → 1024 ≤ z.sendable.1.length → exec (.dkePost port) s =
          .next (postTaken (replied u z 0 0 z.sendable.1) port slot
            { z with pendingBytes := z.sendable.2, stamps := z.stamps.drop (z.stamps.length - z.sendable.2.length) }))) ∧
    -- DKE_CHUNK_TIMEOUT
    (∀ slot, p.sessions.find? slot = none → exec (.dkeChunkTimeout port slot) s = .next s) ∧
    (∀ slot y, p.sessions.find? slot = some y →
      (y.ended = true ∨ y.sendable.1 = [] ∨ s.timeNs < y.stamps.headD s.timeNs + 20000 →
        exec (.dkeChunkTimeout port slot) s = .next s) ∧
      (y.ended = false → y.sendable.1 ≠ [] → y.stamps.headD s.timeNs + 20000 ≤ s.timeNs → y.port = port →
        exec (.dkeChunkTimeout port slot) s = .next (postTaken (replied s y 0 0 y.sendable.1) port slot
          { y with pendingBytes := y.sendable.2, stamps := y.stamps.drop (y.stamps.length - y.sendable.2.length) }))) ∧
    -- MODEL_ENABLE
    ∀ model,
      let m := s.models.get {} model
      (s.capUnits.getLsbD 0 = false ∨ m.valid = false ∨ m.park ≠ none → exec (.modelEnable model) s = .next s) ∧
      (s.capUnits.getLsbD 0 = true → m.valid = true → m.park = none →
        (m.failed = true → exec (.modelEnable model) s =
          .next { s with models := s.models.set model { m with enabled := false, failed := false } }) ∧
        (∀ u b, m.failed = false → tkCheck 0 m.asid m.vocab.toNat s = .ok (u, b) → exec (.modelEnable model) s =
          .next { u with models := u.models.set model { m with enabled := b } }) ∧
        ∀ k, m.failed = false → tkCheck 0 m.asid m.vocab.toNat s = .error (.code k) → exec (.modelEnable model) s =
          .next { s with models := s.models.set model { m with enabled := false } })

/-- R369 to R374, R376, R378: a corrected error goes to the collector and changes no value; the collector folds it into
the newest entry, or appends an entry whose chain holds the digest of the one before, and counts what comes once the
journal is full; a checkpoint follows each 4,096 entries, and the last entry that fits sets FULL and raises vector 1. An
uncorrectable error poisons its line or register and raises vector 2. Losing power writes the buffer of the journal. The
clock is one of the steps of 75 MHz. A report holds the nonce, three digests, the part, the counter, the time and the
signature. The layout of the report and SHA-256 are presumed (log 15); COUNT 1 of a first correction and the steps of
the clock are the model's readings (log 55). -/
def Obligations.ManagementEvents : Prop :=
  ∀ s : State,
    let j := s.journal
    (∀ unit loc synd, exec (.eccCorrection unit loc synd) s = .next { s with journal := { j with
      incoming := j.incoming ++ [{ clock := s.clock, time := s.timeNs, unit, loc, synd }] } }) ∧
    -- JOURNAL_APPEND
    (j.incoming = [] → exec .journalAppend s = .next s) ∧
    (∀ c, j.incoming = [c] →
      (j.fullBit = true → exec .journalAppend s = .next { s with journal := { j with
        incoming := [], lost := if j.lost = 0xFFFFFFFF then j.lost else j.lost + 1 } }) ∧
      (∀ e es, j.fullBit = false → j.buffer = es ++ [e] → blkNat e 20 8 = c.loc.toNat → blkNat e 28 8 = c.synd.toNat →
        c.time ≤ blkNat e 0 8 + 1000000000 → blkNat e 0 8 ≤ c.time + 1000000000 → exec .journalAppend s = .next { s with journal := { j with
          incoming := []
          buffer := es ++ [putBytes e 36 (leBytes 4 (min 0xFFFFFFFF (blkNat e 36 4 + 1)))] } }) ∧
      (∀ prev, j.fullBit = false →
        (j.buffer = [] ∧ j.flash = [] ∧ prev = List.replicate 16 0) ∨
        (∃ e es, j.buffer = es ++ [e] ∧ prev = (sha256 e).take 16 ∧ ¬ (blkNat e 20 8 = c.loc.toNat ∧
          blkNat e 28 8 = c.synd.toNat ∧ c.time ≤ blkNat e 0 8 + 1000000000 ∧
          blkNat e 0 8 ≤ c.time + 1000000000)) ∨
        (∃ e es, j.buffer = [] ∧ j.flash = es ++ [e] ∧ prev = (sha256 e).take 16) →
        let e := leBytes 8 c.time ++ leBytes 8 j.next ++ leBytes 4 c.unit.toNat ++ leBytes 8 c.loc.toNat ++
          leBytes 8 c.synd.toNat ++ leBytes 4 1 ++ prev ++ leBytes 8 0
        -- the oldest entry of a full buffer goes to flash
        let r := if j.buffer.length < 256 then j
          else { j with flash := j.flash ++ j.buffer.take 1, buffer := j.buffer.drop 1 }
        (j.next % 4096 ≠ 0 ∨ j.next = 0 → j.next + 1 ≠ 245760 → exec .journalAppend s =
          .next { s with journal := { r with incoming := [], next := j.next + 1, buffer := r.buffer ++ [e] } }) ∧
        (j.next % 4096 = 0 → j.next ≠ 0 →
          let body := leBytes 8 j.next ++ leBytes 8 c.time ++ sha256 e
          exec .journalAppend s = .next { s with journal := { r with
            incoming := [], next := j.next + 1, flash := r.flash ++ (r.buffer ++ [e]), buffer := []
            checkpoints := j.checkpoints ++
              [body ++ ((List.range 64).map fun i => Config.identitySignature body i) ++ leBytes 16 0] } }) ∧
        (j.next + 1 = 245760 → exec .journalAppend s = .next { s with
          msix := s.msix ++ [1]
          journal := { r with incoming := [], next := j.next + 1, flash := r.flash ++ (r.buffer ++ [e]), buffer := []
                              fullBit := true } }))) ∧
    -- UNCORRECTABLE_ERROR
    (∀ pa : BitVec 52, exec (.uncorrectableError (.line pa)) s = .next { s with
      msix := s.msix ++ [2]
      poison := pa.toNat / 64 :: s.poison.filter fun x => decide (x ≠ pa.toNat / 64) }) ∧
    (∀ core place lane n, exec (.uncorrectableError (.vreg core place lane n)) s =
      .next { s.modThread core place lane (fun t => { t with poison := n :: t.poison.filter fun x => decide (x ≠ n) }) with
        msix := s.msix ++ [2] }) ∧
    (∀ core place n, exec (.uncorrectableError (.sreg core place n)) s =
      .next { s.modGroup core place (fun g => { g with poison := n :: g.poison.filter fun x => decide (x ≠ n) }) with
        msix := s.msix ++ [2] }) ∧
    (∀ core off, exec (.uncorrectableError (.spad core off)) s =
      .next { s.setCore core { s.core core with
          poison := off / 64 :: (s.core core).poison.filter fun x => decide (x ≠ off / 64) } with
        msix := s.msix ++ [2] }) ∧
    -- a row of a slot; the poison of a tile's rows stands after its 4,096 words (log 55)
    (∀ core n row, let x := (s.core core).slots.get {} n
      exec (.uncorrectableError (.slotRow core n row)) s =
        .next { s.setCore core { s.core core with slots := (s.core core).slots.set n { x with
            poison := row :: x.poison.filter fun y => decide (y ≠ row) } } with
          msix := s.msix ++ [2] }) ∧
    (∀ core tile row, ∃ u : State, exec (.uncorrectableError (.tileRow core tile row)) s =
        .next { u with msix := s.msix ++ [2] } ∧ { u with cores := [] } = { s with cores := [] } ∧
      { u.core core with tiles := [] } = { s.core core with tiles := [] } ∧
      (u.core core).tilePoisoned tile row = true ∧ ∀ r c, r < 64 → c < 64 →
        (u.core core).tileWord tile r c = (s.core core).tileWord tile r c) ∧
    (∀ id o, s.op id = some o → o.done = false → exec (.uncorrectableError (.engine id)) s =
      .next { s.setOp { o with err := if o.err = 0 then 1 else o.err, started := true, done := true } with
        msix := s.msix ++ [2] }) ∧
    -- POWER_FAIL, CLOCK_THROTTLE, ATTESTATION_REQUEST
    exec .powerFail s = .next { s with
      boot := .off, journal := { j with flash := j.flash ++ j.buffer, buffer := [] } } ∧
    (∀ k, k ≤ 14 → exec (.clockThrottle (2250 - 75 * k)) s = .next { s with mhz := 2250 - 75 * k }) ∧
    (∀ mhz, (∀ k, k ≤ 14 → mhz ≠ 2250 - 75 * k) → exec (.clockThrottle mhz) s = .next s) ∧
    ∀ nonce : List Byte, nonce.length = 32 →
      let body := nonce ++ ((List.range 32).map fun i => Config.romDigest i) ++ sha256 s.flash.bytes ++
        sha256 s.tableBytes ++ leBytes 8 (if s.part = .mz9A then 0 else 1) ++ leBytes 8 s.fusedCounter ++
        leBytes 8 s.timeNs ++ List.replicate 40 0
      exec (.attestationRequest nonce) s = .next { s with reports := s.reports ++
        [body ++ (List.range 64).map fun i => Config.identitySignature (sha256 body) i] }
end

