-- ==== Sys2Proof/Laws/Tab.lean ====
section
/-! SUPPORT. Reading a sparse table after it has changed. -/

namespace Sys2Proof.Machine.Tab

variable {α : Type}

theorem find?_set (t : Tab α) (k k' : Nat) (v : α) :
    Tab.find? (Tab.set t k v) k' = if k' = k then some v else Tab.find? t k' := by
  induction t with
  | nil => simp [set, find?]
  | cons x t ih =>
    obtain ⟨a, b⟩ := x
    simp only [set]
    split
    · rename_i h; subst h; simp only [find?]; split <;> rfl
    · rename_i h
      simp only [find?, ih]
      by_cases h' : k' = a
      · subst h'; rw [if_pos rfl, if_neg (Ne.symm h), if_pos rfl]
      · rw [if_neg h', if_neg h']

@[simp] theorem get_set_same (t : Tab α) (d : α) (k : Nat) (v : α) : Tab.get (Tab.set t k v) d k = v := by
  simp [get, find?_set]

theorem get_set_ne (t : Tab α) (d : α) {k k' : Nat} (v : α) (h : k' ≠ k) :
    Tab.get (Tab.set t k v) d k' = Tab.get t d k' := by
  simp [get, find?_set, h]

theorem get_set (t : Tab α) (d : α) (k k' : Nat) (v : α) :
    Tab.get (Tab.set t k v) d k' = if k' = k then v else Tab.get t d k' := by
  unfold get; rw [find?_set]; split <;> rfl

theorem find?_mapVals {β : Type} (t : Tab α) (f : Nat → α → β) (k : Nat) :
    Tab.find? (Tab.mapVals t f) k = (Tab.find? t k).map (f k) := by
  induction t with
  | nil => rfl
  | cons x t ih =>
    obtain ⟨a, b⟩ := x
    simp only [mapVals, List.map_cons, find?]
    split
    · rename_i h; subst h; rfl
    · exact ih

theorem find?_erase (t : Tab α) (k k' : Nat) :
    Tab.find? (Tab.erase t k) k' = if k' = k then none else Tab.find? t k' := by
  induction t with
  | nil => simp [erase, find?]
  | cons x t ih =>
    obtain ⟨a, b⟩ := x
    unfold erase at ih ⊢
    rw [List.filter_cons]
    by_cases h : a = k
    · subst h
      rw [if_neg (by simp), ih]
      split
      · rfl
      · rename_i hk; simp only [find?]; rw [if_neg hk]
    · rw [if_pos (by simpa using h)]
      simp only [find?]
      rw [ih]
      by_cases h' : k' = a
      · subst h'; rw [if_pos rfl, if_neg h, if_pos rfl]
      · rw [if_neg h', if_neg h']

theorem get_erase (t : Tab α) (d : α) (k k' : Nat) :
    Tab.get (Tab.erase t k) d k' = if k' = k then d else Tab.get t d k' := by
  unfold get; rw [find?_erase]; split <;> rfl

@[simp] theorem set_set (t : Tab α) (k : Nat) (v v' : α) : Tab.set (Tab.set t k v) k v' = Tab.set t k v' := by
  induction t with
  | nil => simp [set]
  | cons x t ih =>
    obtain ⟨a, b⟩ := x
    by_cases h : k = a
    · subst h; simp [set]
    · simp only [set, if_neg h, ih]

end Sys2Proof.Machine.Tab
end

