-- ==== Sys2Proof/Laws/Checks.lean ====
section
/-! SUPPORT. What the checks of an access may change on the way (R97, R98, R103, R252). -/

namespace Sys2Proof.Claims

open Sys2Proof.Machine

theorem Checked.refl (s : State) : Checked s s := ⟨rfl, fun _ => rfl⟩

theorem Checked.trans {s t u : State} (h : Checked s t) (k : Checked t u) : Checked s u :=
  ⟨k.rest.trans h.rest, fun c => (k.cores c).trans (h.cores c)⟩

theorem Checked.of {s u : State} (hc : u.cores = s.cores)
    (h : { u with cores := [], mem := [], poison := [], l2 := [], dir := [], msgs := [], xc := [], pageHome := [],
                  tagged := [], tags := [] } =
      { s with cores := [], mem := [], poison := [], l2 := [], dir := [], msgs := [], xc := [], pageHome := [],
               tagged := [], tags := [] }) : Checked s u :=
  ⟨h, fun c => by unfold State.core; rw [hc]⟩

theorem checked_recallData (s : State) (pa : Nat) : Checked s (s.recallData pa) := by
  unfold State.recallData
  split
  · unfold State.poke
    exact .of rfl rfl
  · exact .refl s

theorem checked_foldl {α : Type} (f : State → α → State) (h : ∀ s x, Checked s (f s x)) (xs : List α) (s : State) :
    Checked s (xs.foldl f s) := by
  induction xs generalizing s with
  | nil => exact .refl s
  | cons x xs ih => exact (h s x).trans (ih _)

/-! ## Messages of the directory -/

theorem Checked.setCore {s t : State} (h : Checked s t) {c : Nat} {k : Core}
    (hk : { k with l1 := [], seq := 0, landed := 0 } = { t.core c with l1 := [], seq := 0, landed := 0 }) :
    Checked s (t.setCore c k) := by
  refine h.trans ⟨rfl, fun d => ?_⟩
  unfold State.core State.setCore
  dsimp only
  rw [Tab.get_set]
  split
  · rename_i hd; subst hd; exact hk
  · rfl

theorem Checked.setL1 {s t : State} (h : Checked s t) (c key : Nat) (l : Option L1Line) : Checked s (t.setL1 c key l) :=
  h.setCore rfl

theorem Checked.stamp {s t : State} (h : Checked s t) (c : Nat) : Checked s (t.stamp c) := h.setCore rfl

theorem Checked.setDir {s t : State} (h : Checked s t) (key : Nat) (e : DirEntry) : Checked s (t.setDir key e) :=
  h.trans (.of rfl rfl)

theorem Checked.send {s t : State} (h : Checked s t) (asid : BitVec 16) (line : BitVec 51) (die core seq : Nat)
    (k : MsgKind) : Checked s (t.send asid line die core seq k) := h.trans (.of rfl rfl)

theorem Checked.poke {s t : State} (h : Checked s t) (a : Nat) (bs : List Byte) : Checked s (t.poke a bs) :=
  h.trans (.of rfl rfl)

theorem Checked.recallData {s t : State} (h : Checked s t) (pa : Nat) : Checked s (t.recallData pa) :=
  h.trans (checked_recallData t pa)

theorem Checked.foldl {α : Type} {s t : State} (h : Checked s t) (f : State → α → State)
    (hf : ∀ s x, Checked s (f s x)) (xs : List α) : Checked s (xs.foldl f t) := h.trans (checked_foldl f hf xs t)

theorem checked_homeTake (s : State) (die : Nat) (asid : BitVec 16) (line : BitVec 51) (k : ReqKind) (req : Nat) :
    Checked s (s.homeTake die asid line k req) := by
  have h := Checked.refl s
  have hf : ∀ n (t : State) (c : Nat), Checked t (t.send asid line die c n (.inv req)) :=
    fun n t c => (Checked.refl t).send ..
  unfold State.homeTake
  dsimp only
  split
  · split
    · exact h.setDir ..
    · exact h.send ..
  · split
    · split
      · exact (h.setDir ..).send ..
      · exact (h.setDir ..).send ..
      · exact (h.setDir ..).send ..
      · exact (h.setDir ..).send ..
    · split
      · exact ((h.setDir ..).send ..).foldl _ (hf _) _
      · exact ((h.setDir ..).send ..).foldl _ (hf _) _
      · exact ((h.setDir ..).send ..).foldl _ (hf _) _
    · exact (((h.recallData _).setDir ..).send ..).foldl _ (hf _) _
    · split
      · exact ((h.poke ..).setDir ..).send ..
      · exact (h.setDir ..).send ..
    · split
      · exact ((h.poke ..).setDir ..).send ..
      · exact (h.setDir ..).send ..
    · split
      · exact (h.setDir ..).send ..
      · exact (h.setDir ..).send ..

theorem checked_homeQueue (die : Nat) (asid : BitVec 16) (line : BitVec 51) (f : Nat) (s : State) :
    Checked s (s.homeQueue die asid line f) := by
  induction f generalizing s with
  | zero => exact .refl s
  | succ f ih =>
    unfold State.homeQueue
    dsimp only
    split
    · split
      · exact .refl s
      · exact (((Checked.refl s).setDir ..).trans (checked_homeTake ..)).trans (ih _)
    · exact .refl s

theorem checked_l1Check (s : State) (core key : Nat) (l : L1Line) (seq : Nat) :
    Checked s (s.l1Check core key l seq) := by
  unfold State.l1Check
  split
  · exact ((Checked.refl s).setL1 ..).send ..
  · exact (Checked.refl s).setL1 ..

theorem Checked.l1Arrive {s t : State} (h : Checked s t) (core key : Nat) (l : L1Line) (st : L1St) (d : BitVec 512)
    (late : Option (Nat × Nat)) : Checked s (t.l1Arrive core key l st d late) := by
  unfold State.l1Arrive
  split <;> exact h.setL1 ..

theorem checked_l1Receive (s : State) (m : Msg) : Checked s (s.l1Receive m) := by
  have h := Checked.refl s
  unfold State.l1Receive
  dsimp only
  split
  · split <;> first | exact (h.setL1 ..).send .. | exact h.send ..
  · split <;> exact (h.setL1 ..).send ..
  · split <;> first | exact (h.setL1 ..).send .. | exact h.send ..
  · exact h.send ..
  · refine Checked.l1Arrive ?_ ..
    split
    · exact h.send ..
    · exact h
  · split
    · exact (h.send ..).l1Arrive ..
    · exact checked_l1Check ..
  · exact checked_l1Check ..
  · exact checked_l1Check ..
  · exact h.setL1 ..
  · exact h

/-- A message that is received changes nothing that a thread or an engine holds. -/
theorem checked_deliver (s : State) (asid : BitVec 16) (line : BitVec 51) (core : Nat) (p : MsgKind → Bool) :
    Checked s (s.deliver asid line core p) := by
  unfold State.deliver
  split
  · exact .refl s
  · rename_i m rest _
    have h : Checked s { s with msgs := rest } := .of rfl rfl
    dsimp only
    split
    · unfold State.homeRequest
      dsimp only
      split
      · exact h.setDir ..
      · exact h.trans (checked_homeTake ..)
    · unfold State.homeUnblock
      dsimp only
      exact (h.setDir ..).trans (checked_homeQueue ..)
    · exact (h.trans (checked_l1Receive ..)).stamp _

theorem checked_homeSettle (key f : Nat) (s : State) : Checked s (s.homeSettle key f) := by
  induction f generalizing s with
  | zero => exact .refl s
  | succ f ih =>
    unfold State.homeSettle
    split
    · exact .refl s
    · split
      · exact .refl s
      · exact (checked_deliver ..).trans (ih _)

/-! ## Agents at a home -/

theorem checked_recall (s : State) (pa : Nat) (w : Bool) : Checked s (s.recall pa w) := by
  unfold State.recall
  dsimp only
  refine Checked.foldl (((Checked.refl s).foldl _ (fun t key => checked_homeSettle key _ t) _).recallData _) _
    (fun t key => ?_) _
  refine Checked.setDir (s := t) ?_ _ _
  refine ⟨rfl, fun c => ?_⟩
  unfold State.core Tab.get
  dsimp only
  rw [Tab.find?_mapVals]
  cases Tab.find? t.cores c <;> rfl

theorem checked_agentWriteLine (s : State) (pa : Nat) (bs : List Byte) : Checked s (s.agentWriteLine pa bs) := by
  unfold State.agentWriteLine
  dsimp only
  have h : Checked s (if bs.length = 64 then { s with poison := s.poison.filter (· ≠ pa / 64) } else s) := by
    split
    · exact (.of rfl rfl)
    · exact .refl s
  split
  · exact h
  · exact (h.trans (checked_recall _ _ _)).poke ..

/-! ## Translation -/

theorem checked_markLeaf (s : State) (l : Leaf) (m : Dword) : Checked s (s.markLeaf l m).1 := by
  unfold State.markLeaf
  dsimp only
  split
  · exact .refl s
  · dsimp only
    exact checked_agentWriteLine _ _ _

theorem checked_dropTags (s : State) (asid : BitVec 16) (va : Nat) : Checked s (s.dropTags asid va) := .of rfl rfl

theorem checked_seeTags (s : State) (asid : BitVec 16) (va : Nat) (l : Leaf) : Checked s (s.seeTags asid va l) := by
  unfold State.seeTags
  dsimp only
  split
  · exact checked_dropTags ..
  · split
    · exact .refl s
    · exact (.of rfl rfl)

theorem checked_xlate (s : State) (die : Nat) (asid : BitVec 16) (va : Nat) : Checked s (s.xlate die asid va).1 := by
  unfold State.xlate
  dsimp only
  split
  · exact .refl s
  · split
    · dsimp only
      split
      · exact .refl s
      · exact checked_dropTags ..
    · exact ((checked_markLeaf s _ _).trans (checked_seeTags _ _ _ _)).trans (.of rfl rfl)

theorem checked_l2Use (s : State) (die : Nat) (asid : BitVec 16) (va policy : Nat) (again : Bool) (l : L2Line) :
    Checked s (s.l2Use die asid va policy again l) := by
  unfold State.l2Use
  dsimp only
  split
  · exact (.of rfl rfl)
  · exact .refl s

theorem checked_l2Evict (s : State) (key pa : Nat) : Checked s (s.l2Evict key pa) :=
  (checked_recall s pa true).trans (.of rfl rfl)

theorem Checked.setL2 {s t : State} (h : Checked s t) (x : List (Nat × L2Line)) : Checked s { t with l2 := x } :=
  h.trans (.of rfl rfl)

theorem checked_l2Fill (s : State) (key : Nat) (l : L2Line) : Checked s (s.l2Fill key l) := by
  unfold State.l2Fill
  dsimp only
  split
  · exact (.of rfl rfl)
  · split
    · exact (.of rfl rfl)
    · split
      · exact .refl s
      · exact (((Checked.refl s).setL2 _).trans (checked_l2Evict _ _ _)).setL2 _

theorem checked_leafFor (s : State) (die : Nat) (asid : BitVec 16) (va policy : Nat) (again : Bool) :
    Checked s (s.leafFor die asid va policy again).1 := by
  unfold State.leafFor
  dsimp only
  split
  · exact checked_l2Use ..
  · have h := checked_xlate s die asid va
    generalize s.xlate die asid va = x at h
    obtain ⟨t, w⟩ := x
    cases w with
    | fault m => exact h
    | leaf l =>
      dsimp only
      split
      · split
        · exact h.trans (checked_l2Use ..)
        · exact h.trans (checked_l2Fill ..)
      · exact h

theorem checked_makeDirty (s : State) (die : Nat) (asid : BitVec 16) (va : Nat) :
    Checked s (s.makeDirty die asid va).1 := by
  unfold State.makeDirty
  have h := checked_xlate s die asid va
  generalize s.xlate die asid va = x at h
  obtain ⟨t, w⟩ := x
  cases w with
  | fault m => exact h
  | leaf l =>
    dsimp only
    split
    · exact h
    · have h2 := checked_markLeaf t l 0x1000
      have fix : ∀ (u : State) (l : Leaf) (d : Nat), Checked u (match u.l2.find? (homeKey d asid (lineOf va)) with
          | some x => { u with l2 := u.l2.set (homeKey d asid (lineOf va)) { x with leaf := l, writeReady := true } }
          | none => u) := by
        intro u l d
        split
        · exact (.of rfl rfl)
        · exact .refl u
      refine (h.trans h2).trans (Checked.trans (t := { (t.markLeaf l 4096#64).1 with
        xc := (t.markLeaf l 4096#64).1.xc.set (parkKey die asid va) (t.markLeaf l 4096#64).2 }) (.of rfl rfl) ?_)
      exact (fix _ _ _).trans (fix _ _ _)

/-- The checks of an access change nothing that a thread or an engine holds. -/
theorem checked_check (s : State) (die : Nat) (asid : BitVec 16) (ea : Dword) (size : Nat) (q : Ask) :
    Checked s (s.check die asid ea size q).1 := by
  unfold State.check
  split
  · exact .refl s
  · dsimp only
    have h := checked_leafFor s die (spaceOf asid ea) (bitsNat ea 56 0) q.policy q.again
    generalize s.leafFor die (spaceOf asid ea) (bitsNat ea 56 0) q.policy q.again = x at h
    obtain ⟨t, w⟩ := x
    cases w with
    | fault m => exact h
    | leaf l =>
      dsimp only
      split
      · exact h
      split
      · exact h
      split
      · exact h
      split
      · exact h
      split
      · have h2 := checked_makeDirty t die (spaceOf asid ea) (bitsNat ea 56 0)
        generalize t.makeDirty die (spaceOf asid ea) (bitsNat ea 56 0) = y at h2
        obtain ⟨u, v⟩ := y
        cases v <;> exact h.trans h2
      · exact h

end Sys2Proof.Claims
end

