-- ==== Sys2Proof/Laws/Ints.lean ====
section
/-! SUPPORT. The integer operations of the model are those that the claims write on exact integers. -/

namespace Sys2Proof.Claims

open Sys2Proof.Machine

theorem satS_eq (n : Nat) (sat : Bool) (r : Int) : satS n sat r = fitS n sat r := by
  unfold satS fitS fitTo satInt clampS clampInt
  cases sat
  · simp
  · simp only [true_and, if_true]
    split
    · simp
    · split <;> simp

theorem satN_eq (n : Nat) (sat : Bool) (r : Int) : satN n sat r = fitN n sat r := by
  unfold satN fitN fitTo satInt clampN clampInt
  cases sat
  · simp
  · simp only [true_and, if_true]
    split
    · simp
    · split <;> simp

theorem iadd_eq {n : Nat} (sat : Bool) (a b : BitVec n) : iadd sat a b = IntFn.add.run sat a b := satS_eq n sat _
theorem isub_eq {n : Nat} (sat : Bool) (a b : BitVec n) : isub sat a b = IntFn.sub.run sat a b := satS_eq n sat _
theorem imul_eq {n : Nat} (sat : Bool) (a b : BitVec n) : imul sat a b = IntFn.mul.run sat a b := satS_eq n sat _

theorem imin_eq {n : Nat} (sat : Bool) (a b : BitVec n) : IntFn.min.run sat a b = (imin a b, []) := by
  unfold imin IntFn.run
  simp only [BitVec.slt, decide_eq_true_eq]
  congr 1
  split <;> split <;> first | rfl | omega

theorem imax_eq {n : Nat} (sat : Bool) (a b : BitVec n) : IntFn.max.run sat a b = (imax a b, []) := by
  unfold imax IntFn.run
  simp only [BitVec.slt, decide_eq_true_eq]
  congr 1
  rcases lt_trichotomy a.toInt b.toInt with h | h | h
  · rw [if_pos h, if_pos (le_of_lt h)]
  · rw [if_pos (by omega), if_neg (by omega)]
    exact BitVec.eq_of_toInt_eq h.symm
  · rw [if_neg (by omega), if_neg (by omega)]

theorem iminN_eq {n : Nat} (sat : Bool) (a b : BitVec n) : IntFn.minN.run sat a b = (iminN a b, []) := by
  unfold iminN IntFn.run
  simp only [BitVec.ult, decide_eq_true_eq]
  congr 1
  split <;> split <;> first | rfl | omega

theorem imaxN_eq {n : Nat} (sat : Bool) (a b : BitVec n) : IntFn.maxN.run sat a b = (imaxN a b, []) := by
  unfold imaxN IntFn.run
  simp only [BitVec.ult, decide_eq_true_eq]
  congr 1
  rcases lt_trichotomy a.toNat b.toNat with h | h | h
  · rw [if_pos h, if_pos (le_of_lt h)]
  · rw [if_pos (by omega), if_neg (by omega)]
    exact BitVec.eq_of_toNat_eq h.symm
  · rw [if_neg (by omega), if_neg (by omega)]

theorem ishl_eq {n : Nat} (sat : Bool) (a b : BitVec n) : IntFn.shl.run sat a b = (ishl a b, []) := by
  unfold ishl
  show (BitVec.ofNat n (if n ≤ b.toNat then 0 else a.toNat * 2 ^ b.toNat), ([] : List Ev)) = _
  split
  · rfl
  · congr 1
    apply BitVec.eq_of_toNat_eq
    simp [BitVec.toNat_shiftLeft, Nat.shiftLeft_eq]

theorem ishr_eq {n : Nat} (sat : Bool) (a b : BitVec n) : IntFn.shr.run sat a b = (ishr a b, []) := by
  unfold ishr
  show (BitVec.ofNat n (if n ≤ b.toNat then 0 else a.toNat / 2 ^ b.toNat), ([] : List Ev)) = _
  split
  · rfl
  · congr 1
    apply BitVec.eq_of_toNat_eq
    simp only [BitVec.toNat_ofNat, BitVec.toNat_ushiftRight, Nat.shiftRight_eq_div_pow]
    rw [Nat.mod_eq_of_lt]
    exact lt_of_le_of_lt (Nat.div_le_self _ _) a.isLt

theorem sar_fits {n : Nat} (a : BitVec n) (k : Nat) :
    (BitVec.ofInt n (a.toInt / 2 ^ k)).toInt = a.toInt / 2 ^ k := by
  have h : a.toInt / 2 ^ k = (a.sshiftRight k).toInt := by
    rw [BitVec.toInt_sshiftRight, Int.shiftRight_eq_div_pow, Nat.cast_pow, Nat.cast_ofNat]
  rw [h]
  exact congrArg BitVec.toInt (BitVec.ofInt_toInt)

theorem isar_eq {n : Nat} (sat : Bool) (a b : BitVec n) : IntFn.sar.run sat a b = (isar a b, []) := by
  unfold isar
  show (BitVec.ofInt n (if n ≤ b.toNat then (if a.toInt < 0 then -1 else 0) else a.toInt / 2 ^ b.toNat),
    ([] : List Ev)) = _
  split
  · rw [BitVec.msb_eq_toInt]
    by_cases h : a.toInt < 0
    · rw [if_pos h, if_pos (by simpa using h)]
      congr 1
      rw [← BitVec.neg_one_eq_allOnes, BitVec.ofInt_neg]
      rfl
    · rw [if_neg h, if_neg (by simpa using h)]
      congr 1
  · congr 1
    apply BitVec.eq_of_toInt_eq
    rw [BitVec.toInt_sshiftRight, Int.shiftRight_eq_div_pow, Nat.cast_pow, Nat.cast_ofNat, sar_fits]

theorem irol_eq {n : Nat} (hn : 0 < n) (sat : Bool) (a b : BitVec n) : IntFn.rol.run sat a b = (irol a b, []) := by
  unfold irol
  show (BitVec.ofNat n (a.toNat * 2 ^ (b.toNat % n) + a.toNat / 2 ^ (n - b.toNat % n)), ([] : List Ev)) = _
  congr 1
  have hk := Nat.mod_lt b.toNat hn
  generalize b.toNat % n = k at hk
  apply BitVec.eq_of_toNat_eq
  rw [BitVec.toNat_rotateLeft, Nat.mod_eq_of_lt hk, BitVec.toNat_ofNat, Nat.shiftLeft_eq, Nat.shiftRight_eq_div_pow]
  obtain ⟨m, rfl⟩ : ∃ m, n = m + k := ⟨n - k, by omega⟩
  rw [Nat.add_sub_cancel]
  have ha := a.isLt
  generalize a.toNat = x at ha
  have hq : x / 2 ^ m < 2 ^ k := Nat.div_lt_of_lt_mul (by rwa [← pow_add])
  have hx : x * 2 ^ k = x / 2 ^ m * 2 ^ (m + k) + x % 2 ^ m * 2 ^ k := by
    conv_lhs => rw [← Nat.div_add_mod x (2 ^ m)]
    rw [pow_add]
    ring
  have hr : x % 2 ^ m * 2 ^ k + x / 2 ^ m < 2 ^ (m + k) := by
    have h1 : x % 2 ^ m + 1 ≤ 2 ^ m := Nat.mod_lt _ (Nat.two_pow_pos m)
    calc x % 2 ^ m * 2 ^ k + x / 2 ^ m < x % 2 ^ m * 2 ^ k + 2 ^ k := by omega
      _ = (x % 2 ^ m + 1) * 2 ^ k := by ring
      _ ≤ 2 ^ m * 2 ^ k := Nat.mul_le_mul_right _ h1
      _ = 2 ^ (m + k) := (pow_add 2 m k).symm
  have hr' : x % 2 ^ m * 2 ^ k < 2 ^ (m + k) := lt_of_le_of_lt (Nat.le_add_right _ _) hr
  have h1 : (x * 2 ^ k + x / 2 ^ m) % 2 ^ (m + k) = x % 2 ^ m * 2 ^ k + x / 2 ^ m := by
    rw [hx, Nat.add_assoc, Nat.mul_add_mod_self_right, Nat.mod_eq_of_lt hr]
  have h2 : x * 2 ^ k % 2 ^ (m + k) = x % 2 ^ m * 2 ^ k := by
    rw [hx, Nat.mul_add_mod_self_right, Nat.mod_eq_of_lt hr']
  rw [h1, h2, Nat.mul_comm (x % 2 ^ m), Nat.two_pow_add_eq_or_of_lt hq]

theorem icond_eq {n : Nat} (k : BitVec 4) (a b : BitVec n) : icond k a b = cond k a b := by
  have h : ∀ k : Fin 16, icond (BitVec.ofFin k) a b = cond (BitVec.ofFin k) a b := by
    intro k
    fin_cases k <;> simp [icond, cond, BitVec.slt, BitVec.sle, BitVec.ult, BitVec.ule]
  exact h k.toFin

end Sys2Proof.Claims
end

