-- ==== Sys2Proof/Laws/Memory.lean ====
section
/-! SUPPORT. Physical memory: reading after a write, and the canonical form that every write keeps. -/

namespace Sys2Proof.Machine.Memory

theorem read_below {lo : Nat} {m : List Host.Cell} (h : wfFrom lo m = true) {a : Nat} (ha : a < lo) : read m a = 0 := by
  induction m generalizing lo with
  | nil => rfl
  | cons x t ih =>
    obtain ⟨k, v⟩ := x
    simp only [wfFrom, Bool.and_eq_true, decide_eq_true_eq] at h
    simp only [read]
    rw [if_neg (by omega), if_pos (by omega)]

theorem wfFrom_mono {lo lo' : Nat} {m : List Host.Cell} (h : wfFrom lo m = true) (hl : lo' ≤ lo) :
    wfFrom lo' m = true := by
  cases m with
  | nil => rfl
  | cons x t =>
    obtain ⟨k, v⟩ := x
    simp only [wfFrom, Bool.and_eq_true, decide_eq_true_eq] at h ⊢
    exact ⟨⟨by omega, h.1.2⟩, h.2⟩

theorem wfFrom_write {lo : Nat} {m : List Host.Cell} (h : wfFrom lo m = true) {a : Nat} (ha : lo ≤ a) (b : Byte) :
    wfFrom lo (write m a b) = true := by
  induction m generalizing lo with
  | nil =>
    simp only [write]
    split
    · rfl
    · rename_i hb; simpa [wfFrom, ha] using hb
  | cons x t ih =>
    obtain ⟨k, v⟩ := x
    have h0 := h
    simp only [wfFrom, Bool.and_eq_true, decide_eq_true_eq] at h
    obtain ⟨⟨hk, hv⟩, ht⟩ := h
    simp only [write]
    split
    · rename_i hak
      split
      · exact h0
      · rename_i hb
        simp only [wfFrom, Bool.and_eq_true, decide_eq_true_eq]
        exact ⟨⟨ha, by simpa using hb⟩, ⟨by omega, hv⟩, ht⟩
    · split
      · rename_i hak
        split
        · exact wfFrom_mono ht (by omega)
        · rename_i hb
          simp only [wfFrom, Bool.and_eq_true, decide_eq_true_eq]
          exact ⟨⟨ha, by simpa using hb⟩, wfFrom_mono ht (by omega)⟩
      · simp only [wfFrom, Bool.and_eq_true, decide_eq_true_eq]
        exact ⟨⟨hk, hv⟩, ih ht (by omega)⟩

theorem wf_write {m : List Host.Cell} (h : wf m = true) (a : Nat) (b : Byte) : wf (write m a b) = true :=
  wfFrom_write h (Nat.zero_le a) b

theorem wf_writeN {m : List Host.Cell} (h : wf m = true) (a : Nat) (bs : List Byte) : wf (writeN m a bs) = true := by
  induction bs generalizing m a with
  | nil => exact h
  | cons b bs ih => exact ih (wf_write h a b) (a + 1)

theorem read_write_from {lo : Nat} {m : List Host.Cell} (h : wfFrom lo m = true) (a : Nat) (b : Byte) (x : Nat) :
    read (write m a b) x = if x = a then b else read m x := by
  induction m generalizing lo with
  | nil =>
    simp only [write]
    split
    · rename_i hb; simp [read, hb]
    · simp only [read]
      by_cases h1 : x = a
      · simp [h1]
      · rw [if_neg h1, if_neg h1]; split <;> rfl
  | cons y t ih =>
    obtain ⟨k, v⟩ := y
    simp only [wfFrom, Bool.and_eq_true, decide_eq_true_eq] at h
    obtain ⟨⟨hk, hv⟩, ht⟩ := h
    simp only [write]
    split
    · rename_i hak
      split
      · rename_i hb
        simp only [read]
        by_cases h1 : x = a
        · rw [if_pos h1, if_neg (by omega), if_pos (by omega), hb]
        · rw [if_neg h1]
      · simp only [read]
        by_cases h1 : x = a
        · rw [if_pos h1, if_pos h1]
        · rw [if_neg h1, if_neg h1]
          by_cases h2 : x < a
          · rw [if_pos h2, if_neg (by omega), if_pos (by omega)]
          · rw [if_neg h2]
    · split
      · rename_i hak
        subst hak
        split
        · rename_i hb
          simp only [read]
          by_cases h1 : x = a
          · subst h1; rw [if_pos rfl, read_below ht (by omega), hb]
          · rw [if_neg h1, if_neg h1]
            by_cases h2 : x < a
            · rw [if_pos h2, read_below ht (by omega)]
            · rw [if_neg h2]
        · simp only [read]
          by_cases h1 : x = a
          · rw [if_pos h1, if_pos h1]
          · rw [if_neg h1, if_neg h1, if_neg h1]
      · simp only [read]
        rw [ih ht]
        by_cases h1 : x = k
        · rw [if_pos h1, if_pos h1, if_neg (by omega)]
        · rw [if_neg h1, if_neg h1]
          by_cases h2 : x < k
          · rw [if_pos h2, if_pos h2, if_neg (by omega)]
          · rw [if_neg h2, if_neg h2]

theorem read_write {m : List Host.Cell} (h : wf m = true) (a : Nat) (b : Byte) (x : Nat) :
    read (write m a b) x = if x = a then b else read m x := read_write_from h a b x

theorem read_writeN {m : List Host.Cell} (h : wf m = true) (a : Nat) (bs : List Byte) (x : Nat) :
    read (writeN m a bs) x = if a ≤ x ∧ x < a + bs.length then bs.getD (x - a) 0 else read m x := by
  induction bs generalizing m a with
  | nil => rw [if_neg (by simp)]; rfl
  | cons b bs ih =>
    simp only [writeN]
    rw [ih (wf_write h a b), read_write h]
    by_cases h1 : x = a
    · subst h1
      rw [if_neg (by omega), if_pos rfl, if_pos (by simp)]
      simp
    · rw [if_neg h1]
      by_cases h2 : a + 1 ≤ x ∧ x < a + 1 + bs.length
      · rw [if_pos h2, if_pos (by simp only [List.length_cons]; omega)]
        obtain ⟨d, hd⟩ : ∃ d, x - a = d + 1 := ⟨x - a - 1, by omega⟩
        rw [hd, List.getD_cons_succ]
        congr 1
        omega
      · rw [if_neg h2, if_neg (by simp only [List.length_cons]; omega)]

end Sys2Proof.Machine.Memory

namespace Sys2Proof.Machine

theorem State.poke_wf {s : State} (h : Memory.wf s.mem = true) (a : Nat) (bs : List Byte) :
    Memory.wf (s.poke a bs).mem = true := Memory.wf_writeN h a bs

end Sys2Proof.Machine
end

