-- ==== Sys2Proof/Laws/State.lean ====
section
/-! SUPPORT. What each update of the state leaves alone: one lemma per field per update. -/

namespace Sys2Proof.Machine

@[simp] theorem State.setCore_part (s : State) (c : Nat) (k : Core) : (s.setCore c k).part = s.part := rfl
@[simp] theorem State.setCore_boot (s : State) (c : Nat) (k : Core) : (s.setCore c k).boot = s.boot := rfl
@[simp] theorem State.setCore_flash (s : State) (c : Nat) (k : Core) : (s.setCore c k).flash = s.flash := rfl
@[simp] theorem State.setCore_fusedCounter (s : State) (c : Nat) (k : Core) : (s.setCore c k).fusedCounter = s.fusedCounter := rfl
@[simp] theorem State.setCore_clock (s : State) (c : Nat) (k : Core) : (s.setCore c k).clock = s.clock := rfl
@[simp] theorem State.setCore_timeFs (s : State) (c : Nat) (k : Core) : (s.setCore c k).timeFs = s.timeFs := rfl
@[simp] theorem State.setCore_timeParts (s : State) (c : Nat) (k : Core) : (s.setCore c k).timeParts = s.timeParts := rfl
@[simp] theorem State.setCore_mhz (s : State) (c : Nat) (k : Core) : (s.setCore c k).mhz = s.mhz := rfl
@[simp] theorem State.setCore_dev (s : State) (c : Nat) (k : Core) : (s.setCore c k).dev = s.dev := rfl
@[simp] theorem State.setCore_cur (s : State) (c : Nat) (k : Core) : (s.setCore c k).cur = s.cur := rfl
@[simp] theorem State.setCore_due (s : State) (c : Nat) (k : Core) : (s.setCore c k).due = s.due := rfl
@[simp] theorem State.setCore_merged (s : State) (c : Nat) (k : Core) : (s.setCore c k).merged = s.merged := rfl
@[simp] theorem State.setCore_late (s : State) (c : Nat) (k : Core) : (s.setCore c k).late = s.late := rfl
@[simp] theorem State.setCore_sched (s : State) (c : Nat) (k : Core) : (s.setCore c k).sched = s.sched := rfl
@[simp] theorem State.setCore_mem (s : State) (c : Nat) (k : Core) : (s.setCore c k).mem = s.mem := rfl
@[simp] theorem State.setCore_tags (s : State) (c : Nat) (k : Core) : (s.setCore c k).tags = s.tags := rfl
@[simp] theorem State.setCore_tagged (s : State) (c : Nat) (k : Core) : (s.setCore c k).tagged = s.tagged := rfl
@[simp] theorem State.setCore_poison (s : State) (c : Nat) (k : Core) : (s.setCore c k).poison = s.poison := rfl
@[simp] theorem State.setCore_asidRoot (s : State) (c : Nat) (k : Core) : (s.setCore c k).asidRoot = s.asidRoot := rfl
@[simp] theorem State.setCore_xc (s : State) (c : Nat) (k : Core) : (s.setCore c k).xc = s.xc := rfl
@[simp] theorem State.setCore_pageHome (s : State) (c : Nat) (k : Core) : (s.setCore c k).pageHome = s.pageHome := rfl
@[simp] theorem State.setCore_l2 (s : State) (c : Nat) (k : Core) : (s.setCore c k).l2 = s.l2 := rfl
@[simp] theorem State.setCore_dir (s : State) (c : Nat) (k : Core) : (s.setCore c k).dir = s.dir := rfl
@[simp] theorem State.setCore_msgs (s : State) (c : Nat) (k : Core) : (s.setCore c k).msgs = s.msgs := rfl
@[simp] theorem State.setCore_replica (s : State) (c : Nat) (k : Core) : (s.setCore c k).replica = s.replica := rfl
@[simp] theorem State.setCore_collapse (s : State) (c : Nat) (k : Core) : (s.setCore c k).collapse = s.collapse := rfl
@[simp] theorem State.setCore_gatherers (s : State) (c : Nat) (k : Core) : (s.setCore c k).gatherers = s.gatherers := rfl
@[simp] theorem State.setCore_blocks (s : State) (c : Nat) (k : Core) : (s.setCore c k).blocks = s.blocks := rfl
@[simp] theorem State.setCore_faultRec (s : State) (c : Nat) (k : Core) : (s.setCore c k).faultRec = s.faultRec := rfl
@[simp] theorem State.setCore_hac (s : State) (c : Nat) (k : Core) : (s.setCore c k).hac = s.hac := rfl
@[simp] theorem State.setCore_farDie (s : State) (c : Nat) (k : Core) : (s.setCore c k).farDie = s.farDie := rfl
@[simp] theorem State.setCore_ops (s : State) (c : Nat) (k : Core) : (s.setCore c k).ops = s.ops := rfl
@[simp] theorem State.setCore_remotes (s : State) (c : Nat) (k : Core) : (s.setCore c k).remotes = s.remotes := rfl
@[simp] theorem State.setCore_remoteIn (s : State) (c : Nat) (k : Core) : (s.setCore c k).remoteIn = s.remoteIn := rfl
@[simp] theorem State.setCore_pools (s : State) (c : Nat) (k : Core) : (s.setCore c k).pools = s.pools := rfl
@[simp] theorem State.setCore_seqs (s : State) (c : Nat) (k : Core) : (s.setCore c k).seqs = s.seqs := rfl
@[simp] theorem State.setCore_slotGen (s : State) (c : Nat) (k : Core) : (s.setCore c k).slotGen = s.slotGen := rfl
@[simp] theorem State.setCore_pages (s : State) (c : Nat) (k : Core) : (s.setCore c k).pages = s.pages := rfl
@[simp] theorem State.setCore_pfxDir (s : State) (c : Nat) (k : Core) : (s.setCore c k).pfxDir = s.pfxDir := rfl
@[simp] theorem State.setCore_pfxMap (s : State) (c : Nat) (k : Core) : (s.setCore c k).pfxMap = s.pfxMap := rfl
@[simp] theorem State.setCore_htsTbase (s : State) (c : Nat) (k : Core) : (s.setCore c k).htsTbase = s.htsTbase := rfl
@[simp] theorem State.setCore_htsTsz (s : State) (c : Nat) (k : Core) : (s.setCore c k).htsTsz = s.htsTsz := rfl
@[simp] theorem State.setCore_htsRes (s : State) (c : Nat) (k : Core) : (s.setCore c k).htsRes = s.htsRes := rfl
@[simp] theorem State.setCore_htsCtx (s : State) (c : Nat) (k : Core) : (s.setCore c k).htsCtx = s.htsCtx := rfl
@[simp] theorem State.setCore_htsCtxsz (s : State) (c : Nat) (k : Core) : (s.setCore c k).htsCtxsz = s.htsCtxsz := rfl
@[simp] theorem State.setCore_htsIgn (s : State) (c : Nat) (k : Core) : (s.setCore c k).htsIgn = s.htsIgn := rfl
@[simp] theorem State.setCore_htsRange (s : State) (c : Nat) (k : Core) : (s.setCore c k).htsRange = s.htsRange := rfl
@[simp] theorem State.setCore_tasks (s : State) (c : Nat) (k : Core) : (s.setCore c k).tasks = s.tasks := rfl
@[simp] theorem State.setCore_decs (s : State) (c : Nat) (k : Core) : (s.setCore c k).decs = s.decs := rfl
@[simp] theorem State.setCore_launches (s : State) (c : Nat) (k : Core) : (s.setCore c k).launches = s.launches := rfl
@[simp] theorem State.setCore_wgs (s : State) (c : Nat) (k : Core) : (s.setCore c k).wgs = s.wgs := rfl
@[simp] theorem State.setCore_images (s : State) (c : Nat) (k : Core) : (s.setCore c k).images = s.images := rfl
@[simp] theorem State.setCore_routes (s : State) (c : Nat) (k : Core) : (s.setCore c k).routes = s.routes := rfl
@[simp] theorem State.setCore_groups (s : State) (c : Nat) (k : Core) : (s.setCore c k).groups = s.groups := rfl
@[simp] theorem State.setCore_linksDown (s : State) (c : Nat) (k : Core) : (s.setCore c k).linksDown = s.linksDown := rfl
@[simp] theorem State.setCore_packets (s : State) (c : Nat) (k : Core) : (s.setCore c k).packets = s.packets := rfl
@[simp] theorem State.setCore_wire (s : State) (c : Nat) (k : Core) : (s.setCore c k).wire = s.wire := rfl
@[simp] theorem State.setCore_sent (s : State) (c : Nat) (k : Core) : (s.setCore c k).sent = s.sent := rfl
@[simp] theorem State.setCore_heard (s : State) (c : Nat) (k : Core) : (s.setCore c k).heard = s.heard := rfl
@[simp] theorem State.setCore_collSeq (s : State) (c : Nat) (k : Core) : (s.setCore c k).collSeq = s.collSeq := rfl
@[simp] theorem State.setCore_failed (s : State) (c : Nat) (k : Core) : (s.setCore c k).failed = s.failed := rfl
@[simp] theorem State.setCore_numiStat (s : State) (c : Nat) (k : Core) : (s.setCore c k).numiStat = s.numiStat := rfl
@[simp] theorem State.setCore_remap0 (s : State) (c : Nat) (k : Core) : (s.setCore c k).remap0 = s.remap0 := rfl
@[simp] theorem State.setCore_remap1 (s : State) (c : Nat) (k : Core) : (s.setCore c k).remap1 = s.remap1 := rfl
@[simp] theorem State.setCore_poolEnd (s : State) (c : Nat) (k : Core) : (s.setCore c k).poolEnd = s.poolEnd := rfl
@[simp] theorem State.setCore_mbxIn (s : State) (c : Nat) (k : Core) : (s.setCore c k).mbxIn = s.mbxIn := rfl
@[simp] theorem State.setCore_mbxOut (s : State) (c : Nat) (k : Core) : (s.setCore c k).mbxOut = s.mbxOut := rfl
@[simp] theorem State.setCore_mbxDb (s : State) (c : Nat) (k : Core) : (s.setCore c k).mbxDb = s.mbxDb := rfl
@[simp] theorem State.setCore_msix (s : State) (c : Nat) (k : Core) : (s.setCore c k).msix = s.msix := rfl
@[simp] theorem State.setCore_hostRead (s : State) (c : Nat) (k : Core) : (s.setCore c k).hostRead = s.hostRead := rfl
@[simp] theorem State.setCore_reports (s : State) (c : Nat) (k : Core) : (s.setCore c k).reports = s.reports := rfl
@[simp] theorem State.setCore_ports (s : State) (c : Nat) (k : Core) : (s.setCore c k).ports = s.ports := rfl
@[simp] theorem State.setCore_models (s : State) (c : Nat) (k : Core) : (s.setCore c k).models = s.models := rfl
@[simp] theorem State.setCore_journal (s : State) (c : Nat) (k : Core) : (s.setCore c k).journal = s.journal := rfl
@[simp] theorem State.setCore_nextId (s : State) (c : Nat) (k : Core) : (s.setCore c k).nextId = s.nextId := rfl
@[simp] theorem State.setCore_free (s : State) (c : Nat) (k : Core) : (s.setCore c k).free = s.free := rfl

@[simp] theorem State.modCore_part (s : State) (c : Nat) (f : Core → Core) : (s.modCore c f).part = s.part := rfl
@[simp] theorem State.modCore_boot (s : State) (c : Nat) (f : Core → Core) : (s.modCore c f).boot = s.boot := rfl
@[simp] theorem State.modCore_flash (s : State) (c : Nat) (f : Core → Core) : (s.modCore c f).flash = s.flash := rfl
@[simp] theorem State.modCore_fusedCounter (s : State) (c : Nat) (f : Core → Core) : (s.modCore c f).fusedCounter = s.fusedCounter := rfl
@[simp] theorem State.modCore_clock (s : State) (c : Nat) (f : Core → Core) : (s.modCore c f).clock = s.clock := rfl
@[simp] theorem State.modCore_timeFs (s : State) (c : Nat) (f : Core → Core) : (s.modCore c f).timeFs = s.timeFs := rfl
@[simp] theorem State.modCore_timeParts (s : State) (c : Nat) (f : Core → Core) : (s.modCore c f).timeParts = s.timeParts := rfl
@[simp] theorem State.modCore_mhz (s : State) (c : Nat) (f : Core → Core) : (s.modCore c f).mhz = s.mhz := rfl
@[simp] theorem State.modCore_dev (s : State) (c : Nat) (f : Core → Core) : (s.modCore c f).dev = s.dev := rfl
@[simp] theorem State.modCore_cur (s : State) (c : Nat) (f : Core → Core) : (s.modCore c f).cur = s.cur := rfl
@[simp] theorem State.modCore_due (s : State) (c : Nat) (f : Core → Core) : (s.modCore c f).due = s.due := rfl
@[simp] theorem State.modCore_merged (s : State) (c : Nat) (f : Core → Core) : (s.modCore c f).merged = s.merged := rfl
@[simp] theorem State.modCore_late (s : State) (c : Nat) (f : Core → Core) : (s.modCore c f).late = s.late := rfl
@[simp] theorem State.modCore_sched (s : State) (c : Nat) (f : Core → Core) : (s.modCore c f).sched = s.sched := rfl
@[simp] theorem State.modCore_mem (s : State) (c : Nat) (f : Core → Core) : (s.modCore c f).mem = s.mem := rfl
@[simp] theorem State.modCore_tags (s : State) (c : Nat) (f : Core → Core) : (s.modCore c f).tags = s.tags := rfl
@[simp] theorem State.modCore_tagged (s : State) (c : Nat) (f : Core → Core) : (s.modCore c f).tagged = s.tagged := rfl
@[simp] theorem State.modCore_poison (s : State) (c : Nat) (f : Core → Core) : (s.modCore c f).poison = s.poison := rfl
@[simp] theorem State.modCore_asidRoot (s : State) (c : Nat) (f : Core → Core) : (s.modCore c f).asidRoot = s.asidRoot := rfl
@[simp] theorem State.modCore_xc (s : State) (c : Nat) (f : Core → Core) : (s.modCore c f).xc = s.xc := rfl
@[simp] theorem State.modCore_pageHome (s : State) (c : Nat) (f : Core → Core) : (s.modCore c f).pageHome = s.pageHome := rfl
@[simp] theorem State.modCore_l2 (s : State) (c : Nat) (f : Core → Core) : (s.modCore c f).l2 = s.l2 := rfl
@[simp] theorem State.modCore_dir (s : State) (c : Nat) (f : Core → Core) : (s.modCore c f).dir = s.dir := rfl
@[simp] theorem State.modCore_msgs (s : State) (c : Nat) (f : Core → Core) : (s.modCore c f).msgs = s.msgs := rfl
@[simp] theorem State.modCore_replica (s : State) (c : Nat) (f : Core → Core) : (s.modCore c f).replica = s.replica := rfl
@[simp] theorem State.modCore_collapse (s : State) (c : Nat) (f : Core → Core) : (s.modCore c f).collapse = s.collapse := rfl
@[simp] theorem State.modCore_gatherers (s : State) (c : Nat) (f : Core → Core) : (s.modCore c f).gatherers = s.gatherers := rfl
@[simp] theorem State.modCore_blocks (s : State) (c : Nat) (f : Core → Core) : (s.modCore c f).blocks = s.blocks := rfl
@[simp] theorem State.modCore_faultRec (s : State) (c : Nat) (f : Core → Core) : (s.modCore c f).faultRec = s.faultRec := rfl
@[simp] theorem State.modCore_hac (s : State) (c : Nat) (f : Core → Core) : (s.modCore c f).hac = s.hac := rfl
@[simp] theorem State.modCore_farDie (s : State) (c : Nat) (f : Core → Core) : (s.modCore c f).farDie = s.farDie := rfl
@[simp] theorem State.modCore_ops (s : State) (c : Nat) (f : Core → Core) : (s.modCore c f).ops = s.ops := rfl
@[simp] theorem State.modCore_remotes (s : State) (c : Nat) (f : Core → Core) : (s.modCore c f).remotes = s.remotes := rfl
@[simp] theorem State.modCore_remoteIn (s : State) (c : Nat) (f : Core → Core) : (s.modCore c f).remoteIn = s.remoteIn := rfl
@[simp] theorem State.modCore_pools (s : State) (c : Nat) (f : Core → Core) : (s.modCore c f).pools = s.pools := rfl
@[simp] theorem State.modCore_seqs (s : State) (c : Nat) (f : Core → Core) : (s.modCore c f).seqs = s.seqs := rfl
@[simp] theorem State.modCore_slotGen (s : State) (c : Nat) (f : Core → Core) : (s.modCore c f).slotGen = s.slotGen := rfl
@[simp] theorem State.modCore_pages (s : State) (c : Nat) (f : Core → Core) : (s.modCore c f).pages = s.pages := rfl
@[simp] theorem State.modCore_pfxDir (s : State) (c : Nat) (f : Core → Core) : (s.modCore c f).pfxDir = s.pfxDir := rfl
@[simp] theorem State.modCore_pfxMap (s : State) (c : Nat) (f : Core → Core) : (s.modCore c f).pfxMap = s.pfxMap := rfl
@[simp] theorem State.modCore_htsTbase (s : State) (c : Nat) (f : Core → Core) : (s.modCore c f).htsTbase = s.htsTbase := rfl
@[simp] theorem State.modCore_htsTsz (s : State) (c : Nat) (f : Core → Core) : (s.modCore c f).htsTsz = s.htsTsz := rfl
@[simp] theorem State.modCore_htsRes (s : State) (c : Nat) (f : Core → Core) : (s.modCore c f).htsRes = s.htsRes := rfl
@[simp] theorem State.modCore_htsCtx (s : State) (c : Nat) (f : Core → Core) : (s.modCore c f).htsCtx = s.htsCtx := rfl
@[simp] theorem State.modCore_htsCtxsz (s : State) (c : Nat) (f : Core → Core) : (s.modCore c f).htsCtxsz = s.htsCtxsz := rfl
@[simp] theorem State.modCore_htsIgn (s : State) (c : Nat) (f : Core → Core) : (s.modCore c f).htsIgn = s.htsIgn := rfl
@[simp] theorem State.modCore_htsRange (s : State) (c : Nat) (f : Core → Core) : (s.modCore c f).htsRange = s.htsRange := rfl
@[simp] theorem State.modCore_tasks (s : State) (c : Nat) (f : Core → Core) : (s.modCore c f).tasks = s.tasks := rfl
@[simp] theorem State.modCore_decs (s : State) (c : Nat) (f : Core → Core) : (s.modCore c f).decs = s.decs := rfl
@[simp] theorem State.modCore_launches (s : State) (c : Nat) (f : Core → Core) : (s.modCore c f).launches = s.launches := rfl
@[simp] theorem State.modCore_wgs (s : State) (c : Nat) (f : Core → Core) : (s.modCore c f).wgs = s.wgs := rfl
@[simp] theorem State.modCore_images (s : State) (c : Nat) (f : Core → Core) : (s.modCore c f).images = s.images := rfl
@[simp] theorem State.modCore_routes (s : State) (c : Nat) (f : Core → Core) : (s.modCore c f).routes = s.routes := rfl
@[simp] theorem State.modCore_groups (s : State) (c : Nat) (f : Core → Core) : (s.modCore c f).groups = s.groups := rfl
@[simp] theorem State.modCore_linksDown (s : State) (c : Nat) (f : Core → Core) : (s.modCore c f).linksDown = s.linksDown := rfl
@[simp] theorem State.modCore_packets (s : State) (c : Nat) (f : Core → Core) : (s.modCore c f).packets = s.packets := rfl
@[simp] theorem State.modCore_wire (s : State) (c : Nat) (f : Core → Core) : (s.modCore c f).wire = s.wire := rfl
@[simp] theorem State.modCore_sent (s : State) (c : Nat) (f : Core → Core) : (s.modCore c f).sent = s.sent := rfl
@[simp] theorem State.modCore_heard (s : State) (c : Nat) (f : Core → Core) : (s.modCore c f).heard = s.heard := rfl
@[simp] theorem State.modCore_collSeq (s : State) (c : Nat) (f : Core → Core) : (s.modCore c f).collSeq = s.collSeq := rfl
@[simp] theorem State.modCore_failed (s : State) (c : Nat) (f : Core → Core) : (s.modCore c f).failed = s.failed := rfl
@[simp] theorem State.modCore_numiStat (s : State) (c : Nat) (f : Core → Core) : (s.modCore c f).numiStat = s.numiStat := rfl
@[simp] theorem State.modCore_remap0 (s : State) (c : Nat) (f : Core → Core) : (s.modCore c f).remap0 = s.remap0 := rfl
@[simp] theorem State.modCore_remap1 (s : State) (c : Nat) (f : Core → Core) : (s.modCore c f).remap1 = s.remap1 := rfl
@[simp] theorem State.modCore_poolEnd (s : State) (c : Nat) (f : Core → Core) : (s.modCore c f).poolEnd = s.poolEnd := rfl
@[simp] theorem State.modCore_mbxIn (s : State) (c : Nat) (f : Core → Core) : (s.modCore c f).mbxIn = s.mbxIn := rfl
@[simp] theorem State.modCore_mbxOut (s : State) (c : Nat) (f : Core → Core) : (s.modCore c f).mbxOut = s.mbxOut := rfl
@[simp] theorem State.modCore_mbxDb (s : State) (c : Nat) (f : Core → Core) : (s.modCore c f).mbxDb = s.mbxDb := rfl
@[simp] theorem State.modCore_msix (s : State) (c : Nat) (f : Core → Core) : (s.modCore c f).msix = s.msix := rfl
@[simp] theorem State.modCore_hostRead (s : State) (c : Nat) (f : Core → Core) : (s.modCore c f).hostRead = s.hostRead := rfl
@[simp] theorem State.modCore_reports (s : State) (c : Nat) (f : Core → Core) : (s.modCore c f).reports = s.reports := rfl
@[simp] theorem State.modCore_ports (s : State) (c : Nat) (f : Core → Core) : (s.modCore c f).ports = s.ports := rfl
@[simp] theorem State.modCore_models (s : State) (c : Nat) (f : Core → Core) : (s.modCore c f).models = s.models := rfl
@[simp] theorem State.modCore_journal (s : State) (c : Nat) (f : Core → Core) : (s.modCore c f).journal = s.journal := rfl
@[simp] theorem State.modCore_nextId (s : State) (c : Nat) (f : Core → Core) : (s.modCore c f).nextId = s.nextId := rfl
@[simp] theorem State.modCore_free (s : State) (c : Nat) (f : Core → Core) : (s.modCore c f).free = s.free := rfl

@[simp] theorem State.modGroup_part (s : State) (c g : Nat) (f : Group → Group) : (s.modGroup c g f).part = s.part := rfl
@[simp] theorem State.modGroup_boot (s : State) (c g : Nat) (f : Group → Group) : (s.modGroup c g f).boot = s.boot := rfl
@[simp] theorem State.modGroup_flash (s : State) (c g : Nat) (f : Group → Group) : (s.modGroup c g f).flash = s.flash := rfl
@[simp] theorem State.modGroup_fusedCounter (s : State) (c g : Nat) (f : Group → Group) : (s.modGroup c g f).fusedCounter = s.fusedCounter := rfl
@[simp] theorem State.modGroup_clock (s : State) (c g : Nat) (f : Group → Group) : (s.modGroup c g f).clock = s.clock := rfl
@[simp] theorem State.modGroup_timeFs (s : State) (c g : Nat) (f : Group → Group) : (s.modGroup c g f).timeFs = s.timeFs := rfl
@[simp] theorem State.modGroup_timeParts (s : State) (c g : Nat) (f : Group → Group) : (s.modGroup c g f).timeParts = s.timeParts := rfl
@[simp] theorem State.modGroup_mhz (s : State) (c g : Nat) (f : Group → Group) : (s.modGroup c g f).mhz = s.mhz := rfl
@[simp] theorem State.modGroup_dev (s : State) (c g : Nat) (f : Group → Group) : (s.modGroup c g f).dev = s.dev := rfl
@[simp] theorem State.modGroup_cur (s : State) (c g : Nat) (f : Group → Group) : (s.modGroup c g f).cur = s.cur := rfl
@[simp] theorem State.modGroup_due (s : State) (c g : Nat) (f : Group → Group) : (s.modGroup c g f).due = s.due := rfl
@[simp] theorem State.modGroup_merged (s : State) (c g : Nat) (f : Group → Group) : (s.modGroup c g f).merged = s.merged := rfl
@[simp] theorem State.modGroup_late (s : State) (c g : Nat) (f : Group → Group) : (s.modGroup c g f).late = s.late := rfl
@[simp] theorem State.modGroup_sched (s : State) (c g : Nat) (f : Group → Group) : (s.modGroup c g f).sched = s.sched := rfl
@[simp] theorem State.modGroup_mem (s : State) (c g : Nat) (f : Group → Group) : (s.modGroup c g f).mem = s.mem := rfl
@[simp] theorem State.modGroup_tags (s : State) (c g : Nat) (f : Group → Group) : (s.modGroup c g f).tags = s.tags := rfl
@[simp] theorem State.modGroup_tagged (s : State) (c g : Nat) (f : Group → Group) : (s.modGroup c g f).tagged = s.tagged := rfl
@[simp] theorem State.modGroup_poison (s : State) (c g : Nat) (f : Group → Group) : (s.modGroup c g f).poison = s.poison := rfl
@[simp] theorem State.modGroup_asidRoot (s : State) (c g : Nat) (f : Group → Group) : (s.modGroup c g f).asidRoot = s.asidRoot := rfl
@[simp] theorem State.modGroup_xc (s : State) (c g : Nat) (f : Group → Group) : (s.modGroup c g f).xc = s.xc := rfl
@[simp] theorem State.modGroup_pageHome (s : State) (c g : Nat) (f : Group → Group) : (s.modGroup c g f).pageHome = s.pageHome := rfl
@[simp] theorem State.modGroup_l2 (s : State) (c g : Nat) (f : Group → Group) : (s.modGroup c g f).l2 = s.l2 := rfl
@[simp] theorem State.modGroup_dir (s : State) (c g : Nat) (f : Group → Group) : (s.modGroup c g f).dir = s.dir := rfl
@[simp] theorem State.modGroup_msgs (s : State) (c g : Nat) (f : Group → Group) : (s.modGroup c g f).msgs = s.msgs := rfl
@[simp] theorem State.modGroup_replica (s : State) (c g : Nat) (f : Group → Group) : (s.modGroup c g f).replica = s.replica := rfl
@[simp] theorem State.modGroup_collapse (s : State) (c g : Nat) (f : Group → Group) : (s.modGroup c g f).collapse = s.collapse := rfl
@[simp] theorem State.modGroup_gatherers (s : State) (c g : Nat) (f : Group → Group) : (s.modGroup c g f).gatherers = s.gatherers := rfl
@[simp] theorem State.modGroup_blocks (s : State) (c g : Nat) (f : Group → Group) : (s.modGroup c g f).blocks = s.blocks := rfl
@[simp] theorem State.modGroup_faultRec (s : State) (c g : Nat) (f : Group → Group) : (s.modGroup c g f).faultRec = s.faultRec := rfl
@[simp] theorem State.modGroup_hac (s : State) (c g : Nat) (f : Group → Group) : (s.modGroup c g f).hac = s.hac := rfl
@[simp] theorem State.modGroup_farDie (s : State) (c g : Nat) (f : Group → Group) : (s.modGroup c g f).farDie = s.farDie := rfl
@[simp] theorem State.modGroup_ops (s : State) (c g : Nat) (f : Group → Group) : (s.modGroup c g f).ops = s.ops := rfl
@[simp] theorem State.modGroup_remotes (s : State) (c g : Nat) (f : Group → Group) : (s.modGroup c g f).remotes = s.remotes := rfl
@[simp] theorem State.modGroup_remoteIn (s : State) (c g : Nat) (f : Group → Group) : (s.modGroup c g f).remoteIn = s.remoteIn := rfl
@[simp] theorem State.modGroup_pools (s : State) (c g : Nat) (f : Group → Group) : (s.modGroup c g f).pools = s.pools := rfl
@[simp] theorem State.modGroup_seqs (s : State) (c g : Nat) (f : Group → Group) : (s.modGroup c g f).seqs = s.seqs := rfl
@[simp] theorem State.modGroup_slotGen (s : State) (c g : Nat) (f : Group → Group) : (s.modGroup c g f).slotGen = s.slotGen := rfl
@[simp] theorem State.modGroup_pages (s : State) (c g : Nat) (f : Group → Group) : (s.modGroup c g f).pages = s.pages := rfl
@[simp] theorem State.modGroup_pfxDir (s : State) (c g : Nat) (f : Group → Group) : (s.modGroup c g f).pfxDir = s.pfxDir := rfl
@[simp] theorem State.modGroup_pfxMap (s : State) (c g : Nat) (f : Group → Group) : (s.modGroup c g f).pfxMap = s.pfxMap := rfl
@[simp] theorem State.modGroup_htsTbase (s : State) (c g : Nat) (f : Group → Group) : (s.modGroup c g f).htsTbase = s.htsTbase := rfl
@[simp] theorem State.modGroup_htsTsz (s : State) (c g : Nat) (f : Group → Group) : (s.modGroup c g f).htsTsz = s.htsTsz := rfl
@[simp] theorem State.modGroup_htsRes (s : State) (c g : Nat) (f : Group → Group) : (s.modGroup c g f).htsRes = s.htsRes := rfl
@[simp] theorem State.modGroup_htsCtx (s : State) (c g : Nat) (f : Group → Group) : (s.modGroup c g f).htsCtx = s.htsCtx := rfl
@[simp] theorem State.modGroup_htsCtxsz (s : State) (c g : Nat) (f : Group → Group) : (s.modGroup c g f).htsCtxsz = s.htsCtxsz := rfl
@[simp] theorem State.modGroup_htsIgn (s : State) (c g : Nat) (f : Group → Group) : (s.modGroup c g f).htsIgn = s.htsIgn := rfl
@[simp] theorem State.modGroup_htsRange (s : State) (c g : Nat) (f : Group → Group) : (s.modGroup c g f).htsRange = s.htsRange := rfl
@[simp] theorem State.modGroup_tasks (s : State) (c g : Nat) (f : Group → Group) : (s.modGroup c g f).tasks = s.tasks := rfl
@[simp] theorem State.modGroup_decs (s : State) (c g : Nat) (f : Group → Group) : (s.modGroup c g f).decs = s.decs := rfl
@[simp] theorem State.modGroup_launches (s : State) (c g : Nat) (f : Group → Group) : (s.modGroup c g f).launches = s.launches := rfl
@[simp] theorem State.modGroup_wgs (s : State) (c g : Nat) (f : Group → Group) : (s.modGroup c g f).wgs = s.wgs := rfl
@[simp] theorem State.modGroup_images (s : State) (c g : Nat) (f : Group → Group) : (s.modGroup c g f).images = s.images := rfl
@[simp] theorem State.modGroup_routes (s : State) (c g : Nat) (f : Group → Group) : (s.modGroup c g f).routes = s.routes := rfl
@[simp] theorem State.modGroup_groups (s : State) (c g : Nat) (f : Group → Group) : (s.modGroup c g f).groups = s.groups := rfl
@[simp] theorem State.modGroup_linksDown (s : State) (c g : Nat) (f : Group → Group) : (s.modGroup c g f).linksDown = s.linksDown := rfl
@[simp] theorem State.modGroup_packets (s : State) (c g : Nat) (f : Group → Group) : (s.modGroup c g f).packets = s.packets := rfl
@[simp] theorem State.modGroup_wire (s : State) (c g : Nat) (f : Group → Group) : (s.modGroup c g f).wire = s.wire := rfl
@[simp] theorem State.modGroup_sent (s : State) (c g : Nat) (f : Group → Group) : (s.modGroup c g f).sent = s.sent := rfl
@[simp] theorem State.modGroup_heard (s : State) (c g : Nat) (f : Group → Group) : (s.modGroup c g f).heard = s.heard := rfl
@[simp] theorem State.modGroup_collSeq (s : State) (c g : Nat) (f : Group → Group) : (s.modGroup c g f).collSeq = s.collSeq := rfl
@[simp] theorem State.modGroup_failed (s : State) (c g : Nat) (f : Group → Group) : (s.modGroup c g f).failed = s.failed := rfl
@[simp] theorem State.modGroup_numiStat (s : State) (c g : Nat) (f : Group → Group) : (s.modGroup c g f).numiStat = s.numiStat := rfl
@[simp] theorem State.modGroup_remap0 (s : State) (c g : Nat) (f : Group → Group) : (s.modGroup c g f).remap0 = s.remap0 := rfl
@[simp] theorem State.modGroup_remap1 (s : State) (c g : Nat) (f : Group → Group) : (s.modGroup c g f).remap1 = s.remap1 := rfl
@[simp] theorem State.modGroup_poolEnd (s : State) (c g : Nat) (f : Group → Group) : (s.modGroup c g f).poolEnd = s.poolEnd := rfl
@[simp] theorem State.modGroup_mbxIn (s : State) (c g : Nat) (f : Group → Group) : (s.modGroup c g f).mbxIn = s.mbxIn := rfl
@[simp] theorem State.modGroup_mbxOut (s : State) (c g : Nat) (f : Group → Group) : (s.modGroup c g f).mbxOut = s.mbxOut := rfl
@[simp] theorem State.modGroup_mbxDb (s : State) (c g : Nat) (f : Group → Group) : (s.modGroup c g f).mbxDb = s.mbxDb := rfl
@[simp] theorem State.modGroup_msix (s : State) (c g : Nat) (f : Group → Group) : (s.modGroup c g f).msix = s.msix := rfl
@[simp] theorem State.modGroup_hostRead (s : State) (c g : Nat) (f : Group → Group) : (s.modGroup c g f).hostRead = s.hostRead := rfl
@[simp] theorem State.modGroup_reports (s : State) (c g : Nat) (f : Group → Group) : (s.modGroup c g f).reports = s.reports := rfl
@[simp] theorem State.modGroup_ports (s : State) (c g : Nat) (f : Group → Group) : (s.modGroup c g f).ports = s.ports := rfl
@[simp] theorem State.modGroup_models (s : State) (c g : Nat) (f : Group → Group) : (s.modGroup c g f).models = s.models := rfl
@[simp] theorem State.modGroup_journal (s : State) (c g : Nat) (f : Group → Group) : (s.modGroup c g f).journal = s.journal := rfl
@[simp] theorem State.modGroup_nextId (s : State) (c g : Nat) (f : Group → Group) : (s.modGroup c g f).nextId = s.nextId := rfl
@[simp] theorem State.modGroup_free (s : State) (c g : Nat) (f : Group → Group) : (s.modGroup c g f).free = s.free := rfl

@[simp] theorem State.modThread_part (s : State) (c g l : Nat) (f : Thread → Thread) : (s.modThread c g l f).part = s.part := rfl
@[simp] theorem State.modThread_boot (s : State) (c g l : Nat) (f : Thread → Thread) : (s.modThread c g l f).boot = s.boot := rfl
@[simp] theorem State.modThread_flash (s : State) (c g l : Nat) (f : Thread → Thread) : (s.modThread c g l f).flash = s.flash := rfl
@[simp] theorem State.modThread_fusedCounter (s : State) (c g l : Nat) (f : Thread → Thread) : (s.modThread c g l f).fusedCounter = s.fusedCounter := rfl
@[simp] theorem State.modThread_clock (s : State) (c g l : Nat) (f : Thread → Thread) : (s.modThread c g l f).clock = s.clock := rfl
@[simp] theorem State.modThread_timeFs (s : State) (c g l : Nat) (f : Thread → Thread) : (s.modThread c g l f).timeFs = s.timeFs := rfl
@[simp] theorem State.modThread_timeParts (s : State) (c g l : Nat) (f : Thread → Thread) : (s.modThread c g l f).timeParts = s.timeParts := rfl
@[simp] theorem State.modThread_mhz (s : State) (c g l : Nat) (f : Thread → Thread) : (s.modThread c g l f).mhz = s.mhz := rfl
@[simp] theorem State.modThread_dev (s : State) (c g l : Nat) (f : Thread → Thread) : (s.modThread c g l f).dev = s.dev := rfl
@[simp] theorem State.modThread_cur (s : State) (c g l : Nat) (f : Thread → Thread) : (s.modThread c g l f).cur = s.cur := rfl
@[simp] theorem State.modThread_due (s : State) (c g l : Nat) (f : Thread → Thread) : (s.modThread c g l f).due = s.due := rfl
@[simp] theorem State.modThread_merged (s : State) (c g l : Nat) (f : Thread → Thread) : (s.modThread c g l f).merged = s.merged := rfl
@[simp] theorem State.modThread_late (s : State) (c g l : Nat) (f : Thread → Thread) : (s.modThread c g l f).late = s.late := rfl
@[simp] theorem State.modThread_sched (s : State) (c g l : Nat) (f : Thread → Thread) : (s.modThread c g l f).sched = s.sched := rfl
@[simp] theorem State.modThread_mem (s : State) (c g l : Nat) (f : Thread → Thread) : (s.modThread c g l f).mem = s.mem := rfl
@[simp] theorem State.modThread_tags (s : State) (c g l : Nat) (f : Thread → Thread) : (s.modThread c g l f).tags = s.tags := rfl
@[simp] theorem State.modThread_tagged (s : State) (c g l : Nat) (f : Thread → Thread) : (s.modThread c g l f).tagged = s.tagged := rfl
@[simp] theorem State.modThread_poison (s : State) (c g l : Nat) (f : Thread → Thread) : (s.modThread c g l f).poison = s.poison := rfl
@[simp] theorem State.modThread_asidRoot (s : State) (c g l : Nat) (f : Thread → Thread) : (s.modThread c g l f).asidRoot = s.asidRoot := rfl
@[simp] theorem State.modThread_xc (s : State) (c g l : Nat) (f : Thread → Thread) : (s.modThread c g l f).xc = s.xc := rfl
@[simp] theorem State.modThread_pageHome (s : State) (c g l : Nat) (f : Thread → Thread) : (s.modThread c g l f).pageHome = s.pageHome := rfl
@[simp] theorem State.modThread_l2 (s : State) (c g l : Nat) (f : Thread → Thread) : (s.modThread c g l f).l2 = s.l2 := rfl
@[simp] theorem State.modThread_dir (s : State) (c g l : Nat) (f : Thread → Thread) : (s.modThread c g l f).dir = s.dir := rfl
@[simp] theorem State.modThread_msgs (s : State) (c g l : Nat) (f : Thread → Thread) : (s.modThread c g l f).msgs = s.msgs := rfl
@[simp] theorem State.modThread_replica (s : State) (c g l : Nat) (f : Thread → Thread) : (s.modThread c g l f).replica = s.replica := rfl
@[simp] theorem State.modThread_collapse (s : State) (c g l : Nat) (f : Thread → Thread) : (s.modThread c g l f).collapse = s.collapse := rfl
@[simp] theorem State.modThread_gatherers (s : State) (c g l : Nat) (f : Thread → Thread) : (s.modThread c g l f).gatherers = s.gatherers := rfl
@[simp] theorem State.modThread_blocks (s : State) (c g l : Nat) (f : Thread → Thread) : (s.modThread c g l f).blocks = s.blocks := rfl
@[simp] theorem State.modThread_faultRec (s : State) (c g l : Nat) (f : Thread → Thread) : (s.modThread c g l f).faultRec = s.faultRec := rfl
@[simp] theorem State.modThread_hac (s : State) (c g l : Nat) (f : Thread → Thread) : (s.modThread c g l f).hac = s.hac := rfl
@[simp] theorem State.modThread_farDie (s : State) (c g l : Nat) (f : Thread → Thread) : (s.modThread c g l f).farDie = s.farDie := rfl
@[simp] theorem State.modThread_ops (s : State) (c g l : Nat) (f : Thread → Thread) : (s.modThread c g l f).ops = s.ops := rfl
@[simp] theorem State.modThread_remotes (s : State) (c g l : Nat) (f : Thread → Thread) : (s.modThread c g l f).remotes = s.remotes := rfl
@[simp] theorem State.modThread_remoteIn (s : State) (c g l : Nat) (f : Thread → Thread) : (s.modThread c g l f).remoteIn = s.remoteIn := rfl
@[simp] theorem State.modThread_pools (s : State) (c g l : Nat) (f : Thread → Thread) : (s.modThread c g l f).pools = s.pools := rfl
@[simp] theorem State.modThread_seqs (s : State) (c g l : Nat) (f : Thread → Thread) : (s.modThread c g l f).seqs = s.seqs := rfl
@[simp] theorem State.modThread_slotGen (s : State) (c g l : Nat) (f : Thread → Thread) : (s.modThread c g l f).slotGen = s.slotGen := rfl
@[simp] theorem State.modThread_pages (s : State) (c g l : Nat) (f : Thread → Thread) : (s.modThread c g l f).pages = s.pages := rfl
@[simp] theorem State.modThread_pfxDir (s : State) (c g l : Nat) (f : Thread → Thread) : (s.modThread c g l f).pfxDir = s.pfxDir := rfl
@[simp] theorem State.modThread_pfxMap (s : State) (c g l : Nat) (f : Thread → Thread) : (s.modThread c g l f).pfxMap = s.pfxMap := rfl
@[simp] theorem State.modThread_htsTbase (s : State) (c g l : Nat) (f : Thread → Thread) : (s.modThread c g l f).htsTbase = s.htsTbase := rfl
@[simp] theorem State.modThread_htsTsz (s : State) (c g l : Nat) (f : Thread → Thread) : (s.modThread c g l f).htsTsz = s.htsTsz := rfl
@[simp] theorem State.modThread_htsRes (s : State) (c g l : Nat) (f : Thread → Thread) : (s.modThread c g l f).htsRes = s.htsRes := rfl
@[simp] theorem State.modThread_htsCtx (s : State) (c g l : Nat) (f : Thread → Thread) : (s.modThread c g l f).htsCtx = s.htsCtx := rfl
@[simp] theorem State.modThread_htsCtxsz (s : State) (c g l : Nat) (f : Thread → Thread) : (s.modThread c g l f).htsCtxsz = s.htsCtxsz := rfl
@[simp] theorem State.modThread_htsIgn (s : State) (c g l : Nat) (f : Thread → Thread) : (s.modThread c g l f).htsIgn = s.htsIgn := rfl
@[simp] theorem State.modThread_htsRange (s : State) (c g l : Nat) (f : Thread → Thread) : (s.modThread c g l f).htsRange = s.htsRange := rfl
@[simp] theorem State.modThread_tasks (s : State) (c g l : Nat) (f : Thread → Thread) : (s.modThread c g l f).tasks = s.tasks := rfl
@[simp] theorem State.modThread_decs (s : State) (c g l : Nat) (f : Thread → Thread) : (s.modThread c g l f).decs = s.decs := rfl
@[simp] theorem State.modThread_launches (s : State) (c g l : Nat) (f : Thread → Thread) : (s.modThread c g l f).launches = s.launches := rfl
@[simp] theorem State.modThread_wgs (s : State) (c g l : Nat) (f : Thread → Thread) : (s.modThread c g l f).wgs = s.wgs := rfl
@[simp] theorem State.modThread_images (s : State) (c g l : Nat) (f : Thread → Thread) : (s.modThread c g l f).images = s.images := rfl
@[simp] theorem State.modThread_routes (s : State) (c g l : Nat) (f : Thread → Thread) : (s.modThread c g l f).routes = s.routes := rfl
@[simp] theorem State.modThread_groups (s : State) (c g l : Nat) (f : Thread → Thread) : (s.modThread c g l f).groups = s.groups := rfl
@[simp] theorem State.modThread_linksDown (s : State) (c g l : Nat) (f : Thread → Thread) : (s.modThread c g l f).linksDown = s.linksDown := rfl
@[simp] theorem State.modThread_packets (s : State) (c g l : Nat) (f : Thread → Thread) : (s.modThread c g l f).packets = s.packets := rfl
@[simp] theorem State.modThread_wire (s : State) (c g l : Nat) (f : Thread → Thread) : (s.modThread c g l f).wire = s.wire := rfl
@[simp] theorem State.modThread_sent (s : State) (c g l : Nat) (f : Thread → Thread) : (s.modThread c g l f).sent = s.sent := rfl
@[simp] theorem State.modThread_heard (s : State) (c g l : Nat) (f : Thread → Thread) : (s.modThread c g l f).heard = s.heard := rfl
@[simp] theorem State.modThread_collSeq (s : State) (c g l : Nat) (f : Thread → Thread) : (s.modThread c g l f).collSeq = s.collSeq := rfl
@[simp] theorem State.modThread_failed (s : State) (c g l : Nat) (f : Thread → Thread) : (s.modThread c g l f).failed = s.failed := rfl
@[simp] theorem State.modThread_numiStat (s : State) (c g l : Nat) (f : Thread → Thread) : (s.modThread c g l f).numiStat = s.numiStat := rfl
@[simp] theorem State.modThread_remap0 (s : State) (c g l : Nat) (f : Thread → Thread) : (s.modThread c g l f).remap0 = s.remap0 := rfl
@[simp] theorem State.modThread_remap1 (s : State) (c g l : Nat) (f : Thread → Thread) : (s.modThread c g l f).remap1 = s.remap1 := rfl
@[simp] theorem State.modThread_poolEnd (s : State) (c g l : Nat) (f : Thread → Thread) : (s.modThread c g l f).poolEnd = s.poolEnd := rfl
@[simp] theorem State.modThread_mbxIn (s : State) (c g l : Nat) (f : Thread → Thread) : (s.modThread c g l f).mbxIn = s.mbxIn := rfl
@[simp] theorem State.modThread_mbxOut (s : State) (c g l : Nat) (f : Thread → Thread) : (s.modThread c g l f).mbxOut = s.mbxOut := rfl
@[simp] theorem State.modThread_mbxDb (s : State) (c g l : Nat) (f : Thread → Thread) : (s.modThread c g l f).mbxDb = s.mbxDb := rfl
@[simp] theorem State.modThread_msix (s : State) (c g l : Nat) (f : Thread → Thread) : (s.modThread c g l f).msix = s.msix := rfl
@[simp] theorem State.modThread_hostRead (s : State) (c g l : Nat) (f : Thread → Thread) : (s.modThread c g l f).hostRead = s.hostRead := rfl
@[simp] theorem State.modThread_reports (s : State) (c g l : Nat) (f : Thread → Thread) : (s.modThread c g l f).reports = s.reports := rfl
@[simp] theorem State.modThread_ports (s : State) (c g l : Nat) (f : Thread → Thread) : (s.modThread c g l f).ports = s.ports := rfl
@[simp] theorem State.modThread_models (s : State) (c g l : Nat) (f : Thread → Thread) : (s.modThread c g l f).models = s.models := rfl
@[simp] theorem State.modThread_journal (s : State) (c g l : Nat) (f : Thread → Thread) : (s.modThread c g l f).journal = s.journal := rfl
@[simp] theorem State.modThread_nextId (s : State) (c g l : Nat) (f : Thread → Thread) : (s.modThread c g l f).nextId = s.nextId := rfl
@[simp] theorem State.modThread_free (s : State) (c g l : Nat) (f : Thread → Thread) : (s.modThread c g l f).free = s.free := rfl

@[simp] theorem State.onHere_part (s : State) (f : Group → Group) : (s.onHere f).part = s.part := rfl
@[simp] theorem State.onHere_boot (s : State) (f : Group → Group) : (s.onHere f).boot = s.boot := rfl
@[simp] theorem State.onHere_flash (s : State) (f : Group → Group) : (s.onHere f).flash = s.flash := rfl
@[simp] theorem State.onHere_fusedCounter (s : State) (f : Group → Group) : (s.onHere f).fusedCounter = s.fusedCounter := rfl
@[simp] theorem State.onHere_clock (s : State) (f : Group → Group) : (s.onHere f).clock = s.clock := rfl
@[simp] theorem State.onHere_timeFs (s : State) (f : Group → Group) : (s.onHere f).timeFs = s.timeFs := rfl
@[simp] theorem State.onHere_timeParts (s : State) (f : Group → Group) : (s.onHere f).timeParts = s.timeParts := rfl
@[simp] theorem State.onHere_mhz (s : State) (f : Group → Group) : (s.onHere f).mhz = s.mhz := rfl
@[simp] theorem State.onHere_dev (s : State) (f : Group → Group) : (s.onHere f).dev = s.dev := rfl
@[simp] theorem State.onHere_cur (s : State) (f : Group → Group) : (s.onHere f).cur = s.cur := rfl
@[simp] theorem State.onHere_due (s : State) (f : Group → Group) : (s.onHere f).due = s.due := rfl
@[simp] theorem State.onHere_merged (s : State) (f : Group → Group) : (s.onHere f).merged = s.merged := rfl
@[simp] theorem State.onHere_late (s : State) (f : Group → Group) : (s.onHere f).late = s.late := rfl
@[simp] theorem State.onHere_sched (s : State) (f : Group → Group) : (s.onHere f).sched = s.sched := rfl
@[simp] theorem State.onHere_mem (s : State) (f : Group → Group) : (s.onHere f).mem = s.mem := rfl
@[simp] theorem State.onHere_tags (s : State) (f : Group → Group) : (s.onHere f).tags = s.tags := rfl
@[simp] theorem State.onHere_tagged (s : State) (f : Group → Group) : (s.onHere f).tagged = s.tagged := rfl
@[simp] theorem State.onHere_poison (s : State) (f : Group → Group) : (s.onHere f).poison = s.poison := rfl
@[simp] theorem State.onHere_asidRoot (s : State) (f : Group → Group) : (s.onHere f).asidRoot = s.asidRoot := rfl
@[simp] theorem State.onHere_xc (s : State) (f : Group → Group) : (s.onHere f).xc = s.xc := rfl
@[simp] theorem State.onHere_pageHome (s : State) (f : Group → Group) : (s.onHere f).pageHome = s.pageHome := rfl
@[simp] theorem State.onHere_l2 (s : State) (f : Group → Group) : (s.onHere f).l2 = s.l2 := rfl
@[simp] theorem State.onHere_dir (s : State) (f : Group → Group) : (s.onHere f).dir = s.dir := rfl
@[simp] theorem State.onHere_msgs (s : State) (f : Group → Group) : (s.onHere f).msgs = s.msgs := rfl
@[simp] theorem State.onHere_replica (s : State) (f : Group → Group) : (s.onHere f).replica = s.replica := rfl
@[simp] theorem State.onHere_collapse (s : State) (f : Group → Group) : (s.onHere f).collapse = s.collapse := rfl
@[simp] theorem State.onHere_gatherers (s : State) (f : Group → Group) : (s.onHere f).gatherers = s.gatherers := rfl
@[simp] theorem State.onHere_blocks (s : State) (f : Group → Group) : (s.onHere f).blocks = s.blocks := rfl
@[simp] theorem State.onHere_faultRec (s : State) (f : Group → Group) : (s.onHere f).faultRec = s.faultRec := rfl
@[simp] theorem State.onHere_hac (s : State) (f : Group → Group) : (s.onHere f).hac = s.hac := rfl
@[simp] theorem State.onHere_farDie (s : State) (f : Group → Group) : (s.onHere f).farDie = s.farDie := rfl
@[simp] theorem State.onHere_ops (s : State) (f : Group → Group) : (s.onHere f).ops = s.ops := rfl
@[simp] theorem State.onHere_remotes (s : State) (f : Group → Group) : (s.onHere f).remotes = s.remotes := rfl
@[simp] theorem State.onHere_remoteIn (s : State) (f : Group → Group) : (s.onHere f).remoteIn = s.remoteIn := rfl
@[simp] theorem State.onHere_pools (s : State) (f : Group → Group) : (s.onHere f).pools = s.pools := rfl
@[simp] theorem State.onHere_seqs (s : State) (f : Group → Group) : (s.onHere f).seqs = s.seqs := rfl
@[simp] theorem State.onHere_slotGen (s : State) (f : Group → Group) : (s.onHere f).slotGen = s.slotGen := rfl
@[simp] theorem State.onHere_pages (s : State) (f : Group → Group) : (s.onHere f).pages = s.pages := rfl
@[simp] theorem State.onHere_pfxDir (s : State) (f : Group → Group) : (s.onHere f).pfxDir = s.pfxDir := rfl
@[simp] theorem State.onHere_pfxMap (s : State) (f : Group → Group) : (s.onHere f).pfxMap = s.pfxMap := rfl
@[simp] theorem State.onHere_htsTbase (s : State) (f : Group → Group) : (s.onHere f).htsTbase = s.htsTbase := rfl
@[simp] theorem State.onHere_htsTsz (s : State) (f : Group → Group) : (s.onHere f).htsTsz = s.htsTsz := rfl
@[simp] theorem State.onHere_htsRes (s : State) (f : Group → Group) : (s.onHere f).htsRes = s.htsRes := rfl
@[simp] theorem State.onHere_htsCtx (s : State) (f : Group → Group) : (s.onHere f).htsCtx = s.htsCtx := rfl
@[simp] theorem State.onHere_htsCtxsz (s : State) (f : Group → Group) : (s.onHere f).htsCtxsz = s.htsCtxsz := rfl
@[simp] theorem State.onHere_htsIgn (s : State) (f : Group → Group) : (s.onHere f).htsIgn = s.htsIgn := rfl
@[simp] theorem State.onHere_htsRange (s : State) (f : Group → Group) : (s.onHere f).htsRange = s.htsRange := rfl
@[simp] theorem State.onHere_tasks (s : State) (f : Group → Group) : (s.onHere f).tasks = s.tasks := rfl
@[simp] theorem State.onHere_decs (s : State) (f : Group → Group) : (s.onHere f).decs = s.decs := rfl
@[simp] theorem State.onHere_launches (s : State) (f : Group → Group) : (s.onHere f).launches = s.launches := rfl
@[simp] theorem State.onHere_wgs (s : State) (f : Group → Group) : (s.onHere f).wgs = s.wgs := rfl
@[simp] theorem State.onHere_images (s : State) (f : Group → Group) : (s.onHere f).images = s.images := rfl
@[simp] theorem State.onHere_routes (s : State) (f : Group → Group) : (s.onHere f).routes = s.routes := rfl
@[simp] theorem State.onHere_groups (s : State) (f : Group → Group) : (s.onHere f).groups = s.groups := rfl
@[simp] theorem State.onHere_linksDown (s : State) (f : Group → Group) : (s.onHere f).linksDown = s.linksDown := rfl
@[simp] theorem State.onHere_packets (s : State) (f : Group → Group) : (s.onHere f).packets = s.packets := rfl
@[simp] theorem State.onHere_wire (s : State) (f : Group → Group) : (s.onHere f).wire = s.wire := rfl
@[simp] theorem State.onHere_sent (s : State) (f : Group → Group) : (s.onHere f).sent = s.sent := rfl
@[simp] theorem State.onHere_heard (s : State) (f : Group → Group) : (s.onHere f).heard = s.heard := rfl
@[simp] theorem State.onHere_collSeq (s : State) (f : Group → Group) : (s.onHere f).collSeq = s.collSeq := rfl
@[simp] theorem State.onHere_failed (s : State) (f : Group → Group) : (s.onHere f).failed = s.failed := rfl
@[simp] theorem State.onHere_numiStat (s : State) (f : Group → Group) : (s.onHere f).numiStat = s.numiStat := rfl
@[simp] theorem State.onHere_remap0 (s : State) (f : Group → Group) : (s.onHere f).remap0 = s.remap0 := rfl
@[simp] theorem State.onHere_remap1 (s : State) (f : Group → Group) : (s.onHere f).remap1 = s.remap1 := rfl
@[simp] theorem State.onHere_poolEnd (s : State) (f : Group → Group) : (s.onHere f).poolEnd = s.poolEnd := rfl
@[simp] theorem State.onHere_mbxIn (s : State) (f : Group → Group) : (s.onHere f).mbxIn = s.mbxIn := rfl
@[simp] theorem State.onHere_mbxOut (s : State) (f : Group → Group) : (s.onHere f).mbxOut = s.mbxOut := rfl
@[simp] theorem State.onHere_mbxDb (s : State) (f : Group → Group) : (s.onHere f).mbxDb = s.mbxDb := rfl
@[simp] theorem State.onHere_msix (s : State) (f : Group → Group) : (s.onHere f).msix = s.msix := rfl
@[simp] theorem State.onHere_hostRead (s : State) (f : Group → Group) : (s.onHere f).hostRead = s.hostRead := rfl
@[simp] theorem State.onHere_reports (s : State) (f : Group → Group) : (s.onHere f).reports = s.reports := rfl
@[simp] theorem State.onHere_ports (s : State) (f : Group → Group) : (s.onHere f).ports = s.ports := rfl
@[simp] theorem State.onHere_models (s : State) (f : Group → Group) : (s.onHere f).models = s.models := rfl
@[simp] theorem State.onHere_journal (s : State) (f : Group → Group) : (s.onHere f).journal = s.journal := rfl
@[simp] theorem State.onHere_nextId (s : State) (f : Group → Group) : (s.onHere f).nextId = s.nextId := rfl
@[simp] theorem State.onHere_free (s : State) (f : Group → Group) : (s.onHere f).free = s.free := rfl

@[simp] theorem State.lanesDo_part (s : State) (f : Group → Nat → Group) : (s.lanesDo f).part = s.part := rfl
@[simp] theorem State.lanesDo_boot (s : State) (f : Group → Nat → Group) : (s.lanesDo f).boot = s.boot := rfl
@[simp] theorem State.lanesDo_flash (s : State) (f : Group → Nat → Group) : (s.lanesDo f).flash = s.flash := rfl
@[simp] theorem State.lanesDo_fusedCounter (s : State) (f : Group → Nat → Group) : (s.lanesDo f).fusedCounter = s.fusedCounter := rfl
@[simp] theorem State.lanesDo_clock (s : State) (f : Group → Nat → Group) : (s.lanesDo f).clock = s.clock := rfl
@[simp] theorem State.lanesDo_timeFs (s : State) (f : Group → Nat → Group) : (s.lanesDo f).timeFs = s.timeFs := rfl
@[simp] theorem State.lanesDo_timeParts (s : State) (f : Group → Nat → Group) : (s.lanesDo f).timeParts = s.timeParts := rfl
@[simp] theorem State.lanesDo_mhz (s : State) (f : Group → Nat → Group) : (s.lanesDo f).mhz = s.mhz := rfl
@[simp] theorem State.lanesDo_dev (s : State) (f : Group → Nat → Group) : (s.lanesDo f).dev = s.dev := rfl
@[simp] theorem State.lanesDo_cur (s : State) (f : Group → Nat → Group) : (s.lanesDo f).cur = s.cur := rfl
@[simp] theorem State.lanesDo_due (s : State) (f : Group → Nat → Group) : (s.lanesDo f).due = s.due := rfl
@[simp] theorem State.lanesDo_merged (s : State) (f : Group → Nat → Group) : (s.lanesDo f).merged = s.merged := rfl
@[simp] theorem State.lanesDo_late (s : State) (f : Group → Nat → Group) : (s.lanesDo f).late = s.late := rfl
@[simp] theorem State.lanesDo_sched (s : State) (f : Group → Nat → Group) : (s.lanesDo f).sched = s.sched := rfl
@[simp] theorem State.lanesDo_mem (s : State) (f : Group → Nat → Group) : (s.lanesDo f).mem = s.mem := rfl
@[simp] theorem State.lanesDo_tags (s : State) (f : Group → Nat → Group) : (s.lanesDo f).tags = s.tags := rfl
@[simp] theorem State.lanesDo_tagged (s : State) (f : Group → Nat → Group) : (s.lanesDo f).tagged = s.tagged := rfl
@[simp] theorem State.lanesDo_poison (s : State) (f : Group → Nat → Group) : (s.lanesDo f).poison = s.poison := rfl
@[simp] theorem State.lanesDo_asidRoot (s : State) (f : Group → Nat → Group) : (s.lanesDo f).asidRoot = s.asidRoot := rfl
@[simp] theorem State.lanesDo_xc (s : State) (f : Group → Nat → Group) : (s.lanesDo f).xc = s.xc := rfl
@[simp] theorem State.lanesDo_pageHome (s : State) (f : Group → Nat → Group) : (s.lanesDo f).pageHome = s.pageHome := rfl
@[simp] theorem State.lanesDo_l2 (s : State) (f : Group → Nat → Group) : (s.lanesDo f).l2 = s.l2 := rfl
@[simp] theorem State.lanesDo_dir (s : State) (f : Group → Nat → Group) : (s.lanesDo f).dir = s.dir := rfl
@[simp] theorem State.lanesDo_msgs (s : State) (f : Group → Nat → Group) : (s.lanesDo f).msgs = s.msgs := rfl
@[simp] theorem State.lanesDo_replica (s : State) (f : Group → Nat → Group) : (s.lanesDo f).replica = s.replica := rfl
@[simp] theorem State.lanesDo_collapse (s : State) (f : Group → Nat → Group) : (s.lanesDo f).collapse = s.collapse := rfl
@[simp] theorem State.lanesDo_gatherers (s : State) (f : Group → Nat → Group) : (s.lanesDo f).gatherers = s.gatherers := rfl
@[simp] theorem State.lanesDo_blocks (s : State) (f : Group → Nat → Group) : (s.lanesDo f).blocks = s.blocks := rfl
@[simp] theorem State.lanesDo_faultRec (s : State) (f : Group → Nat → Group) : (s.lanesDo f).faultRec = s.faultRec := rfl
@[simp] theorem State.lanesDo_hac (s : State) (f : Group → Nat → Group) : (s.lanesDo f).hac = s.hac := rfl
@[simp] theorem State.lanesDo_farDie (s : State) (f : Group → Nat → Group) : (s.lanesDo f).farDie = s.farDie := rfl
@[simp] theorem State.lanesDo_ops (s : State) (f : Group → Nat → Group) : (s.lanesDo f).ops = s.ops := rfl
@[simp] theorem State.lanesDo_remotes (s : State) (f : Group → Nat → Group) : (s.lanesDo f).remotes = s.remotes := rfl
@[simp] theorem State.lanesDo_remoteIn (s : State) (f : Group → Nat → Group) : (s.lanesDo f).remoteIn = s.remoteIn := rfl
@[simp] theorem State.lanesDo_pools (s : State) (f : Group → Nat → Group) : (s.lanesDo f).pools = s.pools := rfl
@[simp] theorem State.lanesDo_seqs (s : State) (f : Group → Nat → Group) : (s.lanesDo f).seqs = s.seqs := rfl
@[simp] theorem State.lanesDo_slotGen (s : State) (f : Group → Nat → Group) : (s.lanesDo f).slotGen = s.slotGen := rfl
@[simp] theorem State.lanesDo_pages (s : State) (f : Group → Nat → Group) : (s.lanesDo f).pages = s.pages := rfl
@[simp] theorem State.lanesDo_pfxDir (s : State) (f : Group → Nat → Group) : (s.lanesDo f).pfxDir = s.pfxDir := rfl
@[simp] theorem State.lanesDo_pfxMap (s : State) (f : Group → Nat → Group) : (s.lanesDo f).pfxMap = s.pfxMap := rfl
@[simp] theorem State.lanesDo_htsTbase (s : State) (f : Group → Nat → Group) : (s.lanesDo f).htsTbase = s.htsTbase := rfl
@[simp] theorem State.lanesDo_htsTsz (s : State) (f : Group → Nat → Group) : (s.lanesDo f).htsTsz = s.htsTsz := rfl
@[simp] theorem State.lanesDo_htsRes (s : State) (f : Group → Nat → Group) : (s.lanesDo f).htsRes = s.htsRes := rfl
@[simp] theorem State.lanesDo_htsCtx (s : State) (f : Group → Nat → Group) : (s.lanesDo f).htsCtx = s.htsCtx := rfl
@[simp] theorem State.lanesDo_htsCtxsz (s : State) (f : Group → Nat → Group) : (s.lanesDo f).htsCtxsz = s.htsCtxsz := rfl
@[simp] theorem State.lanesDo_htsIgn (s : State) (f : Group → Nat → Group) : (s.lanesDo f).htsIgn = s.htsIgn := rfl
@[simp] theorem State.lanesDo_htsRange (s : State) (f : Group → Nat → Group) : (s.lanesDo f).htsRange = s.htsRange := rfl
@[simp] theorem State.lanesDo_tasks (s : State) (f : Group → Nat → Group) : (s.lanesDo f).tasks = s.tasks := rfl
@[simp] theorem State.lanesDo_decs (s : State) (f : Group → Nat → Group) : (s.lanesDo f).decs = s.decs := rfl
@[simp] theorem State.lanesDo_launches (s : State) (f : Group → Nat → Group) : (s.lanesDo f).launches = s.launches := rfl
@[simp] theorem State.lanesDo_wgs (s : State) (f : Group → Nat → Group) : (s.lanesDo f).wgs = s.wgs := rfl
@[simp] theorem State.lanesDo_images (s : State) (f : Group → Nat → Group) : (s.lanesDo f).images = s.images := rfl
@[simp] theorem State.lanesDo_routes (s : State) (f : Group → Nat → Group) : (s.lanesDo f).routes = s.routes := rfl
@[simp] theorem State.lanesDo_groups (s : State) (f : Group → Nat → Group) : (s.lanesDo f).groups = s.groups := rfl
@[simp] theorem State.lanesDo_linksDown (s : State) (f : Group → Nat → Group) : (s.lanesDo f).linksDown = s.linksDown := rfl
@[simp] theorem State.lanesDo_packets (s : State) (f : Group → Nat → Group) : (s.lanesDo f).packets = s.packets := rfl
@[simp] theorem State.lanesDo_wire (s : State) (f : Group → Nat → Group) : (s.lanesDo f).wire = s.wire := rfl
@[simp] theorem State.lanesDo_sent (s : State) (f : Group → Nat → Group) : (s.lanesDo f).sent = s.sent := rfl
@[simp] theorem State.lanesDo_heard (s : State) (f : Group → Nat → Group) : (s.lanesDo f).heard = s.heard := rfl
@[simp] theorem State.lanesDo_collSeq (s : State) (f : Group → Nat → Group) : (s.lanesDo f).collSeq = s.collSeq := rfl
@[simp] theorem State.lanesDo_failed (s : State) (f : Group → Nat → Group) : (s.lanesDo f).failed = s.failed := rfl
@[simp] theorem State.lanesDo_numiStat (s : State) (f : Group → Nat → Group) : (s.lanesDo f).numiStat = s.numiStat := rfl
@[simp] theorem State.lanesDo_remap0 (s : State) (f : Group → Nat → Group) : (s.lanesDo f).remap0 = s.remap0 := rfl
@[simp] theorem State.lanesDo_remap1 (s : State) (f : Group → Nat → Group) : (s.lanesDo f).remap1 = s.remap1 := rfl
@[simp] theorem State.lanesDo_poolEnd (s : State) (f : Group → Nat → Group) : (s.lanesDo f).poolEnd = s.poolEnd := rfl
@[simp] theorem State.lanesDo_mbxIn (s : State) (f : Group → Nat → Group) : (s.lanesDo f).mbxIn = s.mbxIn := rfl
@[simp] theorem State.lanesDo_mbxOut (s : State) (f : Group → Nat → Group) : (s.lanesDo f).mbxOut = s.mbxOut := rfl
@[simp] theorem State.lanesDo_mbxDb (s : State) (f : Group → Nat → Group) : (s.lanesDo f).mbxDb = s.mbxDb := rfl
@[simp] theorem State.lanesDo_msix (s : State) (f : Group → Nat → Group) : (s.lanesDo f).msix = s.msix := rfl
@[simp] theorem State.lanesDo_hostRead (s : State) (f : Group → Nat → Group) : (s.lanesDo f).hostRead = s.hostRead := rfl
@[simp] theorem State.lanesDo_reports (s : State) (f : Group → Nat → Group) : (s.lanesDo f).reports = s.reports := rfl
@[simp] theorem State.lanesDo_ports (s : State) (f : Group → Nat → Group) : (s.lanesDo f).ports = s.ports := rfl
@[simp] theorem State.lanesDo_models (s : State) (f : Group → Nat → Group) : (s.lanesDo f).models = s.models := rfl
@[simp] theorem State.lanesDo_journal (s : State) (f : Group → Nat → Group) : (s.lanesDo f).journal = s.journal := rfl
@[simp] theorem State.lanesDo_nextId (s : State) (f : Group → Nat → Group) : (s.lanesDo f).nextId = s.nextId := rfl
@[simp] theorem State.lanesDo_free (s : State) (f : Group → Nat → Group) : (s.lanesDo f).free = s.free := rfl

@[simp] theorem State.vset_part (s : State) (d : Nat) (f : Nat → Word) : (s.vset d f).part = s.part := rfl
@[simp] theorem State.vset_boot (s : State) (d : Nat) (f : Nat → Word) : (s.vset d f).boot = s.boot := rfl
@[simp] theorem State.vset_flash (s : State) (d : Nat) (f : Nat → Word) : (s.vset d f).flash = s.flash := rfl
@[simp] theorem State.vset_fusedCounter (s : State) (d : Nat) (f : Nat → Word) : (s.vset d f).fusedCounter = s.fusedCounter := rfl
@[simp] theorem State.vset_clock (s : State) (d : Nat) (f : Nat → Word) : (s.vset d f).clock = s.clock := rfl
@[simp] theorem State.vset_timeFs (s : State) (d : Nat) (f : Nat → Word) : (s.vset d f).timeFs = s.timeFs := rfl
@[simp] theorem State.vset_timeParts (s : State) (d : Nat) (f : Nat → Word) : (s.vset d f).timeParts = s.timeParts := rfl
@[simp] theorem State.vset_mhz (s : State) (d : Nat) (f : Nat → Word) : (s.vset d f).mhz = s.mhz := rfl
@[simp] theorem State.vset_dev (s : State) (d : Nat) (f : Nat → Word) : (s.vset d f).dev = s.dev := rfl
@[simp] theorem State.vset_cur (s : State) (d : Nat) (f : Nat → Word) : (s.vset d f).cur = s.cur := rfl
@[simp] theorem State.vset_due (s : State) (d : Nat) (f : Nat → Word) : (s.vset d f).due = s.due := rfl
@[simp] theorem State.vset_merged (s : State) (d : Nat) (f : Nat → Word) : (s.vset d f).merged = s.merged := rfl
@[simp] theorem State.vset_late (s : State) (d : Nat) (f : Nat → Word) : (s.vset d f).late = s.late := rfl
@[simp] theorem State.vset_sched (s : State) (d : Nat) (f : Nat → Word) : (s.vset d f).sched = s.sched := rfl
@[simp] theorem State.vset_mem (s : State) (d : Nat) (f : Nat → Word) : (s.vset d f).mem = s.mem := rfl
@[simp] theorem State.vset_tags (s : State) (d : Nat) (f : Nat → Word) : (s.vset d f).tags = s.tags := rfl
@[simp] theorem State.vset_tagged (s : State) (d : Nat) (f : Nat → Word) : (s.vset d f).tagged = s.tagged := rfl
@[simp] theorem State.vset_poison (s : State) (d : Nat) (f : Nat → Word) : (s.vset d f).poison = s.poison := rfl
@[simp] theorem State.vset_asidRoot (s : State) (d : Nat) (f : Nat → Word) : (s.vset d f).asidRoot = s.asidRoot := rfl
@[simp] theorem State.vset_xc (s : State) (d : Nat) (f : Nat → Word) : (s.vset d f).xc = s.xc := rfl
@[simp] theorem State.vset_pageHome (s : State) (d : Nat) (f : Nat → Word) : (s.vset d f).pageHome = s.pageHome := rfl
@[simp] theorem State.vset_l2 (s : State) (d : Nat) (f : Nat → Word) : (s.vset d f).l2 = s.l2 := rfl
@[simp] theorem State.vset_dir (s : State) (d : Nat) (f : Nat → Word) : (s.vset d f).dir = s.dir := rfl
@[simp] theorem State.vset_msgs (s : State) (d : Nat) (f : Nat → Word) : (s.vset d f).msgs = s.msgs := rfl
@[simp] theorem State.vset_replica (s : State) (d : Nat) (f : Nat → Word) : (s.vset d f).replica = s.replica := rfl
@[simp] theorem State.vset_collapse (s : State) (d : Nat) (f : Nat → Word) : (s.vset d f).collapse = s.collapse := rfl
@[simp] theorem State.vset_gatherers (s : State) (d : Nat) (f : Nat → Word) : (s.vset d f).gatherers = s.gatherers := rfl
@[simp] theorem State.vset_blocks (s : State) (d : Nat) (f : Nat → Word) : (s.vset d f).blocks = s.blocks := rfl
@[simp] theorem State.vset_faultRec (s : State) (d : Nat) (f : Nat → Word) : (s.vset d f).faultRec = s.faultRec := rfl
@[simp] theorem State.vset_hac (s : State) (d : Nat) (f : Nat → Word) : (s.vset d f).hac = s.hac := rfl
@[simp] theorem State.vset_farDie (s : State) (d : Nat) (f : Nat → Word) : (s.vset d f).farDie = s.farDie := rfl
@[simp] theorem State.vset_ops (s : State) (d : Nat) (f : Nat → Word) : (s.vset d f).ops = s.ops := rfl
@[simp] theorem State.vset_remotes (s : State) (d : Nat) (f : Nat → Word) : (s.vset d f).remotes = s.remotes := rfl
@[simp] theorem State.vset_remoteIn (s : State) (d : Nat) (f : Nat → Word) : (s.vset d f).remoteIn = s.remoteIn := rfl
@[simp] theorem State.vset_pools (s : State) (d : Nat) (f : Nat → Word) : (s.vset d f).pools = s.pools := rfl
@[simp] theorem State.vset_seqs (s : State) (d : Nat) (f : Nat → Word) : (s.vset d f).seqs = s.seqs := rfl
@[simp] theorem State.vset_slotGen (s : State) (d : Nat) (f : Nat → Word) : (s.vset d f).slotGen = s.slotGen := rfl
@[simp] theorem State.vset_pages (s : State) (d : Nat) (f : Nat → Word) : (s.vset d f).pages = s.pages := rfl
@[simp] theorem State.vset_pfxDir (s : State) (d : Nat) (f : Nat → Word) : (s.vset d f).pfxDir = s.pfxDir := rfl
@[simp] theorem State.vset_pfxMap (s : State) (d : Nat) (f : Nat → Word) : (s.vset d f).pfxMap = s.pfxMap := rfl
@[simp] theorem State.vset_htsTbase (s : State) (d : Nat) (f : Nat → Word) : (s.vset d f).htsTbase = s.htsTbase := rfl
@[simp] theorem State.vset_htsTsz (s : State) (d : Nat) (f : Nat → Word) : (s.vset d f).htsTsz = s.htsTsz := rfl
@[simp] theorem State.vset_htsRes (s : State) (d : Nat) (f : Nat → Word) : (s.vset d f).htsRes = s.htsRes := rfl
@[simp] theorem State.vset_htsCtx (s : State) (d : Nat) (f : Nat → Word) : (s.vset d f).htsCtx = s.htsCtx := rfl
@[simp] theorem State.vset_htsCtxsz (s : State) (d : Nat) (f : Nat → Word) : (s.vset d f).htsCtxsz = s.htsCtxsz := rfl
@[simp] theorem State.vset_htsIgn (s : State) (d : Nat) (f : Nat → Word) : (s.vset d f).htsIgn = s.htsIgn := rfl
@[simp] theorem State.vset_htsRange (s : State) (d : Nat) (f : Nat → Word) : (s.vset d f).htsRange = s.htsRange := rfl
@[simp] theorem State.vset_tasks (s : State) (d : Nat) (f : Nat → Word) : (s.vset d f).tasks = s.tasks := rfl
@[simp] theorem State.vset_decs (s : State) (d : Nat) (f : Nat → Word) : (s.vset d f).decs = s.decs := rfl
@[simp] theorem State.vset_launches (s : State) (d : Nat) (f : Nat → Word) : (s.vset d f).launches = s.launches := rfl
@[simp] theorem State.vset_wgs (s : State) (d : Nat) (f : Nat → Word) : (s.vset d f).wgs = s.wgs := rfl
@[simp] theorem State.vset_images (s : State) (d : Nat) (f : Nat → Word) : (s.vset d f).images = s.images := rfl
@[simp] theorem State.vset_routes (s : State) (d : Nat) (f : Nat → Word) : (s.vset d f).routes = s.routes := rfl
@[simp] theorem State.vset_groups (s : State) (d : Nat) (f : Nat → Word) : (s.vset d f).groups = s.groups := rfl
@[simp] theorem State.vset_linksDown (s : State) (d : Nat) (f : Nat → Word) : (s.vset d f).linksDown = s.linksDown := rfl
@[simp] theorem State.vset_packets (s : State) (d : Nat) (f : Nat → Word) : (s.vset d f).packets = s.packets := rfl
@[simp] theorem State.vset_wire (s : State) (d : Nat) (f : Nat → Word) : (s.vset d f).wire = s.wire := rfl
@[simp] theorem State.vset_sent (s : State) (d : Nat) (f : Nat → Word) : (s.vset d f).sent = s.sent := rfl
@[simp] theorem State.vset_heard (s : State) (d : Nat) (f : Nat → Word) : (s.vset d f).heard = s.heard := rfl
@[simp] theorem State.vset_collSeq (s : State) (d : Nat) (f : Nat → Word) : (s.vset d f).collSeq = s.collSeq := rfl
@[simp] theorem State.vset_failed (s : State) (d : Nat) (f : Nat → Word) : (s.vset d f).failed = s.failed := rfl
@[simp] theorem State.vset_numiStat (s : State) (d : Nat) (f : Nat → Word) : (s.vset d f).numiStat = s.numiStat := rfl
@[simp] theorem State.vset_remap0 (s : State) (d : Nat) (f : Nat → Word) : (s.vset d f).remap0 = s.remap0 := rfl
@[simp] theorem State.vset_remap1 (s : State) (d : Nat) (f : Nat → Word) : (s.vset d f).remap1 = s.remap1 := rfl
@[simp] theorem State.vset_poolEnd (s : State) (d : Nat) (f : Nat → Word) : (s.vset d f).poolEnd = s.poolEnd := rfl
@[simp] theorem State.vset_mbxIn (s : State) (d : Nat) (f : Nat → Word) : (s.vset d f).mbxIn = s.mbxIn := rfl
@[simp] theorem State.vset_mbxOut (s : State) (d : Nat) (f : Nat → Word) : (s.vset d f).mbxOut = s.mbxOut := rfl
@[simp] theorem State.vset_mbxDb (s : State) (d : Nat) (f : Nat → Word) : (s.vset d f).mbxDb = s.mbxDb := rfl
@[simp] theorem State.vset_msix (s : State) (d : Nat) (f : Nat → Word) : (s.vset d f).msix = s.msix := rfl
@[simp] theorem State.vset_hostRead (s : State) (d : Nat) (f : Nat → Word) : (s.vset d f).hostRead = s.hostRead := rfl
@[simp] theorem State.vset_reports (s : State) (d : Nat) (f : Nat → Word) : (s.vset d f).reports = s.reports := rfl
@[simp] theorem State.vset_ports (s : State) (d : Nat) (f : Nat → Word) : (s.vset d f).ports = s.ports := rfl
@[simp] theorem State.vset_models (s : State) (d : Nat) (f : Nat → Word) : (s.vset d f).models = s.models := rfl
@[simp] theorem State.vset_journal (s : State) (d : Nat) (f : Nat → Word) : (s.vset d f).journal = s.journal := rfl
@[simp] theorem State.vset_nextId (s : State) (d : Nat) (f : Nat → Word) : (s.vset d f).nextId = s.nextId := rfl
@[simp] theorem State.vset_free (s : State) (d : Nat) (f : Nat → Word) : (s.vset d f).free = s.free := rfl

@[simp] theorem State.vset64_part (s : State) (d : Nat) (f : Nat → Dword) : (s.vset64 d f).part = s.part := rfl
@[simp] theorem State.vset64_boot (s : State) (d : Nat) (f : Nat → Dword) : (s.vset64 d f).boot = s.boot := rfl
@[simp] theorem State.vset64_flash (s : State) (d : Nat) (f : Nat → Dword) : (s.vset64 d f).flash = s.flash := rfl
@[simp] theorem State.vset64_fusedCounter (s : State) (d : Nat) (f : Nat → Dword) : (s.vset64 d f).fusedCounter = s.fusedCounter := rfl
@[simp] theorem State.vset64_clock (s : State) (d : Nat) (f : Nat → Dword) : (s.vset64 d f).clock = s.clock := rfl
@[simp] theorem State.vset64_timeFs (s : State) (d : Nat) (f : Nat → Dword) : (s.vset64 d f).timeFs = s.timeFs := rfl
@[simp] theorem State.vset64_timeParts (s : State) (d : Nat) (f : Nat → Dword) : (s.vset64 d f).timeParts = s.timeParts := rfl
@[simp] theorem State.vset64_mhz (s : State) (d : Nat) (f : Nat → Dword) : (s.vset64 d f).mhz = s.mhz := rfl
@[simp] theorem State.vset64_dev (s : State) (d : Nat) (f : Nat → Dword) : (s.vset64 d f).dev = s.dev := rfl
@[simp] theorem State.vset64_cur (s : State) (d : Nat) (f : Nat → Dword) : (s.vset64 d f).cur = s.cur := rfl
@[simp] theorem State.vset64_due (s : State) (d : Nat) (f : Nat → Dword) : (s.vset64 d f).due = s.due := rfl
@[simp] theorem State.vset64_merged (s : State) (d : Nat) (f : Nat → Dword) : (s.vset64 d f).merged = s.merged := rfl
@[simp] theorem State.vset64_late (s : State) (d : Nat) (f : Nat → Dword) : (s.vset64 d f).late = s.late := rfl
@[simp] theorem State.vset64_sched (s : State) (d : Nat) (f : Nat → Dword) : (s.vset64 d f).sched = s.sched := rfl
@[simp] theorem State.vset64_mem (s : State) (d : Nat) (f : Nat → Dword) : (s.vset64 d f).mem = s.mem := rfl
@[simp] theorem State.vset64_tags (s : State) (d : Nat) (f : Nat → Dword) : (s.vset64 d f).tags = s.tags := rfl
@[simp] theorem State.vset64_tagged (s : State) (d : Nat) (f : Nat → Dword) : (s.vset64 d f).tagged = s.tagged := rfl
@[simp] theorem State.vset64_poison (s : State) (d : Nat) (f : Nat → Dword) : (s.vset64 d f).poison = s.poison := rfl
@[simp] theorem State.vset64_asidRoot (s : State) (d : Nat) (f : Nat → Dword) : (s.vset64 d f).asidRoot = s.asidRoot := rfl
@[simp] theorem State.vset64_xc (s : State) (d : Nat) (f : Nat → Dword) : (s.vset64 d f).xc = s.xc := rfl
@[simp] theorem State.vset64_pageHome (s : State) (d : Nat) (f : Nat → Dword) : (s.vset64 d f).pageHome = s.pageHome := rfl
@[simp] theorem State.vset64_l2 (s : State) (d : Nat) (f : Nat → Dword) : (s.vset64 d f).l2 = s.l2 := rfl
@[simp] theorem State.vset64_dir (s : State) (d : Nat) (f : Nat → Dword) : (s.vset64 d f).dir = s.dir := rfl
@[simp] theorem State.vset64_msgs (s : State) (d : Nat) (f : Nat → Dword) : (s.vset64 d f).msgs = s.msgs := rfl
@[simp] theorem State.vset64_replica (s : State) (d : Nat) (f : Nat → Dword) : (s.vset64 d f).replica = s.replica := rfl
@[simp] theorem State.vset64_collapse (s : State) (d : Nat) (f : Nat → Dword) : (s.vset64 d f).collapse = s.collapse := rfl
@[simp] theorem State.vset64_gatherers (s : State) (d : Nat) (f : Nat → Dword) : (s.vset64 d f).gatherers = s.gatherers := rfl
@[simp] theorem State.vset64_blocks (s : State) (d : Nat) (f : Nat → Dword) : (s.vset64 d f).blocks = s.blocks := rfl
@[simp] theorem State.vset64_faultRec (s : State) (d : Nat) (f : Nat → Dword) : (s.vset64 d f).faultRec = s.faultRec := rfl
@[simp] theorem State.vset64_hac (s : State) (d : Nat) (f : Nat → Dword) : (s.vset64 d f).hac = s.hac := rfl
@[simp] theorem State.vset64_farDie (s : State) (d : Nat) (f : Nat → Dword) : (s.vset64 d f).farDie = s.farDie := rfl
@[simp] theorem State.vset64_ops (s : State) (d : Nat) (f : Nat → Dword) : (s.vset64 d f).ops = s.ops := rfl
@[simp] theorem State.vset64_remotes (s : State) (d : Nat) (f : Nat → Dword) : (s.vset64 d f).remotes = s.remotes := rfl
@[simp] theorem State.vset64_remoteIn (s : State) (d : Nat) (f : Nat → Dword) : (s.vset64 d f).remoteIn = s.remoteIn := rfl
@[simp] theorem State.vset64_pools (s : State) (d : Nat) (f : Nat → Dword) : (s.vset64 d f).pools = s.pools := rfl
@[simp] theorem State.vset64_seqs (s : State) (d : Nat) (f : Nat → Dword) : (s.vset64 d f).seqs = s.seqs := rfl
@[simp] theorem State.vset64_slotGen (s : State) (d : Nat) (f : Nat → Dword) : (s.vset64 d f).slotGen = s.slotGen := rfl
@[simp] theorem State.vset64_pages (s : State) (d : Nat) (f : Nat → Dword) : (s.vset64 d f).pages = s.pages := rfl
@[simp] theorem State.vset64_pfxDir (s : State) (d : Nat) (f : Nat → Dword) : (s.vset64 d f).pfxDir = s.pfxDir := rfl
@[simp] theorem State.vset64_pfxMap (s : State) (d : Nat) (f : Nat → Dword) : (s.vset64 d f).pfxMap = s.pfxMap := rfl
@[simp] theorem State.vset64_htsTbase (s : State) (d : Nat) (f : Nat → Dword) : (s.vset64 d f).htsTbase = s.htsTbase := rfl
@[simp] theorem State.vset64_htsTsz (s : State) (d : Nat) (f : Nat → Dword) : (s.vset64 d f).htsTsz = s.htsTsz := rfl
@[simp] theorem State.vset64_htsRes (s : State) (d : Nat) (f : Nat → Dword) : (s.vset64 d f).htsRes = s.htsRes := rfl
@[simp] theorem State.vset64_htsCtx (s : State) (d : Nat) (f : Nat → Dword) : (s.vset64 d f).htsCtx = s.htsCtx := rfl
@[simp] theorem State.vset64_htsCtxsz (s : State) (d : Nat) (f : Nat → Dword) : (s.vset64 d f).htsCtxsz = s.htsCtxsz := rfl
@[simp] theorem State.vset64_htsIgn (s : State) (d : Nat) (f : Nat → Dword) : (s.vset64 d f).htsIgn = s.htsIgn := rfl
@[simp] theorem State.vset64_htsRange (s : State) (d : Nat) (f : Nat → Dword) : (s.vset64 d f).htsRange = s.htsRange := rfl
@[simp] theorem State.vset64_tasks (s : State) (d : Nat) (f : Nat → Dword) : (s.vset64 d f).tasks = s.tasks := rfl
@[simp] theorem State.vset64_decs (s : State) (d : Nat) (f : Nat → Dword) : (s.vset64 d f).decs = s.decs := rfl
@[simp] theorem State.vset64_launches (s : State) (d : Nat) (f : Nat → Dword) : (s.vset64 d f).launches = s.launches := rfl
@[simp] theorem State.vset64_wgs (s : State) (d : Nat) (f : Nat → Dword) : (s.vset64 d f).wgs = s.wgs := rfl
@[simp] theorem State.vset64_images (s : State) (d : Nat) (f : Nat → Dword) : (s.vset64 d f).images = s.images := rfl
@[simp] theorem State.vset64_routes (s : State) (d : Nat) (f : Nat → Dword) : (s.vset64 d f).routes = s.routes := rfl
@[simp] theorem State.vset64_groups (s : State) (d : Nat) (f : Nat → Dword) : (s.vset64 d f).groups = s.groups := rfl
@[simp] theorem State.vset64_linksDown (s : State) (d : Nat) (f : Nat → Dword) : (s.vset64 d f).linksDown = s.linksDown := rfl
@[simp] theorem State.vset64_packets (s : State) (d : Nat) (f : Nat → Dword) : (s.vset64 d f).packets = s.packets := rfl
@[simp] theorem State.vset64_wire (s : State) (d : Nat) (f : Nat → Dword) : (s.vset64 d f).wire = s.wire := rfl
@[simp] theorem State.vset64_sent (s : State) (d : Nat) (f : Nat → Dword) : (s.vset64 d f).sent = s.sent := rfl
@[simp] theorem State.vset64_heard (s : State) (d : Nat) (f : Nat → Dword) : (s.vset64 d f).heard = s.heard := rfl
@[simp] theorem State.vset64_collSeq (s : State) (d : Nat) (f : Nat → Dword) : (s.vset64 d f).collSeq = s.collSeq := rfl
@[simp] theorem State.vset64_failed (s : State) (d : Nat) (f : Nat → Dword) : (s.vset64 d f).failed = s.failed := rfl
@[simp] theorem State.vset64_numiStat (s : State) (d : Nat) (f : Nat → Dword) : (s.vset64 d f).numiStat = s.numiStat := rfl
@[simp] theorem State.vset64_remap0 (s : State) (d : Nat) (f : Nat → Dword) : (s.vset64 d f).remap0 = s.remap0 := rfl
@[simp] theorem State.vset64_remap1 (s : State) (d : Nat) (f : Nat → Dword) : (s.vset64 d f).remap1 = s.remap1 := rfl
@[simp] theorem State.vset64_poolEnd (s : State) (d : Nat) (f : Nat → Dword) : (s.vset64 d f).poolEnd = s.poolEnd := rfl
@[simp] theorem State.vset64_mbxIn (s : State) (d : Nat) (f : Nat → Dword) : (s.vset64 d f).mbxIn = s.mbxIn := rfl
@[simp] theorem State.vset64_mbxOut (s : State) (d : Nat) (f : Nat → Dword) : (s.vset64 d f).mbxOut = s.mbxOut := rfl
@[simp] theorem State.vset64_mbxDb (s : State) (d : Nat) (f : Nat → Dword) : (s.vset64 d f).mbxDb = s.mbxDb := rfl
@[simp] theorem State.vset64_msix (s : State) (d : Nat) (f : Nat → Dword) : (s.vset64 d f).msix = s.msix := rfl
@[simp] theorem State.vset64_hostRead (s : State) (d : Nat) (f : Nat → Dword) : (s.vset64 d f).hostRead = s.hostRead := rfl
@[simp] theorem State.vset64_reports (s : State) (d : Nat) (f : Nat → Dword) : (s.vset64 d f).reports = s.reports := rfl
@[simp] theorem State.vset64_ports (s : State) (d : Nat) (f : Nat → Dword) : (s.vset64 d f).ports = s.ports := rfl
@[simp] theorem State.vset64_models (s : State) (d : Nat) (f : Nat → Dword) : (s.vset64 d f).models = s.models := rfl
@[simp] theorem State.vset64_journal (s : State) (d : Nat) (f : Nat → Dword) : (s.vset64 d f).journal = s.journal := rfl
@[simp] theorem State.vset64_nextId (s : State) (d : Nat) (f : Nat → Dword) : (s.vset64 d f).nextId = s.nextId := rfl
@[simp] theorem State.vset64_free (s : State) (d : Nat) (f : Nat → Dword) : (s.vset64 d f).free = s.free := rfl

@[simp] theorem State.pset_part (s : State) (d : Nat) (f : Nat → Bool) : (s.pset d f).part = s.part := rfl
@[simp] theorem State.pset_boot (s : State) (d : Nat) (f : Nat → Bool) : (s.pset d f).boot = s.boot := rfl
@[simp] theorem State.pset_flash (s : State) (d : Nat) (f : Nat → Bool) : (s.pset d f).flash = s.flash := rfl
@[simp] theorem State.pset_fusedCounter (s : State) (d : Nat) (f : Nat → Bool) : (s.pset d f).fusedCounter = s.fusedCounter := rfl
@[simp] theorem State.pset_clock (s : State) (d : Nat) (f : Nat → Bool) : (s.pset d f).clock = s.clock := rfl
@[simp] theorem State.pset_timeFs (s : State) (d : Nat) (f : Nat → Bool) : (s.pset d f).timeFs = s.timeFs := rfl
@[simp] theorem State.pset_timeParts (s : State) (d : Nat) (f : Nat → Bool) : (s.pset d f).timeParts = s.timeParts := rfl
@[simp] theorem State.pset_mhz (s : State) (d : Nat) (f : Nat → Bool) : (s.pset d f).mhz = s.mhz := rfl
@[simp] theorem State.pset_dev (s : State) (d : Nat) (f : Nat → Bool) : (s.pset d f).dev = s.dev := rfl
@[simp] theorem State.pset_cur (s : State) (d : Nat) (f : Nat → Bool) : (s.pset d f).cur = s.cur := rfl
@[simp] theorem State.pset_due (s : State) (d : Nat) (f : Nat → Bool) : (s.pset d f).due = s.due := rfl
@[simp] theorem State.pset_merged (s : State) (d : Nat) (f : Nat → Bool) : (s.pset d f).merged = s.merged := rfl
@[simp] theorem State.pset_late (s : State) (d : Nat) (f : Nat → Bool) : (s.pset d f).late = s.late := rfl
@[simp] theorem State.pset_sched (s : State) (d : Nat) (f : Nat → Bool) : (s.pset d f).sched = s.sched := rfl
@[simp] theorem State.pset_mem (s : State) (d : Nat) (f : Nat → Bool) : (s.pset d f).mem = s.mem := rfl
@[simp] theorem State.pset_tags (s : State) (d : Nat) (f : Nat → Bool) : (s.pset d f).tags = s.tags := rfl
@[simp] theorem State.pset_tagged (s : State) (d : Nat) (f : Nat → Bool) : (s.pset d f).tagged = s.tagged := rfl
@[simp] theorem State.pset_poison (s : State) (d : Nat) (f : Nat → Bool) : (s.pset d f).poison = s.poison := rfl
@[simp] theorem State.pset_asidRoot (s : State) (d : Nat) (f : Nat → Bool) : (s.pset d f).asidRoot = s.asidRoot := rfl
@[simp] theorem State.pset_xc (s : State) (d : Nat) (f : Nat → Bool) : (s.pset d f).xc = s.xc := rfl
@[simp] theorem State.pset_pageHome (s : State) (d : Nat) (f : Nat → Bool) : (s.pset d f).pageHome = s.pageHome := rfl
@[simp] theorem State.pset_l2 (s : State) (d : Nat) (f : Nat → Bool) : (s.pset d f).l2 = s.l2 := rfl
@[simp] theorem State.pset_dir (s : State) (d : Nat) (f : Nat → Bool) : (s.pset d f).dir = s.dir := rfl
@[simp] theorem State.pset_msgs (s : State) (d : Nat) (f : Nat → Bool) : (s.pset d f).msgs = s.msgs := rfl
@[simp] theorem State.pset_replica (s : State) (d : Nat) (f : Nat → Bool) : (s.pset d f).replica = s.replica := rfl
@[simp] theorem State.pset_collapse (s : State) (d : Nat) (f : Nat → Bool) : (s.pset d f).collapse = s.collapse := rfl
@[simp] theorem State.pset_gatherers (s : State) (d : Nat) (f : Nat → Bool) : (s.pset d f).gatherers = s.gatherers := rfl
@[simp] theorem State.pset_blocks (s : State) (d : Nat) (f : Nat → Bool) : (s.pset d f).blocks = s.blocks := rfl
@[simp] theorem State.pset_faultRec (s : State) (d : Nat) (f : Nat → Bool) : (s.pset d f).faultRec = s.faultRec := rfl
@[simp] theorem State.pset_hac (s : State) (d : Nat) (f : Nat → Bool) : (s.pset d f).hac = s.hac := rfl
@[simp] theorem State.pset_farDie (s : State) (d : Nat) (f : Nat → Bool) : (s.pset d f).farDie = s.farDie := rfl
@[simp] theorem State.pset_ops (s : State) (d : Nat) (f : Nat → Bool) : (s.pset d f).ops = s.ops := rfl
@[simp] theorem State.pset_remotes (s : State) (d : Nat) (f : Nat → Bool) : (s.pset d f).remotes = s.remotes := rfl
@[simp] theorem State.pset_remoteIn (s : State) (d : Nat) (f : Nat → Bool) : (s.pset d f).remoteIn = s.remoteIn := rfl
@[simp] theorem State.pset_pools (s : State) (d : Nat) (f : Nat → Bool) : (s.pset d f).pools = s.pools := rfl
@[simp] theorem State.pset_seqs (s : State) (d : Nat) (f : Nat → Bool) : (s.pset d f).seqs = s.seqs := rfl
@[simp] theorem State.pset_slotGen (s : State) (d : Nat) (f : Nat → Bool) : (s.pset d f).slotGen = s.slotGen := rfl
@[simp] theorem State.pset_pages (s : State) (d : Nat) (f : Nat → Bool) : (s.pset d f).pages = s.pages := rfl
@[simp] theorem State.pset_pfxDir (s : State) (d : Nat) (f : Nat → Bool) : (s.pset d f).pfxDir = s.pfxDir := rfl
@[simp] theorem State.pset_pfxMap (s : State) (d : Nat) (f : Nat → Bool) : (s.pset d f).pfxMap = s.pfxMap := rfl
@[simp] theorem State.pset_htsTbase (s : State) (d : Nat) (f : Nat → Bool) : (s.pset d f).htsTbase = s.htsTbase := rfl
@[simp] theorem State.pset_htsTsz (s : State) (d : Nat) (f : Nat → Bool) : (s.pset d f).htsTsz = s.htsTsz := rfl
@[simp] theorem State.pset_htsRes (s : State) (d : Nat) (f : Nat → Bool) : (s.pset d f).htsRes = s.htsRes := rfl
@[simp] theorem State.pset_htsCtx (s : State) (d : Nat) (f : Nat → Bool) : (s.pset d f).htsCtx = s.htsCtx := rfl
@[simp] theorem State.pset_htsCtxsz (s : State) (d : Nat) (f : Nat → Bool) : (s.pset d f).htsCtxsz = s.htsCtxsz := rfl
@[simp] theorem State.pset_htsIgn (s : State) (d : Nat) (f : Nat → Bool) : (s.pset d f).htsIgn = s.htsIgn := rfl
@[simp] theorem State.pset_htsRange (s : State) (d : Nat) (f : Nat → Bool) : (s.pset d f).htsRange = s.htsRange := rfl
@[simp] theorem State.pset_tasks (s : State) (d : Nat) (f : Nat → Bool) : (s.pset d f).tasks = s.tasks := rfl
@[simp] theorem State.pset_decs (s : State) (d : Nat) (f : Nat → Bool) : (s.pset d f).decs = s.decs := rfl
@[simp] theorem State.pset_launches (s : State) (d : Nat) (f : Nat → Bool) : (s.pset d f).launches = s.launches := rfl
@[simp] theorem State.pset_wgs (s : State) (d : Nat) (f : Nat → Bool) : (s.pset d f).wgs = s.wgs := rfl
@[simp] theorem State.pset_images (s : State) (d : Nat) (f : Nat → Bool) : (s.pset d f).images = s.images := rfl
@[simp] theorem State.pset_routes (s : State) (d : Nat) (f : Nat → Bool) : (s.pset d f).routes = s.routes := rfl
@[simp] theorem State.pset_groups (s : State) (d : Nat) (f : Nat → Bool) : (s.pset d f).groups = s.groups := rfl
@[simp] theorem State.pset_linksDown (s : State) (d : Nat) (f : Nat → Bool) : (s.pset d f).linksDown = s.linksDown := rfl
@[simp] theorem State.pset_packets (s : State) (d : Nat) (f : Nat → Bool) : (s.pset d f).packets = s.packets := rfl
@[simp] theorem State.pset_wire (s : State) (d : Nat) (f : Nat → Bool) : (s.pset d f).wire = s.wire := rfl
@[simp] theorem State.pset_sent (s : State) (d : Nat) (f : Nat → Bool) : (s.pset d f).sent = s.sent := rfl
@[simp] theorem State.pset_heard (s : State) (d : Nat) (f : Nat → Bool) : (s.pset d f).heard = s.heard := rfl
@[simp] theorem State.pset_collSeq (s : State) (d : Nat) (f : Nat → Bool) : (s.pset d f).collSeq = s.collSeq := rfl
@[simp] theorem State.pset_failed (s : State) (d : Nat) (f : Nat → Bool) : (s.pset d f).failed = s.failed := rfl
@[simp] theorem State.pset_numiStat (s : State) (d : Nat) (f : Nat → Bool) : (s.pset d f).numiStat = s.numiStat := rfl
@[simp] theorem State.pset_remap0 (s : State) (d : Nat) (f : Nat → Bool) : (s.pset d f).remap0 = s.remap0 := rfl
@[simp] theorem State.pset_remap1 (s : State) (d : Nat) (f : Nat → Bool) : (s.pset d f).remap1 = s.remap1 := rfl
@[simp] theorem State.pset_poolEnd (s : State) (d : Nat) (f : Nat → Bool) : (s.pset d f).poolEnd = s.poolEnd := rfl
@[simp] theorem State.pset_mbxIn (s : State) (d : Nat) (f : Nat → Bool) : (s.pset d f).mbxIn = s.mbxIn := rfl
@[simp] theorem State.pset_mbxOut (s : State) (d : Nat) (f : Nat → Bool) : (s.pset d f).mbxOut = s.mbxOut := rfl
@[simp] theorem State.pset_mbxDb (s : State) (d : Nat) (f : Nat → Bool) : (s.pset d f).mbxDb = s.mbxDb := rfl
@[simp] theorem State.pset_msix (s : State) (d : Nat) (f : Nat → Bool) : (s.pset d f).msix = s.msix := rfl
@[simp] theorem State.pset_hostRead (s : State) (d : Nat) (f : Nat → Bool) : (s.pset d f).hostRead = s.hostRead := rfl
@[simp] theorem State.pset_reports (s : State) (d : Nat) (f : Nat → Bool) : (s.pset d f).reports = s.reports := rfl
@[simp] theorem State.pset_ports (s : State) (d : Nat) (f : Nat → Bool) : (s.pset d f).ports = s.ports := rfl
@[simp] theorem State.pset_models (s : State) (d : Nat) (f : Nat → Bool) : (s.pset d f).models = s.models := rfl
@[simp] theorem State.pset_journal (s : State) (d : Nat) (f : Nat → Bool) : (s.pset d f).journal = s.journal := rfl
@[simp] theorem State.pset_nextId (s : State) (d : Nat) (f : Nat → Bool) : (s.pset d f).nextId = s.nextId := rfl
@[simp] theorem State.pset_free (s : State) (d : Nat) (f : Nat → Bool) : (s.pset d f).free = s.free := rfl

@[simp] theorem State.poke_part (s : State) (a : Nat) (bs : List Byte) : (s.poke a bs).part = s.part := rfl
@[simp] theorem State.poke_boot (s : State) (a : Nat) (bs : List Byte) : (s.poke a bs).boot = s.boot := rfl
@[simp] theorem State.poke_flash (s : State) (a : Nat) (bs : List Byte) : (s.poke a bs).flash = s.flash := rfl
@[simp] theorem State.poke_fusedCounter (s : State) (a : Nat) (bs : List Byte) : (s.poke a bs).fusedCounter = s.fusedCounter := rfl
@[simp] theorem State.poke_clock (s : State) (a : Nat) (bs : List Byte) : (s.poke a bs).clock = s.clock := rfl
@[simp] theorem State.poke_timeFs (s : State) (a : Nat) (bs : List Byte) : (s.poke a bs).timeFs = s.timeFs := rfl
@[simp] theorem State.poke_timeParts (s : State) (a : Nat) (bs : List Byte) : (s.poke a bs).timeParts = s.timeParts := rfl
@[simp] theorem State.poke_mhz (s : State) (a : Nat) (bs : List Byte) : (s.poke a bs).mhz = s.mhz := rfl
@[simp] theorem State.poke_dev (s : State) (a : Nat) (bs : List Byte) : (s.poke a bs).dev = s.dev := rfl
@[simp] theorem State.poke_cores (s : State) (a : Nat) (bs : List Byte) : (s.poke a bs).cores = s.cores := rfl
@[simp] theorem State.poke_cur (s : State) (a : Nat) (bs : List Byte) : (s.poke a bs).cur = s.cur := rfl
@[simp] theorem State.poke_due (s : State) (a : Nat) (bs : List Byte) : (s.poke a bs).due = s.due := rfl
@[simp] theorem State.poke_merged (s : State) (a : Nat) (bs : List Byte) : (s.poke a bs).merged = s.merged := rfl
@[simp] theorem State.poke_late (s : State) (a : Nat) (bs : List Byte) : (s.poke a bs).late = s.late := rfl
@[simp] theorem State.poke_sched (s : State) (a : Nat) (bs : List Byte) : (s.poke a bs).sched = s.sched := rfl
@[simp] theorem State.poke_tags (s : State) (a : Nat) (bs : List Byte) : (s.poke a bs).tags = s.tags := rfl
@[simp] theorem State.poke_tagged (s : State) (a : Nat) (bs : List Byte) : (s.poke a bs).tagged = s.tagged := rfl
@[simp] theorem State.poke_poison (s : State) (a : Nat) (bs : List Byte) : (s.poke a bs).poison = s.poison := rfl
@[simp] theorem State.poke_asidRoot (s : State) (a : Nat) (bs : List Byte) : (s.poke a bs).asidRoot = s.asidRoot := rfl
@[simp] theorem State.poke_xc (s : State) (a : Nat) (bs : List Byte) : (s.poke a bs).xc = s.xc := rfl
@[simp] theorem State.poke_pageHome (s : State) (a : Nat) (bs : List Byte) : (s.poke a bs).pageHome = s.pageHome := rfl
@[simp] theorem State.poke_l2 (s : State) (a : Nat) (bs : List Byte) : (s.poke a bs).l2 = s.l2 := rfl
@[simp] theorem State.poke_dir (s : State) (a : Nat) (bs : List Byte) : (s.poke a bs).dir = s.dir := rfl
@[simp] theorem State.poke_msgs (s : State) (a : Nat) (bs : List Byte) : (s.poke a bs).msgs = s.msgs := rfl
@[simp] theorem State.poke_replica (s : State) (a : Nat) (bs : List Byte) : (s.poke a bs).replica = s.replica := rfl
@[simp] theorem State.poke_collapse (s : State) (a : Nat) (bs : List Byte) : (s.poke a bs).collapse = s.collapse := rfl
@[simp] theorem State.poke_gatherers (s : State) (a : Nat) (bs : List Byte) : (s.poke a bs).gatherers = s.gatherers := rfl
@[simp] theorem State.poke_blocks (s : State) (a : Nat) (bs : List Byte) : (s.poke a bs).blocks = s.blocks := rfl
@[simp] theorem State.poke_faultRec (s : State) (a : Nat) (bs : List Byte) : (s.poke a bs).faultRec = s.faultRec := rfl
@[simp] theorem State.poke_hac (s : State) (a : Nat) (bs : List Byte) : (s.poke a bs).hac = s.hac := rfl
@[simp] theorem State.poke_farDie (s : State) (a : Nat) (bs : List Byte) : (s.poke a bs).farDie = s.farDie := rfl
@[simp] theorem State.poke_ops (s : State) (a : Nat) (bs : List Byte) : (s.poke a bs).ops = s.ops := rfl
@[simp] theorem State.poke_remotes (s : State) (a : Nat) (bs : List Byte) : (s.poke a bs).remotes = s.remotes := rfl
@[simp] theorem State.poke_remoteIn (s : State) (a : Nat) (bs : List Byte) : (s.poke a bs).remoteIn = s.remoteIn := rfl
@[simp] theorem State.poke_pools (s : State) (a : Nat) (bs : List Byte) : (s.poke a bs).pools = s.pools := rfl
@[simp] theorem State.poke_seqs (s : State) (a : Nat) (bs : List Byte) : (s.poke a bs).seqs = s.seqs := rfl
@[simp] theorem State.poke_slotGen (s : State) (a : Nat) (bs : List Byte) : (s.poke a bs).slotGen = s.slotGen := rfl
@[simp] theorem State.poke_pages (s : State) (a : Nat) (bs : List Byte) : (s.poke a bs).pages = s.pages := rfl
@[simp] theorem State.poke_pfxDir (s : State) (a : Nat) (bs : List Byte) : (s.poke a bs).pfxDir = s.pfxDir := rfl
@[simp] theorem State.poke_pfxMap (s : State) (a : Nat) (bs : List Byte) : (s.poke a bs).pfxMap = s.pfxMap := rfl
@[simp] theorem State.poke_htsTbase (s : State) (a : Nat) (bs : List Byte) : (s.poke a bs).htsTbase = s.htsTbase := rfl
@[simp] theorem State.poke_htsTsz (s : State) (a : Nat) (bs : List Byte) : (s.poke a bs).htsTsz = s.htsTsz := rfl
@[simp] theorem State.poke_htsRes (s : State) (a : Nat) (bs : List Byte) : (s.poke a bs).htsRes = s.htsRes := rfl
@[simp] theorem State.poke_htsCtx (s : State) (a : Nat) (bs : List Byte) : (s.poke a bs).htsCtx = s.htsCtx := rfl
@[simp] theorem State.poke_htsCtxsz (s : State) (a : Nat) (bs : List Byte) : (s.poke a bs).htsCtxsz = s.htsCtxsz := rfl
@[simp] theorem State.poke_htsIgn (s : State) (a : Nat) (bs : List Byte) : (s.poke a bs).htsIgn = s.htsIgn := rfl
@[simp] theorem State.poke_htsRange (s : State) (a : Nat) (bs : List Byte) : (s.poke a bs).htsRange = s.htsRange := rfl
@[simp] theorem State.poke_tasks (s : State) (a : Nat) (bs : List Byte) : (s.poke a bs).tasks = s.tasks := rfl
@[simp] theorem State.poke_decs (s : State) (a : Nat) (bs : List Byte) : (s.poke a bs).decs = s.decs := rfl
@[simp] theorem State.poke_launches (s : State) (a : Nat) (bs : List Byte) : (s.poke a bs).launches = s.launches := rfl
@[simp] theorem State.poke_wgs (s : State) (a : Nat) (bs : List Byte) : (s.poke a bs).wgs = s.wgs := rfl
@[simp] theorem State.poke_images (s : State) (a : Nat) (bs : List Byte) : (s.poke a bs).images = s.images := rfl
@[simp] theorem State.poke_routes (s : State) (a : Nat) (bs : List Byte) : (s.poke a bs).routes = s.routes := rfl
@[simp] theorem State.poke_groups (s : State) (a : Nat) (bs : List Byte) : (s.poke a bs).groups = s.groups := rfl
@[simp] theorem State.poke_linksDown (s : State) (a : Nat) (bs : List Byte) : (s.poke a bs).linksDown = s.linksDown := rfl
@[simp] theorem State.poke_packets (s : State) (a : Nat) (bs : List Byte) : (s.poke a bs).packets = s.packets := rfl
@[simp] theorem State.poke_wire (s : State) (a : Nat) (bs : List Byte) : (s.poke a bs).wire = s.wire := rfl
@[simp] theorem State.poke_sent (s : State) (a : Nat) (bs : List Byte) : (s.poke a bs).sent = s.sent := rfl
@[simp] theorem State.poke_heard (s : State) (a : Nat) (bs : List Byte) : (s.poke a bs).heard = s.heard := rfl
@[simp] theorem State.poke_collSeq (s : State) (a : Nat) (bs : List Byte) : (s.poke a bs).collSeq = s.collSeq := rfl
@[simp] theorem State.poke_failed (s : State) (a : Nat) (bs : List Byte) : (s.poke a bs).failed = s.failed := rfl
@[simp] theorem State.poke_numiStat (s : State) (a : Nat) (bs : List Byte) : (s.poke a bs).numiStat = s.numiStat := rfl
@[simp] theorem State.poke_remap0 (s : State) (a : Nat) (bs : List Byte) : (s.poke a bs).remap0 = s.remap0 := rfl
@[simp] theorem State.poke_remap1 (s : State) (a : Nat) (bs : List Byte) : (s.poke a bs).remap1 = s.remap1 := rfl
@[simp] theorem State.poke_poolEnd (s : State) (a : Nat) (bs : List Byte) : (s.poke a bs).poolEnd = s.poolEnd := rfl
@[simp] theorem State.poke_mbxIn (s : State) (a : Nat) (bs : List Byte) : (s.poke a bs).mbxIn = s.mbxIn := rfl
@[simp] theorem State.poke_mbxOut (s : State) (a : Nat) (bs : List Byte) : (s.poke a bs).mbxOut = s.mbxOut := rfl
@[simp] theorem State.poke_mbxDb (s : State) (a : Nat) (bs : List Byte) : (s.poke a bs).mbxDb = s.mbxDb := rfl
@[simp] theorem State.poke_msix (s : State) (a : Nat) (bs : List Byte) : (s.poke a bs).msix = s.msix := rfl
@[simp] theorem State.poke_hostRead (s : State) (a : Nat) (bs : List Byte) : (s.poke a bs).hostRead = s.hostRead := rfl
@[simp] theorem State.poke_reports (s : State) (a : Nat) (bs : List Byte) : (s.poke a bs).reports = s.reports := rfl
@[simp] theorem State.poke_ports (s : State) (a : Nat) (bs : List Byte) : (s.poke a bs).ports = s.ports := rfl
@[simp] theorem State.poke_models (s : State) (a : Nat) (bs : List Byte) : (s.poke a bs).models = s.models := rfl
@[simp] theorem State.poke_journal (s : State) (a : Nat) (bs : List Byte) : (s.poke a bs).journal = s.journal := rfl
@[simp] theorem State.poke_nextId (s : State) (a : Nat) (bs : List Byte) : (s.poke a bs).nextId = s.nextId := rfl
@[simp] theorem State.poke_free (s : State) (a : Nat) (bs : List Byte) : (s.poke a bs).free = s.free := rfl

@[simp] theorem State.effect_part (s : State) (l : Nat) (e : Effect) : (s.effect l e).part = s.part := rfl
@[simp] theorem State.effect_boot (s : State) (l : Nat) (e : Effect) : (s.effect l e).boot = s.boot := rfl
@[simp] theorem State.effect_flash (s : State) (l : Nat) (e : Effect) : (s.effect l e).flash = s.flash := rfl
@[simp] theorem State.effect_fusedCounter (s : State) (l : Nat) (e : Effect) : (s.effect l e).fusedCounter = s.fusedCounter := rfl
@[simp] theorem State.effect_clock (s : State) (l : Nat) (e : Effect) : (s.effect l e).clock = s.clock := rfl
@[simp] theorem State.effect_timeFs (s : State) (l : Nat) (e : Effect) : (s.effect l e).timeFs = s.timeFs := rfl
@[simp] theorem State.effect_timeParts (s : State) (l : Nat) (e : Effect) : (s.effect l e).timeParts = s.timeParts := rfl
@[simp] theorem State.effect_mhz (s : State) (l : Nat) (e : Effect) : (s.effect l e).mhz = s.mhz := rfl
@[simp] theorem State.effect_dev (s : State) (l : Nat) (e : Effect) : (s.effect l e).dev = s.dev := rfl
@[simp] theorem State.effect_cores (s : State) (l : Nat) (e : Effect) : (s.effect l e).cores = s.cores := rfl
@[simp] theorem State.effect_due (s : State) (l : Nat) (e : Effect) : (s.effect l e).due = s.due := rfl
@[simp] theorem State.effect_merged (s : State) (l : Nat) (e : Effect) : (s.effect l e).merged = s.merged := rfl
@[simp] theorem State.effect_late (s : State) (l : Nat) (e : Effect) : (s.effect l e).late = s.late := rfl
@[simp] theorem State.effect_sched (s : State) (l : Nat) (e : Effect) : (s.effect l e).sched = s.sched := rfl
@[simp] theorem State.effect_mem (s : State) (l : Nat) (e : Effect) : (s.effect l e).mem = s.mem := rfl
@[simp] theorem State.effect_tags (s : State) (l : Nat) (e : Effect) : (s.effect l e).tags = s.tags := rfl
@[simp] theorem State.effect_tagged (s : State) (l : Nat) (e : Effect) : (s.effect l e).tagged = s.tagged := rfl
@[simp] theorem State.effect_poison (s : State) (l : Nat) (e : Effect) : (s.effect l e).poison = s.poison := rfl
@[simp] theorem State.effect_asidRoot (s : State) (l : Nat) (e : Effect) : (s.effect l e).asidRoot = s.asidRoot := rfl
@[simp] theorem State.effect_xc (s : State) (l : Nat) (e : Effect) : (s.effect l e).xc = s.xc := rfl
@[simp] theorem State.effect_pageHome (s : State) (l : Nat) (e : Effect) : (s.effect l e).pageHome = s.pageHome := rfl
@[simp] theorem State.effect_l2 (s : State) (l : Nat) (e : Effect) : (s.effect l e).l2 = s.l2 := rfl
@[simp] theorem State.effect_dir (s : State) (l : Nat) (e : Effect) : (s.effect l e).dir = s.dir := rfl
@[simp] theorem State.effect_msgs (s : State) (l : Nat) (e : Effect) : (s.effect l e).msgs = s.msgs := rfl
@[simp] theorem State.effect_replica (s : State) (l : Nat) (e : Effect) : (s.effect l e).replica = s.replica := rfl
@[simp] theorem State.effect_collapse (s : State) (l : Nat) (e : Effect) : (s.effect l e).collapse = s.collapse := rfl
@[simp] theorem State.effect_gatherers (s : State) (l : Nat) (e : Effect) : (s.effect l e).gatherers = s.gatherers := rfl
@[simp] theorem State.effect_blocks (s : State) (l : Nat) (e : Effect) : (s.effect l e).blocks = s.blocks := rfl
@[simp] theorem State.effect_faultRec (s : State) (l : Nat) (e : Effect) : (s.effect l e).faultRec = s.faultRec := rfl
@[simp] theorem State.effect_hac (s : State) (l : Nat) (e : Effect) : (s.effect l e).hac = s.hac := rfl
@[simp] theorem State.effect_farDie (s : State) (l : Nat) (e : Effect) : (s.effect l e).farDie = s.farDie := rfl
@[simp] theorem State.effect_ops (s : State) (l : Nat) (e : Effect) : (s.effect l e).ops = s.ops := rfl
@[simp] theorem State.effect_remotes (s : State) (l : Nat) (e : Effect) : (s.effect l e).remotes = s.remotes := rfl
@[simp] theorem State.effect_remoteIn (s : State) (l : Nat) (e : Effect) : (s.effect l e).remoteIn = s.remoteIn := rfl
@[simp] theorem State.effect_pools (s : State) (l : Nat) (e : Effect) : (s.effect l e).pools = s.pools := rfl
@[simp] theorem State.effect_seqs (s : State) (l : Nat) (e : Effect) : (s.effect l e).seqs = s.seqs := rfl
@[simp] theorem State.effect_slotGen (s : State) (l : Nat) (e : Effect) : (s.effect l e).slotGen = s.slotGen := rfl
@[simp] theorem State.effect_pages (s : State) (l : Nat) (e : Effect) : (s.effect l e).pages = s.pages := rfl
@[simp] theorem State.effect_pfxDir (s : State) (l : Nat) (e : Effect) : (s.effect l e).pfxDir = s.pfxDir := rfl
@[simp] theorem State.effect_pfxMap (s : State) (l : Nat) (e : Effect) : (s.effect l e).pfxMap = s.pfxMap := rfl
@[simp] theorem State.effect_htsTbase (s : State) (l : Nat) (e : Effect) : (s.effect l e).htsTbase = s.htsTbase := rfl
@[simp] theorem State.effect_htsTsz (s : State) (l : Nat) (e : Effect) : (s.effect l e).htsTsz = s.htsTsz := rfl
@[simp] theorem State.effect_htsRes (s : State) (l : Nat) (e : Effect) : (s.effect l e).htsRes = s.htsRes := rfl
@[simp] theorem State.effect_htsCtx (s : State) (l : Nat) (e : Effect) : (s.effect l e).htsCtx = s.htsCtx := rfl
@[simp] theorem State.effect_htsCtxsz (s : State) (l : Nat) (e : Effect) : (s.effect l e).htsCtxsz = s.htsCtxsz := rfl
@[simp] theorem State.effect_htsIgn (s : State) (l : Nat) (e : Effect) : (s.effect l e).htsIgn = s.htsIgn := rfl
@[simp] theorem State.effect_htsRange (s : State) (l : Nat) (e : Effect) : (s.effect l e).htsRange = s.htsRange := rfl
@[simp] theorem State.effect_tasks (s : State) (l : Nat) (e : Effect) : (s.effect l e).tasks = s.tasks := rfl
@[simp] theorem State.effect_decs (s : State) (l : Nat) (e : Effect) : (s.effect l e).decs = s.decs := rfl
@[simp] theorem State.effect_launches (s : State) (l : Nat) (e : Effect) : (s.effect l e).launches = s.launches := rfl
@[simp] theorem State.effect_wgs (s : State) (l : Nat) (e : Effect) : (s.effect l e).wgs = s.wgs := rfl
@[simp] theorem State.effect_images (s : State) (l : Nat) (e : Effect) : (s.effect l e).images = s.images := rfl
@[simp] theorem State.effect_routes (s : State) (l : Nat) (e : Effect) : (s.effect l e).routes = s.routes := rfl
@[simp] theorem State.effect_groups (s : State) (l : Nat) (e : Effect) : (s.effect l e).groups = s.groups := rfl
@[simp] theorem State.effect_linksDown (s : State) (l : Nat) (e : Effect) : (s.effect l e).linksDown = s.linksDown := rfl
@[simp] theorem State.effect_packets (s : State) (l : Nat) (e : Effect) : (s.effect l e).packets = s.packets := rfl
@[simp] theorem State.effect_wire (s : State) (l : Nat) (e : Effect) : (s.effect l e).wire = s.wire := rfl
@[simp] theorem State.effect_sent (s : State) (l : Nat) (e : Effect) : (s.effect l e).sent = s.sent := rfl
@[simp] theorem State.effect_heard (s : State) (l : Nat) (e : Effect) : (s.effect l e).heard = s.heard := rfl
@[simp] theorem State.effect_collSeq (s : State) (l : Nat) (e : Effect) : (s.effect l e).collSeq = s.collSeq := rfl
@[simp] theorem State.effect_failed (s : State) (l : Nat) (e : Effect) : (s.effect l e).failed = s.failed := rfl
@[simp] theorem State.effect_numiStat (s : State) (l : Nat) (e : Effect) : (s.effect l e).numiStat = s.numiStat := rfl
@[simp] theorem State.effect_remap0 (s : State) (l : Nat) (e : Effect) : (s.effect l e).remap0 = s.remap0 := rfl
@[simp] theorem State.effect_remap1 (s : State) (l : Nat) (e : Effect) : (s.effect l e).remap1 = s.remap1 := rfl
@[simp] theorem State.effect_poolEnd (s : State) (l : Nat) (e : Effect) : (s.effect l e).poolEnd = s.poolEnd := rfl
@[simp] theorem State.effect_mbxIn (s : State) (l : Nat) (e : Effect) : (s.effect l e).mbxIn = s.mbxIn := rfl
@[simp] theorem State.effect_mbxOut (s : State) (l : Nat) (e : Effect) : (s.effect l e).mbxOut = s.mbxOut := rfl
@[simp] theorem State.effect_mbxDb (s : State) (l : Nat) (e : Effect) : (s.effect l e).mbxDb = s.mbxDb := rfl
@[simp] theorem State.effect_msix (s : State) (l : Nat) (e : Effect) : (s.effect l e).msix = s.msix := rfl
@[simp] theorem State.effect_hostRead (s : State) (l : Nat) (e : Effect) : (s.effect l e).hostRead = s.hostRead := rfl
@[simp] theorem State.effect_reports (s : State) (l : Nat) (e : Effect) : (s.effect l e).reports = s.reports := rfl
@[simp] theorem State.effect_ports (s : State) (l : Nat) (e : Effect) : (s.effect l e).ports = s.ports := rfl
@[simp] theorem State.effect_models (s : State) (l : Nat) (e : Effect) : (s.effect l e).models = s.models := rfl
@[simp] theorem State.effect_journal (s : State) (l : Nat) (e : Effect) : (s.effect l e).journal = s.journal := rfl
@[simp] theorem State.effect_nextId (s : State) (l : Nat) (e : Effect) : (s.effect l e).nextId = s.nextId := rfl
@[simp] theorem State.effect_free (s : State) (l : Nat) (e : Effect) : (s.effect l e).free = s.free := rfl

@[simp] theorem State.raise_part (s : State) (l cause : Nat) (addr : Dword) : (s.raise l cause addr).part = s.part := rfl
@[simp] theorem State.raise_boot (s : State) (l cause : Nat) (addr : Dword) : (s.raise l cause addr).boot = s.boot := rfl
@[simp] theorem State.raise_flash (s : State) (l cause : Nat) (addr : Dword) : (s.raise l cause addr).flash = s.flash := rfl
@[simp] theorem State.raise_fusedCounter (s : State) (l cause : Nat) (addr : Dword) : (s.raise l cause addr).fusedCounter = s.fusedCounter := rfl
@[simp] theorem State.raise_clock (s : State) (l cause : Nat) (addr : Dword) : (s.raise l cause addr).clock = s.clock := rfl
@[simp] theorem State.raise_timeFs (s : State) (l cause : Nat) (addr : Dword) : (s.raise l cause addr).timeFs = s.timeFs := rfl
@[simp] theorem State.raise_timeParts (s : State) (l cause : Nat) (addr : Dword) : (s.raise l cause addr).timeParts = s.timeParts := rfl
@[simp] theorem State.raise_mhz (s : State) (l cause : Nat) (addr : Dword) : (s.raise l cause addr).mhz = s.mhz := rfl
@[simp] theorem State.raise_dev (s : State) (l cause : Nat) (addr : Dword) : (s.raise l cause addr).dev = s.dev := rfl
@[simp] theorem State.raise_cores (s : State) (l cause : Nat) (addr : Dword) : (s.raise l cause addr).cores = s.cores := rfl
@[simp] theorem State.raise_due (s : State) (l cause : Nat) (addr : Dword) : (s.raise l cause addr).due = s.due := rfl
@[simp] theorem State.raise_merged (s : State) (l cause : Nat) (addr : Dword) : (s.raise l cause addr).merged = s.merged := rfl
@[simp] theorem State.raise_late (s : State) (l cause : Nat) (addr : Dword) : (s.raise l cause addr).late = s.late := rfl
@[simp] theorem State.raise_sched (s : State) (l cause : Nat) (addr : Dword) : (s.raise l cause addr).sched = s.sched := rfl
@[simp] theorem State.raise_mem (s : State) (l cause : Nat) (addr : Dword) : (s.raise l cause addr).mem = s.mem := rfl
@[simp] theorem State.raise_tags (s : State) (l cause : Nat) (addr : Dword) : (s.raise l cause addr).tags = s.tags := rfl
@[simp] theorem State.raise_tagged (s : State) (l cause : Nat) (addr : Dword) : (s.raise l cause addr).tagged = s.tagged := rfl
@[simp] theorem State.raise_poison (s : State) (l cause : Nat) (addr : Dword) : (s.raise l cause addr).poison = s.poison := rfl
@[simp] theorem State.raise_asidRoot (s : State) (l cause : Nat) (addr : Dword) : (s.raise l cause addr).asidRoot = s.asidRoot := rfl
@[simp] theorem State.raise_xc (s : State) (l cause : Nat) (addr : Dword) : (s.raise l cause addr).xc = s.xc := rfl
@[simp] theorem State.raise_pageHome (s : State) (l cause : Nat) (addr : Dword) : (s.raise l cause addr).pageHome = s.pageHome := rfl
@[simp] theorem State.raise_l2 (s : State) (l cause : Nat) (addr : Dword) : (s.raise l cause addr).l2 = s.l2 := rfl
@[simp] theorem State.raise_dir (s : State) (l cause : Nat) (addr : Dword) : (s.raise l cause addr).dir = s.dir := rfl
@[simp] theorem State.raise_msgs (s : State) (l cause : Nat) (addr : Dword) : (s.raise l cause addr).msgs = s.msgs := rfl
@[simp] theorem State.raise_replica (s : State) (l cause : Nat) (addr : Dword) : (s.raise l cause addr).replica = s.replica := rfl
@[simp] theorem State.raise_collapse (s : State) (l cause : Nat) (addr : Dword) : (s.raise l cause addr).collapse = s.collapse := rfl
@[simp] theorem State.raise_gatherers (s : State) (l cause : Nat) (addr : Dword) : (s.raise l cause addr).gatherers = s.gatherers := rfl
@[simp] theorem State.raise_blocks (s : State) (l cause : Nat) (addr : Dword) : (s.raise l cause addr).blocks = s.blocks := rfl
@[simp] theorem State.raise_faultRec (s : State) (l cause : Nat) (addr : Dword) : (s.raise l cause addr).faultRec = s.faultRec := rfl
@[simp] theorem State.raise_hac (s : State) (l cause : Nat) (addr : Dword) : (s.raise l cause addr).hac = s.hac := rfl
@[simp] theorem State.raise_farDie (s : State) (l cause : Nat) (addr : Dword) : (s.raise l cause addr).farDie = s.farDie := rfl
@[simp] theorem State.raise_ops (s : State) (l cause : Nat) (addr : Dword) : (s.raise l cause addr).ops = s.ops := rfl
@[simp] theorem State.raise_remotes (s : State) (l cause : Nat) (addr : Dword) : (s.raise l cause addr).remotes = s.remotes := rfl
@[simp] theorem State.raise_remoteIn (s : State) (l cause : Nat) (addr : Dword) : (s.raise l cause addr).remoteIn = s.remoteIn := rfl
@[simp] theorem State.raise_pools (s : State) (l cause : Nat) (addr : Dword) : (s.raise l cause addr).pools = s.pools := rfl
@[simp] theorem State.raise_seqs (s : State) (l cause : Nat) (addr : Dword) : (s.raise l cause addr).seqs = s.seqs := rfl
@[simp] theorem State.raise_slotGen (s : State) (l cause : Nat) (addr : Dword) : (s.raise l cause addr).slotGen = s.slotGen := rfl
@[simp] theorem State.raise_pages (s : State) (l cause : Nat) (addr : Dword) : (s.raise l cause addr).pages = s.pages := rfl
@[simp] theorem State.raise_pfxDir (s : State) (l cause : Nat) (addr : Dword) : (s.raise l cause addr).pfxDir = s.pfxDir := rfl
@[simp] theorem State.raise_pfxMap (s : State) (l cause : Nat) (addr : Dword) : (s.raise l cause addr).pfxMap = s.pfxMap := rfl
@[simp] theorem State.raise_htsTbase (s : State) (l cause : Nat) (addr : Dword) : (s.raise l cause addr).htsTbase = s.htsTbase := rfl
@[simp] theorem State.raise_htsTsz (s : State) (l cause : Nat) (addr : Dword) : (s.raise l cause addr).htsTsz = s.htsTsz := rfl
@[simp] theorem State.raise_htsRes (s : State) (l cause : Nat) (addr : Dword) : (s.raise l cause addr).htsRes = s.htsRes := rfl
@[simp] theorem State.raise_htsCtx (s : State) (l cause : Nat) (addr : Dword) : (s.raise l cause addr).htsCtx = s.htsCtx := rfl
@[simp] theorem State.raise_htsCtxsz (s : State) (l cause : Nat) (addr : Dword) : (s.raise l cause addr).htsCtxsz = s.htsCtxsz := rfl
@[simp] theorem State.raise_htsIgn (s : State) (l cause : Nat) (addr : Dword) : (s.raise l cause addr).htsIgn = s.htsIgn := rfl
@[simp] theorem State.raise_htsRange (s : State) (l cause : Nat) (addr : Dword) : (s.raise l cause addr).htsRange = s.htsRange := rfl
@[simp] theorem State.raise_tasks (s : State) (l cause : Nat) (addr : Dword) : (s.raise l cause addr).tasks = s.tasks := rfl
@[simp] theorem State.raise_decs (s : State) (l cause : Nat) (addr : Dword) : (s.raise l cause addr).decs = s.decs := rfl
@[simp] theorem State.raise_launches (s : State) (l cause : Nat) (addr : Dword) : (s.raise l cause addr).launches = s.launches := rfl
@[simp] theorem State.raise_wgs (s : State) (l cause : Nat) (addr : Dword) : (s.raise l cause addr).wgs = s.wgs := rfl
@[simp] theorem State.raise_images (s : State) (l cause : Nat) (addr : Dword) : (s.raise l cause addr).images = s.images := rfl
@[simp] theorem State.raise_routes (s : State) (l cause : Nat) (addr : Dword) : (s.raise l cause addr).routes = s.routes := rfl
@[simp] theorem State.raise_groups (s : State) (l cause : Nat) (addr : Dword) : (s.raise l cause addr).groups = s.groups := rfl
@[simp] theorem State.raise_linksDown (s : State) (l cause : Nat) (addr : Dword) : (s.raise l cause addr).linksDown = s.linksDown := rfl
@[simp] theorem State.raise_packets (s : State) (l cause : Nat) (addr : Dword) : (s.raise l cause addr).packets = s.packets := rfl
@[simp] theorem State.raise_wire (s : State) (l cause : Nat) (addr : Dword) : (s.raise l cause addr).wire = s.wire := rfl
@[simp] theorem State.raise_sent (s : State) (l cause : Nat) (addr : Dword) : (s.raise l cause addr).sent = s.sent := rfl
@[simp] theorem State.raise_heard (s : State) (l cause : Nat) (addr : Dword) : (s.raise l cause addr).heard = s.heard := rfl
@[simp] theorem State.raise_collSeq (s : State) (l cause : Nat) (addr : Dword) : (s.raise l cause addr).collSeq = s.collSeq := rfl
@[simp] theorem State.raise_failed (s : State) (l cause : Nat) (addr : Dword) : (s.raise l cause addr).failed = s.failed := rfl
@[simp] theorem State.raise_numiStat (s : State) (l cause : Nat) (addr : Dword) : (s.raise l cause addr).numiStat = s.numiStat := rfl
@[simp] theorem State.raise_remap0 (s : State) (l cause : Nat) (addr : Dword) : (s.raise l cause addr).remap0 = s.remap0 := rfl
@[simp] theorem State.raise_remap1 (s : State) (l cause : Nat) (addr : Dword) : (s.raise l cause addr).remap1 = s.remap1 := rfl
@[simp] theorem State.raise_poolEnd (s : State) (l cause : Nat) (addr : Dword) : (s.raise l cause addr).poolEnd = s.poolEnd := rfl
@[simp] theorem State.raise_mbxIn (s : State) (l cause : Nat) (addr : Dword) : (s.raise l cause addr).mbxIn = s.mbxIn := rfl
@[simp] theorem State.raise_mbxOut (s : State) (l cause : Nat) (addr : Dword) : (s.raise l cause addr).mbxOut = s.mbxOut := rfl
@[simp] theorem State.raise_mbxDb (s : State) (l cause : Nat) (addr : Dword) : (s.raise l cause addr).mbxDb = s.mbxDb := rfl
@[simp] theorem State.raise_msix (s : State) (l cause : Nat) (addr : Dword) : (s.raise l cause addr).msix = s.msix := rfl
@[simp] theorem State.raise_hostRead (s : State) (l cause : Nat) (addr : Dword) : (s.raise l cause addr).hostRead = s.hostRead := rfl
@[simp] theorem State.raise_reports (s : State) (l cause : Nat) (addr : Dword) : (s.raise l cause addr).reports = s.reports := rfl
@[simp] theorem State.raise_ports (s : State) (l cause : Nat) (addr : Dword) : (s.raise l cause addr).ports = s.ports := rfl
@[simp] theorem State.raise_models (s : State) (l cause : Nat) (addr : Dword) : (s.raise l cause addr).models = s.models := rfl
@[simp] theorem State.raise_journal (s : State) (l cause : Nat) (addr : Dword) : (s.raise l cause addr).journal = s.journal := rfl
@[simp] theorem State.raise_nextId (s : State) (l cause : Nat) (addr : Dword) : (s.raise l cause addr).nextId = s.nextId := rfl
@[simp] theorem State.raise_free (s : State) (l cause : Nat) (addr : Dword) : (s.raise l cause addr).free = s.free := rfl

@[simp] theorem State.wait_part (s : State) (l : Nat) (w : Wait) : (s.wait l w).part = s.part := rfl
@[simp] theorem State.wait_boot (s : State) (l : Nat) (w : Wait) : (s.wait l w).boot = s.boot := rfl
@[simp] theorem State.wait_flash (s : State) (l : Nat) (w : Wait) : (s.wait l w).flash = s.flash := rfl
@[simp] theorem State.wait_fusedCounter (s : State) (l : Nat) (w : Wait) : (s.wait l w).fusedCounter = s.fusedCounter := rfl
@[simp] theorem State.wait_clock (s : State) (l : Nat) (w : Wait) : (s.wait l w).clock = s.clock := rfl
@[simp] theorem State.wait_timeFs (s : State) (l : Nat) (w : Wait) : (s.wait l w).timeFs = s.timeFs := rfl
@[simp] theorem State.wait_timeParts (s : State) (l : Nat) (w : Wait) : (s.wait l w).timeParts = s.timeParts := rfl
@[simp] theorem State.wait_mhz (s : State) (l : Nat) (w : Wait) : (s.wait l w).mhz = s.mhz := rfl
@[simp] theorem State.wait_dev (s : State) (l : Nat) (w : Wait) : (s.wait l w).dev = s.dev := rfl
@[simp] theorem State.wait_cores (s : State) (l : Nat) (w : Wait) : (s.wait l w).cores = s.cores := rfl
@[simp] theorem State.wait_due (s : State) (l : Nat) (w : Wait) : (s.wait l w).due = s.due := rfl
@[simp] theorem State.wait_merged (s : State) (l : Nat) (w : Wait) : (s.wait l w).merged = s.merged := rfl
@[simp] theorem State.wait_late (s : State) (l : Nat) (w : Wait) : (s.wait l w).late = s.late := rfl
@[simp] theorem State.wait_sched (s : State) (l : Nat) (w : Wait) : (s.wait l w).sched = s.sched := rfl
@[simp] theorem State.wait_mem (s : State) (l : Nat) (w : Wait) : (s.wait l w).mem = s.mem := rfl
@[simp] theorem State.wait_tags (s : State) (l : Nat) (w : Wait) : (s.wait l w).tags = s.tags := rfl
@[simp] theorem State.wait_tagged (s : State) (l : Nat) (w : Wait) : (s.wait l w).tagged = s.tagged := rfl
@[simp] theorem State.wait_poison (s : State) (l : Nat) (w : Wait) : (s.wait l w).poison = s.poison := rfl
@[simp] theorem State.wait_asidRoot (s : State) (l : Nat) (w : Wait) : (s.wait l w).asidRoot = s.asidRoot := rfl
@[simp] theorem State.wait_xc (s : State) (l : Nat) (w : Wait) : (s.wait l w).xc = s.xc := rfl
@[simp] theorem State.wait_pageHome (s : State) (l : Nat) (w : Wait) : (s.wait l w).pageHome = s.pageHome := rfl
@[simp] theorem State.wait_l2 (s : State) (l : Nat) (w : Wait) : (s.wait l w).l2 = s.l2 := rfl
@[simp] theorem State.wait_dir (s : State) (l : Nat) (w : Wait) : (s.wait l w).dir = s.dir := rfl
@[simp] theorem State.wait_msgs (s : State) (l : Nat) (w : Wait) : (s.wait l w).msgs = s.msgs := rfl
@[simp] theorem State.wait_replica (s : State) (l : Nat) (w : Wait) : (s.wait l w).replica = s.replica := rfl
@[simp] theorem State.wait_collapse (s : State) (l : Nat) (w : Wait) : (s.wait l w).collapse = s.collapse := rfl
@[simp] theorem State.wait_gatherers (s : State) (l : Nat) (w : Wait) : (s.wait l w).gatherers = s.gatherers := rfl
@[simp] theorem State.wait_blocks (s : State) (l : Nat) (w : Wait) : (s.wait l w).blocks = s.blocks := rfl
@[simp] theorem State.wait_faultRec (s : State) (l : Nat) (w : Wait) : (s.wait l w).faultRec = s.faultRec := rfl
@[simp] theorem State.wait_hac (s : State) (l : Nat) (w : Wait) : (s.wait l w).hac = s.hac := rfl
@[simp] theorem State.wait_farDie (s : State) (l : Nat) (w : Wait) : (s.wait l w).farDie = s.farDie := rfl
@[simp] theorem State.wait_ops (s : State) (l : Nat) (w : Wait) : (s.wait l w).ops = s.ops := rfl
@[simp] theorem State.wait_remotes (s : State) (l : Nat) (w : Wait) : (s.wait l w).remotes = s.remotes := rfl
@[simp] theorem State.wait_remoteIn (s : State) (l : Nat) (w : Wait) : (s.wait l w).remoteIn = s.remoteIn := rfl
@[simp] theorem State.wait_pools (s : State) (l : Nat) (w : Wait) : (s.wait l w).pools = s.pools := rfl
@[simp] theorem State.wait_seqs (s : State) (l : Nat) (w : Wait) : (s.wait l w).seqs = s.seqs := rfl
@[simp] theorem State.wait_slotGen (s : State) (l : Nat) (w : Wait) : (s.wait l w).slotGen = s.slotGen := rfl
@[simp] theorem State.wait_pages (s : State) (l : Nat) (w : Wait) : (s.wait l w).pages = s.pages := rfl
@[simp] theorem State.wait_pfxDir (s : State) (l : Nat) (w : Wait) : (s.wait l w).pfxDir = s.pfxDir := rfl
@[simp] theorem State.wait_pfxMap (s : State) (l : Nat) (w : Wait) : (s.wait l w).pfxMap = s.pfxMap := rfl
@[simp] theorem State.wait_htsTbase (s : State) (l : Nat) (w : Wait) : (s.wait l w).htsTbase = s.htsTbase := rfl
@[simp] theorem State.wait_htsTsz (s : State) (l : Nat) (w : Wait) : (s.wait l w).htsTsz = s.htsTsz := rfl
@[simp] theorem State.wait_htsRes (s : State) (l : Nat) (w : Wait) : (s.wait l w).htsRes = s.htsRes := rfl
@[simp] theorem State.wait_htsCtx (s : State) (l : Nat) (w : Wait) : (s.wait l w).htsCtx = s.htsCtx := rfl
@[simp] theorem State.wait_htsCtxsz (s : State) (l : Nat) (w : Wait) : (s.wait l w).htsCtxsz = s.htsCtxsz := rfl
@[simp] theorem State.wait_htsIgn (s : State) (l : Nat) (w : Wait) : (s.wait l w).htsIgn = s.htsIgn := rfl
@[simp] theorem State.wait_htsRange (s : State) (l : Nat) (w : Wait) : (s.wait l w).htsRange = s.htsRange := rfl
@[simp] theorem State.wait_tasks (s : State) (l : Nat) (w : Wait) : (s.wait l w).tasks = s.tasks := rfl
@[simp] theorem State.wait_decs (s : State) (l : Nat) (w : Wait) : (s.wait l w).decs = s.decs := rfl
@[simp] theorem State.wait_launches (s : State) (l : Nat) (w : Wait) : (s.wait l w).launches = s.launches := rfl
@[simp] theorem State.wait_wgs (s : State) (l : Nat) (w : Wait) : (s.wait l w).wgs = s.wgs := rfl
@[simp] theorem State.wait_images (s : State) (l : Nat) (w : Wait) : (s.wait l w).images = s.images := rfl
@[simp] theorem State.wait_routes (s : State) (l : Nat) (w : Wait) : (s.wait l w).routes = s.routes := rfl
@[simp] theorem State.wait_groups (s : State) (l : Nat) (w : Wait) : (s.wait l w).groups = s.groups := rfl
@[simp] theorem State.wait_linksDown (s : State) (l : Nat) (w : Wait) : (s.wait l w).linksDown = s.linksDown := rfl
@[simp] theorem State.wait_packets (s : State) (l : Nat) (w : Wait) : (s.wait l w).packets = s.packets := rfl
@[simp] theorem State.wait_wire (s : State) (l : Nat) (w : Wait) : (s.wait l w).wire = s.wire := rfl
@[simp] theorem State.wait_sent (s : State) (l : Nat) (w : Wait) : (s.wait l w).sent = s.sent := rfl
@[simp] theorem State.wait_heard (s : State) (l : Nat) (w : Wait) : (s.wait l w).heard = s.heard := rfl
@[simp] theorem State.wait_collSeq (s : State) (l : Nat) (w : Wait) : (s.wait l w).collSeq = s.collSeq := rfl
@[simp] theorem State.wait_failed (s : State) (l : Nat) (w : Wait) : (s.wait l w).failed = s.failed := rfl
@[simp] theorem State.wait_numiStat (s : State) (l : Nat) (w : Wait) : (s.wait l w).numiStat = s.numiStat := rfl
@[simp] theorem State.wait_remap0 (s : State) (l : Nat) (w : Wait) : (s.wait l w).remap0 = s.remap0 := rfl
@[simp] theorem State.wait_remap1 (s : State) (l : Nat) (w : Wait) : (s.wait l w).remap1 = s.remap1 := rfl
@[simp] theorem State.wait_poolEnd (s : State) (l : Nat) (w : Wait) : (s.wait l w).poolEnd = s.poolEnd := rfl
@[simp] theorem State.wait_mbxIn (s : State) (l : Nat) (w : Wait) : (s.wait l w).mbxIn = s.mbxIn := rfl
@[simp] theorem State.wait_mbxOut (s : State) (l : Nat) (w : Wait) : (s.wait l w).mbxOut = s.mbxOut := rfl
@[simp] theorem State.wait_mbxDb (s : State) (l : Nat) (w : Wait) : (s.wait l w).mbxDb = s.mbxDb := rfl
@[simp] theorem State.wait_msix (s : State) (l : Nat) (w : Wait) : (s.wait l w).msix = s.msix := rfl
@[simp] theorem State.wait_hostRead (s : State) (l : Nat) (w : Wait) : (s.wait l w).hostRead = s.hostRead := rfl
@[simp] theorem State.wait_reports (s : State) (l : Nat) (w : Wait) : (s.wait l w).reports = s.reports := rfl
@[simp] theorem State.wait_ports (s : State) (l : Nat) (w : Wait) : (s.wait l w).ports = s.ports := rfl
@[simp] theorem State.wait_models (s : State) (l : Nat) (w : Wait) : (s.wait l w).models = s.models := rfl
@[simp] theorem State.wait_journal (s : State) (l : Nat) (w : Wait) : (s.wait l w).journal = s.journal := rfl
@[simp] theorem State.wait_nextId (s : State) (l : Nat) (w : Wait) : (s.wait l w).nextId = s.nextId := rfl
@[simp] theorem State.wait_free (s : State) (l : Nat) (w : Wait) : (s.wait l w).free = s.free := rfl

@[simp] theorem State.modWg_part (s : State) (w : Nat) (f : Wg → Wg) : (s.modWg w f).part = s.part := rfl
@[simp] theorem State.modWg_boot (s : State) (w : Nat) (f : Wg → Wg) : (s.modWg w f).boot = s.boot := rfl
@[simp] theorem State.modWg_flash (s : State) (w : Nat) (f : Wg → Wg) : (s.modWg w f).flash = s.flash := rfl
@[simp] theorem State.modWg_fusedCounter (s : State) (w : Nat) (f : Wg → Wg) : (s.modWg w f).fusedCounter = s.fusedCounter := rfl
@[simp] theorem State.modWg_clock (s : State) (w : Nat) (f : Wg → Wg) : (s.modWg w f).clock = s.clock := rfl
@[simp] theorem State.modWg_timeFs (s : State) (w : Nat) (f : Wg → Wg) : (s.modWg w f).timeFs = s.timeFs := rfl
@[simp] theorem State.modWg_timeParts (s : State) (w : Nat) (f : Wg → Wg) : (s.modWg w f).timeParts = s.timeParts := rfl
@[simp] theorem State.modWg_mhz (s : State) (w : Nat) (f : Wg → Wg) : (s.modWg w f).mhz = s.mhz := rfl
@[simp] theorem State.modWg_dev (s : State) (w : Nat) (f : Wg → Wg) : (s.modWg w f).dev = s.dev := rfl
@[simp] theorem State.modWg_cores (s : State) (w : Nat) (f : Wg → Wg) : (s.modWg w f).cores = s.cores := rfl
@[simp] theorem State.modWg_cur (s : State) (w : Nat) (f : Wg → Wg) : (s.modWg w f).cur = s.cur := rfl
@[simp] theorem State.modWg_due (s : State) (w : Nat) (f : Wg → Wg) : (s.modWg w f).due = s.due := rfl
@[simp] theorem State.modWg_merged (s : State) (w : Nat) (f : Wg → Wg) : (s.modWg w f).merged = s.merged := rfl
@[simp] theorem State.modWg_late (s : State) (w : Nat) (f : Wg → Wg) : (s.modWg w f).late = s.late := rfl
@[simp] theorem State.modWg_sched (s : State) (w : Nat) (f : Wg → Wg) : (s.modWg w f).sched = s.sched := rfl
@[simp] theorem State.modWg_mem (s : State) (w : Nat) (f : Wg → Wg) : (s.modWg w f).mem = s.mem := rfl
@[simp] theorem State.modWg_tags (s : State) (w : Nat) (f : Wg → Wg) : (s.modWg w f).tags = s.tags := rfl
@[simp] theorem State.modWg_tagged (s : State) (w : Nat) (f : Wg → Wg) : (s.modWg w f).tagged = s.tagged := rfl
@[simp] theorem State.modWg_poison (s : State) (w : Nat) (f : Wg → Wg) : (s.modWg w f).poison = s.poison := rfl
@[simp] theorem State.modWg_asidRoot (s : State) (w : Nat) (f : Wg → Wg) : (s.modWg w f).asidRoot = s.asidRoot := rfl
@[simp] theorem State.modWg_xc (s : State) (w : Nat) (f : Wg → Wg) : (s.modWg w f).xc = s.xc := rfl
@[simp] theorem State.modWg_pageHome (s : State) (w : Nat) (f : Wg → Wg) : (s.modWg w f).pageHome = s.pageHome := rfl
@[simp] theorem State.modWg_l2 (s : State) (w : Nat) (f : Wg → Wg) : (s.modWg w f).l2 = s.l2 := rfl
@[simp] theorem State.modWg_dir (s : State) (w : Nat) (f : Wg → Wg) : (s.modWg w f).dir = s.dir := rfl
@[simp] theorem State.modWg_msgs (s : State) (w : Nat) (f : Wg → Wg) : (s.modWg w f).msgs = s.msgs := rfl
@[simp] theorem State.modWg_replica (s : State) (w : Nat) (f : Wg → Wg) : (s.modWg w f).replica = s.replica := rfl
@[simp] theorem State.modWg_collapse (s : State) (w : Nat) (f : Wg → Wg) : (s.modWg w f).collapse = s.collapse := rfl
@[simp] theorem State.modWg_gatherers (s : State) (w : Nat) (f : Wg → Wg) : (s.modWg w f).gatherers = s.gatherers := rfl
@[simp] theorem State.modWg_blocks (s : State) (w : Nat) (f : Wg → Wg) : (s.modWg w f).blocks = s.blocks := rfl
@[simp] theorem State.modWg_faultRec (s : State) (w : Nat) (f : Wg → Wg) : (s.modWg w f).faultRec = s.faultRec := rfl
@[simp] theorem State.modWg_hac (s : State) (w : Nat) (f : Wg → Wg) : (s.modWg w f).hac = s.hac := rfl
@[simp] theorem State.modWg_farDie (s : State) (w : Nat) (f : Wg → Wg) : (s.modWg w f).farDie = s.farDie := rfl
@[simp] theorem State.modWg_ops (s : State) (w : Nat) (f : Wg → Wg) : (s.modWg w f).ops = s.ops := rfl
@[simp] theorem State.modWg_remotes (s : State) (w : Nat) (f : Wg → Wg) : (s.modWg w f).remotes = s.remotes := rfl
@[simp] theorem State.modWg_remoteIn (s : State) (w : Nat) (f : Wg → Wg) : (s.modWg w f).remoteIn = s.remoteIn := rfl
@[simp] theorem State.modWg_pools (s : State) (w : Nat) (f : Wg → Wg) : (s.modWg w f).pools = s.pools := rfl
@[simp] theorem State.modWg_seqs (s : State) (w : Nat) (f : Wg → Wg) : (s.modWg w f).seqs = s.seqs := rfl
@[simp] theorem State.modWg_slotGen (s : State) (w : Nat) (f : Wg → Wg) : (s.modWg w f).slotGen = s.slotGen := rfl
@[simp] theorem State.modWg_pages (s : State) (w : Nat) (f : Wg → Wg) : (s.modWg w f).pages = s.pages := rfl
@[simp] theorem State.modWg_pfxDir (s : State) (w : Nat) (f : Wg → Wg) : (s.modWg w f).pfxDir = s.pfxDir := rfl
@[simp] theorem State.modWg_pfxMap (s : State) (w : Nat) (f : Wg → Wg) : (s.modWg w f).pfxMap = s.pfxMap := rfl
@[simp] theorem State.modWg_htsTbase (s : State) (w : Nat) (f : Wg → Wg) : (s.modWg w f).htsTbase = s.htsTbase := rfl
@[simp] theorem State.modWg_htsTsz (s : State) (w : Nat) (f : Wg → Wg) : (s.modWg w f).htsTsz = s.htsTsz := rfl
@[simp] theorem State.modWg_htsRes (s : State) (w : Nat) (f : Wg → Wg) : (s.modWg w f).htsRes = s.htsRes := rfl
@[simp] theorem State.modWg_htsCtx (s : State) (w : Nat) (f : Wg → Wg) : (s.modWg w f).htsCtx = s.htsCtx := rfl
@[simp] theorem State.modWg_htsCtxsz (s : State) (w : Nat) (f : Wg → Wg) : (s.modWg w f).htsCtxsz = s.htsCtxsz := rfl
@[simp] theorem State.modWg_htsIgn (s : State) (w : Nat) (f : Wg → Wg) : (s.modWg w f).htsIgn = s.htsIgn := rfl
@[simp] theorem State.modWg_htsRange (s : State) (w : Nat) (f : Wg → Wg) : (s.modWg w f).htsRange = s.htsRange := rfl
@[simp] theorem State.modWg_tasks (s : State) (w : Nat) (f : Wg → Wg) : (s.modWg w f).tasks = s.tasks := rfl
@[simp] theorem State.modWg_decs (s : State) (w : Nat) (f : Wg → Wg) : (s.modWg w f).decs = s.decs := rfl
@[simp] theorem State.modWg_launches (s : State) (w : Nat) (f : Wg → Wg) : (s.modWg w f).launches = s.launches := rfl
@[simp] theorem State.modWg_images (s : State) (w : Nat) (f : Wg → Wg) : (s.modWg w f).images = s.images := rfl
@[simp] theorem State.modWg_routes (s : State) (w : Nat) (f : Wg → Wg) : (s.modWg w f).routes = s.routes := rfl
@[simp] theorem State.modWg_groups (s : State) (w : Nat) (f : Wg → Wg) : (s.modWg w f).groups = s.groups := rfl
@[simp] theorem State.modWg_linksDown (s : State) (w : Nat) (f : Wg → Wg) : (s.modWg w f).linksDown = s.linksDown := rfl
@[simp] theorem State.modWg_packets (s : State) (w : Nat) (f : Wg → Wg) : (s.modWg w f).packets = s.packets := rfl
@[simp] theorem State.modWg_wire (s : State) (w : Nat) (f : Wg → Wg) : (s.modWg w f).wire = s.wire := rfl
@[simp] theorem State.modWg_sent (s : State) (w : Nat) (f : Wg → Wg) : (s.modWg w f).sent = s.sent := rfl
@[simp] theorem State.modWg_heard (s : State) (w : Nat) (f : Wg → Wg) : (s.modWg w f).heard = s.heard := rfl
@[simp] theorem State.modWg_collSeq (s : State) (w : Nat) (f : Wg → Wg) : (s.modWg w f).collSeq = s.collSeq := rfl
@[simp] theorem State.modWg_failed (s : State) (w : Nat) (f : Wg → Wg) : (s.modWg w f).failed = s.failed := rfl
@[simp] theorem State.modWg_numiStat (s : State) (w : Nat) (f : Wg → Wg) : (s.modWg w f).numiStat = s.numiStat := rfl
@[simp] theorem State.modWg_remap0 (s : State) (w : Nat) (f : Wg → Wg) : (s.modWg w f).remap0 = s.remap0 := rfl
@[simp] theorem State.modWg_remap1 (s : State) (w : Nat) (f : Wg → Wg) : (s.modWg w f).remap1 = s.remap1 := rfl
@[simp] theorem State.modWg_poolEnd (s : State) (w : Nat) (f : Wg → Wg) : (s.modWg w f).poolEnd = s.poolEnd := rfl
@[simp] theorem State.modWg_mbxIn (s : State) (w : Nat) (f : Wg → Wg) : (s.modWg w f).mbxIn = s.mbxIn := rfl
@[simp] theorem State.modWg_mbxOut (s : State) (w : Nat) (f : Wg → Wg) : (s.modWg w f).mbxOut = s.mbxOut := rfl
@[simp] theorem State.modWg_mbxDb (s : State) (w : Nat) (f : Wg → Wg) : (s.modWg w f).mbxDb = s.mbxDb := rfl
@[simp] theorem State.modWg_msix (s : State) (w : Nat) (f : Wg → Wg) : (s.modWg w f).msix = s.msix := rfl
@[simp] theorem State.modWg_hostRead (s : State) (w : Nat) (f : Wg → Wg) : (s.modWg w f).hostRead = s.hostRead := rfl
@[simp] theorem State.modWg_reports (s : State) (w : Nat) (f : Wg → Wg) : (s.modWg w f).reports = s.reports := rfl
@[simp] theorem State.modWg_ports (s : State) (w : Nat) (f : Wg → Wg) : (s.modWg w f).ports = s.ports := rfl
@[simp] theorem State.modWg_models (s : State) (w : Nat) (f : Wg → Wg) : (s.modWg w f).models = s.models := rfl
@[simp] theorem State.modWg_journal (s : State) (w : Nat) (f : Wg → Wg) : (s.modWg w f).journal = s.journal := rfl
@[simp] theorem State.modWg_nextId (s : State) (w : Nat) (f : Wg → Wg) : (s.modWg w f).nextId = s.nextId := rfl
@[simp] theorem State.modWg_free (s : State) (w : Nat) (f : Wg → Wg) : (s.modWg w f).free = s.free := rfl

@[simp] theorem State.modLaunch_part (s : State) (t : Nat) (f : Launch → Launch) : (s.modLaunch t f).part = s.part := rfl
@[simp] theorem State.modLaunch_boot (s : State) (t : Nat) (f : Launch → Launch) : (s.modLaunch t f).boot = s.boot := rfl
@[simp] theorem State.modLaunch_flash (s : State) (t : Nat) (f : Launch → Launch) : (s.modLaunch t f).flash = s.flash := rfl
@[simp] theorem State.modLaunch_fusedCounter (s : State) (t : Nat) (f : Launch → Launch) : (s.modLaunch t f).fusedCounter = s.fusedCounter := rfl
@[simp] theorem State.modLaunch_clock (s : State) (t : Nat) (f : Launch → Launch) : (s.modLaunch t f).clock = s.clock := rfl
@[simp] theorem State.modLaunch_timeFs (s : State) (t : Nat) (f : Launch → Launch) : (s.modLaunch t f).timeFs = s.timeFs := rfl
@[simp] theorem State.modLaunch_timeParts (s : State) (t : Nat) (f : Launch → Launch) : (s.modLaunch t f).timeParts = s.timeParts := rfl
@[simp] theorem State.modLaunch_mhz (s : State) (t : Nat) (f : Launch → Launch) : (s.modLaunch t f).mhz = s.mhz := rfl
@[simp] theorem State.modLaunch_dev (s : State) (t : Nat) (f : Launch → Launch) : (s.modLaunch t f).dev = s.dev := rfl
@[simp] theorem State.modLaunch_cores (s : State) (t : Nat) (f : Launch → Launch) : (s.modLaunch t f).cores = s.cores := rfl
@[simp] theorem State.modLaunch_cur (s : State) (t : Nat) (f : Launch → Launch) : (s.modLaunch t f).cur = s.cur := rfl
@[simp] theorem State.modLaunch_due (s : State) (t : Nat) (f : Launch → Launch) : (s.modLaunch t f).due = s.due := rfl
@[simp] theorem State.modLaunch_merged (s : State) (t : Nat) (f : Launch → Launch) : (s.modLaunch t f).merged = s.merged := rfl
@[simp] theorem State.modLaunch_late (s : State) (t : Nat) (f : Launch → Launch) : (s.modLaunch t f).late = s.late := rfl
@[simp] theorem State.modLaunch_sched (s : State) (t : Nat) (f : Launch → Launch) : (s.modLaunch t f).sched = s.sched := rfl
@[simp] theorem State.modLaunch_mem (s : State) (t : Nat) (f : Launch → Launch) : (s.modLaunch t f).mem = s.mem := rfl
@[simp] theorem State.modLaunch_tags (s : State) (t : Nat) (f : Launch → Launch) : (s.modLaunch t f).tags = s.tags := rfl
@[simp] theorem State.modLaunch_tagged (s : State) (t : Nat) (f : Launch → Launch) : (s.modLaunch t f).tagged = s.tagged := rfl
@[simp] theorem State.modLaunch_poison (s : State) (t : Nat) (f : Launch → Launch) : (s.modLaunch t f).poison = s.poison := rfl
@[simp] theorem State.modLaunch_asidRoot (s : State) (t : Nat) (f : Launch → Launch) : (s.modLaunch t f).asidRoot = s.asidRoot := rfl
@[simp] theorem State.modLaunch_xc (s : State) (t : Nat) (f : Launch → Launch) : (s.modLaunch t f).xc = s.xc := rfl
@[simp] theorem State.modLaunch_pageHome (s : State) (t : Nat) (f : Launch → Launch) : (s.modLaunch t f).pageHome = s.pageHome := rfl
@[simp] theorem State.modLaunch_l2 (s : State) (t : Nat) (f : Launch → Launch) : (s.modLaunch t f).l2 = s.l2 := rfl
@[simp] theorem State.modLaunch_dir (s : State) (t : Nat) (f : Launch → Launch) : (s.modLaunch t f).dir = s.dir := rfl
@[simp] theorem State.modLaunch_msgs (s : State) (t : Nat) (f : Launch → Launch) : (s.modLaunch t f).msgs = s.msgs := rfl
@[simp] theorem State.modLaunch_replica (s : State) (t : Nat) (f : Launch → Launch) : (s.modLaunch t f).replica = s.replica := rfl
@[simp] theorem State.modLaunch_collapse (s : State) (t : Nat) (f : Launch → Launch) : (s.modLaunch t f).collapse = s.collapse := rfl
@[simp] theorem State.modLaunch_gatherers (s : State) (t : Nat) (f : Launch → Launch) : (s.modLaunch t f).gatherers = s.gatherers := rfl
@[simp] theorem State.modLaunch_blocks (s : State) (t : Nat) (f : Launch → Launch) : (s.modLaunch t f).blocks = s.blocks := rfl
@[simp] theorem State.modLaunch_faultRec (s : State) (t : Nat) (f : Launch → Launch) : (s.modLaunch t f).faultRec = s.faultRec := rfl
@[simp] theorem State.modLaunch_hac (s : State) (t : Nat) (f : Launch → Launch) : (s.modLaunch t f).hac = s.hac := rfl
@[simp] theorem State.modLaunch_farDie (s : State) (t : Nat) (f : Launch → Launch) : (s.modLaunch t f).farDie = s.farDie := rfl
@[simp] theorem State.modLaunch_ops (s : State) (t : Nat) (f : Launch → Launch) : (s.modLaunch t f).ops = s.ops := rfl
@[simp] theorem State.modLaunch_remotes (s : State) (t : Nat) (f : Launch → Launch) : (s.modLaunch t f).remotes = s.remotes := rfl
@[simp] theorem State.modLaunch_remoteIn (s : State) (t : Nat) (f : Launch → Launch) : (s.modLaunch t f).remoteIn = s.remoteIn := rfl
@[simp] theorem State.modLaunch_pools (s : State) (t : Nat) (f : Launch → Launch) : (s.modLaunch t f).pools = s.pools := rfl
@[simp] theorem State.modLaunch_seqs (s : State) (t : Nat) (f : Launch → Launch) : (s.modLaunch t f).seqs = s.seqs := rfl
@[simp] theorem State.modLaunch_slotGen (s : State) (t : Nat) (f : Launch → Launch) : (s.modLaunch t f).slotGen = s.slotGen := rfl
@[simp] theorem State.modLaunch_pages (s : State) (t : Nat) (f : Launch → Launch) : (s.modLaunch t f).pages = s.pages := rfl
@[simp] theorem State.modLaunch_pfxDir (s : State) (t : Nat) (f : Launch → Launch) : (s.modLaunch t f).pfxDir = s.pfxDir := rfl
@[simp] theorem State.modLaunch_pfxMap (s : State) (t : Nat) (f : Launch → Launch) : (s.modLaunch t f).pfxMap = s.pfxMap := rfl
@[simp] theorem State.modLaunch_htsTbase (s : State) (t : Nat) (f : Launch → Launch) : (s.modLaunch t f).htsTbase = s.htsTbase := rfl
@[simp] theorem State.modLaunch_htsTsz (s : State) (t : Nat) (f : Launch → Launch) : (s.modLaunch t f).htsTsz = s.htsTsz := rfl
@[simp] theorem State.modLaunch_htsRes (s : State) (t : Nat) (f : Launch → Launch) : (s.modLaunch t f).htsRes = s.htsRes := rfl
@[simp] theorem State.modLaunch_htsCtx (s : State) (t : Nat) (f : Launch → Launch) : (s.modLaunch t f).htsCtx = s.htsCtx := rfl
@[simp] theorem State.modLaunch_htsCtxsz (s : State) (t : Nat) (f : Launch → Launch) : (s.modLaunch t f).htsCtxsz = s.htsCtxsz := rfl
@[simp] theorem State.modLaunch_htsIgn (s : State) (t : Nat) (f : Launch → Launch) : (s.modLaunch t f).htsIgn = s.htsIgn := rfl
@[simp] theorem State.modLaunch_htsRange (s : State) (t : Nat) (f : Launch → Launch) : (s.modLaunch t f).htsRange = s.htsRange := rfl
@[simp] theorem State.modLaunch_tasks (s : State) (t : Nat) (f : Launch → Launch) : (s.modLaunch t f).tasks = s.tasks := rfl
@[simp] theorem State.modLaunch_decs (s : State) (t : Nat) (f : Launch → Launch) : (s.modLaunch t f).decs = s.decs := rfl
@[simp] theorem State.modLaunch_wgs (s : State) (t : Nat) (f : Launch → Launch) : (s.modLaunch t f).wgs = s.wgs := rfl
@[simp] theorem State.modLaunch_images (s : State) (t : Nat) (f : Launch → Launch) : (s.modLaunch t f).images = s.images := rfl
@[simp] theorem State.modLaunch_routes (s : State) (t : Nat) (f : Launch → Launch) : (s.modLaunch t f).routes = s.routes := rfl
@[simp] theorem State.modLaunch_groups (s : State) (t : Nat) (f : Launch → Launch) : (s.modLaunch t f).groups = s.groups := rfl
@[simp] theorem State.modLaunch_linksDown (s : State) (t : Nat) (f : Launch → Launch) : (s.modLaunch t f).linksDown = s.linksDown := rfl
@[simp] theorem State.modLaunch_packets (s : State) (t : Nat) (f : Launch → Launch) : (s.modLaunch t f).packets = s.packets := rfl
@[simp] theorem State.modLaunch_wire (s : State) (t : Nat) (f : Launch → Launch) : (s.modLaunch t f).wire = s.wire := rfl
@[simp] theorem State.modLaunch_sent (s : State) (t : Nat) (f : Launch → Launch) : (s.modLaunch t f).sent = s.sent := rfl
@[simp] theorem State.modLaunch_heard (s : State) (t : Nat) (f : Launch → Launch) : (s.modLaunch t f).heard = s.heard := rfl
@[simp] theorem State.modLaunch_collSeq (s : State) (t : Nat) (f : Launch → Launch) : (s.modLaunch t f).collSeq = s.collSeq := rfl
@[simp] theorem State.modLaunch_failed (s : State) (t : Nat) (f : Launch → Launch) : (s.modLaunch t f).failed = s.failed := rfl
@[simp] theorem State.modLaunch_numiStat (s : State) (t : Nat) (f : Launch → Launch) : (s.modLaunch t f).numiStat = s.numiStat := rfl
@[simp] theorem State.modLaunch_remap0 (s : State) (t : Nat) (f : Launch → Launch) : (s.modLaunch t f).remap0 = s.remap0 := rfl
@[simp] theorem State.modLaunch_remap1 (s : State) (t : Nat) (f : Launch → Launch) : (s.modLaunch t f).remap1 = s.remap1 := rfl
@[simp] theorem State.modLaunch_poolEnd (s : State) (t : Nat) (f : Launch → Launch) : (s.modLaunch t f).poolEnd = s.poolEnd := rfl
@[simp] theorem State.modLaunch_mbxIn (s : State) (t : Nat) (f : Launch → Launch) : (s.modLaunch t f).mbxIn = s.mbxIn := rfl
@[simp] theorem State.modLaunch_mbxOut (s : State) (t : Nat) (f : Launch → Launch) : (s.modLaunch t f).mbxOut = s.mbxOut := rfl
@[simp] theorem State.modLaunch_mbxDb (s : State) (t : Nat) (f : Launch → Launch) : (s.modLaunch t f).mbxDb = s.mbxDb := rfl
@[simp] theorem State.modLaunch_msix (s : State) (t : Nat) (f : Launch → Launch) : (s.modLaunch t f).msix = s.msix := rfl
@[simp] theorem State.modLaunch_hostRead (s : State) (t : Nat) (f : Launch → Launch) : (s.modLaunch t f).hostRead = s.hostRead := rfl
@[simp] theorem State.modLaunch_reports (s : State) (t : Nat) (f : Launch → Launch) : (s.modLaunch t f).reports = s.reports := rfl
@[simp] theorem State.modLaunch_ports (s : State) (t : Nat) (f : Launch → Launch) : (s.modLaunch t f).ports = s.ports := rfl
@[simp] theorem State.modLaunch_models (s : State) (t : Nat) (f : Launch → Launch) : (s.modLaunch t f).models = s.models := rfl
@[simp] theorem State.modLaunch_journal (s : State) (t : Nat) (f : Launch → Launch) : (s.modLaunch t f).journal = s.journal := rfl
@[simp] theorem State.modLaunch_nextId (s : State) (t : Nat) (f : Launch → Launch) : (s.modLaunch t f).nextId = s.nextId := rfl
@[simp] theorem State.modLaunch_free (s : State) (t : Nat) (f : Launch → Launch) : (s.modLaunch t f).free = s.free := rfl

@[simp] theorem State.setTag_part (s : State) (asid : BitVec 16) (va : Nat) (t : BitVec 4) : (s.setTag asid va t).part = s.part := rfl
@[simp] theorem State.setTag_boot (s : State) (asid : BitVec 16) (va : Nat) (t : BitVec 4) : (s.setTag asid va t).boot = s.boot := rfl
@[simp] theorem State.setTag_flash (s : State) (asid : BitVec 16) (va : Nat) (t : BitVec 4) : (s.setTag asid va t).flash = s.flash := rfl
@[simp] theorem State.setTag_fusedCounter (s : State) (asid : BitVec 16) (va : Nat) (t : BitVec 4) : (s.setTag asid va t).fusedCounter = s.fusedCounter := rfl
@[simp] theorem State.setTag_clock (s : State) (asid : BitVec 16) (va : Nat) (t : BitVec 4) : (s.setTag asid va t).clock = s.clock := rfl
@[simp] theorem State.setTag_timeFs (s : State) (asid : BitVec 16) (va : Nat) (t : BitVec 4) : (s.setTag asid va t).timeFs = s.timeFs := rfl
@[simp] theorem State.setTag_timeParts (s : State) (asid : BitVec 16) (va : Nat) (t : BitVec 4) : (s.setTag asid va t).timeParts = s.timeParts := rfl
@[simp] theorem State.setTag_mhz (s : State) (asid : BitVec 16) (va : Nat) (t : BitVec 4) : (s.setTag asid va t).mhz = s.mhz := rfl
@[simp] theorem State.setTag_dev (s : State) (asid : BitVec 16) (va : Nat) (t : BitVec 4) : (s.setTag asid va t).dev = s.dev := rfl
@[simp] theorem State.setTag_cores (s : State) (asid : BitVec 16) (va : Nat) (t : BitVec 4) : (s.setTag asid va t).cores = s.cores := rfl
@[simp] theorem State.setTag_cur (s : State) (asid : BitVec 16) (va : Nat) (t : BitVec 4) : (s.setTag asid va t).cur = s.cur := rfl
@[simp] theorem State.setTag_due (s : State) (asid : BitVec 16) (va : Nat) (t : BitVec 4) : (s.setTag asid va t).due = s.due := rfl
@[simp] theorem State.setTag_merged (s : State) (asid : BitVec 16) (va : Nat) (t : BitVec 4) : (s.setTag asid va t).merged = s.merged := rfl
@[simp] theorem State.setTag_late (s : State) (asid : BitVec 16) (va : Nat) (t : BitVec 4) : (s.setTag asid va t).late = s.late := rfl
@[simp] theorem State.setTag_sched (s : State) (asid : BitVec 16) (va : Nat) (t : BitVec 4) : (s.setTag asid va t).sched = s.sched := rfl
@[simp] theorem State.setTag_mem (s : State) (asid : BitVec 16) (va : Nat) (t : BitVec 4) : (s.setTag asid va t).mem = s.mem := rfl
@[simp] theorem State.setTag_tagged (s : State) (asid : BitVec 16) (va : Nat) (t : BitVec 4) : (s.setTag asid va t).tagged = s.tagged := rfl
@[simp] theorem State.setTag_poison (s : State) (asid : BitVec 16) (va : Nat) (t : BitVec 4) : (s.setTag asid va t).poison = s.poison := rfl
@[simp] theorem State.setTag_asidRoot (s : State) (asid : BitVec 16) (va : Nat) (t : BitVec 4) : (s.setTag asid va t).asidRoot = s.asidRoot := rfl
@[simp] theorem State.setTag_xc (s : State) (asid : BitVec 16) (va : Nat) (t : BitVec 4) : (s.setTag asid va t).xc = s.xc := rfl
@[simp] theorem State.setTag_pageHome (s : State) (asid : BitVec 16) (va : Nat) (t : BitVec 4) : (s.setTag asid va t).pageHome = s.pageHome := rfl
@[simp] theorem State.setTag_l2 (s : State) (asid : BitVec 16) (va : Nat) (t : BitVec 4) : (s.setTag asid va t).l2 = s.l2 := rfl
@[simp] theorem State.setTag_dir (s : State) (asid : BitVec 16) (va : Nat) (t : BitVec 4) : (s.setTag asid va t).dir = s.dir := rfl
@[simp] theorem State.setTag_msgs (s : State) (asid : BitVec 16) (va : Nat) (t : BitVec 4) : (s.setTag asid va t).msgs = s.msgs := rfl
@[simp] theorem State.setTag_replica (s : State) (asid : BitVec 16) (va : Nat) (t : BitVec 4) : (s.setTag asid va t).replica = s.replica := rfl
@[simp] theorem State.setTag_collapse (s : State) (asid : BitVec 16) (va : Nat) (t : BitVec 4) : (s.setTag asid va t).collapse = s.collapse := rfl
@[simp] theorem State.setTag_gatherers (s : State) (asid : BitVec 16) (va : Nat) (t : BitVec 4) : (s.setTag asid va t).gatherers = s.gatherers := rfl
@[simp] theorem State.setTag_blocks (s : State) (asid : BitVec 16) (va : Nat) (t : BitVec 4) : (s.setTag asid va t).blocks = s.blocks := rfl
@[simp] theorem State.setTag_faultRec (s : State) (asid : BitVec 16) (va : Nat) (t : BitVec 4) : (s.setTag asid va t).faultRec = s.faultRec := rfl
@[simp] theorem State.setTag_hac (s : State) (asid : BitVec 16) (va : Nat) (t : BitVec 4) : (s.setTag asid va t).hac = s.hac := rfl
@[simp] theorem State.setTag_farDie (s : State) (asid : BitVec 16) (va : Nat) (t : BitVec 4) : (s.setTag asid va t).farDie = s.farDie := rfl
@[simp] theorem State.setTag_ops (s : State) (asid : BitVec 16) (va : Nat) (t : BitVec 4) : (s.setTag asid va t).ops = s.ops := rfl
@[simp] theorem State.setTag_remotes (s : State) (asid : BitVec 16) (va : Nat) (t : BitVec 4) : (s.setTag asid va t).remotes = s.remotes := rfl
@[simp] theorem State.setTag_remoteIn (s : State) (asid : BitVec 16) (va : Nat) (t : BitVec 4) : (s.setTag asid va t).remoteIn = s.remoteIn := rfl
@[simp] theorem State.setTag_pools (s : State) (asid : BitVec 16) (va : Nat) (t : BitVec 4) : (s.setTag asid va t).pools = s.pools := rfl
@[simp] theorem State.setTag_seqs (s : State) (asid : BitVec 16) (va : Nat) (t : BitVec 4) : (s.setTag asid va t).seqs = s.seqs := rfl
@[simp] theorem State.setTag_slotGen (s : State) (asid : BitVec 16) (va : Nat) (t : BitVec 4) : (s.setTag asid va t).slotGen = s.slotGen := rfl
@[simp] theorem State.setTag_pages (s : State) (asid : BitVec 16) (va : Nat) (t : BitVec 4) : (s.setTag asid va t).pages = s.pages := rfl
@[simp] theorem State.setTag_pfxDir (s : State) (asid : BitVec 16) (va : Nat) (t : BitVec 4) : (s.setTag asid va t).pfxDir = s.pfxDir := rfl
@[simp] theorem State.setTag_pfxMap (s : State) (asid : BitVec 16) (va : Nat) (t : BitVec 4) : (s.setTag asid va t).pfxMap = s.pfxMap := rfl
@[simp] theorem State.setTag_htsTbase (s : State) (asid : BitVec 16) (va : Nat) (t : BitVec 4) : (s.setTag asid va t).htsTbase = s.htsTbase := rfl
@[simp] theorem State.setTag_htsTsz (s : State) (asid : BitVec 16) (va : Nat) (t : BitVec 4) : (s.setTag asid va t).htsTsz = s.htsTsz := rfl
@[simp] theorem State.setTag_htsRes (s : State) (asid : BitVec 16) (va : Nat) (t : BitVec 4) : (s.setTag asid va t).htsRes = s.htsRes := rfl
@[simp] theorem State.setTag_htsCtx (s : State) (asid : BitVec 16) (va : Nat) (t : BitVec 4) : (s.setTag asid va t).htsCtx = s.htsCtx := rfl
@[simp] theorem State.setTag_htsCtxsz (s : State) (asid : BitVec 16) (va : Nat) (t : BitVec 4) : (s.setTag asid va t).htsCtxsz = s.htsCtxsz := rfl
@[simp] theorem State.setTag_htsIgn (s : State) (asid : BitVec 16) (va : Nat) (t : BitVec 4) : (s.setTag asid va t).htsIgn = s.htsIgn := rfl
@[simp] theorem State.setTag_htsRange (s : State) (asid : BitVec 16) (va : Nat) (t : BitVec 4) : (s.setTag asid va t).htsRange = s.htsRange := rfl
@[simp] theorem State.setTag_tasks (s : State) (asid : BitVec 16) (va : Nat) (t : BitVec 4) : (s.setTag asid va t).tasks = s.tasks := rfl
@[simp] theorem State.setTag_decs (s : State) (asid : BitVec 16) (va : Nat) (t : BitVec 4) : (s.setTag asid va t).decs = s.decs := rfl
@[simp] theorem State.setTag_launches (s : State) (asid : BitVec 16) (va : Nat) (t : BitVec 4) : (s.setTag asid va t).launches = s.launches := rfl
@[simp] theorem State.setTag_wgs (s : State) (asid : BitVec 16) (va : Nat) (t : BitVec 4) : (s.setTag asid va t).wgs = s.wgs := rfl
@[simp] theorem State.setTag_images (s : State) (asid : BitVec 16) (va : Nat) (t : BitVec 4) : (s.setTag asid va t).images = s.images := rfl
@[simp] theorem State.setTag_routes (s : State) (asid : BitVec 16) (va : Nat) (t : BitVec 4) : (s.setTag asid va t).routes = s.routes := rfl
@[simp] theorem State.setTag_groups (s : State) (asid : BitVec 16) (va : Nat) (t : BitVec 4) : (s.setTag asid va t).groups = s.groups := rfl
@[simp] theorem State.setTag_linksDown (s : State) (asid : BitVec 16) (va : Nat) (t : BitVec 4) : (s.setTag asid va t).linksDown = s.linksDown := rfl
@[simp] theorem State.setTag_packets (s : State) (asid : BitVec 16) (va : Nat) (t : BitVec 4) : (s.setTag asid va t).packets = s.packets := rfl
@[simp] theorem State.setTag_wire (s : State) (asid : BitVec 16) (va : Nat) (t : BitVec 4) : (s.setTag asid va t).wire = s.wire := rfl
@[simp] theorem State.setTag_sent (s : State) (asid : BitVec 16) (va : Nat) (t : BitVec 4) : (s.setTag asid va t).sent = s.sent := rfl
@[simp] theorem State.setTag_heard (s : State) (asid : BitVec 16) (va : Nat) (t : BitVec 4) : (s.setTag asid va t).heard = s.heard := rfl
@[simp] theorem State.setTag_collSeq (s : State) (asid : BitVec 16) (va : Nat) (t : BitVec 4) : (s.setTag asid va t).collSeq = s.collSeq := rfl
@[simp] theorem State.setTag_failed (s : State) (asid : BitVec 16) (va : Nat) (t : BitVec 4) : (s.setTag asid va t).failed = s.failed := rfl
@[simp] theorem State.setTag_numiStat (s : State) (asid : BitVec 16) (va : Nat) (t : BitVec 4) : (s.setTag asid va t).numiStat = s.numiStat := rfl
@[simp] theorem State.setTag_remap0 (s : State) (asid : BitVec 16) (va : Nat) (t : BitVec 4) : (s.setTag asid va t).remap0 = s.remap0 := rfl
@[simp] theorem State.setTag_remap1 (s : State) (asid : BitVec 16) (va : Nat) (t : BitVec 4) : (s.setTag asid va t).remap1 = s.remap1 := rfl
@[simp] theorem State.setTag_poolEnd (s : State) (asid : BitVec 16) (va : Nat) (t : BitVec 4) : (s.setTag asid va t).poolEnd = s.poolEnd := rfl
@[simp] theorem State.setTag_mbxIn (s : State) (asid : BitVec 16) (va : Nat) (t : BitVec 4) : (s.setTag asid va t).mbxIn = s.mbxIn := rfl
@[simp] theorem State.setTag_mbxOut (s : State) (asid : BitVec 16) (va : Nat) (t : BitVec 4) : (s.setTag asid va t).mbxOut = s.mbxOut := rfl
@[simp] theorem State.setTag_mbxDb (s : State) (asid : BitVec 16) (va : Nat) (t : BitVec 4) : (s.setTag asid va t).mbxDb = s.mbxDb := rfl
@[simp] theorem State.setTag_msix (s : State) (asid : BitVec 16) (va : Nat) (t : BitVec 4) : (s.setTag asid va t).msix = s.msix := rfl
@[simp] theorem State.setTag_hostRead (s : State) (asid : BitVec 16) (va : Nat) (t : BitVec 4) : (s.setTag asid va t).hostRead = s.hostRead := rfl
@[simp] theorem State.setTag_reports (s : State) (asid : BitVec 16) (va : Nat) (t : BitVec 4) : (s.setTag asid va t).reports = s.reports := rfl
@[simp] theorem State.setTag_ports (s : State) (asid : BitVec 16) (va : Nat) (t : BitVec 4) : (s.setTag asid va t).ports = s.ports := rfl
@[simp] theorem State.setTag_models (s : State) (asid : BitVec 16) (va : Nat) (t : BitVec 4) : (s.setTag asid va t).models = s.models := rfl
@[simp] theorem State.setTag_journal (s : State) (asid : BitVec 16) (va : Nat) (t : BitVec 4) : (s.setTag asid va t).journal = s.journal := rfl
@[simp] theorem State.setTag_nextId (s : State) (asid : BitVec 16) (va : Nat) (t : BitVec 4) : (s.setTag asid va t).nextId = s.nextId := rfl
@[simp] theorem State.setTag_free (s : State) (asid : BitVec 16) (va : Nat) (t : BitVec 4) : (s.setTag asid va t).free = s.free := rfl

@[simp] theorem State.raiseMsix_part (s : State) (v : Nat) : (s.raiseMsix v).part = s.part := rfl
@[simp] theorem State.raiseMsix_boot (s : State) (v : Nat) : (s.raiseMsix v).boot = s.boot := rfl
@[simp] theorem State.raiseMsix_flash (s : State) (v : Nat) : (s.raiseMsix v).flash = s.flash := rfl
@[simp] theorem State.raiseMsix_fusedCounter (s : State) (v : Nat) : (s.raiseMsix v).fusedCounter = s.fusedCounter := rfl
@[simp] theorem State.raiseMsix_clock (s : State) (v : Nat) : (s.raiseMsix v).clock = s.clock := rfl
@[simp] theorem State.raiseMsix_timeFs (s : State) (v : Nat) : (s.raiseMsix v).timeFs = s.timeFs := rfl
@[simp] theorem State.raiseMsix_timeParts (s : State) (v : Nat) : (s.raiseMsix v).timeParts = s.timeParts := rfl
@[simp] theorem State.raiseMsix_mhz (s : State) (v : Nat) : (s.raiseMsix v).mhz = s.mhz := rfl
@[simp] theorem State.raiseMsix_dev (s : State) (v : Nat) : (s.raiseMsix v).dev = s.dev := rfl
@[simp] theorem State.raiseMsix_cores (s : State) (v : Nat) : (s.raiseMsix v).cores = s.cores := rfl
@[simp] theorem State.raiseMsix_cur (s : State) (v : Nat) : (s.raiseMsix v).cur = s.cur := rfl
@[simp] theorem State.raiseMsix_due (s : State) (v : Nat) : (s.raiseMsix v).due = s.due := rfl
@[simp] theorem State.raiseMsix_merged (s : State) (v : Nat) : (s.raiseMsix v).merged = s.merged := rfl
@[simp] theorem State.raiseMsix_late (s : State) (v : Nat) : (s.raiseMsix v).late = s.late := rfl
@[simp] theorem State.raiseMsix_sched (s : State) (v : Nat) : (s.raiseMsix v).sched = s.sched := rfl
@[simp] theorem State.raiseMsix_mem (s : State) (v : Nat) : (s.raiseMsix v).mem = s.mem := rfl
@[simp] theorem State.raiseMsix_tags (s : State) (v : Nat) : (s.raiseMsix v).tags = s.tags := rfl
@[simp] theorem State.raiseMsix_tagged (s : State) (v : Nat) : (s.raiseMsix v).tagged = s.tagged := rfl
@[simp] theorem State.raiseMsix_poison (s : State) (v : Nat) : (s.raiseMsix v).poison = s.poison := rfl
@[simp] theorem State.raiseMsix_asidRoot (s : State) (v : Nat) : (s.raiseMsix v).asidRoot = s.asidRoot := rfl
@[simp] theorem State.raiseMsix_xc (s : State) (v : Nat) : (s.raiseMsix v).xc = s.xc := rfl
@[simp] theorem State.raiseMsix_pageHome (s : State) (v : Nat) : (s.raiseMsix v).pageHome = s.pageHome := rfl
@[simp] theorem State.raiseMsix_l2 (s : State) (v : Nat) : (s.raiseMsix v).l2 = s.l2 := rfl
@[simp] theorem State.raiseMsix_dir (s : State) (v : Nat) : (s.raiseMsix v).dir = s.dir := rfl
@[simp] theorem State.raiseMsix_msgs (s : State) (v : Nat) : (s.raiseMsix v).msgs = s.msgs := rfl
@[simp] theorem State.raiseMsix_replica (s : State) (v : Nat) : (s.raiseMsix v).replica = s.replica := rfl
@[simp] theorem State.raiseMsix_collapse (s : State) (v : Nat) : (s.raiseMsix v).collapse = s.collapse := rfl
@[simp] theorem State.raiseMsix_gatherers (s : State) (v : Nat) : (s.raiseMsix v).gatherers = s.gatherers := rfl
@[simp] theorem State.raiseMsix_blocks (s : State) (v : Nat) : (s.raiseMsix v).blocks = s.blocks := rfl
@[simp] theorem State.raiseMsix_faultRec (s : State) (v : Nat) : (s.raiseMsix v).faultRec = s.faultRec := rfl
@[simp] theorem State.raiseMsix_hac (s : State) (v : Nat) : (s.raiseMsix v).hac = s.hac := rfl
@[simp] theorem State.raiseMsix_farDie (s : State) (v : Nat) : (s.raiseMsix v).farDie = s.farDie := rfl
@[simp] theorem State.raiseMsix_ops (s : State) (v : Nat) : (s.raiseMsix v).ops = s.ops := rfl
@[simp] theorem State.raiseMsix_remotes (s : State) (v : Nat) : (s.raiseMsix v).remotes = s.remotes := rfl
@[simp] theorem State.raiseMsix_remoteIn (s : State) (v : Nat) : (s.raiseMsix v).remoteIn = s.remoteIn := rfl
@[simp] theorem State.raiseMsix_pools (s : State) (v : Nat) : (s.raiseMsix v).pools = s.pools := rfl
@[simp] theorem State.raiseMsix_seqs (s : State) (v : Nat) : (s.raiseMsix v).seqs = s.seqs := rfl
@[simp] theorem State.raiseMsix_slotGen (s : State) (v : Nat) : (s.raiseMsix v).slotGen = s.slotGen := rfl
@[simp] theorem State.raiseMsix_pages (s : State) (v : Nat) : (s.raiseMsix v).pages = s.pages := rfl
@[simp] theorem State.raiseMsix_pfxDir (s : State) (v : Nat) : (s.raiseMsix v).pfxDir = s.pfxDir := rfl
@[simp] theorem State.raiseMsix_pfxMap (s : State) (v : Nat) : (s.raiseMsix v).pfxMap = s.pfxMap := rfl
@[simp] theorem State.raiseMsix_htsTbase (s : State) (v : Nat) : (s.raiseMsix v).htsTbase = s.htsTbase := rfl
@[simp] theorem State.raiseMsix_htsTsz (s : State) (v : Nat) : (s.raiseMsix v).htsTsz = s.htsTsz := rfl
@[simp] theorem State.raiseMsix_htsRes (s : State) (v : Nat) : (s.raiseMsix v).htsRes = s.htsRes := rfl
@[simp] theorem State.raiseMsix_htsCtx (s : State) (v : Nat) : (s.raiseMsix v).htsCtx = s.htsCtx := rfl
@[simp] theorem State.raiseMsix_htsCtxsz (s : State) (v : Nat) : (s.raiseMsix v).htsCtxsz = s.htsCtxsz := rfl
@[simp] theorem State.raiseMsix_htsIgn (s : State) (v : Nat) : (s.raiseMsix v).htsIgn = s.htsIgn := rfl
@[simp] theorem State.raiseMsix_htsRange (s : State) (v : Nat) : (s.raiseMsix v).htsRange = s.htsRange := rfl
@[simp] theorem State.raiseMsix_tasks (s : State) (v : Nat) : (s.raiseMsix v).tasks = s.tasks := rfl
@[simp] theorem State.raiseMsix_decs (s : State) (v : Nat) : (s.raiseMsix v).decs = s.decs := rfl
@[simp] theorem State.raiseMsix_launches (s : State) (v : Nat) : (s.raiseMsix v).launches = s.launches := rfl
@[simp] theorem State.raiseMsix_wgs (s : State) (v : Nat) : (s.raiseMsix v).wgs = s.wgs := rfl
@[simp] theorem State.raiseMsix_images (s : State) (v : Nat) : (s.raiseMsix v).images = s.images := rfl
@[simp] theorem State.raiseMsix_routes (s : State) (v : Nat) : (s.raiseMsix v).routes = s.routes := rfl
@[simp] theorem State.raiseMsix_groups (s : State) (v : Nat) : (s.raiseMsix v).groups = s.groups := rfl
@[simp] theorem State.raiseMsix_linksDown (s : State) (v : Nat) : (s.raiseMsix v).linksDown = s.linksDown := rfl
@[simp] theorem State.raiseMsix_packets (s : State) (v : Nat) : (s.raiseMsix v).packets = s.packets := rfl
@[simp] theorem State.raiseMsix_wire (s : State) (v : Nat) : (s.raiseMsix v).wire = s.wire := rfl
@[simp] theorem State.raiseMsix_sent (s : State) (v : Nat) : (s.raiseMsix v).sent = s.sent := rfl
@[simp] theorem State.raiseMsix_heard (s : State) (v : Nat) : (s.raiseMsix v).heard = s.heard := rfl
@[simp] theorem State.raiseMsix_collSeq (s : State) (v : Nat) : (s.raiseMsix v).collSeq = s.collSeq := rfl
@[simp] theorem State.raiseMsix_failed (s : State) (v : Nat) : (s.raiseMsix v).failed = s.failed := rfl
@[simp] theorem State.raiseMsix_numiStat (s : State) (v : Nat) : (s.raiseMsix v).numiStat = s.numiStat := rfl
@[simp] theorem State.raiseMsix_remap0 (s : State) (v : Nat) : (s.raiseMsix v).remap0 = s.remap0 := rfl
@[simp] theorem State.raiseMsix_remap1 (s : State) (v : Nat) : (s.raiseMsix v).remap1 = s.remap1 := rfl
@[simp] theorem State.raiseMsix_poolEnd (s : State) (v : Nat) : (s.raiseMsix v).poolEnd = s.poolEnd := rfl
@[simp] theorem State.raiseMsix_mbxIn (s : State) (v : Nat) : (s.raiseMsix v).mbxIn = s.mbxIn := rfl
@[simp] theorem State.raiseMsix_mbxOut (s : State) (v : Nat) : (s.raiseMsix v).mbxOut = s.mbxOut := rfl
@[simp] theorem State.raiseMsix_mbxDb (s : State) (v : Nat) : (s.raiseMsix v).mbxDb = s.mbxDb := rfl
@[simp] theorem State.raiseMsix_hostRead (s : State) (v : Nat) : (s.raiseMsix v).hostRead = s.hostRead := rfl
@[simp] theorem State.raiseMsix_reports (s : State) (v : Nat) : (s.raiseMsix v).reports = s.reports := rfl
@[simp] theorem State.raiseMsix_ports (s : State) (v : Nat) : (s.raiseMsix v).ports = s.ports := rfl
@[simp] theorem State.raiseMsix_models (s : State) (v : Nat) : (s.raiseMsix v).models = s.models := rfl
@[simp] theorem State.raiseMsix_journal (s : State) (v : Nat) : (s.raiseMsix v).journal = s.journal := rfl
@[simp] theorem State.raiseMsix_nextId (s : State) (v : Nat) : (s.raiseMsix v).nextId = s.nextId := rfl
@[simp] theorem State.raiseMsix_free (s : State) (v : Nat) : (s.raiseMsix v).free = s.free := rfl

@[simp] theorem State.draw_part (s : State) : (s.draw).part = s.part := rfl
@[simp] theorem State.draw_boot (s : State) : (s.draw).boot = s.boot := rfl
@[simp] theorem State.draw_flash (s : State) : (s.draw).flash = s.flash := rfl
@[simp] theorem State.draw_fusedCounter (s : State) : (s.draw).fusedCounter = s.fusedCounter := rfl
@[simp] theorem State.draw_clock (s : State) : (s.draw).clock = s.clock := rfl
@[simp] theorem State.draw_timeFs (s : State) : (s.draw).timeFs = s.timeFs := rfl
@[simp] theorem State.draw_timeParts (s : State) : (s.draw).timeParts = s.timeParts := rfl
@[simp] theorem State.draw_mhz (s : State) : (s.draw).mhz = s.mhz := rfl
@[simp] theorem State.draw_dev (s : State) : (s.draw).dev = s.dev := rfl
@[simp] theorem State.draw_cores (s : State) : (s.draw).cores = s.cores := rfl
@[simp] theorem State.draw_cur (s : State) : (s.draw).cur = s.cur := rfl
@[simp] theorem State.draw_due (s : State) : (s.draw).due = s.due := rfl
@[simp] theorem State.draw_merged (s : State) : (s.draw).merged = s.merged := rfl
@[simp] theorem State.draw_late (s : State) : (s.draw).late = s.late := rfl
@[simp] theorem State.draw_sched (s : State) : (s.draw).sched = s.sched := rfl
@[simp] theorem State.draw_mem (s : State) : (s.draw).mem = s.mem := rfl
@[simp] theorem State.draw_tags (s : State) : (s.draw).tags = s.tags := rfl
@[simp] theorem State.draw_tagged (s : State) : (s.draw).tagged = s.tagged := rfl
@[simp] theorem State.draw_poison (s : State) : (s.draw).poison = s.poison := rfl
@[simp] theorem State.draw_asidRoot (s : State) : (s.draw).asidRoot = s.asidRoot := rfl
@[simp] theorem State.draw_xc (s : State) : (s.draw).xc = s.xc := rfl
@[simp] theorem State.draw_pageHome (s : State) : (s.draw).pageHome = s.pageHome := rfl
@[simp] theorem State.draw_l2 (s : State) : (s.draw).l2 = s.l2 := rfl
@[simp] theorem State.draw_dir (s : State) : (s.draw).dir = s.dir := rfl
@[simp] theorem State.draw_msgs (s : State) : (s.draw).msgs = s.msgs := rfl
@[simp] theorem State.draw_replica (s : State) : (s.draw).replica = s.replica := rfl
@[simp] theorem State.draw_collapse (s : State) : (s.draw).collapse = s.collapse := rfl
@[simp] theorem State.draw_gatherers (s : State) : (s.draw).gatherers = s.gatherers := rfl
@[simp] theorem State.draw_blocks (s : State) : (s.draw).blocks = s.blocks := rfl
@[simp] theorem State.draw_faultRec (s : State) : (s.draw).faultRec = s.faultRec := rfl
@[simp] theorem State.draw_hac (s : State) : (s.draw).hac = s.hac := rfl
@[simp] theorem State.draw_farDie (s : State) : (s.draw).farDie = s.farDie := rfl
@[simp] theorem State.draw_ops (s : State) : (s.draw).ops = s.ops := rfl
@[simp] theorem State.draw_remotes (s : State) : (s.draw).remotes = s.remotes := rfl
@[simp] theorem State.draw_remoteIn (s : State) : (s.draw).remoteIn = s.remoteIn := rfl
@[simp] theorem State.draw_pools (s : State) : (s.draw).pools = s.pools := rfl
@[simp] theorem State.draw_seqs (s : State) : (s.draw).seqs = s.seqs := rfl
@[simp] theorem State.draw_slotGen (s : State) : (s.draw).slotGen = s.slotGen := rfl
@[simp] theorem State.draw_pages (s : State) : (s.draw).pages = s.pages := rfl
@[simp] theorem State.draw_pfxDir (s : State) : (s.draw).pfxDir = s.pfxDir := rfl
@[simp] theorem State.draw_pfxMap (s : State) : (s.draw).pfxMap = s.pfxMap := rfl
@[simp] theorem State.draw_htsTbase (s : State) : (s.draw).htsTbase = s.htsTbase := rfl
@[simp] theorem State.draw_htsTsz (s : State) : (s.draw).htsTsz = s.htsTsz := rfl
@[simp] theorem State.draw_htsRes (s : State) : (s.draw).htsRes = s.htsRes := rfl
@[simp] theorem State.draw_htsCtx (s : State) : (s.draw).htsCtx = s.htsCtx := rfl
@[simp] theorem State.draw_htsCtxsz (s : State) : (s.draw).htsCtxsz = s.htsCtxsz := rfl
@[simp] theorem State.draw_htsIgn (s : State) : (s.draw).htsIgn = s.htsIgn := rfl
@[simp] theorem State.draw_htsRange (s : State) : (s.draw).htsRange = s.htsRange := rfl
@[simp] theorem State.draw_tasks (s : State) : (s.draw).tasks = s.tasks := rfl
@[simp] theorem State.draw_decs (s : State) : (s.draw).decs = s.decs := rfl
@[simp] theorem State.draw_launches (s : State) : (s.draw).launches = s.launches := rfl
@[simp] theorem State.draw_wgs (s : State) : (s.draw).wgs = s.wgs := rfl
@[simp] theorem State.draw_images (s : State) : (s.draw).images = s.images := rfl
@[simp] theorem State.draw_routes (s : State) : (s.draw).routes = s.routes := rfl
@[simp] theorem State.draw_groups (s : State) : (s.draw).groups = s.groups := rfl
@[simp] theorem State.draw_linksDown (s : State) : (s.draw).linksDown = s.linksDown := rfl
@[simp] theorem State.draw_packets (s : State) : (s.draw).packets = s.packets := rfl
@[simp] theorem State.draw_wire (s : State) : (s.draw).wire = s.wire := rfl
@[simp] theorem State.draw_sent (s : State) : (s.draw).sent = s.sent := rfl
@[simp] theorem State.draw_heard (s : State) : (s.draw).heard = s.heard := rfl
@[simp] theorem State.draw_collSeq (s : State) : (s.draw).collSeq = s.collSeq := rfl
@[simp] theorem State.draw_failed (s : State) : (s.draw).failed = s.failed := rfl
@[simp] theorem State.draw_numiStat (s : State) : (s.draw).numiStat = s.numiStat := rfl
@[simp] theorem State.draw_remap0 (s : State) : (s.draw).remap0 = s.remap0 := rfl
@[simp] theorem State.draw_remap1 (s : State) : (s.draw).remap1 = s.remap1 := rfl
@[simp] theorem State.draw_poolEnd (s : State) : (s.draw).poolEnd = s.poolEnd := rfl
@[simp] theorem State.draw_mbxIn (s : State) : (s.draw).mbxIn = s.mbxIn := rfl
@[simp] theorem State.draw_mbxOut (s : State) : (s.draw).mbxOut = s.mbxOut := rfl
@[simp] theorem State.draw_mbxDb (s : State) : (s.draw).mbxDb = s.mbxDb := rfl
@[simp] theorem State.draw_msix (s : State) : (s.draw).msix = s.msix := rfl
@[simp] theorem State.draw_hostRead (s : State) : (s.draw).hostRead = s.hostRead := rfl
@[simp] theorem State.draw_reports (s : State) : (s.draw).reports = s.reports := rfl
@[simp] theorem State.draw_ports (s : State) : (s.draw).ports = s.ports := rfl
@[simp] theorem State.draw_models (s : State) : (s.draw).models = s.models := rfl
@[simp] theorem State.draw_journal (s : State) : (s.draw).journal = s.journal := rfl
@[simp] theorem State.draw_nextId (s : State) : (s.draw).nextId = s.nextId := rfl

@[simp] theorem State.fresh_part (s : State) : (s.fresh).part = s.part := rfl
@[simp] theorem State.fresh_boot (s : State) : (s.fresh).boot = s.boot := rfl
@[simp] theorem State.fresh_flash (s : State) : (s.fresh).flash = s.flash := rfl
@[simp] theorem State.fresh_fusedCounter (s : State) : (s.fresh).fusedCounter = s.fusedCounter := rfl
@[simp] theorem State.fresh_clock (s : State) : (s.fresh).clock = s.clock := rfl
@[simp] theorem State.fresh_timeFs (s : State) : (s.fresh).timeFs = s.timeFs := rfl
@[simp] theorem State.fresh_timeParts (s : State) : (s.fresh).timeParts = s.timeParts := rfl
@[simp] theorem State.fresh_mhz (s : State) : (s.fresh).mhz = s.mhz := rfl
@[simp] theorem State.fresh_dev (s : State) : (s.fresh).dev = s.dev := rfl
@[simp] theorem State.fresh_cores (s : State) : (s.fresh).cores = s.cores := rfl
@[simp] theorem State.fresh_cur (s : State) : (s.fresh).cur = s.cur := rfl
@[simp] theorem State.fresh_due (s : State) : (s.fresh).due = s.due := rfl
@[simp] theorem State.fresh_merged (s : State) : (s.fresh).merged = s.merged := rfl
@[simp] theorem State.fresh_late (s : State) : (s.fresh).late = s.late := rfl
@[simp] theorem State.fresh_sched (s : State) : (s.fresh).sched = s.sched := rfl
@[simp] theorem State.fresh_mem (s : State) : (s.fresh).mem = s.mem := rfl
@[simp] theorem State.fresh_tags (s : State) : (s.fresh).tags = s.tags := rfl
@[simp] theorem State.fresh_tagged (s : State) : (s.fresh).tagged = s.tagged := rfl
@[simp] theorem State.fresh_poison (s : State) : (s.fresh).poison = s.poison := rfl
@[simp] theorem State.fresh_asidRoot (s : State) : (s.fresh).asidRoot = s.asidRoot := rfl
@[simp] theorem State.fresh_xc (s : State) : (s.fresh).xc = s.xc := rfl
@[simp] theorem State.fresh_pageHome (s : State) : (s.fresh).pageHome = s.pageHome := rfl
@[simp] theorem State.fresh_l2 (s : State) : (s.fresh).l2 = s.l2 := rfl
@[simp] theorem State.fresh_dir (s : State) : (s.fresh).dir = s.dir := rfl
@[simp] theorem State.fresh_msgs (s : State) : (s.fresh).msgs = s.msgs := rfl
@[simp] theorem State.fresh_replica (s : State) : (s.fresh).replica = s.replica := rfl
@[simp] theorem State.fresh_collapse (s : State) : (s.fresh).collapse = s.collapse := rfl
@[simp] theorem State.fresh_gatherers (s : State) : (s.fresh).gatherers = s.gatherers := rfl
@[simp] theorem State.fresh_blocks (s : State) : (s.fresh).blocks = s.blocks := rfl
@[simp] theorem State.fresh_faultRec (s : State) : (s.fresh).faultRec = s.faultRec := rfl
@[simp] theorem State.fresh_hac (s : State) : (s.fresh).hac = s.hac := rfl
@[simp] theorem State.fresh_farDie (s : State) : (s.fresh).farDie = s.farDie := rfl
@[simp] theorem State.fresh_ops (s : State) : (s.fresh).ops = s.ops := rfl
@[simp] theorem State.fresh_remotes (s : State) : (s.fresh).remotes = s.remotes := rfl
@[simp] theorem State.fresh_remoteIn (s : State) : (s.fresh).remoteIn = s.remoteIn := rfl
@[simp] theorem State.fresh_pools (s : State) : (s.fresh).pools = s.pools := rfl
@[simp] theorem State.fresh_seqs (s : State) : (s.fresh).seqs = s.seqs := rfl
@[simp] theorem State.fresh_slotGen (s : State) : (s.fresh).slotGen = s.slotGen := rfl
@[simp] theorem State.fresh_pages (s : State) : (s.fresh).pages = s.pages := rfl
@[simp] theorem State.fresh_pfxDir (s : State) : (s.fresh).pfxDir = s.pfxDir := rfl
@[simp] theorem State.fresh_pfxMap (s : State) : (s.fresh).pfxMap = s.pfxMap := rfl
@[simp] theorem State.fresh_htsTbase (s : State) : (s.fresh).htsTbase = s.htsTbase := rfl
@[simp] theorem State.fresh_htsTsz (s : State) : (s.fresh).htsTsz = s.htsTsz := rfl
@[simp] theorem State.fresh_htsRes (s : State) : (s.fresh).htsRes = s.htsRes := rfl
@[simp] theorem State.fresh_htsCtx (s : State) : (s.fresh).htsCtx = s.htsCtx := rfl
@[simp] theorem State.fresh_htsCtxsz (s : State) : (s.fresh).htsCtxsz = s.htsCtxsz := rfl
@[simp] theorem State.fresh_htsIgn (s : State) : (s.fresh).htsIgn = s.htsIgn := rfl
@[simp] theorem State.fresh_htsRange (s : State) : (s.fresh).htsRange = s.htsRange := rfl
@[simp] theorem State.fresh_tasks (s : State) : (s.fresh).tasks = s.tasks := rfl
@[simp] theorem State.fresh_decs (s : State) : (s.fresh).decs = s.decs := rfl
@[simp] theorem State.fresh_launches (s : State) : (s.fresh).launches = s.launches := rfl
@[simp] theorem State.fresh_wgs (s : State) : (s.fresh).wgs = s.wgs := rfl
@[simp] theorem State.fresh_images (s : State) : (s.fresh).images = s.images := rfl
@[simp] theorem State.fresh_routes (s : State) : (s.fresh).routes = s.routes := rfl
@[simp] theorem State.fresh_groups (s : State) : (s.fresh).groups = s.groups := rfl
@[simp] theorem State.fresh_linksDown (s : State) : (s.fresh).linksDown = s.linksDown := rfl
@[simp] theorem State.fresh_packets (s : State) : (s.fresh).packets = s.packets := rfl
@[simp] theorem State.fresh_wire (s : State) : (s.fresh).wire = s.wire := rfl
@[simp] theorem State.fresh_sent (s : State) : (s.fresh).sent = s.sent := rfl
@[simp] theorem State.fresh_heard (s : State) : (s.fresh).heard = s.heard := rfl
@[simp] theorem State.fresh_collSeq (s : State) : (s.fresh).collSeq = s.collSeq := rfl
@[simp] theorem State.fresh_failed (s : State) : (s.fresh).failed = s.failed := rfl
@[simp] theorem State.fresh_numiStat (s : State) : (s.fresh).numiStat = s.numiStat := rfl
@[simp] theorem State.fresh_remap0 (s : State) : (s.fresh).remap0 = s.remap0 := rfl
@[simp] theorem State.fresh_remap1 (s : State) : (s.fresh).remap1 = s.remap1 := rfl
@[simp] theorem State.fresh_poolEnd (s : State) : (s.fresh).poolEnd = s.poolEnd := rfl
@[simp] theorem State.fresh_mbxIn (s : State) : (s.fresh).mbxIn = s.mbxIn := rfl
@[simp] theorem State.fresh_mbxOut (s : State) : (s.fresh).mbxOut = s.mbxOut := rfl
@[simp] theorem State.fresh_mbxDb (s : State) : (s.fresh).mbxDb = s.mbxDb := rfl
@[simp] theorem State.fresh_msix (s : State) : (s.fresh).msix = s.msix := rfl
@[simp] theorem State.fresh_hostRead (s : State) : (s.fresh).hostRead = s.hostRead := rfl
@[simp] theorem State.fresh_reports (s : State) : (s.fresh).reports = s.reports := rfl
@[simp] theorem State.fresh_ports (s : State) : (s.fresh).ports = s.ports := rfl
@[simp] theorem State.fresh_models (s : State) : (s.fresh).models = s.models := rfl
@[simp] theorem State.fresh_journal (s : State) : (s.fresh).journal = s.journal := rfl
@[simp] theorem State.fresh_free (s : State) : (s.fresh).free = s.free := rfl

@[simp] theorem State.stamp_part (s : State) (c : Nat) : (s.stamp c).part = s.part := rfl
@[simp] theorem State.stamp_boot (s : State) (c : Nat) : (s.stamp c).boot = s.boot := rfl
@[simp] theorem State.stamp_flash (s : State) (c : Nat) : (s.stamp c).flash = s.flash := rfl
@[simp] theorem State.stamp_fusedCounter (s : State) (c : Nat) : (s.stamp c).fusedCounter = s.fusedCounter := rfl
@[simp] theorem State.stamp_clock (s : State) (c : Nat) : (s.stamp c).clock = s.clock := rfl
@[simp] theorem State.stamp_timeFs (s : State) (c : Nat) : (s.stamp c).timeFs = s.timeFs := rfl
@[simp] theorem State.stamp_timeParts (s : State) (c : Nat) : (s.stamp c).timeParts = s.timeParts := rfl
@[simp] theorem State.stamp_mhz (s : State) (c : Nat) : (s.stamp c).mhz = s.mhz := rfl
@[simp] theorem State.stamp_dev (s : State) (c : Nat) : (s.stamp c).dev = s.dev := rfl
@[simp] theorem State.stamp_cur (s : State) (c : Nat) : (s.stamp c).cur = s.cur := rfl
@[simp] theorem State.stamp_due (s : State) (c : Nat) : (s.stamp c).due = s.due := rfl
@[simp] theorem State.stamp_merged (s : State) (c : Nat) : (s.stamp c).merged = s.merged := rfl
@[simp] theorem State.stamp_late (s : State) (c : Nat) : (s.stamp c).late = s.late := rfl
@[simp] theorem State.stamp_sched (s : State) (c : Nat) : (s.stamp c).sched = s.sched := rfl
@[simp] theorem State.stamp_mem (s : State) (c : Nat) : (s.stamp c).mem = s.mem := rfl
@[simp] theorem State.stamp_tags (s : State) (c : Nat) : (s.stamp c).tags = s.tags := rfl
@[simp] theorem State.stamp_tagged (s : State) (c : Nat) : (s.stamp c).tagged = s.tagged := rfl
@[simp] theorem State.stamp_poison (s : State) (c : Nat) : (s.stamp c).poison = s.poison := rfl
@[simp] theorem State.stamp_asidRoot (s : State) (c : Nat) : (s.stamp c).asidRoot = s.asidRoot := rfl
@[simp] theorem State.stamp_xc (s : State) (c : Nat) : (s.stamp c).xc = s.xc := rfl
@[simp] theorem State.stamp_pageHome (s : State) (c : Nat) : (s.stamp c).pageHome = s.pageHome := rfl
@[simp] theorem State.stamp_l2 (s : State) (c : Nat) : (s.stamp c).l2 = s.l2 := rfl
@[simp] theorem State.stamp_dir (s : State) (c : Nat) : (s.stamp c).dir = s.dir := rfl
@[simp] theorem State.stamp_msgs (s : State) (c : Nat) : (s.stamp c).msgs = s.msgs := rfl
@[simp] theorem State.stamp_replica (s : State) (c : Nat) : (s.stamp c).replica = s.replica := rfl
@[simp] theorem State.stamp_collapse (s : State) (c : Nat) : (s.stamp c).collapse = s.collapse := rfl
@[simp] theorem State.stamp_gatherers (s : State) (c : Nat) : (s.stamp c).gatherers = s.gatherers := rfl
@[simp] theorem State.stamp_blocks (s : State) (c : Nat) : (s.stamp c).blocks = s.blocks := rfl
@[simp] theorem State.stamp_faultRec (s : State) (c : Nat) : (s.stamp c).faultRec = s.faultRec := rfl
@[simp] theorem State.stamp_hac (s : State) (c : Nat) : (s.stamp c).hac = s.hac := rfl
@[simp] theorem State.stamp_farDie (s : State) (c : Nat) : (s.stamp c).farDie = s.farDie := rfl
@[simp] theorem State.stamp_ops (s : State) (c : Nat) : (s.stamp c).ops = s.ops := rfl
@[simp] theorem State.stamp_remotes (s : State) (c : Nat) : (s.stamp c).remotes = s.remotes := rfl
@[simp] theorem State.stamp_remoteIn (s : State) (c : Nat) : (s.stamp c).remoteIn = s.remoteIn := rfl
@[simp] theorem State.stamp_pools (s : State) (c : Nat) : (s.stamp c).pools = s.pools := rfl
@[simp] theorem State.stamp_seqs (s : State) (c : Nat) : (s.stamp c).seqs = s.seqs := rfl
@[simp] theorem State.stamp_slotGen (s : State) (c : Nat) : (s.stamp c).slotGen = s.slotGen := rfl
@[simp] theorem State.stamp_pages (s : State) (c : Nat) : (s.stamp c).pages = s.pages := rfl
@[simp] theorem State.stamp_pfxDir (s : State) (c : Nat) : (s.stamp c).pfxDir = s.pfxDir := rfl
@[simp] theorem State.stamp_pfxMap (s : State) (c : Nat) : (s.stamp c).pfxMap = s.pfxMap := rfl
@[simp] theorem State.stamp_htsTbase (s : State) (c : Nat) : (s.stamp c).htsTbase = s.htsTbase := rfl
@[simp] theorem State.stamp_htsTsz (s : State) (c : Nat) : (s.stamp c).htsTsz = s.htsTsz := rfl
@[simp] theorem State.stamp_htsRes (s : State) (c : Nat) : (s.stamp c).htsRes = s.htsRes := rfl
@[simp] theorem State.stamp_htsCtx (s : State) (c : Nat) : (s.stamp c).htsCtx = s.htsCtx := rfl
@[simp] theorem State.stamp_htsCtxsz (s : State) (c : Nat) : (s.stamp c).htsCtxsz = s.htsCtxsz := rfl
@[simp] theorem State.stamp_htsIgn (s : State) (c : Nat) : (s.stamp c).htsIgn = s.htsIgn := rfl
@[simp] theorem State.stamp_htsRange (s : State) (c : Nat) : (s.stamp c).htsRange = s.htsRange := rfl
@[simp] theorem State.stamp_tasks (s : State) (c : Nat) : (s.stamp c).tasks = s.tasks := rfl
@[simp] theorem State.stamp_decs (s : State) (c : Nat) : (s.stamp c).decs = s.decs := rfl
@[simp] theorem State.stamp_launches (s : State) (c : Nat) : (s.stamp c).launches = s.launches := rfl
@[simp] theorem State.stamp_wgs (s : State) (c : Nat) : (s.stamp c).wgs = s.wgs := rfl
@[simp] theorem State.stamp_images (s : State) (c : Nat) : (s.stamp c).images = s.images := rfl
@[simp] theorem State.stamp_routes (s : State) (c : Nat) : (s.stamp c).routes = s.routes := rfl
@[simp] theorem State.stamp_groups (s : State) (c : Nat) : (s.stamp c).groups = s.groups := rfl
@[simp] theorem State.stamp_linksDown (s : State) (c : Nat) : (s.stamp c).linksDown = s.linksDown := rfl
@[simp] theorem State.stamp_packets (s : State) (c : Nat) : (s.stamp c).packets = s.packets := rfl
@[simp] theorem State.stamp_wire (s : State) (c : Nat) : (s.stamp c).wire = s.wire := rfl
@[simp] theorem State.stamp_sent (s : State) (c : Nat) : (s.stamp c).sent = s.sent := rfl
@[simp] theorem State.stamp_heard (s : State) (c : Nat) : (s.stamp c).heard = s.heard := rfl
@[simp] theorem State.stamp_collSeq (s : State) (c : Nat) : (s.stamp c).collSeq = s.collSeq := rfl
@[simp] theorem State.stamp_failed (s : State) (c : Nat) : (s.stamp c).failed = s.failed := rfl
@[simp] theorem State.stamp_numiStat (s : State) (c : Nat) : (s.stamp c).numiStat = s.numiStat := rfl
@[simp] theorem State.stamp_remap0 (s : State) (c : Nat) : (s.stamp c).remap0 = s.remap0 := rfl
@[simp] theorem State.stamp_remap1 (s : State) (c : Nat) : (s.stamp c).remap1 = s.remap1 := rfl
@[simp] theorem State.stamp_poolEnd (s : State) (c : Nat) : (s.stamp c).poolEnd = s.poolEnd := rfl
@[simp] theorem State.stamp_mbxIn (s : State) (c : Nat) : (s.stamp c).mbxIn = s.mbxIn := rfl
@[simp] theorem State.stamp_mbxOut (s : State) (c : Nat) : (s.stamp c).mbxOut = s.mbxOut := rfl
@[simp] theorem State.stamp_mbxDb (s : State) (c : Nat) : (s.stamp c).mbxDb = s.mbxDb := rfl
@[simp] theorem State.stamp_msix (s : State) (c : Nat) : (s.stamp c).msix = s.msix := rfl
@[simp] theorem State.stamp_hostRead (s : State) (c : Nat) : (s.stamp c).hostRead = s.hostRead := rfl
@[simp] theorem State.stamp_reports (s : State) (c : Nat) : (s.stamp c).reports = s.reports := rfl
@[simp] theorem State.stamp_ports (s : State) (c : Nat) : (s.stamp c).ports = s.ports := rfl
@[simp] theorem State.stamp_models (s : State) (c : Nat) : (s.stamp c).models = s.models := rfl
@[simp] theorem State.stamp_journal (s : State) (c : Nat) : (s.stamp c).journal = s.journal := rfl
@[simp] theorem State.stamp_nextId (s : State) (c : Nat) : (s.stamp c).nextId = s.nextId := rfl
@[simp] theorem State.stamp_free (s : State) (c : Nat) : (s.stamp c).free = s.free := rfl

@[simp] theorem State.sset_part (s : State) (d : Nat) (x : Dword) : (s.sset d x).part = s.part := by
  unfold State.sset State.once
  split <;> rfl
@[simp] theorem State.sset_boot (s : State) (d : Nat) (x : Dword) : (s.sset d x).boot = s.boot := by
  unfold State.sset State.once
  split <;> rfl
@[simp] theorem State.sset_flash (s : State) (d : Nat) (x : Dword) : (s.sset d x).flash = s.flash := by
  unfold State.sset State.once
  split <;> rfl
@[simp] theorem State.sset_fusedCounter (s : State) (d : Nat) (x : Dword) : (s.sset d x).fusedCounter = s.fusedCounter := by
  unfold State.sset State.once
  split <;> rfl
@[simp] theorem State.sset_clock (s : State) (d : Nat) (x : Dword) : (s.sset d x).clock = s.clock := by
  unfold State.sset State.once
  split <;> rfl
@[simp] theorem State.sset_timeFs (s : State) (d : Nat) (x : Dword) : (s.sset d x).timeFs = s.timeFs := by
  unfold State.sset State.once
  split <;> rfl
@[simp] theorem State.sset_timeParts (s : State) (d : Nat) (x : Dword) : (s.sset d x).timeParts = s.timeParts := by
  unfold State.sset State.once
  split <;> rfl
@[simp] theorem State.sset_mhz (s : State) (d : Nat) (x : Dword) : (s.sset d x).mhz = s.mhz := by
  unfold State.sset State.once
  split <;> rfl
@[simp] theorem State.sset_dev (s : State) (d : Nat) (x : Dword) : (s.sset d x).dev = s.dev := by
  unfold State.sset State.once
  split <;> rfl
@[simp] theorem State.sset_cur (s : State) (d : Nat) (x : Dword) : (s.sset d x).cur = s.cur := by
  unfold State.sset State.once
  split <;> rfl
@[simp] theorem State.sset_due (s : State) (d : Nat) (x : Dword) : (s.sset d x).due = s.due := by
  unfold State.sset State.once
  split <;> rfl
@[simp] theorem State.sset_merged (s : State) (d : Nat) (x : Dword) : (s.sset d x).merged = s.merged := by
  unfold State.sset State.once
  split <;> rfl
@[simp] theorem State.sset_late (s : State) (d : Nat) (x : Dword) : (s.sset d x).late = s.late := by
  unfold State.sset State.once
  split <;> rfl
@[simp] theorem State.sset_sched (s : State) (d : Nat) (x : Dword) : (s.sset d x).sched = s.sched := by
  unfold State.sset State.once
  split <;> rfl
@[simp] theorem State.sset_mem (s : State) (d : Nat) (x : Dword) : (s.sset d x).mem = s.mem := by
  unfold State.sset State.once
  split <;> rfl
@[simp] theorem State.sset_tags (s : State) (d : Nat) (x : Dword) : (s.sset d x).tags = s.tags := by
  unfold State.sset State.once
  split <;> rfl
@[simp] theorem State.sset_tagged (s : State) (d : Nat) (x : Dword) : (s.sset d x).tagged = s.tagged := by
  unfold State.sset State.once
  split <;> rfl
@[simp] theorem State.sset_poison (s : State) (d : Nat) (x : Dword) : (s.sset d x).poison = s.poison := by
  unfold State.sset State.once
  split <;> rfl
@[simp] theorem State.sset_asidRoot (s : State) (d : Nat) (x : Dword) : (s.sset d x).asidRoot = s.asidRoot := by
  unfold State.sset State.once
  split <;> rfl
@[simp] theorem State.sset_xc (s : State) (d : Nat) (x : Dword) : (s.sset d x).xc = s.xc := by
  unfold State.sset State.once
  split <;> rfl
@[simp] theorem State.sset_pageHome (s : State) (d : Nat) (x : Dword) : (s.sset d x).pageHome = s.pageHome := by
  unfold State.sset State.once
  split <;> rfl
@[simp] theorem State.sset_l2 (s : State) (d : Nat) (x : Dword) : (s.sset d x).l2 = s.l2 := by
  unfold State.sset State.once
  split <;> rfl
@[simp] theorem State.sset_dir (s : State) (d : Nat) (x : Dword) : (s.sset d x).dir = s.dir := by
  unfold State.sset State.once
  split <;> rfl
@[simp] theorem State.sset_msgs (s : State) (d : Nat) (x : Dword) : (s.sset d x).msgs = s.msgs := by
  unfold State.sset State.once
  split <;> rfl
@[simp] theorem State.sset_replica (s : State) (d : Nat) (x : Dword) : (s.sset d x).replica = s.replica := by
  unfold State.sset State.once
  split <;> rfl
@[simp] theorem State.sset_collapse (s : State) (d : Nat) (x : Dword) : (s.sset d x).collapse = s.collapse := by
  unfold State.sset State.once
  split <;> rfl
@[simp] theorem State.sset_gatherers (s : State) (d : Nat) (x : Dword) : (s.sset d x).gatherers = s.gatherers := by
  unfold State.sset State.once
  split <;> rfl
@[simp] theorem State.sset_blocks (s : State) (d : Nat) (x : Dword) : (s.sset d x).blocks = s.blocks := by
  unfold State.sset State.once
  split <;> rfl
@[simp] theorem State.sset_faultRec (s : State) (d : Nat) (x : Dword) : (s.sset d x).faultRec = s.faultRec := by
  unfold State.sset State.once
  split <;> rfl
@[simp] theorem State.sset_hac (s : State) (d : Nat) (x : Dword) : (s.sset d x).hac = s.hac := by
  unfold State.sset State.once
  split <;> rfl
@[simp] theorem State.sset_farDie (s : State) (d : Nat) (x : Dword) : (s.sset d x).farDie = s.farDie := by
  unfold State.sset State.once
  split <;> rfl
@[simp] theorem State.sset_ops (s : State) (d : Nat) (x : Dword) : (s.sset d x).ops = s.ops := by
  unfold State.sset State.once
  split <;> rfl
@[simp] theorem State.sset_remotes (s : State) (d : Nat) (x : Dword) : (s.sset d x).remotes = s.remotes := by
  unfold State.sset State.once
  split <;> rfl
@[simp] theorem State.sset_remoteIn (s : State) (d : Nat) (x : Dword) : (s.sset d x).remoteIn = s.remoteIn := by
  unfold State.sset State.once
  split <;> rfl
@[simp] theorem State.sset_pools (s : State) (d : Nat) (x : Dword) : (s.sset d x).pools = s.pools := by
  unfold State.sset State.once
  split <;> rfl
@[simp] theorem State.sset_seqs (s : State) (d : Nat) (x : Dword) : (s.sset d x).seqs = s.seqs := by
  unfold State.sset State.once
  split <;> rfl
@[simp] theorem State.sset_slotGen (s : State) (d : Nat) (x : Dword) : (s.sset d x).slotGen = s.slotGen := by
  unfold State.sset State.once
  split <;> rfl
@[simp] theorem State.sset_pages (s : State) (d : Nat) (x : Dword) : (s.sset d x).pages = s.pages := by
  unfold State.sset State.once
  split <;> rfl
@[simp] theorem State.sset_pfxDir (s : State) (d : Nat) (x : Dword) : (s.sset d x).pfxDir = s.pfxDir := by
  unfold State.sset State.once
  split <;> rfl
@[simp] theorem State.sset_pfxMap (s : State) (d : Nat) (x : Dword) : (s.sset d x).pfxMap = s.pfxMap := by
  unfold State.sset State.once
  split <;> rfl
@[simp] theorem State.sset_htsTbase (s : State) (d : Nat) (x : Dword) : (s.sset d x).htsTbase = s.htsTbase := by
  unfold State.sset State.once
  split <;> rfl
@[simp] theorem State.sset_htsTsz (s : State) (d : Nat) (x : Dword) : (s.sset d x).htsTsz = s.htsTsz := by
  unfold State.sset State.once
  split <;> rfl
@[simp] theorem State.sset_htsRes (s : State) (d : Nat) (x : Dword) : (s.sset d x).htsRes = s.htsRes := by
  unfold State.sset State.once
  split <;> rfl
@[simp] theorem State.sset_htsCtx (s : State) (d : Nat) (x : Dword) : (s.sset d x).htsCtx = s.htsCtx := by
  unfold State.sset State.once
  split <;> rfl
@[simp] theorem State.sset_htsCtxsz (s : State) (d : Nat) (x : Dword) : (s.sset d x).htsCtxsz = s.htsCtxsz := by
  unfold State.sset State.once
  split <;> rfl
@[simp] theorem State.sset_htsIgn (s : State) (d : Nat) (x : Dword) : (s.sset d x).htsIgn = s.htsIgn := by
  unfold State.sset State.once
  split <;> rfl
@[simp] theorem State.sset_htsRange (s : State) (d : Nat) (x : Dword) : (s.sset d x).htsRange = s.htsRange := by
  unfold State.sset State.once
  split <;> rfl
@[simp] theorem State.sset_tasks (s : State) (d : Nat) (x : Dword) : (s.sset d x).tasks = s.tasks := by
  unfold State.sset State.once
  split <;> rfl
@[simp] theorem State.sset_decs (s : State) (d : Nat) (x : Dword) : (s.sset d x).decs = s.decs := by
  unfold State.sset State.once
  split <;> rfl
@[simp] theorem State.sset_launches (s : State) (d : Nat) (x : Dword) : (s.sset d x).launches = s.launches := by
  unfold State.sset State.once
  split <;> rfl
@[simp] theorem State.sset_wgs (s : State) (d : Nat) (x : Dword) : (s.sset d x).wgs = s.wgs := by
  unfold State.sset State.once
  split <;> rfl
@[simp] theorem State.sset_images (s : State) (d : Nat) (x : Dword) : (s.sset d x).images = s.images := by
  unfold State.sset State.once
  split <;> rfl
@[simp] theorem State.sset_routes (s : State) (d : Nat) (x : Dword) : (s.sset d x).routes = s.routes := by
  unfold State.sset State.once
  split <;> rfl
@[simp] theorem State.sset_groups (s : State) (d : Nat) (x : Dword) : (s.sset d x).groups = s.groups := by
  unfold State.sset State.once
  split <;> rfl
@[simp] theorem State.sset_linksDown (s : State) (d : Nat) (x : Dword) : (s.sset d x).linksDown = s.linksDown := by
  unfold State.sset State.once
  split <;> rfl
@[simp] theorem State.sset_packets (s : State) (d : Nat) (x : Dword) : (s.sset d x).packets = s.packets := by
  unfold State.sset State.once
  split <;> rfl
@[simp] theorem State.sset_wire (s : State) (d : Nat) (x : Dword) : (s.sset d x).wire = s.wire := by
  unfold State.sset State.once
  split <;> rfl
@[simp] theorem State.sset_sent (s : State) (d : Nat) (x : Dword) : (s.sset d x).sent = s.sent := by
  unfold State.sset State.once
  split <;> rfl
@[simp] theorem State.sset_heard (s : State) (d : Nat) (x : Dword) : (s.sset d x).heard = s.heard := by
  unfold State.sset State.once
  split <;> rfl
@[simp] theorem State.sset_collSeq (s : State) (d : Nat) (x : Dword) : (s.sset d x).collSeq = s.collSeq := by
  unfold State.sset State.once
  split <;> rfl
@[simp] theorem State.sset_failed (s : State) (d : Nat) (x : Dword) : (s.sset d x).failed = s.failed := by
  unfold State.sset State.once
  split <;> rfl
@[simp] theorem State.sset_numiStat (s : State) (d : Nat) (x : Dword) : (s.sset d x).numiStat = s.numiStat := by
  unfold State.sset State.once
  split <;> rfl
@[simp] theorem State.sset_remap0 (s : State) (d : Nat) (x : Dword) : (s.sset d x).remap0 = s.remap0 := by
  unfold State.sset State.once
  split <;> rfl
@[simp] theorem State.sset_remap1 (s : State) (d : Nat) (x : Dword) : (s.sset d x).remap1 = s.remap1 := by
  unfold State.sset State.once
  split <;> rfl
@[simp] theorem State.sset_poolEnd (s : State) (d : Nat) (x : Dword) : (s.sset d x).poolEnd = s.poolEnd := by
  unfold State.sset State.once
  split <;> rfl
@[simp] theorem State.sset_mbxIn (s : State) (d : Nat) (x : Dword) : (s.sset d x).mbxIn = s.mbxIn := by
  unfold State.sset State.once
  split <;> rfl
@[simp] theorem State.sset_mbxOut (s : State) (d : Nat) (x : Dword) : (s.sset d x).mbxOut = s.mbxOut := by
  unfold State.sset State.once
  split <;> rfl
@[simp] theorem State.sset_mbxDb (s : State) (d : Nat) (x : Dword) : (s.sset d x).mbxDb = s.mbxDb := by
  unfold State.sset State.once
  split <;> rfl
@[simp] theorem State.sset_msix (s : State) (d : Nat) (x : Dword) : (s.sset d x).msix = s.msix := by
  unfold State.sset State.once
  split <;> rfl
@[simp] theorem State.sset_hostRead (s : State) (d : Nat) (x : Dword) : (s.sset d x).hostRead = s.hostRead := by
  unfold State.sset State.once
  split <;> rfl
@[simp] theorem State.sset_reports (s : State) (d : Nat) (x : Dword) : (s.sset d x).reports = s.reports := by
  unfold State.sset State.once
  split <;> rfl
@[simp] theorem State.sset_ports (s : State) (d : Nat) (x : Dword) : (s.sset d x).ports = s.ports := by
  unfold State.sset State.once
  split <;> rfl
@[simp] theorem State.sset_models (s : State) (d : Nat) (x : Dword) : (s.sset d x).models = s.models := by
  unfold State.sset State.once
  split <;> rfl
@[simp] theorem State.sset_journal (s : State) (d : Nat) (x : Dword) : (s.sset d x).journal = s.journal := by
  unfold State.sset State.once
  split <;> rfl
@[simp] theorem State.sset_nextId (s : State) (d : Nat) (x : Dword) : (s.sset d x).nextId = s.nextId := by
  unfold State.sset State.once
  split <;> rfl
@[simp] theorem State.sset_free (s : State) (d : Nat) (x : Dword) : (s.sset d x).free = s.free := by
  unfold State.sset State.once
  split <;> rfl

end Sys2Proof.Machine
end

