-- ==== Sys2Proof/Laws/Regs.lean ====
section
/-! SUPPORT. Reading a register after a write (R9, R10, R114, R115), and what the executing lanes' writes leave. -/

namespace Sys2Proof.Machine

/-! ## Cores, groups and threads -/

@[simp] theorem State.core_setCore (s : State) (c : Nat) (k : Core) : (s.setCore c k).core c = k := by
  simp [State.core, State.setCore]

theorem State.core_setCore_ne (s : State) {c c' : Nat} (k : Core) (h : c' ≠ c) : (s.setCore c k).core c' = s.core c' :=
  Tab.get_set_ne _ _ _ h

@[simp] theorem State.core_modCore (s : State) (c : Nat) (f : Core → Core) : (s.modCore c f).core c = f (s.core c) := by
  simp [State.modCore]

theorem State.core_modCore_ne (s : State) {c c' : Nat} (f : Core → Core) (h : c' ≠ c) :
    (s.modCore c f).core c' = s.core c' := State.core_setCore_ne s _ h

@[simp] theorem State.group_modGroup (s : State) (c p : Nat) (f : Group → Group) :
    (s.modGroup c p f).group c p = f (s.group c p) := by
  simp [State.group, State.modGroup]

theorem State.group_modGroup_ne (s : State) (c : Nat) {p p' : Nat} (f : Group → Group) (h : p' ≠ p) :
    (s.modGroup c p f).group c p' = s.group c p' := by
  unfold State.group State.modGroup
  rw [State.core_modCore]
  exact Tab.get_set_ne _ _ _ h

@[simp] theorem Group.thread_modThread (g : Group) (l : Nat) (f : Thread → Thread) :
    (g.modThread l f).thread l = f (g.thread l) := by
  simp [Group.thread, Group.modThread]

theorem Group.thread_modThread_ne (g : Group) {l l' : Nat} (f : Thread → Thread) (h : l' ≠ l) :
    (g.modThread l f).thread l' = g.thread l' := Tab.get_set_ne _ _ _ h

theorem Group.thread_modThread_eq (g : Group) (l l' : Nat) (f : Thread → Thread) :
    (g.modThread l f).thread l' = if l' = l then f (g.thread l) else g.thread l' := by
  split
  · rename_i h; subst h; exact Group.thread_modThread g l' f
  · rename_i h; exact Group.thread_modThread_ne g f h

/-- A change of one thread changes nothing else of its group. -/
@[simp] theorem Group.modThread_rest (g : Group) (l : Nat) (f : Thread → Thread) :
    { g.modThread l f with lanes := [] } = { g with lanes := [] } := rfl

@[simp] theorem State.here_onHere (s : State) (f : Group → Group) : (s.onHere f).here = f s.here :=
  State.group_modGroup s _ _ f

/-! ## Uniform registers (R10, R114, R115) -/

@[simp] theorem Group.rs_zero (g : Group) : g.rs 0 = 0 := rfl

theorem Group.rs_ws (g : Group) (n n' : Nat) (x : Dword) :
    (g.ws n x).rs n' = if n' = n ∧ n ≠ 0 then x else g.rs n' := by
  unfold Group.ws
  by_cases h : n = 0
  · rw [if_pos h, if_neg (by simp [h])]
  · rw [if_neg h]
    unfold Group.rs
    by_cases h' : n' = n
    · subst h'; simp [h]
    · by_cases h0 : n' = 0
      · simp [h0, Ne.symm h]
      · rw [if_neg h0, if_neg (by simp [h']), if_neg h0]
        exact Tab.get_set_ne _ _ _ h'

/-! ## Predicates (R9, R114, R115) -/

@[simp] theorem Group.rp_zero (g : Group) (l : Nat) : g.rp l 0 = true := rfl

theorem putPred_get (p : BitVec 8) (n n' : Nat) (b : Bool) (h : n < 8) :
    (putPred p n b).getLsbD n' = if n' = n ∧ n ≠ 0 then b else p.getLsbD n' := by
  unfold putPred
  by_cases h0 : n = 0
  · rw [if_pos h0, if_neg (by simp [h0])]
  · rw [if_neg h0]
    have hp : ∀ i, (BitVec.ofNat 8 (2 ^ n)).getLsbD i = decide (i = n) := by
      intro i
      rw [BitVec.getLsbD_ofNat, Nat.testBit_two_pow]
      by_cases hi : n = i
      · subst hi; simp [h]
      · simp [hi, Ne.symm hi]
    cases b
    · rw [if_neg (by simp), BitVec.getLsbD_and, BitVec.getLsbD_not, hp]
      by_cases hn : n' = n
      · subst hn; simp [h0]
      · rw [if_neg (by simp [hn])]
        by_cases h8 : n' < 8
        · simp [hn, h8]
        · simp [BitVec.getLsbD_of_ge _ _ (Nat.le_of_not_lt h8)]
    · rw [if_pos rfl, BitVec.getLsbD_or, hp]
      by_cases hn : n' = n
      · subst hn; simp [h0]
      · simp [hn]

theorem putPred_twice (p : BitVec 8) (n : Nat) (b : Bool) (h : n < 8) : putPred (putPred p n b) n b = putPred p n b := by
  apply BitVec.eq_of_getLsbD_eq
  intro i _
  rw [putPred_get _ _ _ _ h, putPred_get _ _ _ _ h]
  split <;> rfl

/-! ## Vector registers -/

theorem filter_twice {α : Type} (p : α → Bool) (l : List α) : (l.filter p).filter p = l.filter p := by
  rw [List.filter_filter]; congr 1; funext x; simp

theorem Thread.wv_twice (t : Thread) (n : Nat) (x : Word) : (t.wv n x).wv n x = t.wv n x := by
  unfold Thread.wv
  simp only [Tab.set_set, filter_twice]

theorem Thread.rv_wv (t : Thread) (n n' : Nat) (x : Word) :
    (t.wv n x).v.get 0 n' = if n' = n then x else t.v.get 0 n' := Tab.get_set _ _ _ _ _

/-! ## Every executing lane writes -/

/-- A change that every lane of a list makes to its own thread, once or more often. -/
theorem Group.foldl_modThread (ls : List Nat) (h : Nat → Thread → Thread) (hh : ∀ l t, h l (h l t) = h l t)
    (g : Group) (l : Nat) :
    (ls.foldl (fun g l => g.modThread l (h l)) g).thread l = if l ∈ ls then h l (g.thread l) else g.thread l := by
  induction ls generalizing g with
  | nil => simp
  | cons x ls ih =>
    rw [List.foldl_cons, ih, Group.thread_modThread_eq]
    by_cases hx : l = x
    · subst hx
      simp only [if_pos, List.mem_cons_self, ite_true]
      split
      · exact hh l _
      · rfl
    · simp [hx]

theorem Group.foldl_modThread_rest (ls : List Nat) (h : Nat → Thread → Thread) (g : Group) :
    { ls.foldl (fun g l => g.modThread l (h l)) g with lanes := [] } = { g with lanes := [] } := by
  induction ls generalizing g with
  | nil => rfl
  | cons x ls ih => rw [List.foldl_cons, ih]; rfl

end Sys2Proof.Machine
end

