-- ==== Sys2Proof/Laws/Ops.lean ====
section
/-! SUPPORT. What each shared operation can do, said once: writes of the executing lanes, uniform writes, effects,
and the end of a unit. -/

namespace Sys2Proof.Machine

theorem endUnit_eq (c : Bool) (u : State) : endUnit c u = .next (afterUnit c u) := by
  unfold endUnit afterUnit
  by_cases h : c = true ∧ u.cur.active = true ∧ u.cur.next < 2
  · rw [if_pos h, if_pos h]
  · rw [if_neg h, if_neg h]

/-- A unit that counts no event counts nothing. -/
theorem State.countUnit_nil (s : State) (ls : List Nat) : s.countUnit (ls.map fun l => (l, [])) = s := by
  have hz : ∀ k, ((ls.map fun l => (l, ([] : List Ev))).map fun e => evCount e.2 k).sum = 0 := by
    intro k
    induction ls with
    | nil => rfl
    | cons x ls ih => simpa [evCount] using ih
  have hn : ((ls.map fun l => (l, ([] : List Ev))).filter fun e => !e.2.isEmpty) = [] := by
    simp [List.filter_eq_nil_iff]
  unfold State.countUnit
  simp only [hz, hn]
  simp [State.count, List.range_succ]

/-! ## Frames -/

theorem outside_onHere (s : State) (f : Group → Group) : OutsideHere s (s.onHere f) where
  rest := rfl
  cores c h := State.core_modCore_ne s _ h
  core := by
    rw [State.onHere, State.modGroup, State.core_modCore]
  groups p h := State.group_modGroup_ne s _ f h
  memory _ := rfl

theorem outside_lanesDo (s : State) (f : Group → Nat → Group) : OutsideHere s (s.lanesDo f) := outside_onHere s _

theorem OutsideHere.refl (s : State) : OutsideHere s s := ⟨rfl, fun _ _ => rfl, rfl, fun _ _ => rfl, fun _ => rfl⟩

/-! ## Vector registers -/

theorem here_lanesDo_modThread (s : State) (h : Nat → Thread → Thread) :
    (s.lanesDo fun g l => g.modThread l (h l)).here = s.E.foldl (fun g l => g.modThread l (h l)) s.here := by
  unfold State.lanesDo
  rw [State.here_onHere]

theorem thread_lanesDo (s : State) (h : Nat → Thread → Thread) (hh : ∀ l t, h l (h l t) = h l t) (l : Nat) :
    (s.lanesDo fun g l => g.modThread l (h l)).here.thread l =
      if l ∈ s.E then h l (s.here.thread l) else s.here.thread l := by
  rw [here_lanesDo_modThread, Group.foldl_modThread _ _ hh]

theorem group_lanesDo (s : State) (h : Nat → Thread → Thread) :
    { (s.lanesDo fun g l => g.modThread l (h l)).here with lanes := [] } = { s.here with lanes := [] } := by
  rw [here_lanesDo_modThread, Group.foldl_modThread_rest]

theorem State.vset_thread (s : State) (d : Nat) (f : Nat → Word) (l : Nat) :
    (s.vset d f).here.thread l = if l ∈ s.E then (s.here.thread l).wv d (f l) else s.here.thread l :=
  thread_lanesDo s (fun l t => t.wv d (f l)) (fun _ _ => Thread.wv_twice _ _ _) l

/-- What a write of v(d) by every executing lane does. -/
theorem State.vset_value (s : State) (d : Nat) (f : Nat → Word) {l : Nat} (h : l ∈ s.E) :
    (s.vset d f).here.rv l d = f l := by
  unfold Group.rv
  rw [State.vset_thread, if_pos h, Thread.rv_wv, if_pos rfl]

theorem State.vset_only (s : State) (d : Nat) (f : Nat → Word) : OnlyV s (s.vset d f) s.E [d] where
  outside := outside_lanesDo s _
  group := group_lanesDo s (fun l t => t.wv d (f l))
  others l h := by rw [State.vset_thread, if_neg h]
  thread l := by rw [State.vset_thread]; split <;> rfl
  regs l n h := by
    unfold Group.rv
    rw [State.vset_thread]
    split
    · rw [Thread.rv_wv, if_neg (by simpa using h)]
    · rfl
  marks l n := by
    rw [State.vset_thread]
    split
    · rename_i h; simp [Thread.wv, h]
    · rename_i h; simp [h]
  poison l n := by
    rw [State.vset_thread]
    split
    · rename_i h; simp [Thread.wv, h]
    · rename_i h; simp [h]

theorem Thread.wv64_twice (t : Thread) (n : Nat) (x y : Word) :
    (((t.wv n x).wv (n + 1) y).wv n x).wv (n + 1) y = (t.wv n x).wv (n + 1) y := by
  have h : ∀ (t : Tab Word) (a b : Nat) (x y : Word), a ≠ b →
      Tab.set (Tab.set (Tab.set (Tab.set t a x) b y) a x) b y = Tab.set (Tab.set t a x) b y := by
    intro t a b x y hab
    have h1 : ∀ (t : Tab Word) (k : Nat) (v : Word), Tab.find? t k = some v → Tab.set t k v = t := by
      intro t k v
      induction t with
      | nil => simp [Tab.find?]
      | cons z t ih =>
        obtain ⟨c, e⟩ := z
        simp only [Tab.find?, Tab.set]
        split
        · rename_i hk; subst hk; intro h; simp at h; rw [h]
        · intro h; rw [ih h]
    rw [h1 _ a x (by rw [Tab.find?_set, if_neg hab, Tab.find?_set, if_pos rfl]), Tab.set_set]
  unfold Thread.wv
  simp only [h _ n (n + 1) x y (by omega)]
  congr 1
  · simp only [List.filter_filter]; congr 1; funext z; cases decide (z ≠ n) <;> cases decide (z ≠ n + 1) <;> rfl
  · simp only [List.filter_filter]; congr 1; funext z; cases decide (z ≠ n) <;> cases decide (z ≠ n + 1) <;> rfl

theorem State.vset64_thread (s : State) (d : Nat) (f : Nat → Dword) (l : Nat) :
    (s.vset64 d f).here.thread l =
      if l ∈ s.E then ((s.here.thread l).wv d ((f l).setWidth 32)).wv (d + 1) ((f l).extractLsb' 32 32)
      else s.here.thread l :=
  thread_lanesDo s (fun l t => (t.wv d ((f l).setWidth 32)).wv (d + 1) ((f l).extractLsb' 32 32))
    (fun _ _ => Thread.wv64_twice _ _ _ _) l

theorem append_halves (x : Dword) : (x.extractLsb' 32 32 ++ (x.setWidth 32 : Word) : BitVec 64) = x := by
  apply BitVec.eq_of_getLsbD_eq
  intro i hi
  rw [BitVec.getLsbD_append]
  by_cases h : i < 32
  · simp [h]
  · simp [h, show i - 32 < 32 by omega, show 32 + (i - 32) = i by omega]

/-- What a write of the pair v(d) by every executing lane does. -/
theorem State.vset64_value (s : State) (d : Nat) (f : Nat → Dword) {l : Nat} (h : l ∈ s.E) :
    (s.vset64 d f).here.rv64 l d = f l := by
  unfold Group.rv64 Group.rv
  rw [State.vset64_thread, if_pos h, Thread.rv_wv, if_pos rfl, Thread.rv_wv, if_neg (by omega),
    Thread.rv_wv, if_pos rfl]
  exact append_halves (f l)

theorem State.vset64_only (s : State) (d : Nat) (f : Nat → Dword) : OnlyV s (s.vset64 d f) s.E [d, d + 1] where
  outside := outside_lanesDo s _
  group := group_lanesDo s (fun l t => (t.wv d ((f l).setWidth 32)).wv (d + 1) ((f l).extractLsb' 32 32))
  others l h := by rw [State.vset64_thread, if_neg h]
  thread l := by rw [State.vset64_thread]; split <;> rfl
  regs l n h := by
    simp only [List.mem_cons, List.not_mem_nil, or_false, not_or] at h
    unfold Group.rv
    rw [State.vset64_thread]
    split
    · rw [Thread.rv_wv, if_neg h.2, Thread.rv_wv, if_neg h.1]
    · rfl
  marks l n := by
    rw [State.vset64_thread]
    split
    · rename_i h; simp [Thread.wv, h]; tauto
    · rename_i h; simp [h]
  poison l n := by
    rw [State.vset64_thread]
    split
    · rename_i h; simp [Thread.wv, h]; tauto
    · rename_i h; simp [h]

/-! ## Predicates -/

theorem State.pset_thread (s : State) (d : Nat) (f : Nat → Bool) (hd : d < 8) (l : Nat) :
    (s.pset d f).here.thread l =
      if l ∈ s.E then { s.here.thread l with p := putPred (s.here.thread l).p d (f l) } else s.here.thread l :=
  thread_lanesDo s (fun l t => { t with p := putPred t.p d (f l) })
    (fun l t => by simp only [putPred_twice _ _ _ hd]) l

/-- What a write of p(d) by every executing lane does; p0 still reads as 1 (R114, R115). -/
theorem State.pset_value (s : State) (d : Nat) (f : Nat → Bool) (hd : d < 8) {l : Nat} (h : l ∈ s.E) :
    (s.pset d f).here.rp l d = (decide (d = 0) || f l) := by
  unfold Group.rp
  rw [State.pset_thread _ _ _ hd, if_pos h, putPred_get _ _ _ _ hd]
  by_cases h0 : d = 0
  · simp [h0]
  · simp [h0]

theorem State.pset_only (s : State) (d : Nat) (f : Nat → Bool) (hd : d < 8) : OnlyP s (s.pset d f) s.E [d] where
  outside := outside_lanesDo s _
  group := group_lanesDo s (fun l t => { t with p := putPred t.p d (f l) })
  others l h := by rw [State.pset_thread _ _ _ hd, if_neg h]
  thread l := by rw [State.pset_thread _ _ _ hd]; split <;> rfl
  preds l n h := by
    unfold Group.rp
    rw [State.pset_thread _ _ _ hd]
    split
    · rw [putPred_get _ _ _ _ hd, if_neg (by simp at h; tauto)]
    · rfl

/-! ## Uniform registers -/

theorem State.sset_here (s : State) (d : Nat) (x : Dword) :
    (s.sset d x).here = if s.E = [] then s.here else s.here.ws d x := by
  unfold State.sset State.once
  by_cases h : s.E = []
  · rw [if_pos h, if_pos (by simp [h])]
  · rw [if_neg h, if_neg (by simp [h]), State.here_onHere]

/-- What a once-per-unit write of s(d) does: nothing without an executing lane, nothing to s0 (R113, R114). -/
theorem State.sset_value (s : State) (d : Nat) (x : Dword) :
    (s.sset d x).here.rs d = if s.E = [] ∨ d = 0 then s.here.rs d else x := by
  rw [State.sset_here]
  by_cases h : s.E = []
  · simp [h]
  · rw [if_neg h, Group.rs_ws]
    by_cases h0 : d = 0 <;> simp [h, h0]

theorem State.sset_only (s : State) (d : Nat) (x : Dword) : OnlyS s (s.sset d x) d where
  outside := by
    unfold State.sset State.once
    split
    · exact OutsideHere.refl s
    · exact outside_onHere s _
  group := by
    rw [State.sset_here]
    split
    · rfl
    · unfold Group.ws; split <;> rfl
  regs n h := by
    rw [State.sset_here]
    split
    · rfl
    · rw [Group.rs_ws, if_neg (by tauto)]
  poison n h := by
    rw [State.sset_here]
    split
    · rfl
    · unfold Group.ws; split <;> simp [h]

/-! ## Effects -/

theorem State.effect_only (s : State) (l : Nat) (e : Effect) : OnlyEffects s (s.effect l e) [(l, e)] := rfl

theorem State.E_effect (s : State) (l : Nat) (e : Effect) : (s.effect l e).E = s.E := rfl

/-- One effect for each executing lane. -/
theorem State.each_effect (s : State) (e : Nat → Effect) :
    OnlyEffects s (s.each fun s l => s.effect l (e l)) (s.E.map fun l => (l, e l)) := by
  unfold State.each OnlyEffects
  generalize s.E = ls
  induction ls generalizing s with
  | nil => simp
  | cons x ls ih =>
    rw [List.foldl_cons, ih]
    simp [State.effect]

/-! ## What a chain decides for its lanes -/

/-- The state with more decided. -/
def State.decided (s : State) (es : List (Nat × Effect)) : State :=
  { s with cur := { s.cur with effects := s.cur.effects ++ es } }

@[simp] theorem State.decided_here (s : State) (es : List (Nat × Effect)) : (s.decided es).here = s.here := rfl
@[simp] theorem State.decided_E (s : State) (es : List (Nat × Effect)) : (s.decided es).E = s.E := rfl
@[simp] theorem State.decided_curWord (s : State) (es : List (Nat × Effect)) : (s.decided es).curWord = s.curWord := rfl
@[simp] theorem State.decided_unitAddr (s : State) (es : List (Nat × Effect)) :
    (s.decided es).unitAddr = s.unitAddr := rfl
@[simp] theorem State.decided_unitPos (s : State) (es : List (Nat × Effect)) : (s.decided es).unitPos = s.unitPos := rfl
@[simp] theorem State.decided_curLaunch (s : State) (es : List (Nat × Effect)) :
    (s.decided es).curLaunch = s.curLaunch := rfl
@[simp] theorem State.decided_clock (s : State) (es : List (Nat × Effect)) : (s.decided es).clock = s.clock := rfl
@[simp] theorem State.decided_nextId (s : State) (es : List (Nat × Effect)) : (s.decided es).nextId = s.nextId := rfl
@[simp] theorem State.decided_core (s : State) (es : List (Nat × Effect)) (c : Nat) :
    (s.decided es).core c = s.core c := rfl
@[simp] theorem State.decided_fenceDone (s : State) (es : List (Nat × Effect)) (c p l n : Nat) :
    (s.decided es).fenceDone c p l n = s.fenceDone c p l n := rfl
@[simp] theorem State.decided_cur_core (s : State) (es : List (Nat × Effect)) :
    (s.decided es).cur.core = s.cur.core := rfl
@[simp] theorem State.decided_cur_place (s : State) (es : List (Nat × Effect)) :
    (s.decided es).cur.place = s.cur.place := rfl

@[simp] theorem State.decided_nil (s : State) : s.decided [] = s := by simp [State.decided]

@[simp] theorem State.decided_decided (s : State) (es fs : List (Nat × Effect)) :
    (s.decided es).decided fs = s.decided (es ++ fs) := by simp [State.decided]

@[simp] theorem State.effect_decided (s : State) (l : Nat) (e : Effect) : s.effect l e = s.decided [(l, e)] := rfl

@[simp] theorem State.raise_decided (s : State) (l c : Nat) (a : Dword) :
    s.raise l c a = s.decided [(l, .trap { cause := c, word := s.curWord, addr := a, unit := s.unitAddr })] := rfl

@[simp] theorem State.wait_decided (s : State) (l : Nat) (w : Wait) :
    s.wait l w = s.decided [(l, .wait w s.unitPos)] := rfl

/-- Every executing lane decides a list of effects, whatever the lanes before it have decided. -/
theorem State.each_decides (s : State) (body : State → Nat → State) (f : Nat → List Effect)
    (h : ∀ es x, body (s.decided es) x = s.decided (es ++ (f x).map fun e => (x, e))) :
    s.each body = s.decided (s.E.flatMap fun x => (f x).map fun e => (x, e)) := by
  have key : ∀ (ls : List Nat) (es : List (Nat × Effect)),
      ls.foldl body (s.decided es) = s.decided (es ++ ls.flatMap fun x => (f x).map fun e => (x, e)) := by
    intro ls
    induction ls with
    | nil => intro es; simp
    | cons x ls ih =>
      intro es
      rw [List.foldl_cons, h, ih, List.flatMap_cons, List.append_assoc]
  have := key s.E []
  rwa [State.decided_nil, List.nil_append] at this

end Sys2Proof.Machine
end

