-- ==== Sys2Proof/Laws/PerInstr.lean ====
section
/-! SUPPORT. Decoding undoes encoding, one lemma per constructor (family RoundTrip). -/

namespace Sys2Proof.Laws

/-- What the round trip says of one instruction: the word of a well-formed instruction decodes to it. -/
def RoundTrip.Statement (i : Instr) : Prop :=
  i.wf = true → ∀ w, encode i = some w → decode w = .ok i

theorem fld_eq {n : Nat} (w : Word) (lo : Nat) : (fld w lo : BitVec n) = BitVec.ofNat n (w.toNat / 2 ^ lo) := by
  apply BitVec.eq_of_toNat_eq
  simp [fld, Nat.shiftRight_eq_div_pow]

theorem chain_eq (w : Word) (c : Bool) (h : w.toNat / 2 ^ 31 = c.toNat) : chainBit w = c := by
  unfold chainBit
  rw [BitVec.getLsbD, Nat.testBit_eq_decide_div_mod_eq, h]
  cases c <;> rfl

theorem word_nat (b : Nat) (c : Bool) (fs : List (Nat × Nat)) :
    (word b c fs).toNat = (b + c.toNat * 2 ^ 31 + (fs.map fun f => f.2 * 2 ^ f.1).sum) % 2 ^ 32 := by
  unfold word
  rw [BitVec.toNat_ofNat]

theorem sum_fields_cons (a b : Nat) (l : List (Nat × Nat)) :
    (((a, b) :: l).map fun f => f.2 * 2 ^ f.1).sum = b * 2 ^ a + (l.map fun f => f.2 * 2 ^ f.1).sum := by
  rw [List.map_cons, List.sum_cons]

theorem sum_fields_nil : (([] : List (Nat × Nat)).map fun f => f.2 * 2 ^ f.1).sum = 0 := rfl

theorem row_of {w : Word} {z : List (Nat × Nat)} {i : Instr} (h : ∀ p ∈ z, fldNat w p.1 p.2 = 0) :
    row w z i = .ok i := by
  unfold row
  rw [if_pos (List.all_eq_true.2 fun p hp => decide_eq_true (h p hp))]

theorem chk_of_wf {i : Instr} {b : Bool} (h : i.wf = true) (hf : ∀ x, Use.chk b ∈ i.uses x) : b = true := by
  unfold Instr.wf at h
  rcases Bool.or_eq_true_iff.1 h with h | h
  · exact List.all_eq_true.1 h _ (hf false)
  · exact List.all_eq_true.1 h _ (hf true)

theorem row_zero {w : Word} {i : Instr} : row w [] i = .ok i := row_of (by simp)

theorem row_1 {w : Word} {i : Instr} {a0 b0 : Nat}
    (h0 : fldNat w a0 b0 = 0) :
    row w [(a0, b0)] i = .ok i :=
  row_of (by simp [h0])

theorem row_2 {w : Word} {i : Instr} {a0 b0 : Nat} {a1 b1 : Nat}
    (h0 : fldNat w a0 b0 = 0) (h1 : fldNat w a1 b1 = 0) :
    row w [(a0, b0), (a1, b1)] i = .ok i :=
  row_of (by simp [h0, h1])

theorem row_3 {w : Word} {i : Instr} {a0 b0 : Nat} {a1 b1 : Nat} {a2 b2 : Nat}
    (h0 : fldNat w a0 b0 = 0) (h1 : fldNat w a1 b1 = 0) (h2 : fldNat w a2 b2 = 0) :
    row w [(a0, b0), (a1, b1), (a2, b2)] i = .ok i :=
  row_of (by simp [h0, h1, h2])

theorem row_4 {w : Word} {i : Instr} {a0 b0 : Nat} {a1 b1 : Nat} {a2 b2 : Nat} {a3 b3 : Nat}
    (h0 : fldNat w a0 b0 = 0) (h1 : fldNat w a1 b1 = 0) (h2 : fldNat w a2 b2 = 0) (h3 : fldNat w a3 b3 = 0) :
    row w [(a0, b0), (a1, b1), (a2, b2), (a3, b3)] i = .ok i :=
  row_of (by simp [h0, h1, h2, h3])

theorem row_5 {w : Word} {i : Instr} {a0 b0 : Nat} {a1 b1 : Nat} {a2 b2 : Nat} {a3 b3 : Nat} {a4 b4 : Nat}
    (h0 : fldNat w a0 b0 = 0) (h1 : fldNat w a1 b1 = 0) (h2 : fldNat w a2 b2 = 0) (h3 : fldNat w a3 b3 = 0) (h4 : fldNat w a4 b4 = 0) :
    row w [(a0, b0), (a1, b1), (a2, b2), (a3, b3), (a4, b4)] i = .ok i :=
  row_of (by simp [h0, h1, h2, h3, h4])

theorem decode_major_00 (w : Word) (h : fldNat w 25 6 = 0x00) : decode w = decode00 w := by
  unfold decode
  rw [h]
  rfl

theorem decode_major_01 (w : Word) (h : fldNat w 25 6 = 0x01) : decode w = decode01 w := by
  unfold decode
  rw [h]
  rfl

theorem decode_major_02 (w : Word) (h : fldNat w 25 6 = 0x02) : decode w = decode02 w := by
  unfold decode
  rw [h]
  rfl

theorem decode_major_03 (w : Word) (h : fldNat w 25 6 = 0x03) : decode w = decode03 w := by
  unfold decode
  rw [h]
  rfl

theorem decode_major_04 (w : Word) (h : fldNat w 25 6 = 0x04) : decode w = decode04 w := by
  unfold decode
  rw [h]
  rfl

theorem decode_major_05 (w : Word) (h : fldNat w 25 6 = 0x05) : decode w = decode05 w := by
  unfold decode
  rw [h]
  rfl

theorem decode_major_06 (w : Word) (h : fldNat w 25 6 = 0x06) : decode w = decode06 w := by
  unfold decode
  rw [h]
  rfl

theorem decode_major_07 (w : Word) (h : fldNat w 25 6 = 0x07) : decode w = decode07 w := by
  unfold decode
  rw [h]
  rfl

theorem decode_major_08 (w : Word) (h : fldNat w 25 6 = 0x08) : decode w = decode08 w := by
  unfold decode
  rw [h]
  rfl

theorem decode_major_09 (w : Word) (h : fldNat w 25 6 = 0x09) : decode w = decode09 w := by
  unfold decode
  rw [h]
  rfl

theorem decode_major_0A (w : Word) (h : fldNat w 25 6 = 0x0A) : decode w = decode0A w := by
  unfold decode
  rw [h]
  rfl

theorem decode_major_0B (w : Word) (h : fldNat w 25 6 = 0x0B) : decode w = decode0B w := by
  unfold decode
  rw [h]
  rfl

theorem decode_major_0C (w : Word) (h : fldNat w 25 6 = 0x0C) : decode w = decode0C w := by
  unfold decode
  rw [h]
  rfl

theorem decode_major_0D (w : Word) (h : fldNat w 25 6 = 0x0D) : decode w = decode0D w := by
  unfold decode
  rw [h]
  rfl

theorem decode_major_0E (w : Word) (h : fldNat w 25 6 = 0x0E) : decode w = decode0E w := by
  unfold decode
  rw [h]
  rfl

theorem decode_major_0F (w : Word) (h : fldNat w 25 6 = 0x0F) : decode w = decode0F w := by
  unfold decode
  rw [h]
  rfl

theorem decode_major_10 (w : Word) (h : fldNat w 25 6 = 0x10) : decode w = decode10 w := by
  unfold decode
  rw [h]
  rfl

theorem decode_major_11 (w : Word) (h : fldNat w 25 6 = 0x11) : decode w = decode11 w := by
  unfold decode
  rw [h]
  rfl

theorem decode_major_12 (w : Word) (h : fldNat w 25 6 = 0x12) : decode w = decode12 w := by
  unfold decode
  rw [h]
  rfl

theorem decode_major_13 (w : Word) (h : fldNat w 25 6 = 0x13) : decode w = decode13 w := by
  unfold decode
  rw [h]
  rfl

theorem decode_major_14 (w : Word) (h : fldNat w 25 6 = 0x14) : decode w = decode14 w := by
  unfold decode
  rw [h]
  rfl

theorem decode_major_15 (w : Word) (h : fldNat w 25 6 = 0x15) : decode w = decode15 w := by
  unfold decode
  rw [h]
  rfl

theorem decode_major_16 (w : Word) (h : fldNat w 25 6 = 0x16) : decode w = decode16 w := by
  unfold decode
  rw [h]
  rfl

theorem decode_major_17 (w : Word) (h : fldNat w 25 6 = 0x17) : decode w = decode17 w := by
  unfold decode
  rw [h]
  rfl

theorem decode_major_18 (w : Word) (h : fldNat w 25 6 = 0x18) : decode w = decode18 w := by
  unfold decode
  rw [h]
  rfl

theorem decode_major_19 (w : Word) (h : fldNat w 25 6 = 0x19) : decode w = decode19 w := by
  unfold decode
  rw [h]
  rfl

theorem decode_major_1A (w : Word) (h : fldNat w 25 6 = 0x1A) : decode w = decode1A w := by
  unfold decode
  rw [h]
  rfl

theorem decode_major_1B (w : Word) (h : fldNat w 25 6 = 0x1B) : decode w = decode1B w := by
  unfold decode
  rw [h]
  rfl

theorem decode_major_1C (w : Word) (h : fldNat w 25 6 = 0x1C) : decode w = decode1C w := by
  unfold decode
  rw [h]
  rfl

theorem decode_major_1D (w : Word) (h : fldNat w 25 6 = 0x1D) : decode w = decode1D w := by
  unfold decode
  rw [h]
  rfl

theorem decode_major_1E (w : Word) (h : fldNat w 25 6 = 0x1E) : decode w = decode1E w := by
  unfold decode
  rw [h]
  rfl

theorem decode_major_1F (w : Word) (h : fldNat w 25 6 = 0x1F) : decode w = decode1F w := by
  unfold decode
  rw [h]
  rfl

theorem decode_major_20 (w : Word) (h : fldNat w 25 6 = 0x20) : decode w = decode20 w := by
  unfold decode
  rw [h]
  rfl

theorem decode_major_21 (w : Word) (h : fldNat w 25 6 = 0x21) : decode w = decode21 w := by
  unfold decode
  rw [h]
  rfl

theorem decode_major_22 (w : Word) (h : fldNat w 25 6 = 0x22) : decode w = decode22 w := by
  unfold decode
  rw [h]
  rfl

theorem decode_major_23 (w : Word) (h : fldNat w 25 6 = 0x23) : decode w = decode23 w := by
  unfold decode
  rw [h]
  rfl

theorem decode_major_24 (w : Word) (h : fldNat w 25 6 = 0x24) : decode w = decode24 w := by
  unfold decode
  rw [h]
  rfl

theorem decode_major_25 (w : Word) (h : fldNat w 25 6 = 0x25) : decode w = decode25 w := by
  unfold decode
  rw [h]
  rfl

theorem decode_major_26 (w : Word) (h : fldNat w 25 6 = 0x26) : decode w = decode26 w := by
  unfold decode
  rw [h]
  rfl

theorem decode_major_27 (w : Word) (h : fldNat w 25 6 = 0x27) : decode w = decode27 w := by
  unfold decode
  rw [h]
  rfl

theorem decode_major_28 (w : Word) (h : fldNat w 25 6 = 0x28) : decode w = decode28 w := by
  unfold decode
  rw [h]
  rfl

theorem decode_major_29 (w : Word) (h : fldNat w 25 6 = 0x29) : decode w = decode29 w := by
  unfold decode
  rw [h]
  rfl

theorem decode_major_2A (w : Word) (h : fldNat w 25 6 = 0x2A) : decode w = decode2A w := by
  unfold decode
  rw [h]
  rfl

theorem decode_major_2B (w : Word) (h : fldNat w 25 6 = 0x2B) : decode w = decode2B w := by
  unfold decode
  rw [h]
  rfl

theorem decode_major_2C (w : Word) (h : fldNat w 25 6 = 0x2C) : decode w = decode2C w := by
  unfold decode
  rw [h]
  rfl

theorem decode_major_2D (w : Word) (h : fldNat w 25 6 = 0x2D) : decode w = decode2D w := by
  unfold decode
  rw [h]
  rfl

theorem decode_major_2E (w : Word) (h : fldNat w 25 6 = 0x2E) : decode w = decode2E w := by
  unfold decode
  rw [h]
  rfl

theorem decode_major_2F (w : Word) (h : fldNat w 25 6 = 0x2F) : decode w = decode2F w := by
  unfold decode
  rw [h]
  rfl

theorem decode_major_30 (w : Word) (h : fldNat w 25 6 = 0x30) : decode w = decode30 w := by
  unfold decode
  rw [h]
  rfl

theorem decode_major_31 (w : Word) (h : fldNat w 25 6 = 0x31) : decode w = decode31 w := by
  unfold decode
  rw [h]
  rfl

theorem decode_major_32 (w : Word) (h : fldNat w 25 6 = 0x32) : decode w = decode32 w := by
  unfold decode
  rw [h]
  rfl

theorem decode_major_3F (w : Word) (h : fldNat w 25 6 = 0x3F) : decode w = decode3F w := by
  unfold decode
  rw [h]
  rfl

theorem shape_0 (m : Nat) (hm : m < 64) (o : Nat) (ho : o < 16) (f0 : BitVec 21) (w : Word)
    (hw : w = word (m * 2 ^ 25 + o * 2 ^ 21) false [(0, f0.toNat)]) :
    fldNat w 25 6 = m ∧
    fldNat w 21 4 = o ∧
    fld w 0 = f0 ∧
    chainBit w = false := by
  have hf0 := f0.isLt
  have hn : w.toNat = m * 2 ^ 25 + o * 2 ^ 21 + (f0.toNat * 2 ^ 0 + (0)) := by
    rw [hw, word_nat]
    simp only [sum_fields_cons, sum_fields_nil, Bool.toNat_false]
    exact (Nat.mod_eq_of_lt (by omega)).trans (by omega)
  refine ⟨?_, ?_, ?_, ?_⟩
  · unfold fldNat; omega
  · unfold fldNat; omega
  · rw [fld_eq]; apply BitVec.eq_of_toNat_eq; simp only [BitVec.toNat_ofNat]; omega
  · exact chain_eq w false (by rw [Bool.toNat_false]; omega)

theorem shape_1 (m : Nat) (hm : m < 64) (o : Nat) (ho : o < 16) (f0 : BitVec 1) (f1 : BitVec 3) (w : Word)
    (hw : w = word (m * 2 ^ 25 + o * 2 ^ 21) false [(3, f0.toNat), (0, f1.toNat)]) :
    fldNat w 25 6 = m ∧
    fldNat w 21 4 = o ∧
    fldNat w 4 17 = 0 ∧
    fld w 3 = f0 ∧
    fld w 0 = f1 ∧
    chainBit w = false := by
  have hf0 := f0.isLt
  have hf1 := f1.isLt
  have hn : w.toNat = m * 2 ^ 25 + o * 2 ^ 21 + (f0.toNat * 2 ^ 3 + (f1.toNat * 2 ^ 0 + (0))) := by
    rw [hw, word_nat]
    simp only [sum_fields_cons, sum_fields_nil, Bool.toNat_false]
    exact (Nat.mod_eq_of_lt (by omega)).trans (by omega)
  refine ⟨?_, ?_, ?_, ?_, ?_, ?_⟩
  · unfold fldNat; omega
  · unfold fldNat; omega
  · unfold fldNat; omega
  · rw [fld_eq]; apply BitVec.eq_of_toNat_eq; simp only [BitVec.toNat_ofNat]; omega
  · rw [fld_eq]; apply BitVec.eq_of_toNat_eq; simp only [BitVec.toNat_ofNat]; omega
  · exact chain_eq w false (by rw [Bool.toNat_false]; omega)

theorem shape_2 (m : Nat) (hm : m < 64) (o : Nat) (ho : o < 16) (f0 : BitVec 1) (f1 : BitVec 2) (f2 : BitVec 2) (f3 : BitVec 3) (w : Word)
    (hw : w = word (m * 2 ^ 25 + o * 2 ^ 21) false [(7, f0.toNat), (5, f1.toNat), (3, f2.toNat), (0, f3.toNat)]) :
    fldNat w 25 6 = m ∧
    fldNat w 21 4 = o ∧
    fldNat w 8 13 = 0 ∧
    fld w 7 = f0 ∧
    fld w 5 = f1 ∧
    fld w 3 = f2 ∧
    fld w 0 = f3 ∧
    chainBit w = false := by
  have hf0 := f0.isLt
  have hf1 := f1.isLt
  have hf2 := f2.isLt
  have hf3 := f3.isLt
  have hn : w.toNat = m * 2 ^ 25 + o * 2 ^ 21 + (f0.toNat * 2 ^ 7 + (f1.toNat * 2 ^ 5 + (f2.toNat * 2 ^ 3 + (f3.toNat * 2 ^ 0 + (0))))) := by
    rw [hw, word_nat]
    simp only [sum_fields_cons, sum_fields_nil, Bool.toNat_false]
    exact (Nat.mod_eq_of_lt (by omega)).trans (by omega)
  refine ⟨?_, ?_, ?_, ?_, ?_, ?_, ?_, ?_⟩
  · unfold fldNat; omega
  · unfold fldNat; omega
  · unfold fldNat; omega
  · rw [fld_eq]; apply BitVec.eq_of_toNat_eq; simp only [BitVec.toNat_ofNat]; omega
  · rw [fld_eq]; apply BitVec.eq_of_toNat_eq; simp only [BitVec.toNat_ofNat]; omega
  · rw [fld_eq]; apply BitVec.eq_of_toNat_eq; simp only [BitVec.toNat_ofNat]; omega
  · rw [fld_eq]; apply BitVec.eq_of_toNat_eq; simp only [BitVec.toNat_ofNat]; omega
  · exact chain_eq w false (by rw [Bool.toNat_false]; omega)

theorem shape_3 (m : Nat) (hm : m < 64) (o : Nat) (ho : o < 16) (f0 : BitVec 3) (w : Word)
    (hw : w = word (m * 2 ^ 25 + o * 2 ^ 21) false [(0, f0.toNat)]) :
    fldNat w 25 6 = m ∧
    fldNat w 21 4 = o ∧
    fldNat w 3 18 = 0 ∧
    fld w 0 = f0 ∧
    chainBit w = false := by
  have hf0 := f0.isLt
  have hn : w.toNat = m * 2 ^ 25 + o * 2 ^ 21 + (f0.toNat * 2 ^ 0 + (0)) := by
    rw [hw, word_nat]
    simp only [sum_fields_cons, sum_fields_nil, Bool.toNat_false]
    exact (Nat.mod_eq_of_lt (by omega)).trans (by omega)
  refine ⟨?_, ?_, ?_, ?_, ?_⟩
  · unfold fldNat; omega
  · unfold fldNat; omega
  · unfold fldNat; omega
  · rw [fld_eq]; apply BitVec.eq_of_toNat_eq; simp only [BitVec.toNat_ofNat]; omega
  · exact chain_eq w false (by rw [Bool.toNat_false]; omega)

theorem shape_4 (m : Nat) (hm : m < 64) (o : Nat) (ho : o < 16) (w : Word)
    (hw : w = word (m * 2 ^ 25 + o * 2 ^ 21) false []) :
    fldNat w 25 6 = m ∧
    fldNat w 21 4 = o ∧
    fldNat w 0 21 = 0 ∧
    chainBit w = false := by
  have hn : w.toNat = m * 2 ^ 25 + o * 2 ^ 21 + (0) := by
    rw [hw, word_nat]
    simp only [sum_fields_nil, Bool.toNat_false]
    exact (Nat.mod_eq_of_lt (by omega)).trans (by omega)
  refine ⟨?_, ?_, ?_, ?_⟩
  · unfold fldNat; omega
  · unfold fldNat; omega
  · unfold fldNat; omega
  · exact chain_eq w false (by rw [Bool.toNat_false]; omega)

theorem shape_5 (m : Nat) (hm : m < 64) (o : Nat) (ho : o < 128) (c : Bool) (w : Word)
    (hw : w = word (m * 2 ^ 25 + o * 2 ^ 18) c []) :
    fldNat w 25 6 = m ∧
    fldNat w 18 7 = o ∧
    fldNat w 0 18 = 0 ∧
    chainBit w = c := by
  have hc : c.toNat < 2 := by cases c <;> decide
  have hn : w.toNat = m * 2 ^ 25 + o * 2 ^ 18 + c.toNat * 2 ^ 31 + (0) := by
    rw [hw, word_nat]
    simp only [sum_fields_nil]
    exact (Nat.mod_eq_of_lt (by omega)).trans (by omega)
  refine ⟨?_, ?_, ?_, ?_⟩
  · unfold fldNat; omega
  · unfold fldNat; omega
  · unfold fldNat; omega
  · exact chain_eq w c (by omega)

theorem shape_6 (m : Nat) (hm : m < 64) (o : Nat) (ho : o < 128) (c : Bool) (f0 : BitVec 14) (w : Word)
    (hw : w = word (m * 2 ^ 25 + o * 2 ^ 18) c [(4, f0.toNat)]) :
    fldNat w 25 6 = m ∧
    fldNat w 18 7 = o ∧
    fldNat w 0 4 = 0 ∧
    fld w 4 = f0 ∧
    chainBit w = c := by
  have hf0 := f0.isLt
  have hc : c.toNat < 2 := by cases c <;> decide
  have hn : w.toNat = m * 2 ^ 25 + o * 2 ^ 18 + c.toNat * 2 ^ 31 + (f0.toNat * 2 ^ 4 + (0)) := by
    rw [hw, word_nat]
    simp only [sum_fields_cons, sum_fields_nil]
    exact (Nat.mod_eq_of_lt (by omega)).trans (by omega)
  refine ⟨?_, ?_, ?_, ?_, ?_⟩
  · unfold fldNat; omega
  · unfold fldNat; omega
  · unfold fldNat; omega
  · rw [fld_eq]; apply BitVec.eq_of_toNat_eq; simp only [BitVec.toNat_ofNat]; omega
  · exact chain_eq w c (by omega)

theorem shape_7 (m : Nat) (hm : m < 64) (o : Nat) (ho : o < 16) (c : Bool) (f0 : BitVec 18) (w : Word)
    (hw : w = word (m * 2 ^ 25 + o * 2 ^ 21) c [(0, f0.toNat)]) :
    fldNat w 25 6 = m ∧
    fldNat w 21 4 = o ∧
    fldNat w 18 3 = 0 ∧
    fld w 0 = f0 ∧
    chainBit w = c := by
  have hf0 := f0.isLt
  have hc : c.toNat < 2 := by cases c <;> decide
  have hn : w.toNat = m * 2 ^ 25 + o * 2 ^ 21 + c.toNat * 2 ^ 31 + (f0.toNat * 2 ^ 0 + (0)) := by
    rw [hw, word_nat]
    simp only [sum_fields_cons, sum_fields_nil]
    exact (Nat.mod_eq_of_lt (by omega)).trans (by omega)
  refine ⟨?_, ?_, ?_, ?_, ?_⟩
  · unfold fldNat; omega
  · unfold fldNat; omega
  · unfold fldNat; omega
  · rw [fld_eq]; apply BitVec.eq_of_toNat_eq; simp only [BitVec.toNat_ofNat]; omega
  · exact chain_eq w c (by omega)

theorem shape_8 (m : Nat) (hm : m < 64) (o : Nat) (ho : o < 16) (c : Bool) (f0 : BitVec 3) (f1 : BitVec 18) (w : Word)
    (hw : w = word (m * 2 ^ 25 + o * 2 ^ 21) c [(18, f0.toNat), (0, f1.toNat)]) :
    fldNat w 25 6 = m ∧
    fldNat w 21 4 = o ∧
    fld w 18 = f0 ∧
    fld w 0 = f1 ∧
    chainBit w = c := by
  have hf0 := f0.isLt
  have hf1 := f1.isLt
  have hc : c.toNat < 2 := by cases c <;> decide
  have hn : w.toNat = m * 2 ^ 25 + o * 2 ^ 21 + c.toNat * 2 ^ 31 + (f0.toNat * 2 ^ 18 + (f1.toNat * 2 ^ 0 + (0))) := by
    rw [hw, word_nat]
    simp only [sum_fields_cons, sum_fields_nil]
    exact (Nat.mod_eq_of_lt (by omega)).trans (by omega)
  refine ⟨?_, ?_, ?_, ?_, ?_⟩
  · unfold fldNat; omega
  · unfold fldNat; omega
  · rw [fld_eq]; apply BitVec.eq_of_toNat_eq; simp only [BitVec.toNat_ofNat]; omega
  · rw [fld_eq]; apply BitVec.eq_of_toNat_eq; simp only [BitVec.toNat_ofNat]; omega
  · exact chain_eq w c (by omega)

theorem shape_9 (m : Nat) (hm : m < 64) (o : Nat) (ho : o < 16) (c : Bool) (f0 : BitVec 7) (w : Word)
    (hw : w = word (m * 2 ^ 25 + o * 2 ^ 0) c [(11, f0.toNat)]) :
    fldNat w 25 6 = m ∧
    fldNat w 0 4 = o ∧
    fldNat w 4 7 = 0 ∧
    fldNat w 18 7 = 0 ∧
    fld w 11 = f0 ∧
    chainBit w = c := by
  have hf0 := f0.isLt
  have hc : c.toNat < 2 := by cases c <;> decide
  have hn : w.toNat = m * 2 ^ 25 + o * 2 ^ 0 + c.toNat * 2 ^ 31 + (f0.toNat * 2 ^ 11 + (0)) := by
    rw [hw, word_nat]
    simp only [sum_fields_cons, sum_fields_nil]
    exact (Nat.mod_eq_of_lt (by omega)).trans (by omega)
  refine ⟨?_, ?_, ?_, ?_, ?_, ?_⟩
  · unfold fldNat; omega
  · unfold fldNat; omega
  · unfold fldNat; omega
  · unfold fldNat; omega
  · rw [fld_eq]; apply BitVec.eq_of_toNat_eq; simp only [BitVec.toNat_ofNat]; omega
  · exact chain_eq w c (by omega)

theorem shape_10 (m : Nat) (hm : m < 64) (o : Nat) (ho : o < 16) (c : Bool) (f0 : BitVec 7) (f1 : BitVec 7) (w : Word)
    (hw : w = word (m * 2 ^ 25 + o * 2 ^ 0) c [(18, f0.toNat), (11, f1.toNat)]) :
    fldNat w 25 6 = m ∧
    fldNat w 0 4 = o ∧
    fldNat w 4 7 = 0 ∧
    fld w 18 = f0 ∧
    fld w 11 = f1 ∧
    chainBit w = c := by
  have hf0 := f0.isLt
  have hf1 := f1.isLt
  have hc : c.toNat < 2 := by cases c <;> decide
  have hn : w.toNat = m * 2 ^ 25 + o * 2 ^ 0 + c.toNat * 2 ^ 31 + (f0.toNat * 2 ^ 18 + (f1.toNat * 2 ^ 11 + (0))) := by
    rw [hw, word_nat]
    simp only [sum_fields_cons, sum_fields_nil]
    exact (Nat.mod_eq_of_lt (by omega)).trans (by omega)
  refine ⟨?_, ?_, ?_, ?_, ?_, ?_⟩
  · unfold fldNat; omega
  · unfold fldNat; omega
  · unfold fldNat; omega
  · rw [fld_eq]; apply BitVec.eq_of_toNat_eq; simp only [BitVec.toNat_ofNat]; omega
  · rw [fld_eq]; apply BitVec.eq_of_toNat_eq; simp only [BitVec.toNat_ofNat]; omega
  · exact chain_eq w c (by omega)

theorem shape_11 (m : Nat) (hm : m < 64) (o : Nat) (ho : o < 128) (c : Bool) (f0 : BitVec 4) (w : Word)
    (hw : w = word (m * 2 ^ 25 + o * 2 ^ 18) c [(11, f0.toNat)]) :
    fldNat w 25 6 = m ∧
    fldNat w 18 7 = o ∧
    fldNat w 0 11 = 0 ∧
    fldNat w 15 3 = 0 ∧
    fld w 11 = f0 ∧
    chainBit w = c := by
  have hf0 := f0.isLt
  have hc : c.toNat < 2 := by cases c <;> decide
  have hn : w.toNat = m * 2 ^ 25 + o * 2 ^ 18 + c.toNat * 2 ^ 31 + (f0.toNat * 2 ^ 11 + (0)) := by
    rw [hw, word_nat]
    simp only [sum_fields_cons, sum_fields_nil]
    exact (Nat.mod_eq_of_lt (by omega)).trans (by omega)
  refine ⟨?_, ?_, ?_, ?_, ?_, ?_⟩
  · unfold fldNat; omega
  · unfold fldNat; omega
  · unfold fldNat; omega
  · unfold fldNat; omega
  · rw [fld_eq]; apply BitVec.eq_of_toNat_eq; simp only [BitVec.toNat_ofNat]; omega
  · exact chain_eq w c (by omega)

theorem shape_12 (m : Nat) (hm : m < 64) (o : Nat) (ho : o < 128) (c : Bool) (f0 : BitVec 5) (f1 : BitVec 4) (w : Word)
    (hw : w = word (m * 2 ^ 25 + o * 2 ^ 18) c [(11, f0.toNat), (4, f1.toNat)]) :
    fldNat w 25 6 = m ∧
    fldNat w 18 7 = o ∧
    fldNat w 0 4 = 0 ∧
    fldNat w 8 3 = 0 ∧
    fldNat w 16 2 = 0 ∧
    fld w 11 = f0 ∧
    fld w 4 = f1 ∧
    chainBit w = c := by
  have hf0 := f0.isLt
  have hf1 := f1.isLt
  have hc : c.toNat < 2 := by cases c <;> decide
  have hn : w.toNat = m * 2 ^ 25 + o * 2 ^ 18 + c.toNat * 2 ^ 31 + (f0.toNat * 2 ^ 11 + (f1.toNat * 2 ^ 4 + (0))) := by
    rw [hw, word_nat]
    simp only [sum_fields_cons, sum_fields_nil]
    exact (Nat.mod_eq_of_lt (by omega)).trans (by omega)
  refine ⟨?_, ?_, ?_, ?_, ?_, ?_, ?_, ?_⟩
  · unfold fldNat; omega
  · unfold fldNat; omega
  · unfold fldNat; omega
  · unfold fldNat; omega
  · unfold fldNat; omega
  · rw [fld_eq]; apply BitVec.eq_of_toNat_eq; simp only [BitVec.toNat_ofNat]; omega
  · rw [fld_eq]; apply BitVec.eq_of_toNat_eq; simp only [BitVec.toNat_ofNat]; omega
  · exact chain_eq w c (by omega)

theorem shape_13 (m : Nat) (hm : m < 64) (o : Nat) (ho : o < 128) (c : Bool) (f0 : BitVec 5) (w : Word)
    (hw : w = word (m * 2 ^ 25 + o * 2 ^ 18) c [(11, f0.toNat)]) :
    fldNat w 25 6 = m ∧
    fldNat w 18 7 = o ∧
    fldNat w 0 11 = 0 ∧
    fldNat w 16 2 = 0 ∧
    fld w 11 = f0 ∧
    chainBit w = c := by
  have hf0 := f0.isLt
  have hc : c.toNat < 2 := by cases c <;> decide
  have hn : w.toNat = m * 2 ^ 25 + o * 2 ^ 18 + c.toNat * 2 ^ 31 + (f0.toNat * 2 ^ 11 + (0)) := by
    rw [hw, word_nat]
    simp only [sum_fields_cons, sum_fields_nil]
    exact (Nat.mod_eq_of_lt (by omega)).trans (by omega)
  refine ⟨?_, ?_, ?_, ?_, ?_, ?_⟩
  · unfold fldNat; omega
  · unfold fldNat; omega
  · unfold fldNat; omega
  · unfold fldNat; omega
  · rw [fld_eq]; apply BitVec.eq_of_toNat_eq; simp only [BitVec.toNat_ofNat]; omega
  · exact chain_eq w c (by omega)

theorem shape_14 (m : Nat) (hm : m < 64) (o : Nat) (ho : o < 128) (c : Bool) (f0 : BitVec 3) (w : Word)
    (hw : w = word (m * 2 ^ 25 + o * 2 ^ 18) c [(11, f0.toNat)]) :
    fldNat w 25 6 = m ∧
    fldNat w 18 7 = o ∧
    fldNat w 0 11 = 0 ∧
    fldNat w 14 4 = 0 ∧
    fld w 11 = f0 ∧
    chainBit w = c := by
  have hf0 := f0.isLt
  have hc : c.toNat < 2 := by cases c <;> decide
  have hn : w.toNat = m * 2 ^ 25 + o * 2 ^ 18 + c.toNat * 2 ^ 31 + (f0.toNat * 2 ^ 11 + (0)) := by
    rw [hw, word_nat]
    simp only [sum_fields_cons, sum_fields_nil]
    exact (Nat.mod_eq_of_lt (by omega)).trans (by omega)
  refine ⟨?_, ?_, ?_, ?_, ?_, ?_⟩
  · unfold fldNat; omega
  · unfold fldNat; omega
  · unfold fldNat; omega
  · unfold fldNat; omega
  · rw [fld_eq]; apply BitVec.eq_of_toNat_eq; simp only [BitVec.toNat_ofNat]; omega
  · exact chain_eq w c (by omega)

theorem shape_15 (m : Nat) (hm : m < 64) (o : Nat) (ho : o < 16) (c : Bool) (f0 : BitVec 7) (f1 : BitVec 7) (f2 : BitVec 7) (w : Word)
    (hw : w = word (m * 2 ^ 25 + o * 2 ^ 0) c [(18, f0.toNat), (11, f1.toNat), (4, f2.toNat)]) :
    fldNat w 25 6 = m ∧
    fldNat w 0 4 = o ∧
    fld w 18 = f0 ∧
    fld w 11 = f1 ∧
    fld w 4 = f2 ∧
    chainBit w = c := by
  have hf0 := f0.isLt
  have hf1 := f1.isLt
  have hf2 := f2.isLt
  have hc : c.toNat < 2 := by cases c <;> decide
  have hn : w.toNat = m * 2 ^ 25 + o * 2 ^ 0 + c.toNat * 2 ^ 31 + (f0.toNat * 2 ^ 18 + (f1.toNat * 2 ^ 11 + (f2.toNat * 2 ^ 4 + (0)))) := by
    rw [hw, word_nat]
    simp only [sum_fields_cons, sum_fields_nil]
    exact (Nat.mod_eq_of_lt (by omega)).trans (by omega)
  refine ⟨?_, ?_, ?_, ?_, ?_, ?_⟩
  · unfold fldNat; omega
  · unfold fldNat; omega
  · rw [fld_eq]; apply BitVec.eq_of_toNat_eq; simp only [BitVec.toNat_ofNat]; omega
  · rw [fld_eq]; apply BitVec.eq_of_toNat_eq; simp only [BitVec.toNat_ofNat]; omega
  · rw [fld_eq]; apply BitVec.eq_of_toNat_eq; simp only [BitVec.toNat_ofNat]; omega
  · exact chain_eq w c (by omega)

theorem shape_16 (m : Nat) (hm : m < 64) (o : Nat) (ho : o < 16) (c : Bool) (f0 : BitVec 7) (f1 : BitVec 7) (f2 : BitVec 5) (w : Word)
    (hw : w = word (m * 2 ^ 25 + o * 2 ^ 0) c [(18, f0.toNat), (11, f1.toNat), (4, f2.toNat)]) :
    fldNat w 25 6 = m ∧
    fldNat w 0 4 = o ∧
    fldNat w 9 2 = 0 ∧
    fld w 18 = f0 ∧
    fld w 11 = f1 ∧
    fld w 4 = f2 ∧
    chainBit w = c := by
  have hf0 := f0.isLt
  have hf1 := f1.isLt
  have hf2 := f2.isLt
  have hc : c.toNat < 2 := by cases c <;> decide
  have hn : w.toNat = m * 2 ^ 25 + o * 2 ^ 0 + c.toNat * 2 ^ 31 + (f0.toNat * 2 ^ 18 + (f1.toNat * 2 ^ 11 + (f2.toNat * 2 ^ 4 + (0)))) := by
    rw [hw, word_nat]
    simp only [sum_fields_cons, sum_fields_nil]
    exact (Nat.mod_eq_of_lt (by omega)).trans (by omega)
  refine ⟨?_, ?_, ?_, ?_, ?_, ?_, ?_⟩
  · unfold fldNat; omega
  · unfold fldNat; omega
  · unfold fldNat; omega
  · rw [fld_eq]; apply BitVec.eq_of_toNat_eq; simp only [BitVec.toNat_ofNat]; omega
  · rw [fld_eq]; apply BitVec.eq_of_toNat_eq; simp only [BitVec.toNat_ofNat]; omega
  · rw [fld_eq]; apply BitVec.eq_of_toNat_eq; simp only [BitVec.toNat_ofNat]; omega
  · exact chain_eq w c (by omega)

theorem shape_17 (m : Nat) (hm : m < 64) (o : Nat) (ho : o < 16) (c : Bool) (f0 : BitVec 7) (f1 : BitVec 7) (f2 : BitVec 7) (w : Word)
    (hw : w = word (m * 2 ^ 25 + o * 2 ^ 7) c [(18, f0.toNat), (11, f1.toNat), (0, f2.toNat)]) :
    fldNat w 25 6 = m ∧
    fldNat w 7 4 = o ∧
    fld w 18 = f0 ∧
    fld w 11 = f1 ∧
    fld w 0 = f2 ∧
    chainBit w = c := by
  have hf0 := f0.isLt
  have hf1 := f1.isLt
  have hf2 := f2.isLt
  have hc : c.toNat < 2 := by cases c <;> decide
  have hn : w.toNat = m * 2 ^ 25 + o * 2 ^ 7 + c.toNat * 2 ^ 31 + (f0.toNat * 2 ^ 18 + (f1.toNat * 2 ^ 11 + (f2.toNat * 2 ^ 0 + (0)))) := by
    rw [hw, word_nat]
    simp only [sum_fields_cons, sum_fields_nil]
    exact (Nat.mod_eq_of_lt (by omega)).trans (by omega)
  refine ⟨?_, ?_, ?_, ?_, ?_, ?_⟩
  · unfold fldNat; omega
  · unfold fldNat; omega
  · rw [fld_eq]; apply BitVec.eq_of_toNat_eq; simp only [BitVec.toNat_ofNat]; omega
  · rw [fld_eq]; apply BitVec.eq_of_toNat_eq; simp only [BitVec.toNat_ofNat]; omega
  · rw [fld_eq]; apply BitVec.eq_of_toNat_eq; simp only [BitVec.toNat_ofNat]; omega
  · exact chain_eq w c (by omega)

theorem shape_18 (m : Nat) (hm : m < 64) (o : Nat) (ho : o < 16) (c : Bool) (f0 : BitVec 4) (f1 : BitVec 3) (f2 : BitVec 7) (f3 : BitVec 7) (w : Word)
    (hw : w = word (m * 2 ^ 25 + o * 2 ^ 0) c [(21, f0.toNat), (18, f1.toNat), (11, f2.toNat), (4, f3.toNat)]) :
    fldNat w 25 6 = m ∧
    fldNat w 0 4 = o ∧
    fld w 21 = f0 ∧
    fld w 18 = f1 ∧
    fld w 11 = f2 ∧
    fld w 4 = f3 ∧
    chainBit w = c := by
  have hf0 := f0.isLt
  have hf1 := f1.isLt
  have hf2 := f2.isLt
  have hf3 := f3.isLt
  have hc : c.toNat < 2 := by cases c <;> decide
  have hn : w.toNat = m * 2 ^ 25 + o * 2 ^ 0 + c.toNat * 2 ^ 31 + (f0.toNat * 2 ^ 21 + (f1.toNat * 2 ^ 18 + (f2.toNat * 2 ^ 11 + (f3.toNat * 2 ^ 4 + (0))))) := by
    rw [hw, word_nat]
    simp only [sum_fields_cons, sum_fields_nil]
    exact (Nat.mod_eq_of_lt (by omega)).trans (by omega)
  refine ⟨?_, ?_, ?_, ?_, ?_, ?_, ?_⟩
  · unfold fldNat; omega
  · unfold fldNat; omega
  · rw [fld_eq]; apply BitVec.eq_of_toNat_eq; simp only [BitVec.toNat_ofNat]; omega
  · rw [fld_eq]; apply BitVec.eq_of_toNat_eq; simp only [BitVec.toNat_ofNat]; omega
  · rw [fld_eq]; apply BitVec.eq_of_toNat_eq; simp only [BitVec.toNat_ofNat]; omega
  · rw [fld_eq]; apply BitVec.eq_of_toNat_eq; simp only [BitVec.toNat_ofNat]; omega
  · exact chain_eq w c (by omega)

theorem shape_19 (m : Nat) (hm : m < 64) (o : Nat) (ho : o < 16) (c : Bool) (f0 : BitVec 4) (f1 : BitVec 3) (f2 : BitVec 7) (f3 : BitVec 5) (w : Word)
    (hw : w = word (m * 2 ^ 25 + o * 2 ^ 0) c [(21, f0.toNat), (18, f1.toNat), (11, f2.toNat), (4, f3.toNat)]) :
    fldNat w 25 6 = m ∧
    fldNat w 0 4 = o ∧
    fldNat w 9 2 = 0 ∧
    fld w 21 = f0 ∧
    fld w 18 = f1 ∧
    fld w 11 = f2 ∧
    fld w 4 = f3 ∧
    chainBit w = c := by
  have hf0 := f0.isLt
  have hf1 := f1.isLt
  have hf2 := f2.isLt
  have hf3 := f3.isLt
  have hc : c.toNat < 2 := by cases c <;> decide
  have hn : w.toNat = m * 2 ^ 25 + o * 2 ^ 0 + c.toNat * 2 ^ 31 + (f0.toNat * 2 ^ 21 + (f1.toNat * 2 ^ 18 + (f2.toNat * 2 ^ 11 + (f3.toNat * 2 ^ 4 + (0))))) := by
    rw [hw, word_nat]
    simp only [sum_fields_cons, sum_fields_nil]
    exact (Nat.mod_eq_of_lt (by omega)).trans (by omega)
  refine ⟨?_, ?_, ?_, ?_, ?_, ?_, ?_, ?_⟩
  · unfold fldNat; omega
  · unfold fldNat; omega
  · unfold fldNat; omega
  · rw [fld_eq]; apply BitVec.eq_of_toNat_eq; simp only [BitVec.toNat_ofNat]; omega
  · rw [fld_eq]; apply BitVec.eq_of_toNat_eq; simp only [BitVec.toNat_ofNat]; omega
  · rw [fld_eq]; apply BitVec.eq_of_toNat_eq; simp only [BitVec.toNat_ofNat]; omega
  · rw [fld_eq]; apply BitVec.eq_of_toNat_eq; simp only [BitVec.toNat_ofNat]; omega
  · exact chain_eq w c (by omega)

theorem shape_20 (m : Nat) (hm : m < 64) (c : Bool) (f0 : BitVec 7) (f1 : BitVec 7) (f2 : BitVec 7) (f3 : BitVec 1) (f4 : BitVec 3) (w : Word)
    (hw : w = word (m * 2 ^ 25) c [(18, f0.toNat), (11, f1.toNat), (4, f2.toNat), (3, f3.toNat), (0, f4.toNat)]) :
    fldNat w 25 6 = m ∧
    fld w 18 = f0 ∧
    fld w 11 = f1 ∧
    fld w 4 = f2 ∧
    fld w 3 = f3 ∧
    fld w 0 = f4 ∧
    chainBit w = c := by
  have hf0 := f0.isLt
  have hf1 := f1.isLt
  have hf2 := f2.isLt
  have hf3 := f3.isLt
  have hf4 := f4.isLt
  have hc : c.toNat < 2 := by cases c <;> decide
  have hn : w.toNat = m * 2 ^ 25 + c.toNat * 2 ^ 31 + (f0.toNat * 2 ^ 18 + (f1.toNat * 2 ^ 11 + (f2.toNat * 2 ^ 4 + (f3.toNat * 2 ^ 3 + (f4.toNat * 2 ^ 0 + (0)))))) := by
    rw [hw, word_nat]
    simp only [sum_fields_cons, sum_fields_nil]
    exact (Nat.mod_eq_of_lt (by omega)).trans (by omega)
  refine ⟨?_, ?_, ?_, ?_, ?_, ?_, ?_⟩
  · unfold fldNat; omega
  · rw [fld_eq]; apply BitVec.eq_of_toNat_eq; simp only [BitVec.toNat_ofNat]; omega
  · rw [fld_eq]; apply BitVec.eq_of_toNat_eq; simp only [BitVec.toNat_ofNat]; omega
  · rw [fld_eq]; apply BitVec.eq_of_toNat_eq; simp only [BitVec.toNat_ofNat]; omega
  · rw [fld_eq]; apply BitVec.eq_of_toNat_eq; simp only [BitVec.toNat_ofNat]; omega
  · rw [fld_eq]; apply BitVec.eq_of_toNat_eq; simp only [BitVec.toNat_ofNat]; omega
  · exact chain_eq w c (by omega)

theorem shape_21 (m : Nat) (hm : m < 64) (o : Nat) (ho : o < 16) (c : Bool) (f0 : BitVec 3) (f1 : BitVec 3) (f2 : BitVec 3) (w : Word)
    (hw : w = word (m * 2 ^ 25 + o * 2 ^ 0) c [(18, f0.toNat), (11, f1.toNat), (4, f2.toNat)]) :
    fldNat w 25 6 = m ∧
    fldNat w 0 4 = o ∧
    fldNat w 7 4 = 0 ∧
    fldNat w 14 4 = 0 ∧
    fldNat w 21 4 = 0 ∧
    fld w 18 = f0 ∧
    fld w 11 = f1 ∧
    fld w 4 = f2 ∧
    chainBit w = c := by
  have hf0 := f0.isLt
  have hf1 := f1.isLt
  have hf2 := f2.isLt
  have hc : c.toNat < 2 := by cases c <;> decide
  have hn : w.toNat = m * 2 ^ 25 + o * 2 ^ 0 + c.toNat * 2 ^ 31 + (f0.toNat * 2 ^ 18 + (f1.toNat * 2 ^ 11 + (f2.toNat * 2 ^ 4 + (0)))) := by
    rw [hw, word_nat]
    simp only [sum_fields_cons, sum_fields_nil]
    exact (Nat.mod_eq_of_lt (by omega)).trans (by omega)
  refine ⟨?_, ?_, ?_, ?_, ?_, ?_, ?_, ?_, ?_⟩
  · unfold fldNat; omega
  · unfold fldNat; omega
  · unfold fldNat; omega
  · unfold fldNat; omega
  · unfold fldNat; omega
  · rw [fld_eq]; apply BitVec.eq_of_toNat_eq; simp only [BitVec.toNat_ofNat]; omega
  · rw [fld_eq]; apply BitVec.eq_of_toNat_eq; simp only [BitVec.toNat_ofNat]; omega
  · rw [fld_eq]; apply BitVec.eq_of_toNat_eq; simp only [BitVec.toNat_ofNat]; omega
  · exact chain_eq w c (by omega)

theorem shape_22 (m : Nat) (hm : m < 64) (o : Nat) (ho : o < 16) (c : Bool) (f0 : BitVec 3) (f1 : BitVec 3) (w : Word)
    (hw : w = word (m * 2 ^ 25 + o * 2 ^ 0) c [(18, f0.toNat), (11, f1.toNat)]) :
    fldNat w 25 6 = m ∧
    fldNat w 0 4 = o ∧
    fldNat w 4 7 = 0 ∧
    fldNat w 14 4 = 0 ∧
    fldNat w 21 4 = 0 ∧
    fld w 18 = f0 ∧
    fld w 11 = f1 ∧
    chainBit w = c := by
  have hf0 := f0.isLt
  have hf1 := f1.isLt
  have hc : c.toNat < 2 := by cases c <;> decide
  have hn : w.toNat = m * 2 ^ 25 + o * 2 ^ 0 + c.toNat * 2 ^ 31 + (f0.toNat * 2 ^ 18 + (f1.toNat * 2 ^ 11 + (0))) := by
    rw [hw, word_nat]
    simp only [sum_fields_cons, sum_fields_nil]
    exact (Nat.mod_eq_of_lt (by omega)).trans (by omega)
  refine ⟨?_, ?_, ?_, ?_, ?_, ?_, ?_, ?_⟩
  · unfold fldNat; omega
  · unfold fldNat; omega
  · unfold fldNat; omega
  · unfold fldNat; omega
  · unfold fldNat; omega
  · rw [fld_eq]; apply BitVec.eq_of_toNat_eq; simp only [BitVec.toNat_ofNat]; omega
  · rw [fld_eq]; apply BitVec.eq_of_toNat_eq; simp only [BitVec.toNat_ofNat]; omega
  · exact chain_eq w c (by omega)

theorem shape_23 (m : Nat) (hm : m < 64) (o : Nat) (ho : o < 16) (c : Bool) (f0 : BitVec 7) (f1 : BitVec 7) (f2 : BitVec 1) (w : Word)
    (hw : w = word (m * 2 ^ 25 + o * 2 ^ 0) c [(18, f0.toNat), (11, f1.toNat), (4, f2.toNat)]) :
    fldNat w 25 6 = m ∧
    fldNat w 0 4 = o ∧
    fldNat w 5 6 = 0 ∧
    fld w 18 = f0 ∧
    fld w 11 = f1 ∧
    fld w 4 = f2 ∧
    chainBit w = c := by
  have hf0 := f0.isLt
  have hf1 := f1.isLt
  have hf2 := f2.isLt
  have hc : c.toNat < 2 := by cases c <;> decide
  have hn : w.toNat = m * 2 ^ 25 + o * 2 ^ 0 + c.toNat * 2 ^ 31 + (f0.toNat * 2 ^ 18 + (f1.toNat * 2 ^ 11 + (f2.toNat * 2 ^ 4 + (0)))) := by
    rw [hw, word_nat]
    simp only [sum_fields_cons, sum_fields_nil]
    exact (Nat.mod_eq_of_lt (by omega)).trans (by omega)
  refine ⟨?_, ?_, ?_, ?_, ?_, ?_, ?_⟩
  · unfold fldNat; omega
  · unfold fldNat; omega
  · unfold fldNat; omega
  · rw [fld_eq]; apply BitVec.eq_of_toNat_eq; simp only [BitVec.toNat_ofNat]; omega
  · rw [fld_eq]; apply BitVec.eq_of_toNat_eq; simp only [BitVec.toNat_ofNat]; omega
  · rw [fld_eq]; apply BitVec.eq_of_toNat_eq; simp only [BitVec.toNat_ofNat]; omega
  · exact chain_eq w c (by omega)

theorem shape_24 (m : Nat) (hm : m < 64) (c : Bool) (f0 : BitVec 7) (f1 : BitVec 7) (f2 : BitVec 4) (f3 : BitVec 3) (f4 : BitVec 4) (w : Word)
    (hw : w = word (m * 2 ^ 25) c [(18, f0.toNat), (11, f1.toNat), (7, f2.toNat), (4, f3.toNat), (0, f4.toNat)]) :
    fldNat w 25 6 = m ∧
    fld w 18 = f0 ∧
    fld w 11 = f1 ∧
    fld w 7 = f2 ∧
    fld w 4 = f3 ∧
    fld w 0 = f4 ∧
    chainBit w = c := by
  have hf0 := f0.isLt
  have hf1 := f1.isLt
  have hf2 := f2.isLt
  have hf3 := f3.isLt
  have hf4 := f4.isLt
  have hc : c.toNat < 2 := by cases c <;> decide
  have hn : w.toNat = m * 2 ^ 25 + c.toNat * 2 ^ 31 + (f0.toNat * 2 ^ 18 + (f1.toNat * 2 ^ 11 + (f2.toNat * 2 ^ 7 + (f3.toNat * 2 ^ 4 + (f4.toNat * 2 ^ 0 + (0)))))) := by
    rw [hw, word_nat]
    simp only [sum_fields_cons, sum_fields_nil]
    exact (Nat.mod_eq_of_lt (by omega)).trans (by omega)
  refine ⟨?_, ?_, ?_, ?_, ?_, ?_, ?_⟩
  · unfold fldNat; omega
  · rw [fld_eq]; apply BitVec.eq_of_toNat_eq; simp only [BitVec.toNat_ofNat]; omega
  · rw [fld_eq]; apply BitVec.eq_of_toNat_eq; simp only [BitVec.toNat_ofNat]; omega
  · rw [fld_eq]; apply BitVec.eq_of_toNat_eq; simp only [BitVec.toNat_ofNat]; omega
  · rw [fld_eq]; apply BitVec.eq_of_toNat_eq; simp only [BitVec.toNat_ofNat]; omega
  · rw [fld_eq]; apply BitVec.eq_of_toNat_eq; simp only [BitVec.toNat_ofNat]; omega
  · exact chain_eq w c (by omega)

theorem shape_25 (m : Nat) (hm : m < 64) (c : Bool) (f0 : BitVec 7) (f1 : BitVec 18) (w : Word)
    (hw : w = word (m * 2 ^ 25) c [(18, f0.toNat), (0, f1.toNat)]) :
    fldNat w 25 6 = m ∧
    fld w 18 = f0 ∧
    fld w 0 = f1 ∧
    chainBit w = c := by
  have hf0 := f0.isLt
  have hf1 := f1.isLt
  have hc : c.toNat < 2 := by cases c <;> decide
  have hn : w.toNat = m * 2 ^ 25 + c.toNat * 2 ^ 31 + (f0.toNat * 2 ^ 18 + (f1.toNat * 2 ^ 0 + (0))) := by
    rw [hw, word_nat]
    simp only [sum_fields_cons, sum_fields_nil]
    exact (Nat.mod_eq_of_lt (by omega)).trans (by omega)
  refine ⟨?_, ?_, ?_, ?_⟩
  · unfold fldNat; omega
  · rw [fld_eq]; apply BitVec.eq_of_toNat_eq; simp only [BitVec.toNat_ofNat]; omega
  · rw [fld_eq]; apply BitVec.eq_of_toNat_eq; simp only [BitVec.toNat_ofNat]; omega
  · exact chain_eq w c (by omega)

theorem shape_26 (m : Nat) (hm : m < 64) (o : Nat) (ho : o < 16) (c : Bool) (f0 : BitVec 7) (f1 : BitVec 7) (w : Word)
    (hw : w = word (m * 2 ^ 25 + o * 2 ^ 0) c [(18, f0.toNat), (4, f1.toNat)]) :
    fldNat w 25 6 = m ∧
    fldNat w 0 4 = o ∧
    fldNat w 11 7 = 0 ∧
    fld w 18 = f0 ∧
    fld w 4 = f1 ∧
    chainBit w = c := by
  have hf0 := f0.isLt
  have hf1 := f1.isLt
  have hc : c.toNat < 2 := by cases c <;> decide
  have hn : w.toNat = m * 2 ^ 25 + o * 2 ^ 0 + c.toNat * 2 ^ 31 + (f0.toNat * 2 ^ 18 + (f1.toNat * 2 ^ 4 + (0))) := by
    rw [hw, word_nat]
    simp only [sum_fields_cons, sum_fields_nil]
    exact (Nat.mod_eq_of_lt (by omega)).trans (by omega)
  refine ⟨?_, ?_, ?_, ?_, ?_, ?_⟩
  · unfold fldNat; omega
  · unfold fldNat; omega
  · unfold fldNat; omega
  · rw [fld_eq]; apply BitVec.eq_of_toNat_eq; simp only [BitVec.toNat_ofNat]; omega
  · rw [fld_eq]; apply BitVec.eq_of_toNat_eq; simp only [BitVec.toNat_ofNat]; omega
  · exact chain_eq w c (by omega)

theorem shape_27 (m : Nat) (hm : m < 64) (o : Nat) (ho : o < 16) (c : Bool) (f0 : BitVec 7) (f1 : BitVec 1) (f2 : BitVec 5) (w : Word)
    (hw : w = word (m * 2 ^ 25 + o * 2 ^ 0) c [(18, f0.toNat), (11, f1.toNat), (4, f2.toNat)]) :
    fldNat w 25 6 = m ∧
    fldNat w 0 4 = o ∧
    fldNat w 9 2 = 0 ∧
    fldNat w 12 6 = 0 ∧
    fld w 18 = f0 ∧
    fld w 11 = f1 ∧
    fld w 4 = f2 ∧
    chainBit w = c := by
  have hf0 := f0.isLt
  have hf1 := f1.isLt
  have hf2 := f2.isLt
  have hc : c.toNat < 2 := by cases c <;> decide
  have hn : w.toNat = m * 2 ^ 25 + o * 2 ^ 0 + c.toNat * 2 ^ 31 + (f0.toNat * 2 ^ 18 + (f1.toNat * 2 ^ 11 + (f2.toNat * 2 ^ 4 + (0)))) := by
    rw [hw, word_nat]
    simp only [sum_fields_cons, sum_fields_nil]
    exact (Nat.mod_eq_of_lt (by omega)).trans (by omega)
  refine ⟨?_, ?_, ?_, ?_, ?_, ?_, ?_, ?_⟩
  · unfold fldNat; omega
  · unfold fldNat; omega
  · unfold fldNat; omega
  · unfold fldNat; omega
  · rw [fld_eq]; apply BitVec.eq_of_toNat_eq; simp only [BitVec.toNat_ofNat]; omega
  · rw [fld_eq]; apply BitVec.eq_of_toNat_eq; simp only [BitVec.toNat_ofNat]; omega
  · rw [fld_eq]; apply BitVec.eq_of_toNat_eq; simp only [BitVec.toNat_ofNat]; omega
  · exact chain_eq w c (by omega)

theorem shape_28 (m : Nat) (hm : m < 64) (o : Nat) (ho : o < 16) (c : Bool) (f0 : BitVec 5) (f1 : BitVec 7) (f2 : BitVec 1) (w : Word)
    (hw : w = word (m * 2 ^ 25 + o * 2 ^ 0) c [(18, f0.toNat), (11, f1.toNat), (4, f2.toNat)]) :
    fldNat w 25 6 = m ∧
    fldNat w 0 4 = o ∧
    fldNat w 5 6 = 0 ∧
    fldNat w 23 2 = 0 ∧
    fld w 18 = f0 ∧
    fld w 11 = f1 ∧
    fld w 4 = f2 ∧
    chainBit w = c := by
  have hf0 := f0.isLt
  have hf1 := f1.isLt
  have hf2 := f2.isLt
  have hc : c.toNat < 2 := by cases c <;> decide
  have hn : w.toNat = m * 2 ^ 25 + o * 2 ^ 0 + c.toNat * 2 ^ 31 + (f0.toNat * 2 ^ 18 + (f1.toNat * 2 ^ 11 + (f2.toNat * 2 ^ 4 + (0)))) := by
    rw [hw, word_nat]
    simp only [sum_fields_cons, sum_fields_nil]
    exact (Nat.mod_eq_of_lt (by omega)).trans (by omega)
  refine ⟨?_, ?_, ?_, ?_, ?_, ?_, ?_, ?_⟩
  · unfold fldNat; omega
  · unfold fldNat; omega
  · unfold fldNat; omega
  · unfold fldNat; omega
  · rw [fld_eq]; apply BitVec.eq_of_toNat_eq; simp only [BitVec.toNat_ofNat]; omega
  · rw [fld_eq]; apply BitVec.eq_of_toNat_eq; simp only [BitVec.toNat_ofNat]; omega
  · rw [fld_eq]; apply BitVec.eq_of_toNat_eq; simp only [BitVec.toNat_ofNat]; omega
  · exact chain_eq w c (by omega)

theorem shape_29 (m : Nat) (hm : m < 64) (o : Nat) (ho : o < 16) (c : Bool) (f0 : BitVec 5) (f1 : BitVec 7) (f2 : BitVec 1) (f3 : BitVec 5) (w : Word)
    (hw : w = word (m * 2 ^ 25 + o * 2 ^ 0) c [(18, f0.toNat), (11, f1.toNat), (9, f2.toNat), (4, f3.toNat)]) :
    fldNat w 25 6 = m ∧
    fldNat w 0 4 = o ∧
    fldNat w 10 1 = 0 ∧
    fldNat w 23 2 = 0 ∧
    fld w 18 = f0 ∧
    fld w 11 = f1 ∧
    fld w 9 = f2 ∧
    fld w 4 = f3 ∧
    chainBit w = c := by
  have hf0 := f0.isLt
  have hf1 := f1.isLt
  have hf2 := f2.isLt
  have hf3 := f3.isLt
  have hc : c.toNat < 2 := by cases c <;> decide
  have hn : w.toNat = m * 2 ^ 25 + o * 2 ^ 0 + c.toNat * 2 ^ 31 + (f0.toNat * 2 ^ 18 + (f1.toNat * 2 ^ 11 + (f2.toNat * 2 ^ 9 + (f3.toNat * 2 ^ 4 + (0))))) := by
    rw [hw, word_nat]
    simp only [sum_fields_cons, sum_fields_nil]
    exact (Nat.mod_eq_of_lt (by omega)).trans (by omega)
  refine ⟨?_, ?_, ?_, ?_, ?_, ?_, ?_, ?_, ?_⟩
  · unfold fldNat; omega
  · unfold fldNat; omega
  · unfold fldNat; omega
  · unfold fldNat; omega
  · rw [fld_eq]; apply BitVec.eq_of_toNat_eq; simp only [BitVec.toNat_ofNat]; omega
  · rw [fld_eq]; apply BitVec.eq_of_toNat_eq; simp only [BitVec.toNat_ofNat]; omega
  · rw [fld_eq]; apply BitVec.eq_of_toNat_eq; simp only [BitVec.toNat_ofNat]; omega
  · rw [fld_eq]; apply BitVec.eq_of_toNat_eq; simp only [BitVec.toNat_ofNat]; omega
  · exact chain_eq w c (by omega)

theorem shape_30 (m : Nat) (hm : m < 64) (o : Nat) (ho : o < 16) (c : Bool) (f0 : BitVec 7) (f1 : BitVec 5) (f2 : BitVec 1) (f3 : BitVec 5) (w : Word)
    (hw : w = word (m * 2 ^ 25 + o * 2 ^ 0) c [(18, f0.toNat), (11, f1.toNat), (9, f2.toNat), (4, f3.toNat)]) :
    fldNat w 25 6 = m ∧
    fldNat w 0 4 = o ∧
    fldNat w 10 1 = 0 ∧
    fldNat w 16 2 = 0 ∧
    fld w 18 = f0 ∧
    fld w 11 = f1 ∧
    fld w 9 = f2 ∧
    fld w 4 = f3 ∧
    chainBit w = c := by
  have hf0 := f0.isLt
  have hf1 := f1.isLt
  have hf2 := f2.isLt
  have hf3 := f3.isLt
  have hc : c.toNat < 2 := by cases c <;> decide
  have hn : w.toNat = m * 2 ^ 25 + o * 2 ^ 0 + c.toNat * 2 ^ 31 + (f0.toNat * 2 ^ 18 + (f1.toNat * 2 ^ 11 + (f2.toNat * 2 ^ 9 + (f3.toNat * 2 ^ 4 + (0))))) := by
    rw [hw, word_nat]
    simp only [sum_fields_cons, sum_fields_nil]
    exact (Nat.mod_eq_of_lt (by omega)).trans (by omega)
  refine ⟨?_, ?_, ?_, ?_, ?_, ?_, ?_, ?_, ?_⟩
  · unfold fldNat; omega
  · unfold fldNat; omega
  · unfold fldNat; omega
  · unfold fldNat; omega
  · rw [fld_eq]; apply BitVec.eq_of_toNat_eq; simp only [BitVec.toNat_ofNat]; omega
  · rw [fld_eq]; apply BitVec.eq_of_toNat_eq; simp only [BitVec.toNat_ofNat]; omega
  · rw [fld_eq]; apply BitVec.eq_of_toNat_eq; simp only [BitVec.toNat_ofNat]; omega
  · rw [fld_eq]; apply BitVec.eq_of_toNat_eq; simp only [BitVec.toNat_ofNat]; omega
  · exact chain_eq w c (by omega)

theorem shape_31 (m : Nat) (hm : m < 64) (o : Nat) (ho : o < 16) (c : Bool) (f0 : BitVec 7) (f1 : BitVec 1) (f2 : BitVec 3) (w : Word)
    (hw : w = word (m * 2 ^ 25 + o * 2 ^ 0) c [(18, f0.toNat), (7, f1.toNat), (4, f2.toNat)]) :
    fldNat w 25 6 = m ∧
    fldNat w 0 4 = o ∧
    fldNat w 8 10 = 0 ∧
    fld w 18 = f0 ∧
    fld w 7 = f1 ∧
    fld w 4 = f2 ∧
    chainBit w = c := by
  have hf0 := f0.isLt
  have hf1 := f1.isLt
  have hf2 := f2.isLt
  have hc : c.toNat < 2 := by cases c <;> decide
  have hn : w.toNat = m * 2 ^ 25 + o * 2 ^ 0 + c.toNat * 2 ^ 31 + (f0.toNat * 2 ^ 18 + (f1.toNat * 2 ^ 7 + (f2.toNat * 2 ^ 4 + (0)))) := by
    rw [hw, word_nat]
    simp only [sum_fields_cons, sum_fields_nil]
    exact (Nat.mod_eq_of_lt (by omega)).trans (by omega)
  refine ⟨?_, ?_, ?_, ?_, ?_, ?_, ?_⟩
  · unfold fldNat; omega
  · unfold fldNat; omega
  · unfold fldNat; omega
  · rw [fld_eq]; apply BitVec.eq_of_toNat_eq; simp only [BitVec.toNat_ofNat]; omega
  · rw [fld_eq]; apply BitVec.eq_of_toNat_eq; simp only [BitVec.toNat_ofNat]; omega
  · rw [fld_eq]; apply BitVec.eq_of_toNat_eq; simp only [BitVec.toNat_ofNat]; omega
  · exact chain_eq w c (by omega)

theorem shape_32 (m : Nat) (hm : m < 64) (o : Nat) (ho : o < 16) (c : Bool) (f0 : BitVec 7) (f1 : BitVec 1) (f2 : BitVec 7) (w : Word)
    (hw : w = word (m * 2 ^ 25 + o * 2 ^ 0) c [(18, f0.toNat), (11, f1.toNat), (4, f2.toNat)]) :
    fldNat w 25 6 = m ∧
    fldNat w 0 4 = o ∧
    fldNat w 12 6 = 0 ∧
    fld w 18 = f0 ∧
    fld w 11 = f1 ∧
    fld w 4 = f2 ∧
    chainBit w = c := by
  have hf0 := f0.isLt
  have hf1 := f1.isLt
  have hf2 := f2.isLt
  have hc : c.toNat < 2 := by cases c <;> decide
  have hn : w.toNat = m * 2 ^ 25 + o * 2 ^ 0 + c.toNat * 2 ^ 31 + (f0.toNat * 2 ^ 18 + (f1.toNat * 2 ^ 11 + (f2.toNat * 2 ^ 4 + (0)))) := by
    rw [hw, word_nat]
    simp only [sum_fields_cons, sum_fields_nil]
    exact (Nat.mod_eq_of_lt (by omega)).trans (by omega)
  refine ⟨?_, ?_, ?_, ?_, ?_, ?_, ?_⟩
  · unfold fldNat; omega
  · unfold fldNat; omega
  · unfold fldNat; omega
  · rw [fld_eq]; apply BitVec.eq_of_toNat_eq; simp only [BitVec.toNat_ofNat]; omega
  · rw [fld_eq]; apply BitVec.eq_of_toNat_eq; simp only [BitVec.toNat_ofNat]; omega
  · rw [fld_eq]; apply BitVec.eq_of_toNat_eq; simp only [BitVec.toNat_ofNat]; omega
  · exact chain_eq w c (by omega)

theorem shape_33 (m : Nat) (hm : m < 64) (o : Nat) (ho : o < 16) (c : Bool) (f0 : BitVec 1) (f1 : BitVec 7) (f2 : BitVec 7) (w : Word)
    (hw : w = word (m * 2 ^ 25 + o * 2 ^ 0) c [(18, f0.toNat), (11, f1.toNat), (4, f2.toNat)]) :
    fldNat w 25 6 = m ∧
    fldNat w 0 4 = o ∧
    fldNat w 19 6 = 0 ∧
    fld w 18 = f0 ∧
    fld w 11 = f1 ∧
    fld w 4 = f2 ∧
    chainBit w = c := by
  have hf0 := f0.isLt
  have hf1 := f1.isLt
  have hf2 := f2.isLt
  have hc : c.toNat < 2 := by cases c <;> decide
  have hn : w.toNat = m * 2 ^ 25 + o * 2 ^ 0 + c.toNat * 2 ^ 31 + (f0.toNat * 2 ^ 18 + (f1.toNat * 2 ^ 11 + (f2.toNat * 2 ^ 4 + (0)))) := by
    rw [hw, word_nat]
    simp only [sum_fields_cons, sum_fields_nil]
    exact (Nat.mod_eq_of_lt (by omega)).trans (by omega)
  refine ⟨?_, ?_, ?_, ?_, ?_, ?_, ?_⟩
  · unfold fldNat; omega
  · unfold fldNat; omega
  · unfold fldNat; omega
  · rw [fld_eq]; apply BitVec.eq_of_toNat_eq; simp only [BitVec.toNat_ofNat]; omega
  · rw [fld_eq]; apply BitVec.eq_of_toNat_eq; simp only [BitVec.toNat_ofNat]; omega
  · rw [fld_eq]; apply BitVec.eq_of_toNat_eq; simp only [BitVec.toNat_ofNat]; omega
  · exact chain_eq w c (by omega)

theorem shape_34 (m : Nat) (hm : m < 64) (o : Nat) (ho : o < 16) (c : Bool) (f0 : BitVec 7) (w : Word)
    (hw : w = word (m * 2 ^ 25 + o * 2 ^ 0) c [(18, f0.toNat)]) :
    fldNat w 25 6 = m ∧
    fldNat w 0 4 = o ∧
    fldNat w 4 14 = 0 ∧
    fld w 18 = f0 ∧
    chainBit w = c := by
  have hf0 := f0.isLt
  have hc : c.toNat < 2 := by cases c <;> decide
  have hn : w.toNat = m * 2 ^ 25 + o * 2 ^ 0 + c.toNat * 2 ^ 31 + (f0.toNat * 2 ^ 18 + (0)) := by
    rw [hw, word_nat]
    simp only [sum_fields_cons, sum_fields_nil]
    exact (Nat.mod_eq_of_lt (by omega)).trans (by omega)
  refine ⟨?_, ?_, ?_, ?_, ?_⟩
  · unfold fldNat; omega
  · unfold fldNat; omega
  · unfold fldNat; omega
  · rw [fld_eq]; apply BitVec.eq_of_toNat_eq; simp only [BitVec.toNat_ofNat]; omega
  · exact chain_eq w c (by omega)

theorem shape_35 (m : Nat) (hm : m < 64) (o : Nat) (ho : o < 16) (c : Bool) (f0 : BitVec 3) (f1 : BitVec 5) (w : Word)
    (hw : w = word (m * 2 ^ 25 + o * 2 ^ 0) c [(18, f0.toNat), (4, f1.toNat)]) :
    fldNat w 25 6 = m ∧
    fldNat w 0 4 = o ∧
    fldNat w 9 9 = 0 ∧
    fldNat w 21 4 = 0 ∧
    fld w 18 = f0 ∧
    fld w 4 = f1 ∧
    chainBit w = c := by
  have hf0 := f0.isLt
  have hf1 := f1.isLt
  have hc : c.toNat < 2 := by cases c <;> decide
  have hn : w.toNat = m * 2 ^ 25 + o * 2 ^ 0 + c.toNat * 2 ^ 31 + (f0.toNat * 2 ^ 18 + (f1.toNat * 2 ^ 4 + (0))) := by
    rw [hw, word_nat]
    simp only [sum_fields_cons, sum_fields_nil]
    exact (Nat.mod_eq_of_lt (by omega)).trans (by omega)
  refine ⟨?_, ?_, ?_, ?_, ?_, ?_, ?_⟩
  · unfold fldNat; omega
  · unfold fldNat; omega
  · unfold fldNat; omega
  · unfold fldNat; omega
  · rw [fld_eq]; apply BitVec.eq_of_toNat_eq; simp only [BitVec.toNat_ofNat]; omega
  · rw [fld_eq]; apply BitVec.eq_of_toNat_eq; simp only [BitVec.toNat_ofNat]; omega
  · exact chain_eq w c (by omega)

theorem shape_36 (m : Nat) (hm : m < 64) (o : Nat) (ho : o < 16) (c : Bool) (f0 : BitVec 5) (f1 : BitVec 3) (w : Word)
    (hw : w = word (m * 2 ^ 25 + o * 2 ^ 0) c [(18, f0.toNat), (11, f1.toNat)]) :
    fldNat w 25 6 = m ∧
    fldNat w 0 4 = o ∧
    fldNat w 4 7 = 0 ∧
    fldNat w 14 4 = 0 ∧
    fldNat w 23 2 = 0 ∧
    fld w 18 = f0 ∧
    fld w 11 = f1 ∧
    chainBit w = c := by
  have hf0 := f0.isLt
  have hf1 := f1.isLt
  have hc : c.toNat < 2 := by cases c <;> decide
  have hn : w.toNat = m * 2 ^ 25 + o * 2 ^ 0 + c.toNat * 2 ^ 31 + (f0.toNat * 2 ^ 18 + (f1.toNat * 2 ^ 11 + (0))) := by
    rw [hw, word_nat]
    simp only [sum_fields_cons, sum_fields_nil]
    exact (Nat.mod_eq_of_lt (by omega)).trans (by omega)
  refine ⟨?_, ?_, ?_, ?_, ?_, ?_, ?_, ?_⟩
  · unfold fldNat; omega
  · unfold fldNat; omega
  · unfold fldNat; omega
  · unfold fldNat; omega
  · unfold fldNat; omega
  · rw [fld_eq]; apply BitVec.eq_of_toNat_eq; simp only [BitVec.toNat_ofNat]; omega
  · rw [fld_eq]; apply BitVec.eq_of_toNat_eq; simp only [BitVec.toNat_ofNat]; omega
  · exact chain_eq w c (by omega)

theorem shape_37 (m : Nat) (hm : m < 64) (o : Nat) (ho : o < 16) (c : Bool) (f0 : BitVec 5) (f1 : BitVec 7) (w : Word)
    (hw : w = word (m * 2 ^ 25 + o * 2 ^ 0) c [(18, f0.toNat), (11, f1.toNat)]) :
    fldNat w 25 6 = m ∧
    fldNat w 0 4 = o ∧
    fldNat w 4 7 = 0 ∧
    fldNat w 23 2 = 0 ∧
    fld w 18 = f0 ∧
    fld w 11 = f1 ∧
    chainBit w = c := by
  have hf0 := f0.isLt
  have hf1 := f1.isLt
  have hc : c.toNat < 2 := by cases c <;> decide
  have hn : w.toNat = m * 2 ^ 25 + o * 2 ^ 0 + c.toNat * 2 ^ 31 + (f0.toNat * 2 ^ 18 + (f1.toNat * 2 ^ 11 + (0))) := by
    rw [hw, word_nat]
    simp only [sum_fields_cons, sum_fields_nil]
    exact (Nat.mod_eq_of_lt (by omega)).trans (by omega)
  refine ⟨?_, ?_, ?_, ?_, ?_, ?_, ?_⟩
  · unfold fldNat; omega
  · unfold fldNat; omega
  · unfold fldNat; omega
  · unfold fldNat; omega
  · rw [fld_eq]; apply BitVec.eq_of_toNat_eq; simp only [BitVec.toNat_ofNat]; omega
  · rw [fld_eq]; apply BitVec.eq_of_toNat_eq; simp only [BitVec.toNat_ofNat]; omega
  · exact chain_eq w c (by omega)

theorem shape_38 (m : Nat) (hm : m < 64) (o : Nat) (ho : o < 16) (c : Bool) (f0 : BitVec 5) (f1 : BitVec 5) (f2 : BitVec 7) (w : Word)
    (hw : w = word (m * 2 ^ 25 + o * 2 ^ 0) c [(18, f0.toNat), (11, f1.toNat), (4, f2.toNat)]) :
    fldNat w 25 6 = m ∧
    fldNat w 0 4 = o ∧
    fldNat w 16 2 = 0 ∧
    fldNat w 23 2 = 0 ∧
    fld w 18 = f0 ∧
    fld w 11 = f1 ∧
    fld w 4 = f2 ∧
    chainBit w = c := by
  have hf0 := f0.isLt
  have hf1 := f1.isLt
  have hf2 := f2.isLt
  have hc : c.toNat < 2 := by cases c <;> decide
  have hn : w.toNat = m * 2 ^ 25 + o * 2 ^ 0 + c.toNat * 2 ^ 31 + (f0.toNat * 2 ^ 18 + (f1.toNat * 2 ^ 11 + (f2.toNat * 2 ^ 4 + (0)))) := by
    rw [hw, word_nat]
    simp only [sum_fields_cons, sum_fields_nil]
    exact (Nat.mod_eq_of_lt (by omega)).trans (by omega)
  refine ⟨?_, ?_, ?_, ?_, ?_, ?_, ?_, ?_⟩
  · unfold fldNat; omega
  · unfold fldNat; omega
  · unfold fldNat; omega
  · unfold fldNat; omega
  · rw [fld_eq]; apply BitVec.eq_of_toNat_eq; simp only [BitVec.toNat_ofNat]; omega
  · rw [fld_eq]; apply BitVec.eq_of_toNat_eq; simp only [BitVec.toNat_ofNat]; omega
  · rw [fld_eq]; apply BitVec.eq_of_toNat_eq; simp only [BitVec.toNat_ofNat]; omega
  · exact chain_eq w c (by omega)

theorem shape_39 (m : Nat) (hm : m < 64) (o : Nat) (ho : o < 16) (c : Bool) (f0 : BitVec 5) (f1 : BitVec 5) (f2 : BitVec 7) (w : Word)
    (hw : w = word (m * 2 ^ 25 + o * 2 ^ 7) c [(18, f0.toNat), (11, f1.toNat), (0, f2.toNat)]) :
    fldNat w 25 6 = m ∧
    fldNat w 7 4 = o ∧
    fldNat w 16 2 = 0 ∧
    fldNat w 23 2 = 0 ∧
    fld w 18 = f0 ∧
    fld w 11 = f1 ∧
    fld w 0 = f2 ∧
    chainBit w = c := by
  have hf0 := f0.isLt
  have hf1 := f1.isLt
  have hf2 := f2.isLt
  have hc : c.toNat < 2 := by cases c <;> decide
  have hn : w.toNat = m * 2 ^ 25 + o * 2 ^ 7 + c.toNat * 2 ^ 31 + (f0.toNat * 2 ^ 18 + (f1.toNat * 2 ^ 11 + (f2.toNat * 2 ^ 0 + (0)))) := by
    rw [hw, word_nat]
    simp only [sum_fields_cons, sum_fields_nil]
    exact (Nat.mod_eq_of_lt (by omega)).trans (by omega)
  refine ⟨?_, ?_, ?_, ?_, ?_, ?_, ?_, ?_⟩
  · unfold fldNat; omega
  · unfold fldNat; omega
  · unfold fldNat; omega
  · unfold fldNat; omega
  · rw [fld_eq]; apply BitVec.eq_of_toNat_eq; simp only [BitVec.toNat_ofNat]; omega
  · rw [fld_eq]; apply BitVec.eq_of_toNat_eq; simp only [BitVec.toNat_ofNat]; omega
  · rw [fld_eq]; apply BitVec.eq_of_toNat_eq; simp only [BitVec.toNat_ofNat]; omega
  · exact chain_eq w c (by omega)

theorem shape_40 (m : Nat) (hm : m < 64) (c : Bool) (f0 : BitVec 5) (f1 : BitVec 18) (w : Word)
    (hw : w = word (m * 2 ^ 25) c [(18, f0.toNat), (0, f1.toNat)]) :
    fldNat w 25 6 = m ∧
    fldNat w 23 2 = 0 ∧
    fld w 18 = f0 ∧
    fld w 0 = f1 ∧
    chainBit w = c := by
  have hf0 := f0.isLt
  have hf1 := f1.isLt
  have hc : c.toNat < 2 := by cases c <;> decide
  have hn : w.toNat = m * 2 ^ 25 + c.toNat * 2 ^ 31 + (f0.toNat * 2 ^ 18 + (f1.toNat * 2 ^ 0 + (0))) := by
    rw [hw, word_nat]
    simp only [sum_fields_cons, sum_fields_nil]
    exact (Nat.mod_eq_of_lt (by omega)).trans (by omega)
  refine ⟨?_, ?_, ?_, ?_, ?_⟩
  · unfold fldNat; omega
  · unfold fldNat; omega
  · rw [fld_eq]; apply BitVec.eq_of_toNat_eq; simp only [BitVec.toNat_ofNat]; omega
  · rw [fld_eq]; apply BitVec.eq_of_toNat_eq; simp only [BitVec.toNat_ofNat]; omega
  · exact chain_eq w c (by omega)

theorem shape_41 (m : Nat) (hm : m < 64) (o : Nat) (ho : o < 16) (c : Bool) (f0 : BitVec 4) (f1 : BitVec 3) (f2 : BitVec 5) (f3 : BitVec 5) (w : Word)
    (hw : w = word (m * 2 ^ 25 + o * 2 ^ 0) c [(21, f0.toNat), (18, f1.toNat), (11, f2.toNat), (4, f3.toNat)]) :
    fldNat w 25 6 = m ∧
    fldNat w 0 4 = o ∧
    fldNat w 9 2 = 0 ∧
    fldNat w 16 2 = 0 ∧
    fld w 21 = f0 ∧
    fld w 18 = f1 ∧
    fld w 11 = f2 ∧
    fld w 4 = f3 ∧
    chainBit w = c := by
  have hf0 := f0.isLt
  have hf1 := f1.isLt
  have hf2 := f2.isLt
  have hf3 := f3.isLt
  have hc : c.toNat < 2 := by cases c <;> decide
  have hn : w.toNat = m * 2 ^ 25 + o * 2 ^ 0 + c.toNat * 2 ^ 31 + (f0.toNat * 2 ^ 21 + (f1.toNat * 2 ^ 18 + (f2.toNat * 2 ^ 11 + (f3.toNat * 2 ^ 4 + (0))))) := by
    rw [hw, word_nat]
    simp only [sum_fields_cons, sum_fields_nil]
    exact (Nat.mod_eq_of_lt (by omega)).trans (by omega)
  refine ⟨?_, ?_, ?_, ?_, ?_, ?_, ?_, ?_, ?_⟩
  · unfold fldNat; omega
  · unfold fldNat; omega
  · unfold fldNat; omega
  · unfold fldNat; omega
  · rw [fld_eq]; apply BitVec.eq_of_toNat_eq; simp only [BitVec.toNat_ofNat]; omega
  · rw [fld_eq]; apply BitVec.eq_of_toNat_eq; simp only [BitVec.toNat_ofNat]; omega
  · rw [fld_eq]; apply BitVec.eq_of_toNat_eq; simp only [BitVec.toNat_ofNat]; omega
  · rw [fld_eq]; apply BitVec.eq_of_toNat_eq; simp only [BitVec.toNat_ofNat]; omega
  · exact chain_eq w c (by omega)

theorem shape_42 (m : Nat) (hm : m < 64) (o : Nat) (ho : o < 16) (c : Bool) (f0 : BitVec 5) (f1 : BitVec 5) (f2 : BitVec 5) (w : Word)
    (hw : w = word (m * 2 ^ 25 + o * 2 ^ 0) c [(18, f0.toNat), (11, f1.toNat), (4, f2.toNat)]) :
    fldNat w 25 6 = m ∧
    fldNat w 0 4 = o ∧
    fldNat w 9 2 = 0 ∧
    fldNat w 16 2 = 0 ∧
    fldNat w 23 2 = 0 ∧
    fld w 18 = f0 ∧
    fld w 11 = f1 ∧
    fld w 4 = f2 ∧
    chainBit w = c := by
  have hf0 := f0.isLt
  have hf1 := f1.isLt
  have hf2 := f2.isLt
  have hc : c.toNat < 2 := by cases c <;> decide
  have hn : w.toNat = m * 2 ^ 25 + o * 2 ^ 0 + c.toNat * 2 ^ 31 + (f0.toNat * 2 ^ 18 + (f1.toNat * 2 ^ 11 + (f2.toNat * 2 ^ 4 + (0)))) := by
    rw [hw, word_nat]
    simp only [sum_fields_cons, sum_fields_nil]
    exact (Nat.mod_eq_of_lt (by omega)).trans (by omega)
  refine ⟨?_, ?_, ?_, ?_, ?_, ?_, ?_, ?_, ?_⟩
  · unfold fldNat; omega
  · unfold fldNat; omega
  · unfold fldNat; omega
  · unfold fldNat; omega
  · unfold fldNat; omega
  · rw [fld_eq]; apply BitVec.eq_of_toNat_eq; simp only [BitVec.toNat_ofNat]; omega
  · rw [fld_eq]; apply BitVec.eq_of_toNat_eq; simp only [BitVec.toNat_ofNat]; omega
  · rw [fld_eq]; apply BitVec.eq_of_toNat_eq; simp only [BitVec.toNat_ofNat]; omega
  · exact chain_eq w c (by omega)

theorem shape_43 (m : Nat) (hm : m < 64) (c : Bool) (f0 : BitVec 7) (f1 : BitVec 7) (f2 : BitVec 4) (f3 : BitVec 3) (f4 : BitVec 2) (f5 : BitVec 2) (w : Word)
    (hw : w = word (m * 2 ^ 25) c [(18, f0.toNat), (11, f1.toNat), (7, f2.toNat), (4, f3.toNat), (2, f4.toNat), (0, f5.toNat)]) :
    fldNat w 25 6 = m ∧
    fld w 18 = f0 ∧
    fld w 11 = f1 ∧
    fld w 7 = f2 ∧
    fld w 4 = f3 ∧
    fld w 2 = f4 ∧
    fld w 0 = f5 ∧
    chainBit w = c := by
  have hf0 := f0.isLt
  have hf1 := f1.isLt
  have hf2 := f2.isLt
  have hf3 := f3.isLt
  have hf4 := f4.isLt
  have hf5 := f5.isLt
  have hc : c.toNat < 2 := by cases c <;> decide
  have hn : w.toNat = m * 2 ^ 25 + c.toNat * 2 ^ 31 + (f0.toNat * 2 ^ 18 + (f1.toNat * 2 ^ 11 + (f2.toNat * 2 ^ 7 + (f3.toNat * 2 ^ 4 + (f4.toNat * 2 ^ 2 + (f5.toNat * 2 ^ 0 + (0))))))) := by
    rw [hw, word_nat]
    simp only [sum_fields_cons, sum_fields_nil]
    exact (Nat.mod_eq_of_lt (by omega)).trans (by omega)
  refine ⟨?_, ?_, ?_, ?_, ?_, ?_, ?_, ?_⟩
  · unfold fldNat; omega
  · rw [fld_eq]; apply BitVec.eq_of_toNat_eq; simp only [BitVec.toNat_ofNat]; omega
  · rw [fld_eq]; apply BitVec.eq_of_toNat_eq; simp only [BitVec.toNat_ofNat]; omega
  · rw [fld_eq]; apply BitVec.eq_of_toNat_eq; simp only [BitVec.toNat_ofNat]; omega
  · rw [fld_eq]; apply BitVec.eq_of_toNat_eq; simp only [BitVec.toNat_ofNat]; omega
  · rw [fld_eq]; apply BitVec.eq_of_toNat_eq; simp only [BitVec.toNat_ofNat]; omega
  · rw [fld_eq]; apply BitVec.eq_of_toNat_eq; simp only [BitVec.toNat_ofNat]; omega
  · exact chain_eq w c (by omega)

theorem shape_44 (m : Nat) (hm : m < 64) (c : Bool) (f0 : BitVec 7) (f1 : BitVec 7) (f2 : BitVec 4) (f3 : BitVec 3) (f4 : BitVec 2) (w : Word)
    (hw : w = word (m * 2 ^ 25) c [(18, f0.toNat), (11, f1.toNat), (7, f2.toNat), (4, f3.toNat), (2, f4.toNat)]) :
    fldNat w 25 6 = m ∧
    fldNat w 0 2 = 0 ∧
    fld w 18 = f0 ∧
    fld w 11 = f1 ∧
    fld w 7 = f2 ∧
    fld w 4 = f3 ∧
    fld w 2 = f4 ∧
    chainBit w = c := by
  have hf0 := f0.isLt
  have hf1 := f1.isLt
  have hf2 := f2.isLt
  have hf3 := f3.isLt
  have hf4 := f4.isLt
  have hc : c.toNat < 2 := by cases c <;> decide
  have hn : w.toNat = m * 2 ^ 25 + c.toNat * 2 ^ 31 + (f0.toNat * 2 ^ 18 + (f1.toNat * 2 ^ 11 + (f2.toNat * 2 ^ 7 + (f3.toNat * 2 ^ 4 + (f4.toNat * 2 ^ 2 + (0)))))) := by
    rw [hw, word_nat]
    simp only [sum_fields_cons, sum_fields_nil]
    exact (Nat.mod_eq_of_lt (by omega)).trans (by omega)
  refine ⟨?_, ?_, ?_, ?_, ?_, ?_, ?_, ?_⟩
  · unfold fldNat; omega
  · unfold fldNat; omega
  · rw [fld_eq]; apply BitVec.eq_of_toNat_eq; simp only [BitVec.toNat_ofNat]; omega
  · rw [fld_eq]; apply BitVec.eq_of_toNat_eq; simp only [BitVec.toNat_ofNat]; omega
  · rw [fld_eq]; apply BitVec.eq_of_toNat_eq; simp only [BitVec.toNat_ofNat]; omega
  · rw [fld_eq]; apply BitVec.eq_of_toNat_eq; simp only [BitVec.toNat_ofNat]; omega
  · rw [fld_eq]; apply BitVec.eq_of_toNat_eq; simp only [BitVec.toNat_ofNat]; omega
  · exact chain_eq w c (by omega)

theorem shape_45 (m : Nat) (hm : m < 64) (c : Bool) (f0 : BitVec 7) (f1 : BitVec 7) (f2 : BitVec 4) (f3 : BitVec 3) (f4 : BitVec 2) (f5 : BitVec 1) (w : Word)
    (hw : w = word (m * 2 ^ 25) c [(18, f0.toNat), (11, f1.toNat), (7, f2.toNat), (4, f3.toNat), (2, f4.toNat), (0, f5.toNat)]) :
    fldNat w 25 6 = m ∧
    fldNat w 1 1 = 0 ∧
    fld w 18 = f0 ∧
    fld w 11 = f1 ∧
    fld w 7 = f2 ∧
    fld w 4 = f3 ∧
    fld w 2 = f4 ∧
    fld w 0 = f5 ∧
    chainBit w = c := by
  have hf0 := f0.isLt
  have hf1 := f1.isLt
  have hf2 := f2.isLt
  have hf3 := f3.isLt
  have hf4 := f4.isLt
  have hf5 := f5.isLt
  have hc : c.toNat < 2 := by cases c <;> decide
  have hn : w.toNat = m * 2 ^ 25 + c.toNat * 2 ^ 31 + (f0.toNat * 2 ^ 18 + (f1.toNat * 2 ^ 11 + (f2.toNat * 2 ^ 7 + (f3.toNat * 2 ^ 4 + (f4.toNat * 2 ^ 2 + (f5.toNat * 2 ^ 0 + (0))))))) := by
    rw [hw, word_nat]
    simp only [sum_fields_cons, sum_fields_nil]
    exact (Nat.mod_eq_of_lt (by omega)).trans (by omega)
  refine ⟨?_, ?_, ?_, ?_, ?_, ?_, ?_, ?_, ?_⟩
  · unfold fldNat; omega
  · unfold fldNat; omega
  · rw [fld_eq]; apply BitVec.eq_of_toNat_eq; simp only [BitVec.toNat_ofNat]; omega
  · rw [fld_eq]; apply BitVec.eq_of_toNat_eq; simp only [BitVec.toNat_ofNat]; omega
  · rw [fld_eq]; apply BitVec.eq_of_toNat_eq; simp only [BitVec.toNat_ofNat]; omega
  · rw [fld_eq]; apply BitVec.eq_of_toNat_eq; simp only [BitVec.toNat_ofNat]; omega
  · rw [fld_eq]; apply BitVec.eq_of_toNat_eq; simp only [BitVec.toNat_ofNat]; omega
  · rw [fld_eq]; apply BitVec.eq_of_toNat_eq; simp only [BitVec.toNat_ofNat]; omega
  · exact chain_eq w c (by omega)

theorem shape_46 (m : Nat) (hm : m < 64) (c : Bool) (f0 : BitVec 5) (f1 : BitVec 5) (f2 : BitVec 4) (f3 : BitVec 3) (f4 : BitVec 2) (f5 : BitVec 2) (w : Word)
    (hw : w = word (m * 2 ^ 25) c [(18, f0.toNat), (11, f1.toNat), (7, f2.toNat), (4, f3.toNat), (2, f4.toNat), (0, f5.toNat)]) :
    fldNat w 25 6 = m ∧
    fldNat w 16 2 = 0 ∧
    fldNat w 23 2 = 0 ∧
    fld w 18 = f0 ∧
    fld w 11 = f1 ∧
    fld w 7 = f2 ∧
    fld w 4 = f3 ∧
    fld w 2 = f4 ∧
    fld w 0 = f5 ∧
    chainBit w = c := by
  have hf0 := f0.isLt
  have hf1 := f1.isLt
  have hf2 := f2.isLt
  have hf3 := f3.isLt
  have hf4 := f4.isLt
  have hf5 := f5.isLt
  have hc : c.toNat < 2 := by cases c <;> decide
  have hn : w.toNat = m * 2 ^ 25 + c.toNat * 2 ^ 31 + (f0.toNat * 2 ^ 18 + (f1.toNat * 2 ^ 11 + (f2.toNat * 2 ^ 7 + (f3.toNat * 2 ^ 4 + (f4.toNat * 2 ^ 2 + (f5.toNat * 2 ^ 0 + (0))))))) := by
    rw [hw, word_nat]
    simp only [sum_fields_cons, sum_fields_nil]
    exact (Nat.mod_eq_of_lt (by omega)).trans (by omega)
  refine ⟨?_, ?_, ?_, ?_, ?_, ?_, ?_, ?_, ?_, ?_⟩
  · unfold fldNat; omega
  · unfold fldNat; omega
  · unfold fldNat; omega
  · rw [fld_eq]; apply BitVec.eq_of_toNat_eq; simp only [BitVec.toNat_ofNat]; omega
  · rw [fld_eq]; apply BitVec.eq_of_toNat_eq; simp only [BitVec.toNat_ofNat]; omega
  · rw [fld_eq]; apply BitVec.eq_of_toNat_eq; simp only [BitVec.toNat_ofNat]; omega
  · rw [fld_eq]; apply BitVec.eq_of_toNat_eq; simp only [BitVec.toNat_ofNat]; omega
  · rw [fld_eq]; apply BitVec.eq_of_toNat_eq; simp only [BitVec.toNat_ofNat]; omega
  · rw [fld_eq]; apply BitVec.eq_of_toNat_eq; simp only [BitVec.toNat_ofNat]; omega
  · exact chain_eq w c (by omega)

theorem shape_47 (m : Nat) (hm : m < 64) (o : Nat) (ho : o < 16) (c : Bool) (f0 : BitVec 7) (f1 : BitVec 7) (w : Word)
    (hw : w = word (m * 2 ^ 25 + o * 2 ^ 0) c [(11, f0.toNat), (4, f1.toNat)]) :
    fldNat w 25 6 = m ∧
    fldNat w 0 4 = o ∧
    fldNat w 18 7 = 0 ∧
    fld w 11 = f0 ∧
    fld w 4 = f1 ∧
    chainBit w = c := by
  have hf0 := f0.isLt
  have hf1 := f1.isLt
  have hc : c.toNat < 2 := by cases c <;> decide
  have hn : w.toNat = m * 2 ^ 25 + o * 2 ^ 0 + c.toNat * 2 ^ 31 + (f0.toNat * 2 ^ 11 + (f1.toNat * 2 ^ 4 + (0))) := by
    rw [hw, word_nat]
    simp only [sum_fields_cons, sum_fields_nil]
    exact (Nat.mod_eq_of_lt (by omega)).trans (by omega)
  refine ⟨?_, ?_, ?_, ?_, ?_, ?_⟩
  · unfold fldNat; omega
  · unfold fldNat; omega
  · unfold fldNat; omega
  · rw [fld_eq]; apply BitVec.eq_of_toNat_eq; simp only [BitVec.toNat_ofNat]; omega
  · rw [fld_eq]; apply BitVec.eq_of_toNat_eq; simp only [BitVec.toNat_ofNat]; omega
  · exact chain_eq w c (by omega)

theorem shape_48 (m : Nat) (hm : m < 64) (c : Bool) (f0 : BitVec 7) (f1 : BitVec 6) (f2 : BitVec 7) (f3 : BitVec 4) (w : Word)
    (hw : w = word (m * 2 ^ 25) c [(18, f0.toNat), (12, f1.toNat), (4, f2.toNat), (0, f3.toNat)]) :
    fldNat w 25 6 = m ∧
    fldNat w 11 1 = 0 ∧
    fld w 18 = f0 ∧
    fld w 12 = f1 ∧
    fld w 4 = f2 ∧
    fld w 0 = f3 ∧
    chainBit w = c := by
  have hf0 := f0.isLt
  have hf1 := f1.isLt
  have hf2 := f2.isLt
  have hf3 := f3.isLt
  have hc : c.toNat < 2 := by cases c <;> decide
  have hn : w.toNat = m * 2 ^ 25 + c.toNat * 2 ^ 31 + (f0.toNat * 2 ^ 18 + (f1.toNat * 2 ^ 12 + (f2.toNat * 2 ^ 4 + (f3.toNat * 2 ^ 0 + (0))))) := by
    rw [hw, word_nat]
    simp only [sum_fields_cons, sum_fields_nil]
    exact (Nat.mod_eq_of_lt (by omega)).trans (by omega)
  refine ⟨?_, ?_, ?_, ?_, ?_, ?_, ?_⟩
  · unfold fldNat; omega
  · unfold fldNat; omega
  · rw [fld_eq]; apply BitVec.eq_of_toNat_eq; simp only [BitVec.toNat_ofNat]; omega
  · rw [fld_eq]; apply BitVec.eq_of_toNat_eq; simp only [BitVec.toNat_ofNat]; omega
  · rw [fld_eq]; apply BitVec.eq_of_toNat_eq; simp only [BitVec.toNat_ofNat]; omega
  · rw [fld_eq]; apply BitVec.eq_of_toNat_eq; simp only [BitVec.toNat_ofNat]; omega
  · exact chain_eq w c (by omega)

theorem shape_49 (m : Nat) (hm : m < 64) (o : Nat) (ho : o < 128) (c : Bool) (f0 : BitVec 2) (f1 : BitVec 3) (w : Word)
    (hw : w = word (m * 2 ^ 25 + o * 2 ^ 18) c [(7, f0.toNat), (4, f1.toNat)]) :
    fldNat w 25 6 = m ∧
    fldNat w 18 7 = o ∧
    fldNat w 0 4 = 0 ∧
    fldNat w 9 9 = 0 ∧
    fld w 7 = f0 ∧
    fld w 4 = f1 ∧
    chainBit w = c := by
  have hf0 := f0.isLt
  have hf1 := f1.isLt
  have hc : c.toNat < 2 := by cases c <;> decide
  have hn : w.toNat = m * 2 ^ 25 + o * 2 ^ 18 + c.toNat * 2 ^ 31 + (f0.toNat * 2 ^ 7 + (f1.toNat * 2 ^ 4 + (0))) := by
    rw [hw, word_nat]
    simp only [sum_fields_cons, sum_fields_nil]
    exact (Nat.mod_eq_of_lt (by omega)).trans (by omega)
  refine ⟨?_, ?_, ?_, ?_, ?_, ?_, ?_⟩
  · unfold fldNat; omega
  · unfold fldNat; omega
  · unfold fldNat; omega
  · unfold fldNat; omega
  · rw [fld_eq]; apply BitVec.eq_of_toNat_eq; simp only [BitVec.toNat_ofNat]; omega
  · rw [fld_eq]; apply BitVec.eq_of_toNat_eq; simp only [BitVec.toNat_ofNat]; omega
  · exact chain_eq w c (by omega)

theorem shape_50 (m : Nat) (hm : m < 64) (o : Nat) (ho : o < 128) (c : Bool) (f0 : BitVec 7) (f1 : BitVec 7) (f2 : BitVec 1) (f3 : BitVec 1) (f4 : BitVec 2) (w : Word)
    (hw : w = word (m * 2 ^ 25 + o * 2 ^ 18) c [(11, f0.toNat), (4, f1.toNat), (3, f2.toNat), (2, f3.toNat), (0, f4.toNat)]) :
    fldNat w 25 6 = m ∧
    fldNat w 18 7 = o ∧
    fld w 11 = f0 ∧
    fld w 4 = f1 ∧
    fld w 3 = f2 ∧
    fld w 2 = f3 ∧
    fld w 0 = f4 ∧
    chainBit w = c := by
  have hf0 := f0.isLt
  have hf1 := f1.isLt
  have hf2 := f2.isLt
  have hf3 := f3.isLt
  have hf4 := f4.isLt
  have hc : c.toNat < 2 := by cases c <;> decide
  have hn : w.toNat = m * 2 ^ 25 + o * 2 ^ 18 + c.toNat * 2 ^ 31 + (f0.toNat * 2 ^ 11 + (f1.toNat * 2 ^ 4 + (f2.toNat * 2 ^ 3 + (f3.toNat * 2 ^ 2 + (f4.toNat * 2 ^ 0 + (0)))))) := by
    rw [hw, word_nat]
    simp only [sum_fields_cons, sum_fields_nil]
    exact (Nat.mod_eq_of_lt (by omega)).trans (by omega)
  refine ⟨?_, ?_, ?_, ?_, ?_, ?_, ?_, ?_⟩
  · unfold fldNat; omega
  · unfold fldNat; omega
  · rw [fld_eq]; apply BitVec.eq_of_toNat_eq; simp only [BitVec.toNat_ofNat]; omega
  · rw [fld_eq]; apply BitVec.eq_of_toNat_eq; simp only [BitVec.toNat_ofNat]; omega
  · rw [fld_eq]; apply BitVec.eq_of_toNat_eq; simp only [BitVec.toNat_ofNat]; omega
  · rw [fld_eq]; apply BitVec.eq_of_toNat_eq; simp only [BitVec.toNat_ofNat]; omega
  · rw [fld_eq]; apply BitVec.eq_of_toNat_eq; simp only [BitVec.toNat_ofNat]; omega
  · exact chain_eq w c (by omega)

theorem shape_51 (m : Nat) (hm : m < 64) (o : Nat) (ho : o < 128) (c : Bool) (f0 : BitVec 14) (f1 : BitVec 1) (w : Word)
    (hw : w = word (m * 2 ^ 25 + o * 2 ^ 18) c [(4, f0.toNat), (0, f1.toNat)]) :
    fldNat w 25 6 = m ∧
    fldNat w 18 7 = o ∧
    fldNat w 1 3 = 0 ∧
    fld w 4 = f0 ∧
    fld w 0 = f1 ∧
    chainBit w = c := by
  have hf0 := f0.isLt
  have hf1 := f1.isLt
  have hc : c.toNat < 2 := by cases c <;> decide
  have hn : w.toNat = m * 2 ^ 25 + o * 2 ^ 18 + c.toNat * 2 ^ 31 + (f0.toNat * 2 ^ 4 + (f1.toNat * 2 ^ 0 + (0))) := by
    rw [hw, word_nat]
    simp only [sum_fields_cons, sum_fields_nil]
    exact (Nat.mod_eq_of_lt (by omega)).trans (by omega)
  refine ⟨?_, ?_, ?_, ?_, ?_, ?_⟩
  · unfold fldNat; omega
  · unfold fldNat; omega
  · unfold fldNat; omega
  · rw [fld_eq]; apply BitVec.eq_of_toNat_eq; simp only [BitVec.toNat_ofNat]; omega
  · rw [fld_eq]; apply BitVec.eq_of_toNat_eq; simp only [BitVec.toNat_ofNat]; omega
  · exact chain_eq w c (by omega)

theorem shape_52 (m : Nat) (hm : m < 64) (o : Nat) (ho : o < 128) (c : Bool) (f0 : BitVec 3) (w : Word)
    (hw : w = word (m * 2 ^ 25 + o * 2 ^ 18) c [(4, f0.toNat)]) :
    fldNat w 25 6 = m ∧
    fldNat w 18 7 = o ∧
    fldNat w 0 4 = 0 ∧
    fldNat w 7 11 = 0 ∧
    fld w 4 = f0 ∧
    chainBit w = c := by
  have hf0 := f0.isLt
  have hc : c.toNat < 2 := by cases c <;> decide
  have hn : w.toNat = m * 2 ^ 25 + o * 2 ^ 18 + c.toNat * 2 ^ 31 + (f0.toNat * 2 ^ 4 + (0)) := by
    rw [hw, word_nat]
    simp only [sum_fields_cons, sum_fields_nil]
    exact (Nat.mod_eq_of_lt (by omega)).trans (by omega)
  refine ⟨?_, ?_, ?_, ?_, ?_, ?_⟩
  · unfold fldNat; omega
  · unfold fldNat; omega
  · unfold fldNat; omega
  · unfold fldNat; omega
  · rw [fld_eq]; apply BitVec.eq_of_toNat_eq; simp only [BitVec.toNat_ofNat]; omega
  · exact chain_eq w c (by omega)

theorem shape_53 (m : Nat) (hm : m < 64) (o : Nat) (ho : o < 128) (c : Bool) (f0 : BitVec 7) (w : Word)
    (hw : w = word (m * 2 ^ 25 + o * 2 ^ 18) c [(11, f0.toNat)]) :
    fldNat w 25 6 = m ∧
    fldNat w 18 7 = o ∧
    fldNat w 0 11 = 0 ∧
    fld w 11 = f0 ∧
    chainBit w = c := by
  have hf0 := f0.isLt
  have hc : c.toNat < 2 := by cases c <;> decide
  have hn : w.toNat = m * 2 ^ 25 + o * 2 ^ 18 + c.toNat * 2 ^ 31 + (f0.toNat * 2 ^ 11 + (0)) := by
    rw [hw, word_nat]
    simp only [sum_fields_cons, sum_fields_nil]
    exact (Nat.mod_eq_of_lt (by omega)).trans (by omega)
  refine ⟨?_, ?_, ?_, ?_, ?_⟩
  · unfold fldNat; omega
  · unfold fldNat; omega
  · unfold fldNat; omega
  · rw [fld_eq]; apply BitVec.eq_of_toNat_eq; simp only [BitVec.toNat_ofNat]; omega
  · exact chain_eq w c (by omega)

theorem shape_54 (m : Nat) (hm : m < 64) (o : Nat) (ho : o < 128) (c : Bool) (f0 : BitVec 7) (f1 : BitVec 5) (w : Word)
    (hw : w = word (m * 2 ^ 25 + o * 2 ^ 18) c [(11, f0.toNat), (4, f1.toNat)]) :
    fldNat w 25 6 = m ∧
    fldNat w 18 7 = o ∧
    fldNat w 0 4 = 0 ∧
    fldNat w 9 2 = 0 ∧
    fld w 11 = f0 ∧
    fld w 4 = f1 ∧
    chainBit w = c := by
  have hf0 := f0.isLt
  have hf1 := f1.isLt
  have hc : c.toNat < 2 := by cases c <;> decide
  have hn : w.toNat = m * 2 ^ 25 + o * 2 ^ 18 + c.toNat * 2 ^ 31 + (f0.toNat * 2 ^ 11 + (f1.toNat * 2 ^ 4 + (0))) := by
    rw [hw, word_nat]
    simp only [sum_fields_cons, sum_fields_nil]
    exact (Nat.mod_eq_of_lt (by omega)).trans (by omega)
  refine ⟨?_, ?_, ?_, ?_, ?_, ?_, ?_⟩
  · unfold fldNat; omega
  · unfold fldNat; omega
  · unfold fldNat; omega
  · unfold fldNat; omega
  · rw [fld_eq]; apply BitVec.eq_of_toNat_eq; simp only [BitVec.toNat_ofNat]; omega
  · rw [fld_eq]; apply BitVec.eq_of_toNat_eq; simp only [BitVec.toNat_ofNat]; omega
  · exact chain_eq w c (by omega)

theorem shape_55 (m : Nat) (hm : m < 64) (o : Nat) (ho : o < 128) (c : Bool) (f0 : BitVec 7) (f1 : BitVec 1) (f2 : BitVec 2) (w : Word)
    (hw : w = word (m * 2 ^ 25 + o * 2 ^ 18) c [(11, f0.toNat), (2, f1.toNat), (0, f2.toNat)]) :
    fldNat w 25 6 = m ∧
    fldNat w 18 7 = o ∧
    fldNat w 3 8 = 0 ∧
    fld w 11 = f0 ∧
    fld w 2 = f1 ∧
    fld w 0 = f2 ∧
    chainBit w = c := by
  have hf0 := f0.isLt
  have hf1 := f1.isLt
  have hf2 := f2.isLt
  have hc : c.toNat < 2 := by cases c <;> decide
  have hn : w.toNat = m * 2 ^ 25 + o * 2 ^ 18 + c.toNat * 2 ^ 31 + (f0.toNat * 2 ^ 11 + (f1.toNat * 2 ^ 2 + (f2.toNat * 2 ^ 0 + (0)))) := by
    rw [hw, word_nat]
    simp only [sum_fields_cons, sum_fields_nil]
    exact (Nat.mod_eq_of_lt (by omega)).trans (by omega)
  refine ⟨?_, ?_, ?_, ?_, ?_, ?_, ?_⟩
  · unfold fldNat; omega
  · unfold fldNat; omega
  · unfold fldNat; omega
  · rw [fld_eq]; apply BitVec.eq_of_toNat_eq; simp only [BitVec.toNat_ofNat]; omega
  · rw [fld_eq]; apply BitVec.eq_of_toNat_eq; simp only [BitVec.toNat_ofNat]; omega
  · rw [fld_eq]; apply BitVec.eq_of_toNat_eq; simp only [BitVec.toNat_ofNat]; omega
  · exact chain_eq w c (by omega)

theorem shape_56 (m : Nat) (hm : m < 64) (o : Nat) (ho : o < 128) (c : Bool) (f0 : BitVec 5) (f1 : BitVec 5) (w : Word)
    (hw : w = word (m * 2 ^ 25 + o * 2 ^ 18) c [(11, f0.toNat), (4, f1.toNat)]) :
    fldNat w 25 6 = m ∧
    fldNat w 18 7 = o ∧
    fldNat w 0 4 = 0 ∧
    fldNat w 9 2 = 0 ∧
    fldNat w 16 2 = 0 ∧
    fld w 11 = f0 ∧
    fld w 4 = f1 ∧
    chainBit w = c := by
  have hf0 := f0.isLt
  have hf1 := f1.isLt
  have hc : c.toNat < 2 := by cases c <;> decide
  have hn : w.toNat = m * 2 ^ 25 + o * 2 ^ 18 + c.toNat * 2 ^ 31 + (f0.toNat * 2 ^ 11 + (f1.toNat * 2 ^ 4 + (0))) := by
    rw [hw, word_nat]
    simp only [sum_fields_cons, sum_fields_nil]
    exact (Nat.mod_eq_of_lt (by omega)).trans (by omega)
  refine ⟨?_, ?_, ?_, ?_, ?_, ?_, ?_, ?_⟩
  · unfold fldNat; omega
  · unfold fldNat; omega
  · unfold fldNat; omega
  · unfold fldNat; omega
  · unfold fldNat; omega
  · rw [fld_eq]; apply BitVec.eq_of_toNat_eq; simp only [BitVec.toNat_ofNat]; omega
  · rw [fld_eq]; apply BitVec.eq_of_toNat_eq; simp only [BitVec.toNat_ofNat]; omega
  · exact chain_eq w c (by omega)

theorem shape_57 (m : Nat) (hm : m < 64) (o : Nat) (ho : o < 128) (c : Bool) (f0 : BitVec 7) (f1 : BitVec 7) (w : Word)
    (hw : w = word (m * 2 ^ 25 + o * 2 ^ 18) c [(11, f0.toNat), (4, f1.toNat)]) :
    fldNat w 25 6 = m ∧
    fldNat w 18 7 = o ∧
    fldNat w 0 4 = 0 ∧
    fld w 11 = f0 ∧
    fld w 4 = f1 ∧
    chainBit w = c := by
  have hf0 := f0.isLt
  have hf1 := f1.isLt
  have hc : c.toNat < 2 := by cases c <;> decide
  have hn : w.toNat = m * 2 ^ 25 + o * 2 ^ 18 + c.toNat * 2 ^ 31 + (f0.toNat * 2 ^ 11 + (f1.toNat * 2 ^ 4 + (0))) := by
    rw [hw, word_nat]
    simp only [sum_fields_cons, sum_fields_nil]
    exact (Nat.mod_eq_of_lt (by omega)).trans (by omega)
  refine ⟨?_, ?_, ?_, ?_, ?_, ?_⟩
  · unfold fldNat; omega
  · unfold fldNat; omega
  · unfold fldNat; omega
  · rw [fld_eq]; apply BitVec.eq_of_toNat_eq; simp only [BitVec.toNat_ofNat]; omega
  · rw [fld_eq]; apply BitVec.eq_of_toNat_eq; simp only [BitVec.toNat_ofNat]; omega
  · exact chain_eq w c (by omega)

theorem shape_58 (m : Nat) (hm : m < 64) (c : Bool) (f0 : BitVec 5) (f1 : BitVec 7) (f2 : BitVec 7) (f3 : BitVec 2) (f4 : BitVec 2) (w : Word)
    (hw : w = word (m * 2 ^ 25) c [(18, f0.toNat), (11, f1.toNat), (4, f2.toNat), (2, f3.toNat), (0, f4.toNat)]) :
    fldNat w 25 6 = m ∧
    fldNat w 23 2 = 0 ∧
    fld w 18 = f0 ∧
    fld w 11 = f1 ∧
    fld w 4 = f2 ∧
    fld w 2 = f3 ∧
    fld w 0 = f4 ∧
    chainBit w = c := by
  have hf0 := f0.isLt
  have hf1 := f1.isLt
  have hf2 := f2.isLt
  have hf3 := f3.isLt
  have hf4 := f4.isLt
  have hc : c.toNat < 2 := by cases c <;> decide
  have hn : w.toNat = m * 2 ^ 25 + c.toNat * 2 ^ 31 + (f0.toNat * 2 ^ 18 + (f1.toNat * 2 ^ 11 + (f2.toNat * 2 ^ 4 + (f3.toNat * 2 ^ 2 + (f4.toNat * 2 ^ 0 + (0)))))) := by
    rw [hw, word_nat]
    simp only [sum_fields_cons, sum_fields_nil]
    exact (Nat.mod_eq_of_lt (by omega)).trans (by omega)
  refine ⟨?_, ?_, ?_, ?_, ?_, ?_, ?_, ?_⟩
  · unfold fldNat; omega
  · unfold fldNat; omega
  · rw [fld_eq]; apply BitVec.eq_of_toNat_eq; simp only [BitVec.toNat_ofNat]; omega
  · rw [fld_eq]; apply BitVec.eq_of_toNat_eq; simp only [BitVec.toNat_ofNat]; omega
  · rw [fld_eq]; apply BitVec.eq_of_toNat_eq; simp only [BitVec.toNat_ofNat]; omega
  · rw [fld_eq]; apply BitVec.eq_of_toNat_eq; simp only [BitVec.toNat_ofNat]; omega
  · rw [fld_eq]; apply BitVec.eq_of_toNat_eq; simp only [BitVec.toNat_ofNat]; omega
  · exact chain_eq w c (by omega)

theorem shape_59 (m : Nat) (hm : m < 64) (o : Nat) (ho : o < 128) (c : Bool) (f0 : BitVec 4) (f1 : BitVec 3) (w : Word)
    (hw : w = word (m * 2 ^ 25 + o * 2 ^ 18) c [(11, f0.toNat), (4, f1.toNat)]) :
    fldNat w 25 6 = m ∧
    fldNat w 18 7 = o ∧
    fldNat w 0 4 = 0 ∧
    fldNat w 7 4 = 0 ∧
    fldNat w 15 3 = 0 ∧
    fld w 11 = f0 ∧
    fld w 4 = f1 ∧
    chainBit w = c := by
  have hf0 := f0.isLt
  have hf1 := f1.isLt
  have hc : c.toNat < 2 := by cases c <;> decide
  have hn : w.toNat = m * 2 ^ 25 + o * 2 ^ 18 + c.toNat * 2 ^ 31 + (f0.toNat * 2 ^ 11 + (f1.toNat * 2 ^ 4 + (0))) := by
    rw [hw, word_nat]
    simp only [sum_fields_cons, sum_fields_nil]
    exact (Nat.mod_eq_of_lt (by omega)).trans (by omega)
  refine ⟨?_, ?_, ?_, ?_, ?_, ?_, ?_, ?_⟩
  · unfold fldNat; omega
  · unfold fldNat; omega
  · unfold fldNat; omega
  · unfold fldNat; omega
  · unfold fldNat; omega
  · rw [fld_eq]; apply BitVec.eq_of_toNat_eq; simp only [BitVec.toNat_ofNat]; omega
  · rw [fld_eq]; apply BitVec.eq_of_toNat_eq; simp only [BitVec.toNat_ofNat]; omega
  · exact chain_eq w c (by omega)

theorem shape_60 (m : Nat) (hm : m < 64) (o : Nat) (ho : o < 128) (c : Bool) (f0 : BitVec 6) (f1 : BitVec 4) (w : Word)
    (hw : w = word (m * 2 ^ 25 + o * 2 ^ 18) c [(11, f0.toNat), (0, f1.toNat)]) :
    fldNat w 25 6 = m ∧
    fldNat w 18 7 = o ∧
    fldNat w 4 7 = 0 ∧
    fldNat w 17 1 = 0 ∧
    fld w 11 = f0 ∧
    fld w 0 = f1 ∧
    chainBit w = c := by
  have hf0 := f0.isLt
  have hf1 := f1.isLt
  have hc : c.toNat < 2 := by cases c <;> decide
  have hn : w.toNat = m * 2 ^ 25 + o * 2 ^ 18 + c.toNat * 2 ^ 31 + (f0.toNat * 2 ^ 11 + (f1.toNat * 2 ^ 0 + (0))) := by
    rw [hw, word_nat]
    simp only [sum_fields_cons, sum_fields_nil]
    exact (Nat.mod_eq_of_lt (by omega)).trans (by omega)
  refine ⟨?_, ?_, ?_, ?_, ?_, ?_, ?_⟩
  · unfold fldNat; omega
  · unfold fldNat; omega
  · unfold fldNat; omega
  · unfold fldNat; omega
  · rw [fld_eq]; apply BitVec.eq_of_toNat_eq; simp only [BitVec.toNat_ofNat]; omega
  · rw [fld_eq]; apply BitVec.eq_of_toNat_eq; simp only [BitVec.toNat_ofNat]; omega
  · exact chain_eq w c (by omega)

theorem shape_61 (m : Nat) (hm : m < 64) (o : Nat) (ho : o < 128) (c : Bool) (f0 : BitVec 6) (w : Word)
    (hw : w = word (m * 2 ^ 25 + o * 2 ^ 18) c [(11, f0.toNat)]) :
    fldNat w 25 6 = m ∧
    fldNat w 18 7 = o ∧
    fldNat w 0 11 = 0 ∧
    fldNat w 17 1 = 0 ∧
    fld w 11 = f0 ∧
    chainBit w = c := by
  have hf0 := f0.isLt
  have hc : c.toNat < 2 := by cases c <;> decide
  have hn : w.toNat = m * 2 ^ 25 + o * 2 ^ 18 + c.toNat * 2 ^ 31 + (f0.toNat * 2 ^ 11 + (0)) := by
    rw [hw, word_nat]
    simp only [sum_fields_cons, sum_fields_nil]
    exact (Nat.mod_eq_of_lt (by omega)).trans (by omega)
  refine ⟨?_, ?_, ?_, ?_, ?_, ?_⟩
  · unfold fldNat; omega
  · unfold fldNat; omega
  · unfold fldNat; omega
  · unfold fldNat; omega
  · rw [fld_eq]; apply BitVec.eq_of_toNat_eq; simp only [BitVec.toNat_ofNat]; omega
  · exact chain_eq w c (by omega)

theorem shape_62 (m : Nat) (hm : m < 64) (o : Nat) (ho : o < 128) (c : Bool) (f0 : BitVec 3) (f1 : BitVec 3) (w : Word)
    (hw : w = word (m * 2 ^ 25 + o * 2 ^ 18) c [(11, f0.toNat), (4, f1.toNat)]) :
    fldNat w 25 6 = m ∧
    fldNat w 18 7 = o ∧
    fldNat w 0 4 = 0 ∧
    fldNat w 7 4 = 0 ∧
    fldNat w 14 4 = 0 ∧
    fld w 11 = f0 ∧
    fld w 4 = f1 ∧
    chainBit w = c := by
  have hf0 := f0.isLt
  have hf1 := f1.isLt
  have hc : c.toNat < 2 := by cases c <;> decide
  have hn : w.toNat = m * 2 ^ 25 + o * 2 ^ 18 + c.toNat * 2 ^ 31 + (f0.toNat * 2 ^ 11 + (f1.toNat * 2 ^ 4 + (0))) := by
    rw [hw, word_nat]
    simp only [sum_fields_cons, sum_fields_nil]
    exact (Nat.mod_eq_of_lt (by omega)).trans (by omega)
  refine ⟨?_, ?_, ?_, ?_, ?_, ?_, ?_, ?_⟩
  · unfold fldNat; omega
  · unfold fldNat; omega
  · unfold fldNat; omega
  · unfold fldNat; omega
  · unfold fldNat; omega
  · rw [fld_eq]; apply BitVec.eq_of_toNat_eq; simp only [BitVec.toNat_ofNat]; omega
  · rw [fld_eq]; apply BitVec.eq_of_toNat_eq; simp only [BitVec.toNat_ofNat]; omega
  · exact chain_eq w c (by omega)

theorem shape_63 (m : Nat) (hm : m < 64) (o : Nat) (ho : o < 128) (q : Nat) (hq : q < 4) (c : Bool) (f0 : BitVec 5) (f1 : BitVec 3) (w : Word)
    (hw : w = word (m * 2 ^ 25 + o * 2 ^ 18 + q) c [(11, f0.toNat), (4, f1.toNat)]) :
    fldNat w 25 6 = m ∧
    fldNat w 18 7 = o ∧
    fldNat w 0 2 = q ∧
    fldNat w 2 2 = 0 ∧
    fldNat w 7 4 = 0 ∧
    fldNat w 16 2 = 0 ∧
    fld w 11 = f0 ∧
    fld w 4 = f1 ∧
    chainBit w = c := by
  have hf0 := f0.isLt
  have hf1 := f1.isLt
  have hc : c.toNat < 2 := by cases c <;> decide
  have hn : w.toNat = m * 2 ^ 25 + o * 2 ^ 18 + q + c.toNat * 2 ^ 31 + (f0.toNat * 2 ^ 11 + (f1.toNat * 2 ^ 4 + (0))) := by
    rw [hw, word_nat]
    simp only [sum_fields_cons, sum_fields_nil]
    exact (Nat.mod_eq_of_lt (by omega)).trans (by omega)
  refine ⟨?_, ?_, ?_, ?_, ?_, ?_, ?_, ?_, ?_⟩
  · unfold fldNat; omega
  · unfold fldNat; omega
  · unfold fldNat; omega
  · unfold fldNat; omega
  · unfold fldNat; omega
  · unfold fldNat; omega
  · rw [fld_eq]; apply BitVec.eq_of_toNat_eq; simp only [BitVec.toNat_ofNat]; omega
  · rw [fld_eq]; apply BitVec.eq_of_toNat_eq; simp only [BitVec.toNat_ofNat]; omega
  · exact chain_eq w c (by omega)

namespace RoundTrip

theorem reset : Statement (.reset) := by
  intro _ wd hEnc
  cases hEnc

theorem codeLineFetch (core : Nat) (asid : BitVec 16) (line : BitVec 64) : Statement (.codeLineFetch core asid line) := by
  intro _ wd hEnc
  cases hEnc

theorem issueStarvationPriority (core part : Nat) : Statement (.issueStarvationPriority core part) := by
  intro _ wd hEnc
  cases hEnc

theorem activeSetExchange (core part : Nat) : Statement (.activeSetExchange core part) := by
  intro _ wd hEnc
  cases hEnc

theorem forcedExchange (core part : Nat) : Statement (.forcedExchange core part) := by
  intro _ wd hEnc
  cases hEnc

theorem yieldExpiry (core place lane : Nat) : Statement (.yieldExpiry core place lane) := by
  intro _ wd hEnc
  cases hEnc

theorem diesetChange (task : Nat) (add : Bool) : Statement (.diesetChange task add) := by
  intro _ wd hEnc
  cases hEnc

theorem loadDataArrival (core id : Nat) : Statement (.loadDataArrival core id) := by
  intro _ wd hEnc
  cases hEnc

theorem storeQueueDrain (core place : Nat) : Statement (.storeQueueDrain core place) := by
  intro _ wd hEnc
  cases hEnc

theorem l2MissTranslation (die : Nat) (asid : BitVec 16) (va : BitVec 57) (acc : AccKind) : Statement (.l2MissTranslation die asid va acc) := by
  intro _ wd hEnc
  cases hEnc

theorem windowWrite (pa : BitVec 52) (size : Nat) (val : BitVec 128) : Statement (.windowWrite pa size val) := by
  intro _ wd hEnc
  cases hEnc

theorem carveoutApply (core setting : Nat) : Statement (.carveoutApply core setting) := by
  intro _ wd hEnc
  cases hEnc

theorem gets (line : LineKey) (core : Nat) : Statement (.gets line core) := by
  intro _ wd hEnc
  cases hEnc

theorem getx (line : LineKey) (core : Nat) : Statement (.getx line core) := by
  intro _ wd hEnc
  cases hEnc

theorem upg (line : LineKey) (core : Nat) : Statement (.upg line core) := by
  intro _ wd hEnc
  cases hEnc

theorem putm (line : LineKey) (core : Nat) : Statement (.putm line core) := by
  intro _ wd hEnc
  cases hEnc

theorem puto (line : LineKey) (core : Nat) : Statement (.puto line core) := by
  intro _ wd hEnc
  cases hEnc

theorem pute (line : LineKey) (core : Nat) : Statement (.pute line core) := by
  intro _ wd hEnc
  cases hEnc

theorem fwdGets (line : LineKey) (core : Nat) : Statement (.fwdGets line core) := by
  intro _ wd hEnc
  cases hEnc

theorem fwdGetx (line : LineKey) (core : Nat) : Statement (.fwdGetx line core) := by
  intro _ wd hEnc
  cases hEnc

theorem inv (line : LineKey) (core : Nat) : Statement (.inv line core) := by
  intro _ wd hEnc
  cases hEnc

theorem data (line : LineKey) (core : Nat) : Statement (.data line core) := by
  intro _ wd hEnc
  cases hEnc

theorem dataEx (line : LineKey) (core : Nat) : Statement (.dataEx line core) := by
  intro _ wd hEnc
  cases hEnc

theorem upgAck (line : LineKey) (core : Nat) : Statement (.upgAck line core) := by
  intro _ wd hEnc
  cases hEnc

theorem invAck (line : LineKey) (core : Nat) : Statement (.invAck line core) := by
  intro _ wd hEnc
  cases hEnc

theorem putAck (line : LineKey) (core : Nat) : Statement (.putAck line core) := by
  intro _ wd hEnc
  cases hEnc

theorem putAckStale (line : LineKey) (core : Nat) : Statement (.putAckStale line core) := by
  intro _ wd hEnc
  cases hEnc

theorem unblock (line : LineKey) (core : Nat) : Statement (.unblock line core) := by
  intro _ wd hEnc
  cases hEnc

theorem homeAgentAccess (pa : BitVec 52) (write : Bool) : Statement (.homeAgentAccess pa write) := by
  intro _ wd hEnc
  cases hEnc

theorem replicaCollapse (asid : BitVec 16) (page : BitVec 41) (writerDie : Nat) : Statement (.replicaCollapse asid page writerDie) := by
  intro _ wd hEnc
  cases hEnc

theorem faultWindowClose (die : Nat) : Statement (.faultWindowClose die) := by
  intro _ wd hEnc
  cases hEnc

theorem remoteRequest (r : RemoteMsg) : Statement (.remoteRequest r) := by
  intro _ wd hEnc
  cases hEnc

theorem keepWaitingNotice (id : Nat) : Statement (.keepWaitingNotice id) := by
  intro _ wd hEnc
  cases hEnc

theorem keepWaitingReceipt (id : Nat) : Statement (.keepWaitingReceipt id) := by
  intro _ wd hEnc
  cases hEnc

theorem remoteReply (id : Nat) (data : List (BitVec 8)) (redirected : Bool) (ending : RemoteEnd) :
    Statement (.remoteReply id data redirected ending) := by
  intro _ wd hEnc
  cases hEnc

theorem remoteTimeout (id : Nat) : Statement (.remoteTimeout id) := by
  intro _ wd hEnc
  cases hEnc

theorem numericWindowRestart (core cls : Nat) : Statement (.numericWindowRestart core cls) := by
  intro _ wd hEnc
  cases hEnc

theorem numericThresholdTrap (core place lane : Nat) : Statement (.numericThresholdTrap core place lane) := by
  intro _ wd hEnc
  cases hEnc

theorem numEvtClear (core : Nat) (val : BitVec 64) : Statement (.numEvtClear core val) := by
  intro _ wd hEnc
  cases hEnc

theorem mmaStart (core : Nat) : Statement (.mmaStart core) := by
  intro _ wd hEnc
  cases hEnc

theorem mmaComplete (core : Nat) : Statement (.mmaComplete core) := by
  intro _ wd hEnc
  cases hEnc

theorem copyComplete (core id : Nat) : Statement (.copyComplete core id) := by
  intro _ wd hEnc
  cases hEnc

theorem badgerCommandArrival (id : Nat) : Statement (.badgerCommandArrival id) := by
  intro _ wd hEnc
  cases hEnc

theorem ttComplete (id : Nat) : Statement (.ttComplete id) := by
  intro _ wd hEnc
  cases hEnc

theorem pageFree (pool page : Nat) : Statement (.pageFree pool page) := by
  intro _ wd hEnc
  cases hEnc

theorem smplComplete (core id : Nat) : Statement (.smplComplete core id) := by
  intro _ wd hEnc
  cases hEnc

theorem hacRoutine (core place : Nat) : Statement (.hacRoutine core place) := by
  intro _ wd hEnc
  cases hEnc

theorem pollReread (core place lane : Nat) : Statement (.pollReread core place lane) := by
  intro _ wd hEnc
  cases hEnc

theorem regionCommit (core place lane : Nat) : Statement (.regionCommit core place lane) := by
  intro _ wd hEnc
  cases hEnc

theorem abortTargetResume (core place lane : Nat) : Statement (.abortTargetResume core place lane) := by
  intro _ wd hEnc
  cases hEnc

theorem regionIrrevocable (core place lane : Nat) : Statement (.regionIrrevocable core place lane) := by
  intro _ wd hEnc
  cases hEnc

theorem regionWatchdog (core place lane : Nat) : Statement (.regionWatchdog core place lane) := by
  intro _ wd hEnc
  cases hEnc

theorem dflushComplete (task : Nat) : Statement (.dflushComplete task) := by
  intro _ wd hEnc
  cases hEnc

theorem segmentStart (task wave : Nat) : Statement (.segmentStart task wave) := by
  intro _ wd hEnc
  cases hEnc

theorem segmentWatchdog (task wave : Nat) : Statement (.segmentWatchdog task wave) := by
  intro _ wd hEnc
  cases hEnc

theorem pgreqComplete (id : Nat) : Statement (.pgreqComplete id) := by
  intro _ wd hEnc
  cases hEnc

theorem taskDecrement (task : Nat) (amount : BitVec 32) (err : Bool) : Statement (.taskDecrement task amount err) := by
  intro _ wd hEnc
  cases hEnc

theorem counterWindowWrite (task nbytes : Nat) (val : BitVec 64) : Statement (.counterWindowWrite task nbytes val) := by
  intro _ wd hEnc
  cases hEnc

theorem agingTick (task : Nat) : Statement (.agingTick task) := by
  intro _ wd hEnc
  cases hEnc

theorem launchHeaderCheck (task : Nat) : Statement (.launchHeaderCheck task) := by
  intro _ wd hEnc
  cases hEnc

theorem workgroupDispatch (task core base : Nat) : Statement (.workgroupDispatch task core base) := by
  intro _ wd hEnc
  cases hEnc

theorem preemptDecision (task core : Nat) : Statement (.preemptDecision task core) := by
  intro _ wd hEnc
  cases hEnc

theorem preemptReq (core place lane : Nat) : Statement (.preemptReq core place lane) := by
  intro _ wd hEnc
  cases hEnc

theorem forcedSave (task wg : Nat) : Statement (.forcedSave task wg) := by
  intro _ wd hEnc
  cases hEnc

theorem contextRestore (task core : Nat) : Statement (.contextRestore task core) := by
  intro _ wd hEnc
  cases hEnc

theorem launchWatchdog (task : Nat) : Statement (.launchWatchdog task) := by
  intro _ wd hEnc
  cases hEnc

theorem launchEnd (task : Nat) : Statement (.launchEnd task) := by
  intro _ wd hEnc
  cases hEnc

theorem taskCompletion (task : Nat) : Statement (.taskCompletion task) := by
  intro _ wd hEnc
  cases hEnc

theorem packetForward (p : Packet) : Statement (.packetForward p) := by
  intro _ wd hEnc
  cases hEnc

theorem linkFailure (links : List Nat) : Statement (.linkFailure links) := by
  intro _ wd hEnc
  cases hEnc

theorem moduleFailure (failed spare : Nat) : Statement (.moduleFailure failed spare) := by
  intro _ wd hEnc
  cases hEnc

theorem collComplete (group : Nat) (ranks : List CollBlock) : Statement (.collComplete group ranks) := by
  intro _ wd hEnc
  cases hEnc

theorem rsigArrival (r : RsigMsg) : Statement (.rsigArrival r) := by
  intro _ wd hEnc
  cases hEnc

theorem hostMemoryWrite (pa : BitVec 52) (data : List (BitVec 8)) : Statement (.hostMemoryWrite pa data) := by
  intro _ wd hEnc
  cases hEnc

theorem hostMemoryRead (pa : BitVec 52) (n : Nat) : Statement (.hostMemoryRead pa n) := by
  intro _ wd hEnc
  cases hEnc

theorem mailboxInDoorbell (msg : List (BitVec 8)) : Statement (.mailboxInDoorbell msg) := by
  intro _ wd hEnc
  cases hEnc

theorem mailboxOutPost (msg : List (BitVec 8)) : Statement (.mailboxOutPost msg) := by
  intro _ wd hEnc
  cases hEnc

theorem mailboxOutAck (val : BitVec 64) : Statement (.mailboxOutAck val) := by
  intro _ wd hEnc
  cases hEnc

theorem numiStatClear (val : BitVec 64) : Statement (.numiStatClear val) := by
  intro _ wd hEnc
  cases hEnc

theorem debugRequest (core : Nat) : Statement (.debugRequest core) := by
  intro _ wd hEnc
  cases hEnc

theorem breakpointRelease (core place lane : Nat) : Statement (.breakpointRelease core place lane) := by
  intro _ wd hEnc
  cases hEnc

theorem ueMessageReceive (port : Nat) (conn : BitVec 32) (msg : UeMsg) : Statement (.ueMessageReceive port conn msg) := by
  intro _ wd hEnc
  cases hEnc

theorem ueRingEnable (port : Nat) (val : BitVec 64) : Statement (.ueRingEnable port val) := by
  intro _ wd hEnc
  cases hEnc

theorem ueConnectionSetup (port : Nat) (conn : BitVec 32) (reliableOrdered : Bool) : Statement (.ueConnectionSetup port conn reliableOrdered) := by
  intro _ wd hEnc
  cases hEnc

theorem tkeRecord (port : Nat) : Statement (.tkeRecord port) := by
  intro _ wd hEnc
  cases hEnc

theorem tkeLogWrite (port : Nat) (val : BitVec 64) : Statement (.tkeLogWrite port val) := by
  intro _ wd hEnc
  cases hEnc

theorem dkePost (port : Nat) : Statement (.dkePost port) := by
  intro _ wd hEnc
  cases hEnc

theorem dkeChunkTimeout (port slot : Nat) : Statement (.dkeChunkTimeout port slot) := by
  intro _ wd hEnc
  cases hEnc

theorem eccCorrection (unit : BitVec 32) (loc synd : BitVec 64) : Statement (.eccCorrection unit loc synd) := by
  intro _ wd hEnc
  cases hEnc

theorem journalAppend : Statement (.journalAppend) := by
  intro _ wd hEnc
  cases hEnc

theorem uncorrectableError (place : PoisonPlace) : Statement (.uncorrectableError place) := by
  intro _ wd hEnc
  cases hEnc

theorem powerFail : Statement (.powerFail) := by
  intro _ wd hEnc
  cases hEnc

theorem clockThrottle (mhz : Nat) : Statement (.clockThrottle mhz) := by
  intro _ wd hEnc
  cases hEnc

theorem attestationRequest (nonce : List (BitVec 8)) : Statement (.attestationRequest nonce) := by
  intro _ wd hEnc
  cases hEnc

theorem haltQuiesceComplete (core : Nat) : Statement (.haltQuiesceComplete core) := by
  intro _ wd hEnc
  cases hEnc

theorem haltQuiesceTimeout (core : Nat) : Statement (.haltQuiesceTimeout core) := by
  intro _ wd hEnc
  cases hEnc

theorem asidDestroy (asid : BitVec 16) : Statement (.asidDestroy asid) := by
  intro _ wd hEnc
  cases hEnc

theorem registerWrite (r : RegTarget) : Statement (.registerWrite r) := by
  intro _ wd hEnc
  cases hEnc

theorem ximm (i : BitVec 21) : Statement (.ximm i) := by
  intro _ wd hEnc
  have hEnc : word 0x7E000000 false [(0, i.toNat)] = wd := by injection hEnc
  obtain ⟨hMaj, hSel, hF0, hChain⟩ := shape_0 63 (by decide) 0 (by decide) i wd hEnc.symm
  rw [decode_major_3F wd hMaj, decode3F, hChain, hSel, hF0]
  exact (if_neg Bool.false_ne_true).trans (row_zero (w := wd))

theorem guard (n : BitVec 1) (p : BitVec 3) : Statement (.guard n p) := by
  intro _ wd hEnc
  have hEnc : word 0x7E200000 false [(3, n.toNat), (0, p.toNat)] = wd := by injection hEnc
  obtain ⟨hMaj, hSel, hZ0, hF0, hF1, hChain⟩ := shape_1 63 (by decide) 1 (by decide) n p wd hEnc.symm
  rw [decode_major_3F wd hMaj, decode3F, hChain, hSel, hF0, hF1]
  exact (if_neg Bool.false_ne_true).trans (row_1 (w := wd) hZ0)

theorem cpol (e : BitVec 1) (q : BitVec 2) (o : BitVec 2) (s : BitVec 3) : Statement (.cpol e q o s) := by
  intro _ wd hEnc
  have hEnc : word 0x7E400000 false [(7, e.toNat), (5, q.toNat), (3, o.toNat), (0, s.toNat)] = wd := by injection hEnc
  obtain ⟨hMaj, hSel, hZ0, hF0, hF1, hF2, hF3, hChain⟩ := shape_2 63 (by decide) 2 (by decide) e q o s wd hEnc.symm
  rw [decode_major_3F wd hMaj, decode3F, hChain, hSel, hF0, hF1, hF2, hF3]
  exact (if_neg Bool.false_ne_true).trans (row_1 (w := wd) hZ0)

theorem probe (p : BitVec 3) : Statement (.probe p) := by
  intro _ wd hEnc
  have hEnc : word 0x7E600000 false [(0, p.toNat)] = wd := by injection hEnc
  obtain ⟨hMaj, hSel, hZ0, hF0, hChain⟩ := shape_3 63 (by decide) 3 (by decide) p wd hEnc.symm
  rw [decode_major_3F wd hMaj, decode3F, hChain, hSel, hF0]
  exact (if_neg Bool.false_ne_true).trans (row_1 (w := wd) hZ0)

theorem round (r : BitVec 3) : Statement (.round r) := by
  intro _ wd hEnc
  have hEnc : word 0x7E800000 false [(0, r.toNat)] = wd := by injection hEnc
  obtain ⟨hMaj, hSel, hZ0, hF0, hChain⟩ := shape_3 63 (by decide) 4 (by decide) r wd hEnc.symm
  rw [decode_major_3F wd hMaj, decode3F, hChain, hSel, hF0]
  exact (if_neg Bool.false_ne_true).trans (row_1 (w := wd) hZ0)

theorem sat : Statement (.sat) := by
  intro _ wd hEnc
  have hEnc : word 0x7EA00000 false [] = wd := by injection hEnc
  obtain ⟨hMaj, hSel, hZ0, hChain⟩ := shape_4 63 (by decide) 5 (by decide) wd hEnc.symm
  rw [decode_major_3F wd hMaj, decode3F, hChain, hSel]
  exact (if_neg Bool.false_ne_true).trans (row_1 (w := wd) hZ0)

theorem nop (c : Bool) : Statement (.nop c) := by
  intro _ wd hEnc
  have hEnc : word 0x00000000 c [] = wd := by injection hEnc
  obtain ⟨hMaj, hSel, hZ0, hChain⟩ := shape_5 0 (by decide) 0 (by decide) c wd hEnc.symm
  rw [decode_major_00 wd hMaj, decode00, hSel, hChain]
  exact row_1 (w := wd) hZ0

theorem exit (c : Bool) : Statement (.exit c) := by
  intro _ wd hEnc
  have hEnc : word 0x00040000 c [] = wd := by injection hEnc
  obtain ⟨hMaj, hSel, hZ0, hChain⟩ := shape_5 0 (by decide) 1 (by decide) c wd hEnc.symm
  rw [decode_major_00 wd hMaj, decode00, hSel, hChain]
  exact row_1 (w := wd) hZ0

theorem trap (c : Bool) (k : BitVec 14) : Statement (.trap c k) := by
  intro _ wd hEnc
  have hEnc : word 0x00080000 c [(4, k.toNat)] = wd := by injection hEnc
  obtain ⟨hMaj, hSel, hZ0, hF0, hChain⟩ := shape_6 0 (by decide) 2 (by decide) c k wd hEnc.symm
  rw [decode_major_00 wd hMaj, decode00, hSel, hF0, hChain]
  exact row_1 (w := wd) hZ0

theorem yield (c : Bool) : Statement (.yield c) := by
  intro _ wd hEnc
  have hEnc : word 0x000C0000 c [] = wd := by injection hEnc
  obtain ⟨hMaj, hSel, hZ0, hChain⟩ := shape_5 0 (by decide) 3 (by decide) c wd hEnc.symm
  rw [decode_major_00 wd hMaj, decode00, hSel, hChain]
  exact row_1 (w := wd) hZ0

theorem step (c : Bool) : Statement (.step c) := by
  intro _ wd hEnc
  have hEnc : word 0x00100000 c [] = wd := by injection hEnc
  obtain ⟨hMaj, hSel, hZ0, hChain⟩ := shape_5 0 (by decide) 4 (by decide) c wd hEnc.symm
  rw [decode_major_00 wd hMaj, decode00, hSel, hChain]
  exact row_1 (w := wd) hZ0

theorem brk (c : Bool) : Statement (.brk c) := by
  intro _ wd hEnc
  have hEnc : word 0x00140000 c [] = wd := by injection hEnc
  obtain ⟨hMaj, hSel, hZ0, hChain⟩ := shape_5 0 (by decide) 5 (by decide) c wd hEnc.symm
  rw [decode_major_00 wd hMaj, decode00, hSel, hChain]
  exact row_1 (w := wd) hZ0

theorem tret (c : Bool) : Statement (.tret c) := by
  intro _ wd hEnc
  have hEnc : word 0x00180000 c [] = wd := by injection hEnc
  obtain ⟨hMaj, hSel, hZ0, hChain⟩ := shape_5 0 (by decide) 6 (by decide) c wd hEnc.symm
  rw [decode_major_00 wd hMaj, decode00, hSel, hChain]
  exact row_1 (w := wd) hZ0

theorem ydone (c : Bool) : Statement (.ydone c) := by
  intro _ wd hEnc
  have hEnc : word 0x001C0000 c [] = wd := by injection hEnc
  obtain ⟨hMaj, hSel, hZ0, hChain⟩ := shape_5 0 (by decide) 7 (by decide) c wd hEnc.symm
  rw [decode_major_00 wd hMaj, decode00, hSel, hChain]
  exact row_1 (w := wd) hZ0

theorem snap (c : Bool) (k : BitVec 14) : Statement (.snap c k) := by
  intro _ wd hEnc
  have hEnc : word 0x00200000 c [(4, k.toNat)] = wd := by injection hEnc
  obtain ⟨hMaj, hSel, hZ0, hF0, hChain⟩ := shape_6 0 (by decide) 8 (by decide) c k wd hEnc.symm
  rw [decode_major_00 wd hMaj, decode00, hSel, hF0, hChain]
  exact row_1 (w := wd) hZ0

theorem bra (c : Bool) (d : BitVec 18) : Statement (.bra c d) := by
  intro _ wd hEnc
  have hEnc : word 0x02000000 c [(0, d.toNat)] = wd := by injection hEnc
  obtain ⟨hMaj, hSel, hZ0, hF0, hChain⟩ := shape_7 1 (by decide) 0 (by decide) c d wd hEnc.symm
  rw [decode_major_01 wd hMaj, decode01, hSel, hF0, hChain]
  exact row_1 (w := wd) hZ0

theorem brt (c : Bool) (p : BitVec 3) (d : BitVec 18) : Statement (.brt c p d) := by
  intro _ wd hEnc
  have hEnc : word 0x02200000 c [(18, p.toNat), (0, d.toNat)] = wd := by injection hEnc
  obtain ⟨hMaj, hSel, hF0, hF1, hChain⟩ := shape_8 1 (by decide) 1 (by decide) c p d wd hEnc.symm
  rw [decode_major_01 wd hMaj, decode01, hSel, hF0, hF1, hChain]
  exact row_zero (w := wd)

theorem brf (c : Bool) (p : BitVec 3) (d : BitVec 18) : Statement (.brf c p d) := by
  intro _ wd hEnc
  have hEnc : word 0x02400000 c [(18, p.toNat), (0, d.toNat)] = wd := by injection hEnc
  obtain ⟨hMaj, hSel, hF0, hF1, hChain⟩ := shape_8 1 (by decide) 2 (by decide) c p d wd hEnc.symm
  rw [decode_major_01 wd hMaj, decode01, hSel, hF0, hF1, hChain]
  exact row_zero (w := wd)

theorem call (c : Bool) (d : BitVec 18) : Statement (.call c d) := by
  intro _ wd hEnc
  have hEnc : word 0x02600000 c [(0, d.toNat)] = wd := by injection hEnc
  obtain ⟨hMaj, hSel, hZ0, hF0, hChain⟩ := shape_7 1 (by decide) 3 (by decide) c d wd hEnc.symm
  rw [decode_major_01 wd hMaj, decode01, hSel, hF0, hChain]
  exact row_1 (w := wd) hZ0

theorem brany (c : Bool) (p : BitVec 3) (d : BitVec 18) : Statement (.brany c p d) := by
  intro _ wd hEnc
  have hEnc : word 0x02800000 c [(18, p.toNat), (0, d.toNat)] = wd := by injection hEnc
  obtain ⟨hMaj, hSel, hF0, hF1, hChain⟩ := shape_8 1 (by decide) 4 (by decide) c p d wd hEnc.symm
  rw [decode_major_01 wd hMaj, decode01, hSel, hF0, hF1, hChain]
  exact row_zero (w := wd)

theorem brall (c : Bool) (p : BitVec 3) (d : BitVec 18) : Statement (.brall c p d) := by
  intro _ wd hEnc
  have hEnc : word 0x02A00000 c [(18, p.toNat), (0, d.toNat)] = wd := by injection hEnc
  obtain ⟨hMaj, hSel, hF0, hF1, hChain⟩ := shape_8 1 (by decide) 5 (by decide) c p d wd hEnc.symm
  rw [decode_major_01 wd hMaj, decode01, hSel, hF0, hF1, hChain]
  exact row_zero (w := wd)

theorem bri (c : Bool) (a : BitVec 7) : Statement (.bri c a) := by
  intro _ wd hEnc
  have hEnc : word 0x04000000 c [(11, a.toNat)] = wd := by injection hEnc
  obtain ⟨hMaj, hSel, hZ0, hZ1, hF0, hChain⟩ := shape_9 2 (by decide) 0 (by decide) c a wd hEnc.symm
  rw [decode_major_02 wd hMaj, decode02, hSel, hF0, hChain]
  exact row_2 (w := wd) hZ0 hZ1

theorem calli (c : Bool) (d : BitVec 7) (a : BitVec 7) : Statement (.calli c d a) := by
  intro _ wd hEnc
  have hEnc : word 0x04000001 c [(18, d.toNat), (11, a.toNat)] = wd := by injection hEnc
  obtain ⟨hMaj, hSel, hZ0, hF0, hF1, hChain⟩ := shape_10 2 (by decide) 1 (by decide) c d a wd hEnc.symm
  rw [decode_major_02 wd hMaj, decode02, hSel, hF0, hF1, hChain]
  exact row_1 (w := wd) hZ0

theorem ret (c : Bool) (a : BitVec 7) : Statement (.ret c a) := by
  intro _ wd hEnc
  have hEnc : word 0x04000002 c [(11, a.toNat)] = wd := by injection hEnc
  obtain ⟨hMaj, hSel, hZ0, hZ1, hF0, hChain⟩ := shape_9 2 (by decide) 2 (by decide) c a wd hEnc.symm
  rw [decode_major_02 wd hMaj, decode02, hSel, hF0, hChain]
  exact row_2 (w := wd) hZ0 hZ1

theorem join (c : Bool) (m : BitVec 4) : Statement (.join c m) := by
  intro _ wd hEnc
  have hEnc : word 0x06000000 c [(11, m.toNat)] = wd := by injection hEnc
  obtain ⟨hMaj, hSel, hZ0, hZ1, hF0, hChain⟩ := shape_11 3 (by decide) 0 (by decide) c m wd hEnc.symm
  rw [decode_major_03 wd hMaj, decode03, hSel, hF0, hChain]
  exact row_2 (w := wd) hZ0 hZ1

theorem leave (c : Bool) (m : BitVec 4) : Statement (.leave c m) := by
  intro _ wd hEnc
  have hEnc : word 0x06040000 c [(11, m.toNat)] = wd := by injection hEnc
  obtain ⟨hMaj, hSel, hZ0, hZ1, hF0, hChain⟩ := shape_11 3 (by decide) 1 (by decide) c m wd hEnc.symm
  rw [decode_major_03 wd hMaj, decode03, hSel, hF0, hChain]
  exact row_2 (w := wd) hZ0 hZ1

theorem waitm (c : Bool) (m : BitVec 4) : Statement (.waitm c m) := by
  intro _ wd hEnc
  have hEnc : word 0x06080000 c [(11, m.toNat)] = wd := by injection hEnc
  obtain ⟨hMaj, hSel, hZ0, hZ1, hF0, hChain⟩ := shape_11 3 (by decide) 2 (by decide) c m wd hEnc.symm
  rw [decode_major_03 wd hMaj, decode03, hSel, hF0, hChain]
  exact row_2 (w := wd) hZ0 hZ1

theorem mrd (c : Bool) (s : BitVec 5) (m : BitVec 4) : Statement (.mrd c s m) := by
  intro _ wd hEnc
  have hEnc : word 0x060C0000 c [(11, s.toNat), (4, m.toNat)] = wd := by injection hEnc
  obtain ⟨hMaj, hSel, hZ0, hZ1, hZ2, hF0, hF1, hChain⟩ := shape_12 3 (by decide) 3 (by decide) c s m wd hEnc.symm
  rw [decode_major_03 wd hMaj, decode03, hSel, hF0, hF1, hChain]
  exact row_3 (w := wd) hZ0 hZ1 hZ2

theorem mwr (c : Bool) (s : BitVec 5) (m : BitVec 4) : Statement (.mwr c s m) := by
  intro _ wd hEnc
  have hEnc : word 0x06100000 c [(11, s.toNat), (4, m.toNat)] = wd := by injection hEnc
  obtain ⟨hMaj, hSel, hZ0, hZ1, hZ2, hF0, hF1, hChain⟩ := shape_12 3 (by decide) 4 (by decide) c s m wd hEnc.symm
  rw [decode_major_03 wd hMaj, decode03, hSel, hF0, hF1, hChain]
  exact row_3 (w := wd) hZ0 hZ1 hZ2

theorem mact (c : Bool) (s : BitVec 5) : Statement (.mact c s) := by
  intro _ wd hEnc
  have hEnc : word 0x06140000 c [(11, s.toNat)] = wd := by injection hEnc
  obtain ⟨hMaj, hSel, hZ0, hZ1, hF0, hChain⟩ := shape_13 3 (by decide) 5 (by decide) c s wd hEnc.symm
  rw [decode_major_03 wd hMaj, decode03, hSel, hF0, hChain]
  exact row_2 (w := wd) hZ0 hZ1

theorem bar (c : Bool) : Statement (.bar c) := by
  intro _ wd hEnc
  have hEnc : word 0x06180000 c [] = wd := by injection hEnc
  obtain ⟨hMaj, hSel, hZ0, hChain⟩ := shape_5 3 (by decide) 6 (by decide) c wd hEnc.symm
  rw [decode_major_03 wd hMaj, decode03, hSel, hChain]
  exact row_1 (w := wd) hZ0

theorem barl (c : Bool) (l : BitVec 3) : Statement (.barl c l) := by
  intro _ wd hEnc
  have hEnc : word 0x061C0000 c [(11, l.toNat)] = wd := by injection hEnc
  obtain ⟨hMaj, hSel, hZ0, hZ1, hF0, hChain⟩ := shape_14 3 (by decide) 7 (by decide) c l wd hEnc.symm
  rw [decode_major_03 wd hMaj, decode03, hSel, hF0, hChain]
  exact row_2 (w := wd) hZ0 hZ1

theorem addVv (c : Bool) (d : BitVec 7) (a : BitVec 7) (b : BitVec 7) : Statement (.addVv c d a b) := by
  intro _ wd hEnc
  have hEnc : word 0x08000000 c [(18, d.toNat), (11, a.toNat), (4, b.toNat)] = wd := by injection hEnc
  obtain ⟨hMaj, hSel, hF0, hF1, hF2, hChain⟩ := shape_15 4 (by decide) 0 (by decide) c d a b wd hEnc.symm
  rw [decode_major_04 wd hMaj, decode04, hSel, hF0, hF1, hF2, hChain]
  exact row_zero (w := wd)

theorem subVv (c : Bool) (d : BitVec 7) (a : BitVec 7) (b : BitVec 7) : Statement (.subVv c d a b) := by
  intro _ wd hEnc
  have hEnc : word 0x08000001 c [(18, d.toNat), (11, a.toNat), (4, b.toNat)] = wd := by injection hEnc
  obtain ⟨hMaj, hSel, hF0, hF1, hF2, hChain⟩ := shape_15 4 (by decide) 1 (by decide) c d a b wd hEnc.symm
  rw [decode_major_04 wd hMaj, decode04, hSel, hF0, hF1, hF2, hChain]
  exact row_zero (w := wd)

theorem mulVv (c : Bool) (d : BitVec 7) (a : BitVec 7) (b : BitVec 7) : Statement (.mulVv c d a b) := by
  intro _ wd hEnc
  have hEnc : word 0x08000002 c [(18, d.toNat), (11, a.toNat), (4, b.toNat)] = wd := by injection hEnc
  obtain ⟨hMaj, hSel, hF0, hF1, hF2, hChain⟩ := shape_15 4 (by decide) 2 (by decide) c d a b wd hEnc.symm
  rw [decode_major_04 wd hMaj, decode04, hSel, hF0, hF1, hF2, hChain]
  exact row_zero (w := wd)

theorem mulhiVv (c : Bool) (d : BitVec 7) (a : BitVec 7) (b : BitVec 7) : Statement (.mulhiVv c d a b) := by
  intro _ wd hEnc
  have hEnc : word 0x08000003 c [(18, d.toNat), (11, a.toNat), (4, b.toNat)] = wd := by injection hEnc
  obtain ⟨hMaj, hSel, hF0, hF1, hF2, hChain⟩ := shape_15 4 (by decide) 3 (by decide) c d a b wd hEnc.symm
  rw [decode_major_04 wd hMaj, decode04, hSel, hF0, hF1, hF2, hChain]
  exact row_zero (w := wd)

theorem mulhiNVv (c : Bool) (d : BitVec 7) (a : BitVec 7) (b : BitVec 7) : Statement (.mulhiNVv c d a b) := by
  intro _ wd hEnc
  have hEnc : word 0x08000004 c [(18, d.toNat), (11, a.toNat), (4, b.toNat)] = wd := by injection hEnc
  obtain ⟨hMaj, hSel, hF0, hF1, hF2, hChain⟩ := shape_15 4 (by decide) 4 (by decide) c d a b wd hEnc.symm
  rw [decode_major_04 wd hMaj, decode04, hSel, hF0, hF1, hF2, hChain]
  exact row_zero (w := wd)

theorem minVv (c : Bool) (d : BitVec 7) (a : BitVec 7) (b : BitVec 7) : Statement (.minVv c d a b) := by
  intro _ wd hEnc
  have hEnc : word 0x08000005 c [(18, d.toNat), (11, a.toNat), (4, b.toNat)] = wd := by injection hEnc
  obtain ⟨hMaj, hSel, hF0, hF1, hF2, hChain⟩ := shape_15 4 (by decide) 5 (by decide) c d a b wd hEnc.symm
  rw [decode_major_04 wd hMaj, decode04, hSel, hF0, hF1, hF2, hChain]
  exact row_zero (w := wd)

theorem maxVv (c : Bool) (d : BitVec 7) (a : BitVec 7) (b : BitVec 7) : Statement (.maxVv c d a b) := by
  intro _ wd hEnc
  have hEnc : word 0x08000006 c [(18, d.toNat), (11, a.toNat), (4, b.toNat)] = wd := by injection hEnc
  obtain ⟨hMaj, hSel, hF0, hF1, hF2, hChain⟩ := shape_15 4 (by decide) 6 (by decide) c d a b wd hEnc.symm
  rw [decode_major_04 wd hMaj, decode04, hSel, hF0, hF1, hF2, hChain]
  exact row_zero (w := wd)

theorem minNVv (c : Bool) (d : BitVec 7) (a : BitVec 7) (b : BitVec 7) : Statement (.minNVv c d a b) := by
  intro _ wd hEnc
  have hEnc : word 0x08000007 c [(18, d.toNat), (11, a.toNat), (4, b.toNat)] = wd := by injection hEnc
  obtain ⟨hMaj, hSel, hF0, hF1, hF2, hChain⟩ := shape_15 4 (by decide) 7 (by decide) c d a b wd hEnc.symm
  rw [decode_major_04 wd hMaj, decode04, hSel, hF0, hF1, hF2, hChain]
  exact row_zero (w := wd)

theorem maxNVv (c : Bool) (d : BitVec 7) (a : BitVec 7) (b : BitVec 7) : Statement (.maxNVv c d a b) := by
  intro _ wd hEnc
  have hEnc : word 0x08000008 c [(18, d.toNat), (11, a.toNat), (4, b.toNat)] = wd := by injection hEnc
  obtain ⟨hMaj, hSel, hF0, hF1, hF2, hChain⟩ := shape_15 4 (by decide) 8 (by decide) c d a b wd hEnc.symm
  rw [decode_major_04 wd hMaj, decode04, hSel, hF0, hF1, hF2, hChain]
  exact row_zero (w := wd)

theorem andVv (c : Bool) (d : BitVec 7) (a : BitVec 7) (b : BitVec 7) : Statement (.andVv c d a b) := by
  intro _ wd hEnc
  have hEnc : word 0x08000009 c [(18, d.toNat), (11, a.toNat), (4, b.toNat)] = wd := by injection hEnc
  obtain ⟨hMaj, hSel, hF0, hF1, hF2, hChain⟩ := shape_15 4 (by decide) 9 (by decide) c d a b wd hEnc.symm
  rw [decode_major_04 wd hMaj, decode04, hSel, hF0, hF1, hF2, hChain]
  exact row_zero (w := wd)

theorem orVv (c : Bool) (d : BitVec 7) (a : BitVec 7) (b : BitVec 7) : Statement (.orVv c d a b) := by
  intro _ wd hEnc
  have hEnc : word 0x0800000A c [(18, d.toNat), (11, a.toNat), (4, b.toNat)] = wd := by injection hEnc
  obtain ⟨hMaj, hSel, hF0, hF1, hF2, hChain⟩ := shape_15 4 (by decide) 10 (by decide) c d a b wd hEnc.symm
  rw [decode_major_04 wd hMaj, decode04, hSel, hF0, hF1, hF2, hChain]
  exact row_zero (w := wd)

theorem xorVv (c : Bool) (d : BitVec 7) (a : BitVec 7) (b : BitVec 7) : Statement (.xorVv c d a b) := by
  intro _ wd hEnc
  have hEnc : word 0x0800000B c [(18, d.toNat), (11, a.toNat), (4, b.toNat)] = wd := by injection hEnc
  obtain ⟨hMaj, hSel, hF0, hF1, hF2, hChain⟩ := shape_15 4 (by decide) 11 (by decide) c d a b wd hEnc.symm
  rw [decode_major_04 wd hMaj, decode04, hSel, hF0, hF1, hF2, hChain]
  exact row_zero (w := wd)

theorem shlVv (c : Bool) (d : BitVec 7) (a : BitVec 7) (b : BitVec 7) : Statement (.shlVv c d a b) := by
  intro _ wd hEnc
  have hEnc : word 0x0800000C c [(18, d.toNat), (11, a.toNat), (4, b.toNat)] = wd := by injection hEnc
  obtain ⟨hMaj, hSel, hF0, hF1, hF2, hChain⟩ := shape_15 4 (by decide) 12 (by decide) c d a b wd hEnc.symm
  rw [decode_major_04 wd hMaj, decode04, hSel, hF0, hF1, hF2, hChain]
  exact row_zero (w := wd)

theorem shrVv (c : Bool) (d : BitVec 7) (a : BitVec 7) (b : BitVec 7) : Statement (.shrVv c d a b) := by
  intro _ wd hEnc
  have hEnc : word 0x0800000D c [(18, d.toNat), (11, a.toNat), (4, b.toNat)] = wd := by injection hEnc
  obtain ⟨hMaj, hSel, hF0, hF1, hF2, hChain⟩ := shape_15 4 (by decide) 13 (by decide) c d a b wd hEnc.symm
  rw [decode_major_04 wd hMaj, decode04, hSel, hF0, hF1, hF2, hChain]
  exact row_zero (w := wd)

theorem sarVv (c : Bool) (d : BitVec 7) (a : BitVec 7) (b : BitVec 7) : Statement (.sarVv c d a b) := by
  intro _ wd hEnc
  have hEnc : word 0x0800000E c [(18, d.toNat), (11, a.toNat), (4, b.toNat)] = wd := by injection hEnc
  obtain ⟨hMaj, hSel, hF0, hF1, hF2, hChain⟩ := shape_15 4 (by decide) 14 (by decide) c d a b wd hEnc.symm
  rw [decode_major_04 wd hMaj, decode04, hSel, hF0, hF1, hF2, hChain]
  exact row_zero (w := wd)

theorem rolVv (c : Bool) (d : BitVec 7) (a : BitVec 7) (b : BitVec 7) : Statement (.rolVv c d a b) := by
  intro _ wd hEnc
  have hEnc : word 0x0800000F c [(18, d.toNat), (11, a.toNat), (4, b.toNat)] = wd := by injection hEnc
  obtain ⟨hMaj, hSel, hF0, hF1, hF2, hChain⟩ := shape_15 4 (by decide) 15 (by decide) c d a b wd hEnc.symm
  rw [decode_major_04 wd hMaj, decode04, hSel, hF0, hF1, hF2, hChain]
  exact row_zero (w := wd)

theorem addVs (c : Bool) (d : BitVec 7) (a : BitVec 7) (b : BitVec 5) : Statement (.addVs c d a b) := by
  intro _ wd hEnc
  have hEnc : word 0x0A000000 c [(18, d.toNat), (11, a.toNat), (4, b.toNat)] = wd := by injection hEnc
  obtain ⟨hMaj, hSel, hZ0, hF0, hF1, hF2, hChain⟩ := shape_16 5 (by decide) 0 (by decide) c d a b wd hEnc.symm
  rw [decode_major_05 wd hMaj, decode05, hSel, hF0, hF1, hF2, hChain]
  exact row_1 (w := wd) hZ0

theorem subVs (c : Bool) (d : BitVec 7) (a : BitVec 7) (b : BitVec 5) : Statement (.subVs c d a b) := by
  intro _ wd hEnc
  have hEnc : word 0x0A000001 c [(18, d.toNat), (11, a.toNat), (4, b.toNat)] = wd := by injection hEnc
  obtain ⟨hMaj, hSel, hZ0, hF0, hF1, hF2, hChain⟩ := shape_16 5 (by decide) 1 (by decide) c d a b wd hEnc.symm
  rw [decode_major_05 wd hMaj, decode05, hSel, hF0, hF1, hF2, hChain]
  exact row_1 (w := wd) hZ0

theorem mulVs (c : Bool) (d : BitVec 7) (a : BitVec 7) (b : BitVec 5) : Statement (.mulVs c d a b) := by
  intro _ wd hEnc
  have hEnc : word 0x0A000002 c [(18, d.toNat), (11, a.toNat), (4, b.toNat)] = wd := by injection hEnc
  obtain ⟨hMaj, hSel, hZ0, hF0, hF1, hF2, hChain⟩ := shape_16 5 (by decide) 2 (by decide) c d a b wd hEnc.symm
  rw [decode_major_05 wd hMaj, decode05, hSel, hF0, hF1, hF2, hChain]
  exact row_1 (w := wd) hZ0

theorem mulhiVs (c : Bool) (d : BitVec 7) (a : BitVec 7) (b : BitVec 5) : Statement (.mulhiVs c d a b) := by
  intro _ wd hEnc
  have hEnc : word 0x0A000003 c [(18, d.toNat), (11, a.toNat), (4, b.toNat)] = wd := by injection hEnc
  obtain ⟨hMaj, hSel, hZ0, hF0, hF1, hF2, hChain⟩ := shape_16 5 (by decide) 3 (by decide) c d a b wd hEnc.symm
  rw [decode_major_05 wd hMaj, decode05, hSel, hF0, hF1, hF2, hChain]
  exact row_1 (w := wd) hZ0

theorem mulhiNVs (c : Bool) (d : BitVec 7) (a : BitVec 7) (b : BitVec 5) : Statement (.mulhiNVs c d a b) := by
  intro _ wd hEnc
  have hEnc : word 0x0A000004 c [(18, d.toNat), (11, a.toNat), (4, b.toNat)] = wd := by injection hEnc
  obtain ⟨hMaj, hSel, hZ0, hF0, hF1, hF2, hChain⟩ := shape_16 5 (by decide) 4 (by decide) c d a b wd hEnc.symm
  rw [decode_major_05 wd hMaj, decode05, hSel, hF0, hF1, hF2, hChain]
  exact row_1 (w := wd) hZ0

theorem minVs (c : Bool) (d : BitVec 7) (a : BitVec 7) (b : BitVec 5) : Statement (.minVs c d a b) := by
  intro _ wd hEnc
  have hEnc : word 0x0A000005 c [(18, d.toNat), (11, a.toNat), (4, b.toNat)] = wd := by injection hEnc
  obtain ⟨hMaj, hSel, hZ0, hF0, hF1, hF2, hChain⟩ := shape_16 5 (by decide) 5 (by decide) c d a b wd hEnc.symm
  rw [decode_major_05 wd hMaj, decode05, hSel, hF0, hF1, hF2, hChain]
  exact row_1 (w := wd) hZ0

theorem maxVs (c : Bool) (d : BitVec 7) (a : BitVec 7) (b : BitVec 5) : Statement (.maxVs c d a b) := by
  intro _ wd hEnc
  have hEnc : word 0x0A000006 c [(18, d.toNat), (11, a.toNat), (4, b.toNat)] = wd := by injection hEnc
  obtain ⟨hMaj, hSel, hZ0, hF0, hF1, hF2, hChain⟩ := shape_16 5 (by decide) 6 (by decide) c d a b wd hEnc.symm
  rw [decode_major_05 wd hMaj, decode05, hSel, hF0, hF1, hF2, hChain]
  exact row_1 (w := wd) hZ0

theorem minNVs (c : Bool) (d : BitVec 7) (a : BitVec 7) (b : BitVec 5) : Statement (.minNVs c d a b) := by
  intro _ wd hEnc
  have hEnc : word 0x0A000007 c [(18, d.toNat), (11, a.toNat), (4, b.toNat)] = wd := by injection hEnc
  obtain ⟨hMaj, hSel, hZ0, hF0, hF1, hF2, hChain⟩ := shape_16 5 (by decide) 7 (by decide) c d a b wd hEnc.symm
  rw [decode_major_05 wd hMaj, decode05, hSel, hF0, hF1, hF2, hChain]
  exact row_1 (w := wd) hZ0

theorem maxNVs (c : Bool) (d : BitVec 7) (a : BitVec 7) (b : BitVec 5) : Statement (.maxNVs c d a b) := by
  intro _ wd hEnc
  have hEnc : word 0x0A000008 c [(18, d.toNat), (11, a.toNat), (4, b.toNat)] = wd := by injection hEnc
  obtain ⟨hMaj, hSel, hZ0, hF0, hF1, hF2, hChain⟩ := shape_16 5 (by decide) 8 (by decide) c d a b wd hEnc.symm
  rw [decode_major_05 wd hMaj, decode05, hSel, hF0, hF1, hF2, hChain]
  exact row_1 (w := wd) hZ0

theorem andVs (c : Bool) (d : BitVec 7) (a : BitVec 7) (b : BitVec 5) : Statement (.andVs c d a b) := by
  intro _ wd hEnc
  have hEnc : word 0x0A000009 c [(18, d.toNat), (11, a.toNat), (4, b.toNat)] = wd := by injection hEnc
  obtain ⟨hMaj, hSel, hZ0, hF0, hF1, hF2, hChain⟩ := shape_16 5 (by decide) 9 (by decide) c d a b wd hEnc.symm
  rw [decode_major_05 wd hMaj, decode05, hSel, hF0, hF1, hF2, hChain]
  exact row_1 (w := wd) hZ0

theorem orVs (c : Bool) (d : BitVec 7) (a : BitVec 7) (b : BitVec 5) : Statement (.orVs c d a b) := by
  intro _ wd hEnc
  have hEnc : word 0x0A00000A c [(18, d.toNat), (11, a.toNat), (4, b.toNat)] = wd := by injection hEnc
  obtain ⟨hMaj, hSel, hZ0, hF0, hF1, hF2, hChain⟩ := shape_16 5 (by decide) 10 (by decide) c d a b wd hEnc.symm
  rw [decode_major_05 wd hMaj, decode05, hSel, hF0, hF1, hF2, hChain]
  exact row_1 (w := wd) hZ0

theorem xorVs (c : Bool) (d : BitVec 7) (a : BitVec 7) (b : BitVec 5) : Statement (.xorVs c d a b) := by
  intro _ wd hEnc
  have hEnc : word 0x0A00000B c [(18, d.toNat), (11, a.toNat), (4, b.toNat)] = wd := by injection hEnc
  obtain ⟨hMaj, hSel, hZ0, hF0, hF1, hF2, hChain⟩ := shape_16 5 (by decide) 11 (by decide) c d a b wd hEnc.symm
  rw [decode_major_05 wd hMaj, decode05, hSel, hF0, hF1, hF2, hChain]
  exact row_1 (w := wd) hZ0

theorem shlVs (c : Bool) (d : BitVec 7) (a : BitVec 7) (b : BitVec 5) : Statement (.shlVs c d a b) := by
  intro _ wd hEnc
  have hEnc : word 0x0A00000C c [(18, d.toNat), (11, a.toNat), (4, b.toNat)] = wd := by injection hEnc
  obtain ⟨hMaj, hSel, hZ0, hF0, hF1, hF2, hChain⟩ := shape_16 5 (by decide) 12 (by decide) c d a b wd hEnc.symm
  rw [decode_major_05 wd hMaj, decode05, hSel, hF0, hF1, hF2, hChain]
  exact row_1 (w := wd) hZ0

theorem shrVs (c : Bool) (d : BitVec 7) (a : BitVec 7) (b : BitVec 5) : Statement (.shrVs c d a b) := by
  intro _ wd hEnc
  have hEnc : word 0x0A00000D c [(18, d.toNat), (11, a.toNat), (4, b.toNat)] = wd := by injection hEnc
  obtain ⟨hMaj, hSel, hZ0, hF0, hF1, hF2, hChain⟩ := shape_16 5 (by decide) 13 (by decide) c d a b wd hEnc.symm
  rw [decode_major_05 wd hMaj, decode05, hSel, hF0, hF1, hF2, hChain]
  exact row_1 (w := wd) hZ0

theorem sarVs (c : Bool) (d : BitVec 7) (a : BitVec 7) (b : BitVec 5) : Statement (.sarVs c d a b) := by
  intro _ wd hEnc
  have hEnc : word 0x0A00000E c [(18, d.toNat), (11, a.toNat), (4, b.toNat)] = wd := by injection hEnc
  obtain ⟨hMaj, hSel, hZ0, hF0, hF1, hF2, hChain⟩ := shape_16 5 (by decide) 14 (by decide) c d a b wd hEnc.symm
  rw [decode_major_05 wd hMaj, decode05, hSel, hF0, hF1, hF2, hChain]
  exact row_1 (w := wd) hZ0

theorem rolVs (c : Bool) (d : BitVec 7) (a : BitVec 7) (b : BitVec 5) : Statement (.rolVs c d a b) := by
  intro _ wd hEnc
  have hEnc : word 0x0A00000F c [(18, d.toNat), (11, a.toNat), (4, b.toNat)] = wd := by injection hEnc
  obtain ⟨hMaj, hSel, hZ0, hF0, hF1, hF2, hChain⟩ := shape_16 5 (by decide) 15 (by decide) c d a b wd hEnc.symm
  rw [decode_major_05 wd hMaj, decode05, hSel, hF0, hF1, hF2, hChain]
  exact row_1 (w := wd) hZ0

theorem addVi (c : Bool) (d : BitVec 7) (a : BitVec 7) (i : BitVec 7) : Statement (.addVi c d a i) := by
  intro _ wd hEnc
  have hEnc : word 0x0C000000 c [(18, d.toNat), (11, a.toNat), (0, i.toNat)] = wd := by injection hEnc
  obtain ⟨hMaj, hSel, hF0, hF1, hF2, hChain⟩ := shape_17 6 (by decide) 0 (by decide) c d a i wd hEnc.symm
  rw [decode_major_06 wd hMaj, decode06, hSel, hF0, hF1, hF2, hChain]
  exact row_zero (w := wd)

theorem subVi (c : Bool) (d : BitVec 7) (a : BitVec 7) (i : BitVec 7) : Statement (.subVi c d a i) := by
  intro _ wd hEnc
  have hEnc : word 0x0C000080 c [(18, d.toNat), (11, a.toNat), (0, i.toNat)] = wd := by injection hEnc
  obtain ⟨hMaj, hSel, hF0, hF1, hF2, hChain⟩ := shape_17 6 (by decide) 1 (by decide) c d a i wd hEnc.symm
  rw [decode_major_06 wd hMaj, decode06, hSel, hF0, hF1, hF2, hChain]
  exact row_zero (w := wd)

theorem mulVi (c : Bool) (d : BitVec 7) (a : BitVec 7) (i : BitVec 7) : Statement (.mulVi c d a i) := by
  intro _ wd hEnc
  have hEnc : word 0x0C000100 c [(18, d.toNat), (11, a.toNat), (0, i.toNat)] = wd := by injection hEnc
  obtain ⟨hMaj, hSel, hF0, hF1, hF2, hChain⟩ := shape_17 6 (by decide) 2 (by decide) c d a i wd hEnc.symm
  rw [decode_major_06 wd hMaj, decode06, hSel, hF0, hF1, hF2, hChain]
  exact row_zero (w := wd)

theorem mulhiVi (c : Bool) (d : BitVec 7) (a : BitVec 7) (i : BitVec 7) : Statement (.mulhiVi c d a i) := by
  intro _ wd hEnc
  have hEnc : word 0x0C000180 c [(18, d.toNat), (11, a.toNat), (0, i.toNat)] = wd := by injection hEnc
  obtain ⟨hMaj, hSel, hF0, hF1, hF2, hChain⟩ := shape_17 6 (by decide) 3 (by decide) c d a i wd hEnc.symm
  rw [decode_major_06 wd hMaj, decode06, hSel, hF0, hF1, hF2, hChain]
  exact row_zero (w := wd)

theorem mulhiNVi (c : Bool) (d : BitVec 7) (a : BitVec 7) (i : BitVec 7) : Statement (.mulhiNVi c d a i) := by
  intro _ wd hEnc
  have hEnc : word 0x0C000200 c [(18, d.toNat), (11, a.toNat), (0, i.toNat)] = wd := by injection hEnc
  obtain ⟨hMaj, hSel, hF0, hF1, hF2, hChain⟩ := shape_17 6 (by decide) 4 (by decide) c d a i wd hEnc.symm
  rw [decode_major_06 wd hMaj, decode06, hSel, hF0, hF1, hF2, hChain]
  exact row_zero (w := wd)

theorem minVi (c : Bool) (d : BitVec 7) (a : BitVec 7) (i : BitVec 7) : Statement (.minVi c d a i) := by
  intro _ wd hEnc
  have hEnc : word 0x0C000280 c [(18, d.toNat), (11, a.toNat), (0, i.toNat)] = wd := by injection hEnc
  obtain ⟨hMaj, hSel, hF0, hF1, hF2, hChain⟩ := shape_17 6 (by decide) 5 (by decide) c d a i wd hEnc.symm
  rw [decode_major_06 wd hMaj, decode06, hSel, hF0, hF1, hF2, hChain]
  exact row_zero (w := wd)

theorem maxVi (c : Bool) (d : BitVec 7) (a : BitVec 7) (i : BitVec 7) : Statement (.maxVi c d a i) := by
  intro _ wd hEnc
  have hEnc : word 0x0C000300 c [(18, d.toNat), (11, a.toNat), (0, i.toNat)] = wd := by injection hEnc
  obtain ⟨hMaj, hSel, hF0, hF1, hF2, hChain⟩ := shape_17 6 (by decide) 6 (by decide) c d a i wd hEnc.symm
  rw [decode_major_06 wd hMaj, decode06, hSel, hF0, hF1, hF2, hChain]
  exact row_zero (w := wd)

theorem minNVi (c : Bool) (d : BitVec 7) (a : BitVec 7) (i : BitVec 7) : Statement (.minNVi c d a i) := by
  intro _ wd hEnc
  have hEnc : word 0x0C000380 c [(18, d.toNat), (11, a.toNat), (0, i.toNat)] = wd := by injection hEnc
  obtain ⟨hMaj, hSel, hF0, hF1, hF2, hChain⟩ := shape_17 6 (by decide) 7 (by decide) c d a i wd hEnc.symm
  rw [decode_major_06 wd hMaj, decode06, hSel, hF0, hF1, hF2, hChain]
  exact row_zero (w := wd)

theorem maxNVi (c : Bool) (d : BitVec 7) (a : BitVec 7) (i : BitVec 7) : Statement (.maxNVi c d a i) := by
  intro _ wd hEnc
  have hEnc : word 0x0C000400 c [(18, d.toNat), (11, a.toNat), (0, i.toNat)] = wd := by injection hEnc
  obtain ⟨hMaj, hSel, hF0, hF1, hF2, hChain⟩ := shape_17 6 (by decide) 8 (by decide) c d a i wd hEnc.symm
  rw [decode_major_06 wd hMaj, decode06, hSel, hF0, hF1, hF2, hChain]
  exact row_zero (w := wd)

theorem andVi (c : Bool) (d : BitVec 7) (a : BitVec 7) (i : BitVec 7) : Statement (.andVi c d a i) := by
  intro _ wd hEnc
  have hEnc : word 0x0C000480 c [(18, d.toNat), (11, a.toNat), (0, i.toNat)] = wd := by injection hEnc
  obtain ⟨hMaj, hSel, hF0, hF1, hF2, hChain⟩ := shape_17 6 (by decide) 9 (by decide) c d a i wd hEnc.symm
  rw [decode_major_06 wd hMaj, decode06, hSel, hF0, hF1, hF2, hChain]
  exact row_zero (w := wd)

theorem orVi (c : Bool) (d : BitVec 7) (a : BitVec 7) (i : BitVec 7) : Statement (.orVi c d a i) := by
  intro _ wd hEnc
  have hEnc : word 0x0C000500 c [(18, d.toNat), (11, a.toNat), (0, i.toNat)] = wd := by injection hEnc
  obtain ⟨hMaj, hSel, hF0, hF1, hF2, hChain⟩ := shape_17 6 (by decide) 10 (by decide) c d a i wd hEnc.symm
  rw [decode_major_06 wd hMaj, decode06, hSel, hF0, hF1, hF2, hChain]
  exact row_zero (w := wd)

theorem xorVi (c : Bool) (d : BitVec 7) (a : BitVec 7) (i : BitVec 7) : Statement (.xorVi c d a i) := by
  intro _ wd hEnc
  have hEnc : word 0x0C000580 c [(18, d.toNat), (11, a.toNat), (0, i.toNat)] = wd := by injection hEnc
  obtain ⟨hMaj, hSel, hF0, hF1, hF2, hChain⟩ := shape_17 6 (by decide) 11 (by decide) c d a i wd hEnc.symm
  rw [decode_major_06 wd hMaj, decode06, hSel, hF0, hF1, hF2, hChain]
  exact row_zero (w := wd)

theorem shlVi (c : Bool) (d : BitVec 7) (a : BitVec 7) (i : BitVec 7) : Statement (.shlVi c d a i) := by
  intro _ wd hEnc
  have hEnc : word 0x0C000600 c [(18, d.toNat), (11, a.toNat), (0, i.toNat)] = wd := by injection hEnc
  obtain ⟨hMaj, hSel, hF0, hF1, hF2, hChain⟩ := shape_17 6 (by decide) 12 (by decide) c d a i wd hEnc.symm
  rw [decode_major_06 wd hMaj, decode06, hSel, hF0, hF1, hF2, hChain]
  exact row_zero (w := wd)

theorem shrVi (c : Bool) (d : BitVec 7) (a : BitVec 7) (i : BitVec 7) : Statement (.shrVi c d a i) := by
  intro _ wd hEnc
  have hEnc : word 0x0C000680 c [(18, d.toNat), (11, a.toNat), (0, i.toNat)] = wd := by injection hEnc
  obtain ⟨hMaj, hSel, hF0, hF1, hF2, hChain⟩ := shape_17 6 (by decide) 13 (by decide) c d a i wd hEnc.symm
  rw [decode_major_06 wd hMaj, decode06, hSel, hF0, hF1, hF2, hChain]
  exact row_zero (w := wd)

theorem sarVi (c : Bool) (d : BitVec 7) (a : BitVec 7) (i : BitVec 7) : Statement (.sarVi c d a i) := by
  intro _ wd hEnc
  have hEnc : word 0x0C000700 c [(18, d.toNat), (11, a.toNat), (0, i.toNat)] = wd := by injection hEnc
  obtain ⟨hMaj, hSel, hF0, hF1, hF2, hChain⟩ := shape_17 6 (by decide) 14 (by decide) c d a i wd hEnc.symm
  rw [decode_major_06 wd hMaj, decode06, hSel, hF0, hF1, hF2, hChain]
  exact row_zero (w := wd)

theorem rolVi (c : Bool) (d : BitVec 7) (a : BitVec 7) (i : BitVec 7) : Statement (.rolVi c d a i) := by
  intro _ wd hEnc
  have hEnc : word 0x0C000780 c [(18, d.toNat), (11, a.toNat), (0, i.toNat)] = wd := by injection hEnc
  obtain ⟨hMaj, hSel, hF0, hF1, hF2, hChain⟩ := shape_17 6 (by decide) 15 (by decide) c d a i wd hEnc.symm
  rw [decode_major_06 wd hMaj, decode06, hSel, hF0, hF1, hF2, hChain]
  exact row_zero (w := wd)

theorem madS32 (c : Bool) (d : BitVec 7) (a : BitVec 7) (b : BitVec 7) : Statement (.madS32 c d a b) := by
  intro _ wd hEnc
  have hEnc : word 0x0E000000 c [(18, d.toNat), (11, a.toNat), (4, b.toNat)] = wd := by injection hEnc
  obtain ⟨hMaj, hSel, hF0, hF1, hF2, hChain⟩ := shape_15 7 (by decide) 0 (by decide) c d a b wd hEnc.symm
  rw [decode_major_07 wd hMaj, decode07, hSel, hF0, hF1, hF2, hChain]
  exact row_zero (w := wd)

theorem madN32 (c : Bool) (d : BitVec 7) (a : BitVec 7) (b : BitVec 7) : Statement (.madN32 c d a b) := by
  intro _ wd hEnc
  have hEnc : word 0x0E000001 c [(18, d.toNat), (11, a.toNat), (4, b.toNat)] = wd := by injection hEnc
  obtain ⟨hMaj, hSel, hF0, hF1, hF2, hChain⟩ := shape_15 7 (by decide) 1 (by decide) c d a b wd hEnc.symm
  rw [decode_major_07 wd hMaj, decode07, hSel, hF0, hF1, hF2, hChain]
  exact row_zero (w := wd)

theorem madwS (c : Bool) (d : BitVec 7) (a : BitVec 7) (b : BitVec 7) : Statement (.madwS c d a b) := by
  intro _ wd hEnc
  have hEnc : word 0x0E000002 c [(18, d.toNat), (11, a.toNat), (4, b.toNat)] = wd := by injection hEnc
  obtain ⟨hMaj, hSel, hF0, hF1, hF2, hChain⟩ := shape_15 7 (by decide) 2 (by decide) c d a b wd hEnc.symm
  rw [decode_major_07 wd hMaj, decode07, hSel, hF0, hF1, hF2, hChain]
  exact row_zero (w := wd)

theorem madwN (c : Bool) (d : BitVec 7) (a : BitVec 7) (b : BitVec 7) : Statement (.madwN c d a b) := by
  intro _ wd hEnc
  have hEnc : word 0x0E000003 c [(18, d.toNat), (11, a.toNat), (4, b.toNat)] = wd := by injection hEnc
  obtain ⟨hMaj, hSel, hF0, hF1, hF2, hChain⟩ := shape_15 7 (by decide) 3 (by decide) c d a b wd hEnc.symm
  rw [decode_major_07 wd hMaj, decode07, hSel, hF0, hF1, hF2, hChain]
  exact row_zero (w := wd)

theorem madhS (c : Bool) (d : BitVec 7) (a : BitVec 7) (b : BitVec 7) : Statement (.madhS c d a b) := by
  intro _ wd hEnc
  have hEnc : word 0x0E000004 c [(18, d.toNat), (11, a.toNat), (4, b.toNat)] = wd := by injection hEnc
  obtain ⟨hMaj, hSel, hF0, hF1, hF2, hChain⟩ := shape_15 7 (by decide) 4 (by decide) c d a b wd hEnc.symm
  rw [decode_major_07 wd hMaj, decode07, hSel, hF0, hF1, hF2, hChain]
  exact row_zero (w := wd)

theorem madhN (c : Bool) (d : BitVec 7) (a : BitVec 7) (b : BitVec 7) : Statement (.madhN c d a b) := by
  intro _ wd hEnc
  have hEnc : word 0x0E000005 c [(18, d.toNat), (11, a.toNat), (4, b.toNat)] = wd := by injection hEnc
  obtain ⟨hMaj, hSel, hF0, hF1, hF2, hChain⟩ := shape_15 7 (by decide) 5 (by decide) c d a b wd hEnc.symm
  rw [decode_major_07 wd hMaj, decode07, hSel, hF0, hF1, hF2, hChain]
  exact row_zero (w := wd)

theorem negI (c : Bool) (d : BitVec 7) (a : BitVec 7) : Statement (.negI c d a) := by
  intro _ wd hEnc
  have hEnc : word 0x10000000 c [(18, d.toNat), (11, a.toNat)] = wd := by injection hEnc
  obtain ⟨hMaj, hSel, hZ0, hF0, hF1, hChain⟩ := shape_10 8 (by decide) 0 (by decide) c d a wd hEnc.symm
  rw [decode_major_08 wd hMaj, decode08, hSel, hF0, hF1, hChain]
  exact row_1 (w := wd) hZ0

theorem absI (c : Bool) (d : BitVec 7) (a : BitVec 7) : Statement (.absI c d a) := by
  intro _ wd hEnc
  have hEnc : word 0x10000001 c [(18, d.toNat), (11, a.toNat)] = wd := by injection hEnc
  obtain ⟨hMaj, hSel, hZ0, hF0, hF1, hChain⟩ := shape_10 8 (by decide) 1 (by decide) c d a wd hEnc.symm
  rw [decode_major_08 wd hMaj, decode08, hSel, hF0, hF1, hChain]
  exact row_1 (w := wd) hZ0

theorem notB (c : Bool) (d : BitVec 7) (a : BitVec 7) : Statement (.notB c d a) := by
  intro _ wd hEnc
  have hEnc : word 0x10000002 c [(18, d.toNat), (11, a.toNat)] = wd := by injection hEnc
  obtain ⟨hMaj, hSel, hZ0, hF0, hF1, hChain⟩ := shape_10 8 (by decide) 2 (by decide) c d a wd hEnc.symm
  rw [decode_major_08 wd hMaj, decode08, hSel, hF0, hF1, hChain]
  exact row_1 (w := wd) hZ0

theorem popc (c : Bool) (d : BitVec 7) (a : BitVec 7) : Statement (.popc c d a) := by
  intro _ wd hEnc
  have hEnc : word 0x10000003 c [(18, d.toNat), (11, a.toNat)] = wd := by injection hEnc
  obtain ⟨hMaj, hSel, hZ0, hF0, hF1, hChain⟩ := shape_10 8 (by decide) 3 (by decide) c d a wd hEnc.symm
  rw [decode_major_08 wd hMaj, decode08, hSel, hF0, hF1, hChain]
  exact row_1 (w := wd) hZ0

theorem clz (c : Bool) (d : BitVec 7) (a : BitVec 7) : Statement (.clz c d a) := by
  intro _ wd hEnc
  have hEnc : word 0x10000004 c [(18, d.toNat), (11, a.toNat)] = wd := by injection hEnc
  obtain ⟨hMaj, hSel, hZ0, hF0, hF1, hChain⟩ := shape_10 8 (by decide) 4 (by decide) c d a wd hEnc.symm
  rw [decode_major_08 wd hMaj, decode08, hSel, hF0, hF1, hChain]
  exact row_1 (w := wd) hZ0

theorem brev (c : Bool) (d : BitVec 7) (a : BitVec 7) : Statement (.brev c d a) := by
  intro _ wd hEnc
  have hEnc : word 0x10000005 c [(18, d.toNat), (11, a.toNat)] = wd := by injection hEnc
  obtain ⟨hMaj, hSel, hZ0, hF0, hF1, hChain⟩ := shape_10 8 (by decide) 5 (by decide) c d a wd hEnc.symm
  rw [decode_major_08 wd hMaj, decode08, hSel, hF0, hF1, hChain]
  exact row_1 (w := wd) hZ0

theorem bfe (c : Bool) (d : BitVec 7) (a : BitVec 7) (b : BitVec 7) : Statement (.bfe c d a b) := by
  intro _ wd hEnc
  have hEnc : word 0x10000006 c [(18, d.toNat), (11, a.toNat), (4, b.toNat)] = wd := by injection hEnc
  obtain ⟨hMaj, hSel, hF0, hF1, hF2, hChain⟩ := shape_15 8 (by decide) 6 (by decide) c d a b wd hEnc.symm
  rw [decode_major_08 wd hMaj, decode08, hSel, hF0, hF1, hF2, hChain]
  exact row_zero (w := wd)

theorem bfi (c : Bool) (d : BitVec 7) (a : BitVec 7) (b : BitVec 7) : Statement (.bfi c d a b) := by
  intro _ wd hEnc
  have hEnc : word 0x10000007 c [(18, d.toNat), (11, a.toNat), (4, b.toNat)] = wd := by injection hEnc
  obtain ⟨hMaj, hSel, hF0, hF1, hF2, hChain⟩ := shape_15 8 (by decide) 7 (by decide) c d a b wd hEnc.symm
  rw [decode_major_08 wd hMaj, decode08, hSel, hF0, hF1, hF2, hChain]
  exact row_zero (w := wd)

theorem sext8 (c : Bool) (d : BitVec 7) (a : BitVec 7) : Statement (.sext8 c d a) := by
  intro _ wd hEnc
  have hEnc : word 0x10000008 c [(18, d.toNat), (11, a.toNat)] = wd := by injection hEnc
  obtain ⟨hMaj, hSel, hZ0, hF0, hF1, hChain⟩ := shape_10 8 (by decide) 8 (by decide) c d a wd hEnc.symm
  rw [decode_major_08 wd hMaj, decode08, hSel, hF0, hF1, hChain]
  exact row_1 (w := wd) hZ0

theorem sext16 (c : Bool) (d : BitVec 7) (a : BitVec 7) : Statement (.sext16 c d a) := by
  intro _ wd hEnc
  have hEnc : word 0x10000009 c [(18, d.toNat), (11, a.toNat)] = wd := by injection hEnc
  obtain ⟨hMaj, hSel, hZ0, hF0, hF1, hChain⟩ := shape_10 8 (by decide) 9 (by decide) c d a wd hEnc.symm
  rw [decode_major_08 wd hMaj, decode08, hSel, hF0, hF1, hChain]
  exact row_1 (w := wd) hZ0

theorem zext8 (c : Bool) (d : BitVec 7) (a : BitVec 7) : Statement (.zext8 c d a) := by
  intro _ wd hEnc
  have hEnc : word 0x1000000A c [(18, d.toNat), (11, a.toNat)] = wd := by injection hEnc
  obtain ⟨hMaj, hSel, hZ0, hF0, hF1, hChain⟩ := shape_10 8 (by decide) 10 (by decide) c d a wd hEnc.symm
  rw [decode_major_08 wd hMaj, decode08, hSel, hF0, hF1, hChain]
  exact row_1 (w := wd) hZ0

theorem zext16 (c : Bool) (d : BitVec 7) (a : BitVec 7) : Statement (.zext16 c d a) := by
  intro _ wd hEnc
  have hEnc : word 0x1000000B c [(18, d.toNat), (11, a.toNat)] = wd := by injection hEnc
  obtain ⟨hMaj, hSel, hZ0, hF0, hF1, hChain⟩ := shape_10 8 (by decide) 11 (by decide) c d a wd hEnc.symm
  rw [decode_major_08 wd hMaj, decode08, hSel, hF0, hF1, hChain]
  exact row_1 (w := wd) hZ0

theorem addB64 (c : Bool) (d : BitVec 7) (a : BitVec 7) (b : BitVec 7) : Statement (.addB64 c d a b) := by
  intro _ wd hEnc
  have hEnc : word 0x12000000 c [(18, d.toNat), (11, a.toNat), (4, b.toNat)] = wd := by injection hEnc
  obtain ⟨hMaj, hSel, hF0, hF1, hF2, hChain⟩ := shape_15 9 (by decide) 0 (by decide) c d a b wd hEnc.symm
  rw [decode_major_09 wd hMaj, decode09, hSel, hF0, hF1, hF2, hChain]
  exact row_zero (w := wd)

theorem subB64 (c : Bool) (d : BitVec 7) (a : BitVec 7) (b : BitVec 7) : Statement (.subB64 c d a b) := by
  intro _ wd hEnc
  have hEnc : word 0x12000001 c [(18, d.toNat), (11, a.toNat), (4, b.toNat)] = wd := by injection hEnc
  obtain ⟨hMaj, hSel, hF0, hF1, hF2, hChain⟩ := shape_15 9 (by decide) 1 (by decide) c d a b wd hEnc.symm
  rw [decode_major_09 wd hMaj, decode09, hSel, hF0, hF1, hF2, hChain]
  exact row_zero (w := wd)

theorem mulloB64 (c : Bool) (d : BitVec 7) (a : BitVec 7) (b : BitVec 7) : Statement (.mulloB64 c d a b) := by
  intro _ wd hEnc
  have hEnc : word 0x12000002 c [(18, d.toNat), (11, a.toNat), (4, b.toNat)] = wd := by injection hEnc
  obtain ⟨hMaj, hSel, hF0, hF1, hF2, hChain⟩ := shape_15 9 (by decide) 2 (by decide) c d a b wd hEnc.symm
  rw [decode_major_09 wd hMaj, decode09, hSel, hF0, hF1, hF2, hChain]
  exact row_zero (w := wd)

theorem shlB64 (c : Bool) (d : BitVec 7) (a : BitVec 7) (b : BitVec 7) : Statement (.shlB64 c d a b) := by
  intro _ wd hEnc
  have hEnc : word 0x12000003 c [(18, d.toNat), (11, a.toNat), (4, b.toNat)] = wd := by injection hEnc
  obtain ⟨hMaj, hSel, hF0, hF1, hF2, hChain⟩ := shape_15 9 (by decide) 3 (by decide) c d a b wd hEnc.symm
  rw [decode_major_09 wd hMaj, decode09, hSel, hF0, hF1, hF2, hChain]
  exact row_zero (w := wd)

theorem shrB64 (c : Bool) (d : BitVec 7) (a : BitVec 7) (b : BitVec 7) : Statement (.shrB64 c d a b) := by
  intro _ wd hEnc
  have hEnc : word 0x12000004 c [(18, d.toNat), (11, a.toNat), (4, b.toNat)] = wd := by injection hEnc
  obtain ⟨hMaj, hSel, hF0, hF1, hF2, hChain⟩ := shape_15 9 (by decide) 4 (by decide) c d a b wd hEnc.symm
  rw [decode_major_09 wd hMaj, decode09, hSel, hF0, hF1, hF2, hChain]
  exact row_zero (w := wd)

theorem sarB64 (c : Bool) (d : BitVec 7) (a : BitVec 7) (b : BitVec 7) : Statement (.sarB64 c d a b) := by
  intro _ wd hEnc
  have hEnc : word 0x12000005 c [(18, d.toNat), (11, a.toNat), (4, b.toNat)] = wd := by injection hEnc
  obtain ⟨hMaj, hSel, hF0, hF1, hF2, hChain⟩ := shape_15 9 (by decide) 5 (by decide) c d a b wd hEnc.symm
  rw [decode_major_09 wd hMaj, decode09, hSel, hF0, hF1, hF2, hChain]
  exact row_zero (w := wd)

theorem minB64 (c : Bool) (d : BitVec 7) (a : BitVec 7) (b : BitVec 7) : Statement (.minB64 c d a b) := by
  intro _ wd hEnc
  have hEnc : word 0x12000006 c [(18, d.toNat), (11, a.toNat), (4, b.toNat)] = wd := by injection hEnc
  obtain ⟨hMaj, hSel, hF0, hF1, hF2, hChain⟩ := shape_15 9 (by decide) 6 (by decide) c d a b wd hEnc.symm
  rw [decode_major_09 wd hMaj, decode09, hSel, hF0, hF1, hF2, hChain]
  exact row_zero (w := wd)

theorem maxB64 (c : Bool) (d : BitVec 7) (a : BitVec 7) (b : BitVec 7) : Statement (.maxB64 c d a b) := by
  intro _ wd hEnc
  have hEnc : word 0x12000007 c [(18, d.toNat), (11, a.toNat), (4, b.toNat)] = wd := by injection hEnc
  obtain ⟨hMaj, hSel, hF0, hF1, hF2, hChain⟩ := shape_15 9 (by decide) 7 (by decide) c d a b wd hEnc.symm
  rw [decode_major_09 wd hMaj, decode09, hSel, hF0, hF1, hF2, hChain]
  exact row_zero (w := wd)

theorem minNB64 (c : Bool) (d : BitVec 7) (a : BitVec 7) (b : BitVec 7) : Statement (.minNB64 c d a b) := by
  intro _ wd hEnc
  have hEnc : word 0x12000008 c [(18, d.toNat), (11, a.toNat), (4, b.toNat)] = wd := by injection hEnc
  obtain ⟨hMaj, hSel, hF0, hF1, hF2, hChain⟩ := shape_15 9 (by decide) 8 (by decide) c d a b wd hEnc.symm
  rw [decode_major_09 wd hMaj, decode09, hSel, hF0, hF1, hF2, hChain]
  exact row_zero (w := wd)

theorem maxNB64 (c : Bool) (d : BitVec 7) (a : BitVec 7) (b : BitVec 7) : Statement (.maxNB64 c d a b) := by
  intro _ wd hEnc
  have hEnc : word 0x12000009 c [(18, d.toNat), (11, a.toNat), (4, b.toNat)] = wd := by injection hEnc
  obtain ⟨hMaj, hSel, hF0, hF1, hF2, hChain⟩ := shape_15 9 (by decide) 9 (by decide) c d a b wd hEnc.symm
  rw [decode_major_09 wd hMaj, decode09, hSel, hF0, hF1, hF2, hChain]
  exact row_zero (w := wd)

theorem andB64 (c : Bool) (d : BitVec 7) (a : BitVec 7) (b : BitVec 7) : Statement (.andB64 c d a b) := by
  intro _ wd hEnc
  have hEnc : word 0x1200000A c [(18, d.toNat), (11, a.toNat), (4, b.toNat)] = wd := by injection hEnc
  obtain ⟨hMaj, hSel, hF0, hF1, hF2, hChain⟩ := shape_15 9 (by decide) 10 (by decide) c d a b wd hEnc.symm
  rw [decode_major_09 wd hMaj, decode09, hSel, hF0, hF1, hF2, hChain]
  exact row_zero (w := wd)

theorem orB64 (c : Bool) (d : BitVec 7) (a : BitVec 7) (b : BitVec 7) : Statement (.orB64 c d a b) := by
  intro _ wd hEnc
  have hEnc : word 0x1200000B c [(18, d.toNat), (11, a.toNat), (4, b.toNat)] = wd := by injection hEnc
  obtain ⟨hMaj, hSel, hF0, hF1, hF2, hChain⟩ := shape_15 9 (by decide) 11 (by decide) c d a b wd hEnc.symm
  rw [decode_major_09 wd hMaj, decode09, hSel, hF0, hF1, hF2, hChain]
  exact row_zero (w := wd)

theorem xorB64 (c : Bool) (d : BitVec 7) (a : BitVec 7) (b : BitVec 7) : Statement (.xorB64 c d a b) := by
  intro _ wd hEnc
  have hEnc : word 0x1200000C c [(18, d.toNat), (11, a.toNat), (4, b.toNat)] = wd := by injection hEnc
  obtain ⟨hMaj, hSel, hF0, hF1, hF2, hChain⟩ := shape_15 9 (by decide) 12 (by decide) c d a b wd hEnc.symm
  rw [decode_major_09 wd hMaj, decode09, hSel, hF0, hF1, hF2, hChain]
  exact row_zero (w := wd)

theorem icmpS32Vv (c : Bool) (k : BitVec 4) (p : BitVec 3) (a : BitVec 7) (b : BitVec 7) : Statement (.icmpS32Vv c k p a b) := by
  intro hwf wd hEnc
  have hEnc : word 0x14000000 c [(21, k.toNat), (18, p.toNat), (11, a.toNat), (4, b.toNat)] = wd := by injection hEnc
  obtain ⟨hMaj, hSel, hF0, hF1, hF2, hF3, hChain⟩ := shape_18 10 (by decide) 0 (by decide) c k p a b wd hEnc.symm
  have hk : ¬ 10 ≤ fldNat wd 21 4 := by
    have hk : k.toNat < 10 := by
      have := chk_of_wf hwf fun _ => List.mem_cons_self
      simpa using this
    rw [fld_eq] at hF0
    have := congrArg BitVec.toNat hF0
    rw [BitVec.toNat_ofNat] at this
    unfold fldNat
    omega
  rw [decode_major_0A wd hMaj, decode0A, if_neg hk, hSel, hF0, hF1, hF2, hF3, hChain]
  exact row_zero (w := wd)

theorem icmpS32Vs (c : Bool) (k : BitVec 4) (p : BitVec 3) (a : BitVec 7) (b : BitVec 5) : Statement (.icmpS32Vs c k p a b) := by
  intro hwf wd hEnc
  have hEnc : word 0x14000001 c [(21, k.toNat), (18, p.toNat), (11, a.toNat), (4, b.toNat)] = wd := by injection hEnc
  obtain ⟨hMaj, hSel, hZ0, hF0, hF1, hF2, hF3, hChain⟩ := shape_19 10 (by decide) 1 (by decide) c k p a b wd hEnc.symm
  have hk : ¬ 10 ≤ fldNat wd 21 4 := by
    have hk : k.toNat < 10 := by
      have := chk_of_wf hwf fun _ => List.mem_cons_self
      simpa using this
    rw [fld_eq] at hF0
    have := congrArg BitVec.toNat hF0
    rw [BitVec.toNat_ofNat] at this
    unfold fldNat
    omega
  rw [decode_major_0A wd hMaj, decode0A, if_neg hk, hSel, hF0, hF1, hF2, hF3, hChain]
  exact row_1 (w := wd) hZ0

theorem icmpB64Vv (c : Bool) (k : BitVec 4) (p : BitVec 3) (a : BitVec 7) (b : BitVec 7) : Statement (.icmpB64Vv c k p a b) := by
  intro hwf wd hEnc
  have hEnc : word 0x14000002 c [(21, k.toNat), (18, p.toNat), (11, a.toNat), (4, b.toNat)] = wd := by injection hEnc
  obtain ⟨hMaj, hSel, hF0, hF1, hF2, hF3, hChain⟩ := shape_18 10 (by decide) 2 (by decide) c k p a b wd hEnc.symm
  have hk : ¬ 10 ≤ fldNat wd 21 4 := by
    have hk : k.toNat < 10 := by
      have := chk_of_wf hwf fun _ => List.mem_cons_self
      simpa using this
    rw [fld_eq] at hF0
    have := congrArg BitVec.toNat hF0
    rw [BitVec.toNat_ofNat] at this
    unfold fldNat
    omega
  rw [decode_major_0A wd hMaj, decode0A, if_neg hk, hSel, hF0, hF1, hF2, hF3, hChain]
  exact row_zero (w := wd)

theorem icmpB64Vs (c : Bool) (k : BitVec 4) (p : BitVec 3) (a : BitVec 7) (b : BitVec 5) : Statement (.icmpB64Vs c k p a b) := by
  intro hwf wd hEnc
  have hEnc : word 0x14000003 c [(21, k.toNat), (18, p.toNat), (11, a.toNat), (4, b.toNat)] = wd := by injection hEnc
  obtain ⟨hMaj, hSel, hZ0, hF0, hF1, hF2, hF3, hChain⟩ := shape_19 10 (by decide) 3 (by decide) c k p a b wd hEnc.symm
  have hk : ¬ 10 ≤ fldNat wd 21 4 := by
    have hk : k.toNat < 10 := by
      have := chk_of_wf hwf fun _ => List.mem_cons_self
      simpa using this
    rw [fld_eq] at hF0
    have := congrArg BitVec.toNat hF0
    rw [BitVec.toNat_ofNat] at this
    unfold fldNat
    omega
  rw [decode_major_0A wd hMaj, decode0A, if_neg hk, hSel, hF0, hF1, hF2, hF3, hChain]
  exact row_1 (w := wd) hZ0

theorem icmpAndS32Vv (c : Bool) (k : BitVec 4) (p : BitVec 3) (a : BitVec 7) (b : BitVec 7) : Statement (.icmpAndS32Vv c k p a b) := by
  intro hwf wd hEnc
  have hEnc : word 0x14000004 c [(21, k.toNat), (18, p.toNat), (11, a.toNat), (4, b.toNat)] = wd := by injection hEnc
  obtain ⟨hMaj, hSel, hF0, hF1, hF2, hF3, hChain⟩ := shape_18 10 (by decide) 4 (by decide) c k p a b wd hEnc.symm
  have hk : ¬ 10 ≤ fldNat wd 21 4 := by
    have hk : k.toNat < 10 := by
      have := chk_of_wf hwf fun _ => List.mem_cons_self
      simpa using this
    rw [fld_eq] at hF0
    have := congrArg BitVec.toNat hF0
    rw [BitVec.toNat_ofNat] at this
    unfold fldNat
    omega
  rw [decode_major_0A wd hMaj, decode0A, if_neg hk, hSel, hF0, hF1, hF2, hF3, hChain]
  exact row_zero (w := wd)

theorem icmpAndS32Vs (c : Bool) (k : BitVec 4) (p : BitVec 3) (a : BitVec 7) (b : BitVec 5) : Statement (.icmpAndS32Vs c k p a b) := by
  intro hwf wd hEnc
  have hEnc : word 0x14000005 c [(21, k.toNat), (18, p.toNat), (11, a.toNat), (4, b.toNat)] = wd := by injection hEnc
  obtain ⟨hMaj, hSel, hZ0, hF0, hF1, hF2, hF3, hChain⟩ := shape_19 10 (by decide) 5 (by decide) c k p a b wd hEnc.symm
  have hk : ¬ 10 ≤ fldNat wd 21 4 := by
    have hk : k.toNat < 10 := by
      have := chk_of_wf hwf fun _ => List.mem_cons_self
      simpa using this
    rw [fld_eq] at hF0
    have := congrArg BitVec.toNat hF0
    rw [BitVec.toNat_ofNat] at this
    unfold fldNat
    omega
  rw [decode_major_0A wd hMaj, decode0A, if_neg hk, hSel, hF0, hF1, hF2, hF3, hChain]
  exact row_1 (w := wd) hZ0

theorem icmpAndB64Vv (c : Bool) (k : BitVec 4) (p : BitVec 3) (a : BitVec 7) (b : BitVec 7) : Statement (.icmpAndB64Vv c k p a b) := by
  intro hwf wd hEnc
  have hEnc : word 0x14000006 c [(21, k.toNat), (18, p.toNat), (11, a.toNat), (4, b.toNat)] = wd := by injection hEnc
  obtain ⟨hMaj, hSel, hF0, hF1, hF2, hF3, hChain⟩ := shape_18 10 (by decide) 6 (by decide) c k p a b wd hEnc.symm
  have hk : ¬ 10 ≤ fldNat wd 21 4 := by
    have hk : k.toNat < 10 := by
      have := chk_of_wf hwf fun _ => List.mem_cons_self
      simpa using this
    rw [fld_eq] at hF0
    have := congrArg BitVec.toNat hF0
    rw [BitVec.toNat_ofNat] at this
    unfold fldNat
    omega
  rw [decode_major_0A wd hMaj, decode0A, if_neg hk, hSel, hF0, hF1, hF2, hF3, hChain]
  exact row_zero (w := wd)

theorem icmpAndB64Vs (c : Bool) (k : BitVec 4) (p : BitVec 3) (a : BitVec 7) (b : BitVec 5) : Statement (.icmpAndB64Vs c k p a b) := by
  intro hwf wd hEnc
  have hEnc : word 0x14000007 c [(21, k.toNat), (18, p.toNat), (11, a.toNat), (4, b.toNat)] = wd := by injection hEnc
  obtain ⟨hMaj, hSel, hZ0, hF0, hF1, hF2, hF3, hChain⟩ := shape_19 10 (by decide) 7 (by decide) c k p a b wd hEnc.symm
  have hk : ¬ 10 ≤ fldNat wd 21 4 := by
    have hk : k.toNat < 10 := by
      have := chk_of_wf hwf fun _ => List.mem_cons_self
      simpa using this
    rw [fld_eq] at hF0
    have := congrArg BitVec.toNat hF0
    rw [BitVec.toNat_ofNat] at this
    unfold fldNat
    omega
  rw [decode_major_0A wd hMaj, decode0A, if_neg hk, hSel, hF0, hF1, hF2, hF3, hChain]
  exact row_1 (w := wd) hZ0

theorem sel (c : Bool) (d : BitVec 7) (a : BitVec 7) (b : BitVec 7) (n : BitVec 1) (p : BitVec 3) : Statement (.sel c d a b n p) := by
  intro _ wd hEnc
  have hEnc : word 0x16000000 c [(18, d.toNat), (11, a.toNat), (4, b.toNat), (3, n.toNat), (0, p.toNat)] = wd := by injection hEnc
  obtain ⟨hMaj, hF0, hF1, hF2, hF3, hF4, hChain⟩ := shape_20 11 (by decide) c d a b n p wd hEnc.symm
  rw [decode_major_0B wd hMaj, decode0B, hF0, hF1, hF2, hF3, hF4, hChain]
  exact row_zero (w := wd)

theorem pand (c : Bool) (d : BitVec 3) (a : BitVec 3) (b : BitVec 3) : Statement (.pand c d a b) := by
  intro _ wd hEnc
  have hEnc : word 0x18000000 c [(18, d.toNat), (11, a.toNat), (4, b.toNat)] = wd := by injection hEnc
  obtain ⟨hMaj, hSel, hZ0, hZ1, hZ2, hF0, hF1, hF2, hChain⟩ := shape_21 12 (by decide) 0 (by decide) c d a b wd hEnc.symm
  rw [decode_major_0C wd hMaj, decode0C, hSel, hF0, hF1, hF2, hChain]
  exact row_3 (w := wd) hZ0 hZ1 hZ2

theorem por (c : Bool) (d : BitVec 3) (a : BitVec 3) (b : BitVec 3) : Statement (.por c d a b) := by
  intro _ wd hEnc
  have hEnc : word 0x18000001 c [(18, d.toNat), (11, a.toNat), (4, b.toNat)] = wd := by injection hEnc
  obtain ⟨hMaj, hSel, hZ0, hZ1, hZ2, hF0, hF1, hF2, hChain⟩ := shape_21 12 (by decide) 1 (by decide) c d a b wd hEnc.symm
  rw [decode_major_0C wd hMaj, decode0C, hSel, hF0, hF1, hF2, hChain]
  exact row_3 (w := wd) hZ0 hZ1 hZ2

theorem pxor (c : Bool) (d : BitVec 3) (a : BitVec 3) (b : BitVec 3) : Statement (.pxor c d a b) := by
  intro _ wd hEnc
  have hEnc : word 0x18000002 c [(18, d.toNat), (11, a.toNat), (4, b.toNat)] = wd := by injection hEnc
  obtain ⟨hMaj, hSel, hZ0, hZ1, hZ2, hF0, hF1, hF2, hChain⟩ := shape_21 12 (by decide) 2 (by decide) c d a b wd hEnc.symm
  rw [decode_major_0C wd hMaj, decode0C, hSel, hF0, hF1, hF2, hChain]
  exact row_3 (w := wd) hZ0 hZ1 hZ2

theorem pandn (c : Bool) (d : BitVec 3) (a : BitVec 3) (b : BitVec 3) : Statement (.pandn c d a b) := by
  intro _ wd hEnc
  have hEnc : word 0x18000003 c [(18, d.toNat), (11, a.toNat), (4, b.toNat)] = wd := by injection hEnc
  obtain ⟨hMaj, hSel, hZ0, hZ1, hZ2, hF0, hF1, hF2, hChain⟩ := shape_21 12 (by decide) 3 (by decide) c d a b wd hEnc.symm
  rw [decode_major_0C wd hMaj, decode0C, hSel, hF0, hF1, hF2, hChain]
  exact row_3 (w := wd) hZ0 hZ1 hZ2

theorem pmov (c : Bool) (d : BitVec 3) (a : BitVec 3) : Statement (.pmov c d a) := by
  intro _ wd hEnc
  have hEnc : word 0x18000004 c [(18, d.toNat), (11, a.toNat)] = wd := by injection hEnc
  obtain ⟨hMaj, hSel, hZ0, hZ1, hZ2, hF0, hF1, hChain⟩ := shape_22 12 (by decide) 4 (by decide) c d a wd hEnc.symm
  rw [decode_major_0C wd hMaj, decode0C, hSel, hF0, hF1, hChain]
  exact row_3 (w := wd) hZ0 hZ1 hZ2

theorem pnot (c : Bool) (d : BitVec 3) (a : BitVec 3) : Statement (.pnot c d a) := by
  intro _ wd hEnc
  have hEnc : word 0x18000005 c [(18, d.toNat), (11, a.toNat)] = wd := by injection hEnc
  obtain ⟨hMaj, hSel, hZ0, hZ1, hZ2, hF0, hF1, hChain⟩ := shape_22 12 (by decide) 5 (by decide) c d a wd hEnc.symm
  rw [decode_major_0C wd hMaj, decode0C, hSel, hF0, hF1, hChain]
  exact row_3 (w := wd) hZ0 hZ1 hZ2

theorem addF32Vv (c : Bool) (d : BitVec 7) (a : BitVec 7) (b : BitVec 7) : Statement (.addF32Vv c d a b) := by
  intro _ wd hEnc
  have hEnc : word 0x1A000000 c [(18, d.toNat), (11, a.toNat), (4, b.toNat)] = wd := by injection hEnc
  obtain ⟨hMaj, hSel, hF0, hF1, hF2, hChain⟩ := shape_15 13 (by decide) 0 (by decide) c d a b wd hEnc.symm
  rw [decode_major_0D wd hMaj, decode0D, hSel, hF0, hF1, hF2, hChain]
  exact row_zero (w := wd)

theorem subF32Vv (c : Bool) (d : BitVec 7) (a : BitVec 7) (b : BitVec 7) : Statement (.subF32Vv c d a b) := by
  intro _ wd hEnc
  have hEnc : word 0x1A000001 c [(18, d.toNat), (11, a.toNat), (4, b.toNat)] = wd := by injection hEnc
  obtain ⟨hMaj, hSel, hF0, hF1, hF2, hChain⟩ := shape_15 13 (by decide) 1 (by decide) c d a b wd hEnc.symm
  rw [decode_major_0D wd hMaj, decode0D, hSel, hF0, hF1, hF2, hChain]
  exact row_zero (w := wd)

theorem mulF32Vv (c : Bool) (d : BitVec 7) (a : BitVec 7) (b : BitVec 7) : Statement (.mulF32Vv c d a b) := by
  intro _ wd hEnc
  have hEnc : word 0x1A000002 c [(18, d.toNat), (11, a.toNat), (4, b.toNat)] = wd := by injection hEnc
  obtain ⟨hMaj, hSel, hF0, hF1, hF2, hChain⟩ := shape_15 13 (by decide) 2 (by decide) c d a b wd hEnc.symm
  rw [decode_major_0D wd hMaj, decode0D, hSel, hF0, hF1, hF2, hChain]
  exact row_zero (w := wd)

theorem minF32Vv (c : Bool) (d : BitVec 7) (a : BitVec 7) (b : BitVec 7) : Statement (.minF32Vv c d a b) := by
  intro _ wd hEnc
  have hEnc : word 0x1A000003 c [(18, d.toNat), (11, a.toNat), (4, b.toNat)] = wd := by injection hEnc
  obtain ⟨hMaj, hSel, hF0, hF1, hF2, hChain⟩ := shape_15 13 (by decide) 3 (by decide) c d a b wd hEnc.symm
  rw [decode_major_0D wd hMaj, decode0D, hSel, hF0, hF1, hF2, hChain]
  exact row_zero (w := wd)

theorem maxF32Vv (c : Bool) (d : BitVec 7) (a : BitVec 7) (b : BitVec 7) : Statement (.maxF32Vv c d a b) := by
  intro _ wd hEnc
  have hEnc : word 0x1A000004 c [(18, d.toNat), (11, a.toNat), (4, b.toNat)] = wd := by injection hEnc
  obtain ⟨hMaj, hSel, hF0, hF1, hF2, hChain⟩ := shape_15 13 (by decide) 4 (by decide) c d a b wd hEnc.symm
  rw [decode_major_0D wd hMaj, decode0D, hSel, hF0, hF1, hF2, hChain]
  exact row_zero (w := wd)

theorem divF32Vv (c : Bool) (d : BitVec 7) (a : BitVec 7) (b : BitVec 7) : Statement (.divF32Vv c d a b) := by
  intro _ wd hEnc
  have hEnc : word 0x1A000005 c [(18, d.toNat), (11, a.toNat), (4, b.toNat)] = wd := by injection hEnc
  obtain ⟨hMaj, hSel, hF0, hF1, hF2, hChain⟩ := shape_15 13 (by decide) 5 (by decide) c d a b wd hEnc.symm
  rw [decode_major_0D wd hMaj, decode0D, hSel, hF0, hF1, hF2, hChain]
  exact row_zero (w := wd)

theorem scaleF32Vv (c : Bool) (d : BitVec 7) (a : BitVec 7) (b : BitVec 7) : Statement (.scaleF32Vv c d a b) := by
  intro _ wd hEnc
  have hEnc : word 0x1A000006 c [(18, d.toNat), (11, a.toNat), (4, b.toNat)] = wd := by injection hEnc
  obtain ⟨hMaj, hSel, hF0, hF1, hF2, hChain⟩ := shape_15 13 (by decide) 6 (by decide) c d a b wd hEnc.symm
  rw [decode_major_0D wd hMaj, decode0D, hSel, hF0, hF1, hF2, hChain]
  exact row_zero (w := wd)

theorem addF32Vs (c : Bool) (d : BitVec 7) (a : BitVec 7) (b : BitVec 5) : Statement (.addF32Vs c d a b) := by
  intro _ wd hEnc
  have hEnc : word 0x1C000000 c [(18, d.toNat), (11, a.toNat), (4, b.toNat)] = wd := by injection hEnc
  obtain ⟨hMaj, hSel, hZ0, hF0, hF1, hF2, hChain⟩ := shape_16 14 (by decide) 0 (by decide) c d a b wd hEnc.symm
  rw [decode_major_0E wd hMaj, decode0E, hSel, hF0, hF1, hF2, hChain]
  exact row_1 (w := wd) hZ0

theorem subF32Vs (c : Bool) (d : BitVec 7) (a : BitVec 7) (b : BitVec 5) : Statement (.subF32Vs c d a b) := by
  intro _ wd hEnc
  have hEnc : word 0x1C000001 c [(18, d.toNat), (11, a.toNat), (4, b.toNat)] = wd := by injection hEnc
  obtain ⟨hMaj, hSel, hZ0, hF0, hF1, hF2, hChain⟩ := shape_16 14 (by decide) 1 (by decide) c d a b wd hEnc.symm
  rw [decode_major_0E wd hMaj, decode0E, hSel, hF0, hF1, hF2, hChain]
  exact row_1 (w := wd) hZ0

theorem mulF32Vs (c : Bool) (d : BitVec 7) (a : BitVec 7) (b : BitVec 5) : Statement (.mulF32Vs c d a b) := by
  intro _ wd hEnc
  have hEnc : word 0x1C000002 c [(18, d.toNat), (11, a.toNat), (4, b.toNat)] = wd := by injection hEnc
  obtain ⟨hMaj, hSel, hZ0, hF0, hF1, hF2, hChain⟩ := shape_16 14 (by decide) 2 (by decide) c d a b wd hEnc.symm
  rw [decode_major_0E wd hMaj, decode0E, hSel, hF0, hF1, hF2, hChain]
  exact row_1 (w := wd) hZ0

theorem minF32Vs (c : Bool) (d : BitVec 7) (a : BitVec 7) (b : BitVec 5) : Statement (.minF32Vs c d a b) := by
  intro _ wd hEnc
  have hEnc : word 0x1C000003 c [(18, d.toNat), (11, a.toNat), (4, b.toNat)] = wd := by injection hEnc
  obtain ⟨hMaj, hSel, hZ0, hF0, hF1, hF2, hChain⟩ := shape_16 14 (by decide) 3 (by decide) c d a b wd hEnc.symm
  rw [decode_major_0E wd hMaj, decode0E, hSel, hF0, hF1, hF2, hChain]
  exact row_1 (w := wd) hZ0

theorem maxF32Vs (c : Bool) (d : BitVec 7) (a : BitVec 7) (b : BitVec 5) : Statement (.maxF32Vs c d a b) := by
  intro _ wd hEnc
  have hEnc : word 0x1C000004 c [(18, d.toNat), (11, a.toNat), (4, b.toNat)] = wd := by injection hEnc
  obtain ⟨hMaj, hSel, hZ0, hF0, hF1, hF2, hChain⟩ := shape_16 14 (by decide) 4 (by decide) c d a b wd hEnc.symm
  rw [decode_major_0E wd hMaj, decode0E, hSel, hF0, hF1, hF2, hChain]
  exact row_1 (w := wd) hZ0

theorem divF32Vs (c : Bool) (d : BitVec 7) (a : BitVec 7) (b : BitVec 5) : Statement (.divF32Vs c d a b) := by
  intro _ wd hEnc
  have hEnc : word 0x1C000005 c [(18, d.toNat), (11, a.toNat), (4, b.toNat)] = wd := by injection hEnc
  obtain ⟨hMaj, hSel, hZ0, hF0, hF1, hF2, hChain⟩ := shape_16 14 (by decide) 5 (by decide) c d a b wd hEnc.symm
  rw [decode_major_0E wd hMaj, decode0E, hSel, hF0, hF1, hF2, hChain]
  exact row_1 (w := wd) hZ0

theorem scaleF32Vs (c : Bool) (d : BitVec 7) (a : BitVec 7) (b : BitVec 5) : Statement (.scaleF32Vs c d a b) := by
  intro _ wd hEnc
  have hEnc : word 0x1C000006 c [(18, d.toNat), (11, a.toNat), (4, b.toNat)] = wd := by injection hEnc
  obtain ⟨hMaj, hSel, hZ0, hF0, hF1, hF2, hChain⟩ := shape_16 14 (by decide) 6 (by decide) c d a b wd hEnc.symm
  rw [decode_major_0E wd hMaj, decode0E, hSel, hF0, hF1, hF2, hChain]
  exact row_1 (w := wd) hZ0

theorem ffmaF32 (c : Bool) (d : BitVec 7) (a : BitVec 7) (b : BitVec 7) : Statement (.ffmaF32 c d a b) := by
  intro _ wd hEnc
  have hEnc : word 0x1E000000 c [(18, d.toNat), (11, a.toNat), (4, b.toNat)] = wd := by injection hEnc
  obtain ⟨hMaj, hSel, hF0, hF1, hF2, hChain⟩ := shape_15 15 (by decide) 0 (by decide) c d a b wd hEnc.symm
  rw [decode_major_0F wd hMaj, decode0F, hSel, hF0, hF1, hF2, hChain]
  exact row_zero (w := wd)

theorem ffmaF32S (c : Bool) (d : BitVec 7) (a : BitVec 7) (b : BitVec 5) : Statement (.ffmaF32S c d a b) := by
  intro _ wd hEnc
  have hEnc : word 0x1E000001 c [(18, d.toNat), (11, a.toNat), (4, b.toNat)] = wd := by injection hEnc
  obtain ⟨hMaj, hSel, hZ0, hF0, hF1, hF2, hChain⟩ := shape_16 15 (by decide) 1 (by decide) c d a b wd hEnc.symm
  rw [decode_major_0F wd hMaj, decode0F, hSel, hF0, hF1, hF2, hChain]
  exact row_1 (w := wd) hZ0

theorem ffmaF64 (c : Bool) (d : BitVec 7) (a : BitVec 7) (b : BitVec 7) : Statement (.ffmaF64 c d a b) := by
  intro _ wd hEnc
  have hEnc : word 0x1E000002 c [(18, d.toNat), (11, a.toNat), (4, b.toNat)] = wd := by injection hEnc
  obtain ⟨hMaj, hSel, hF0, hF1, hF2, hChain⟩ := shape_15 15 (by decide) 2 (by decide) c d a b wd hEnc.symm
  rw [decode_major_0F wd hMaj, decode0F, hSel, hF0, hF1, hF2, hChain]
  exact row_zero (w := wd)

theorem ffmaF64S (c : Bool) (d : BitVec 7) (a : BitVec 7) (b : BitVec 5) : Statement (.ffmaF64S c d a b) := by
  intro _ wd hEnc
  have hEnc : word 0x1E000003 c [(18, d.toNat), (11, a.toNat), (4, b.toNat)] = wd := by injection hEnc
  obtain ⟨hMaj, hSel, hZ0, hF0, hF1, hF2, hChain⟩ := shape_16 15 (by decide) 3 (by decide) c d a b wd hEnc.symm
  rw [decode_major_0F wd hMaj, decode0F, hSel, hF0, hF1, hF2, hChain]
  exact row_1 (w := wd) hZ0

theorem ffmaF16x2 (c : Bool) (d : BitVec 7) (a : BitVec 7) (b : BitVec 7) : Statement (.ffmaF16x2 c d a b) := by
  intro _ wd hEnc
  have hEnc : word 0x1E000004 c [(18, d.toNat), (11, a.toNat), (4, b.toNat)] = wd := by injection hEnc
  obtain ⟨hMaj, hSel, hF0, hF1, hF2, hChain⟩ := shape_15 15 (by decide) 4 (by decide) c d a b wd hEnc.symm
  rw [decode_major_0F wd hMaj, decode0F, hSel, hF0, hF1, hF2, hChain]
  exact row_zero (w := wd)

theorem ffmaBf16x2 (c : Bool) (d : BitVec 7) (a : BitVec 7) (b : BitVec 7) : Statement (.ffmaBf16x2 c d a b) := by
  intro _ wd hEnc
  have hEnc : word 0x1E000005 c [(18, d.toNat), (11, a.toNat), (4, b.toNat)] = wd := by injection hEnc
  obtain ⟨hMaj, hSel, hF0, hF1, hF2, hChain⟩ := shape_15 15 (by decide) 5 (by decide) c d a b wd hEnc.symm
  rw [decode_major_0F wd hMaj, decode0F, hSel, hF0, hF1, hF2, hChain]
  exact row_zero (w := wd)

theorem fnmaF32 (c : Bool) (d : BitVec 7) (a : BitVec 7) (b : BitVec 7) : Statement (.fnmaF32 c d a b) := by
  intro _ wd hEnc
  have hEnc : word 0x1E000006 c [(18, d.toNat), (11, a.toNat), (4, b.toNat)] = wd := by injection hEnc
  obtain ⟨hMaj, hSel, hF0, hF1, hF2, hChain⟩ := shape_15 15 (by decide) 6 (by decide) c d a b wd hEnc.symm
  rw [decode_major_0F wd hMaj, decode0F, hSel, hF0, hF1, hF2, hChain]
  exact row_zero (w := wd)

theorem fnmaF64 (c : Bool) (d : BitVec 7) (a : BitVec 7) (b : BitVec 7) : Statement (.fnmaF64 c d a b) := by
  intro _ wd hEnc
  have hEnc : word 0x1E000007 c [(18, d.toNat), (11, a.toNat), (4, b.toNat)] = wd := by injection hEnc
  obtain ⟨hMaj, hSel, hF0, hF1, hF2, hChain⟩ := shape_15 15 (by decide) 7 (by decide) c d a b wd hEnc.symm
  rw [decode_major_0F wd hMaj, decode0F, hSel, hF0, hF1, hF2, hChain]
  exact row_zero (w := wd)

theorem addF64 (c : Bool) (d : BitVec 7) (a : BitVec 7) (b : BitVec 7) : Statement (.addF64 c d a b) := by
  intro _ wd hEnc
  have hEnc : word 0x20000000 c [(18, d.toNat), (11, a.toNat), (4, b.toNat)] = wd := by injection hEnc
  obtain ⟨hMaj, hSel, hF0, hF1, hF2, hChain⟩ := shape_15 16 (by decide) 0 (by decide) c d a b wd hEnc.symm
  rw [decode_major_10 wd hMaj, decode10, hSel, hF0, hF1, hF2, hChain]
  exact row_zero (w := wd)

theorem subF64 (c : Bool) (d : BitVec 7) (a : BitVec 7) (b : BitVec 7) : Statement (.subF64 c d a b) := by
  intro _ wd hEnc
  have hEnc : word 0x20000001 c [(18, d.toNat), (11, a.toNat), (4, b.toNat)] = wd := by injection hEnc
  obtain ⟨hMaj, hSel, hF0, hF1, hF2, hChain⟩ := shape_15 16 (by decide) 1 (by decide) c d a b wd hEnc.symm
  rw [decode_major_10 wd hMaj, decode10, hSel, hF0, hF1, hF2, hChain]
  exact row_zero (w := wd)

theorem mulF64 (c : Bool) (d : BitVec 7) (a : BitVec 7) (b : BitVec 7) : Statement (.mulF64 c d a b) := by
  intro _ wd hEnc
  have hEnc : word 0x20000002 c [(18, d.toNat), (11, a.toNat), (4, b.toNat)] = wd := by injection hEnc
  obtain ⟨hMaj, hSel, hF0, hF1, hF2, hChain⟩ := shape_15 16 (by decide) 2 (by decide) c d a b wd hEnc.symm
  rw [decode_major_10 wd hMaj, decode10, hSel, hF0, hF1, hF2, hChain]
  exact row_zero (w := wd)

theorem minF64 (c : Bool) (d : BitVec 7) (a : BitVec 7) (b : BitVec 7) : Statement (.minF64 c d a b) := by
  intro _ wd hEnc
  have hEnc : word 0x20000003 c [(18, d.toNat), (11, a.toNat), (4, b.toNat)] = wd := by injection hEnc
  obtain ⟨hMaj, hSel, hF0, hF1, hF2, hChain⟩ := shape_15 16 (by decide) 3 (by decide) c d a b wd hEnc.symm
  rw [decode_major_10 wd hMaj, decode10, hSel, hF0, hF1, hF2, hChain]
  exact row_zero (w := wd)

theorem maxF64 (c : Bool) (d : BitVec 7) (a : BitVec 7) (b : BitVec 7) : Statement (.maxF64 c d a b) := by
  intro _ wd hEnc
  have hEnc : word 0x20000004 c [(18, d.toNat), (11, a.toNat), (4, b.toNat)] = wd := by injection hEnc
  obtain ⟨hMaj, hSel, hF0, hF1, hF2, hChain⟩ := shape_15 16 (by decide) 4 (by decide) c d a b wd hEnc.symm
  rw [decode_major_10 wd hMaj, decode10, hSel, hF0, hF1, hF2, hChain]
  exact row_zero (w := wd)

theorem divF64 (c : Bool) (d : BitVec 7) (a : BitVec 7) (b : BitVec 7) : Statement (.divF64 c d a b) := by
  intro _ wd hEnc
  have hEnc : word 0x20000005 c [(18, d.toNat), (11, a.toNat), (4, b.toNat)] = wd := by injection hEnc
  obtain ⟨hMaj, hSel, hF0, hF1, hF2, hChain⟩ := shape_15 16 (by decide) 5 (by decide) c d a b wd hEnc.symm
  rw [decode_major_10 wd hMaj, decode10, hSel, hF0, hF1, hF2, hChain]
  exact row_zero (w := wd)

theorem scaleF64 (c : Bool) (d : BitVec 7) (a : BitVec 7) (b : BitVec 7) : Statement (.scaleF64 c d a b) := by
  intro _ wd hEnc
  have hEnc : word 0x20000006 c [(18, d.toNat), (11, a.toNat), (4, b.toNat)] = wd := by injection hEnc
  obtain ⟨hMaj, hSel, hF0, hF1, hF2, hChain⟩ := shape_15 16 (by decide) 6 (by decide) c d a b wd hEnc.symm
  rw [decode_major_10 wd hMaj, decode10, hSel, hF0, hF1, hF2, hChain]
  exact row_zero (w := wd)

theorem addF16x2 (c : Bool) (d : BitVec 7) (a : BitVec 7) (b : BitVec 7) : Statement (.addF16x2 c d a b) := by
  intro _ wd hEnc
  have hEnc : word 0x22000000 c [(18, d.toNat), (11, a.toNat), (4, b.toNat)] = wd := by injection hEnc
  obtain ⟨hMaj, hSel, hF0, hF1, hF2, hChain⟩ := shape_15 17 (by decide) 0 (by decide) c d a b wd hEnc.symm
  rw [decode_major_11 wd hMaj, decode11, hSel, hF0, hF1, hF2, hChain]
  exact row_zero (w := wd)

theorem mulF16x2 (c : Bool) (d : BitVec 7) (a : BitVec 7) (b : BitVec 7) : Statement (.mulF16x2 c d a b) := by
  intro _ wd hEnc
  have hEnc : word 0x22000001 c [(18, d.toNat), (11, a.toNat), (4, b.toNat)] = wd := by injection hEnc
  obtain ⟨hMaj, hSel, hF0, hF1, hF2, hChain⟩ := shape_15 17 (by decide) 1 (by decide) c d a b wd hEnc.symm
  rw [decode_major_11 wd hMaj, decode11, hSel, hF0, hF1, hF2, hChain]
  exact row_zero (w := wd)

theorem minF16x2 (c : Bool) (d : BitVec 7) (a : BitVec 7) (b : BitVec 7) : Statement (.minF16x2 c d a b) := by
  intro _ wd hEnc
  have hEnc : word 0x22000002 c [(18, d.toNat), (11, a.toNat), (4, b.toNat)] = wd := by injection hEnc
  obtain ⟨hMaj, hSel, hF0, hF1, hF2, hChain⟩ := shape_15 17 (by decide) 2 (by decide) c d a b wd hEnc.symm
  rw [decode_major_11 wd hMaj, decode11, hSel, hF0, hF1, hF2, hChain]
  exact row_zero (w := wd)

theorem maxF16x2 (c : Bool) (d : BitVec 7) (a : BitVec 7) (b : BitVec 7) : Statement (.maxF16x2 c d a b) := by
  intro _ wd hEnc
  have hEnc : word 0x22000003 c [(18, d.toNat), (11, a.toNat), (4, b.toNat)] = wd := by injection hEnc
  obtain ⟨hMaj, hSel, hF0, hF1, hF2, hChain⟩ := shape_15 17 (by decide) 3 (by decide) c d a b wd hEnc.symm
  rw [decode_major_11 wd hMaj, decode11, hSel, hF0, hF1, hF2, hChain]
  exact row_zero (w := wd)

theorem addBf16x2 (c : Bool) (d : BitVec 7) (a : BitVec 7) (b : BitVec 7) : Statement (.addBf16x2 c d a b) := by
  intro _ wd hEnc
  have hEnc : word 0x22000004 c [(18, d.toNat), (11, a.toNat), (4, b.toNat)] = wd := by injection hEnc
  obtain ⟨hMaj, hSel, hF0, hF1, hF2, hChain⟩ := shape_15 17 (by decide) 4 (by decide) c d a b wd hEnc.symm
  rw [decode_major_11 wd hMaj, decode11, hSel, hF0, hF1, hF2, hChain]
  exact row_zero (w := wd)

theorem mulBf16x2 (c : Bool) (d : BitVec 7) (a : BitVec 7) (b : BitVec 7) : Statement (.mulBf16x2 c d a b) := by
  intro _ wd hEnc
  have hEnc : word 0x22000005 c [(18, d.toNat), (11, a.toNat), (4, b.toNat)] = wd := by injection hEnc
  obtain ⟨hMaj, hSel, hF0, hF1, hF2, hChain⟩ := shape_15 17 (by decide) 5 (by decide) c d a b wd hEnc.symm
  rw [decode_major_11 wd hMaj, decode11, hSel, hF0, hF1, hF2, hChain]
  exact row_zero (w := wd)

theorem minBf16x2 (c : Bool) (d : BitVec 7) (a : BitVec 7) (b : BitVec 7) : Statement (.minBf16x2 c d a b) := by
  intro _ wd hEnc
  have hEnc : word 0x22000006 c [(18, d.toNat), (11, a.toNat), (4, b.toNat)] = wd := by injection hEnc
  obtain ⟨hMaj, hSel, hF0, hF1, hF2, hChain⟩ := shape_15 17 (by decide) 6 (by decide) c d a b wd hEnc.symm
  rw [decode_major_11 wd hMaj, decode11, hSel, hF0, hF1, hF2, hChain]
  exact row_zero (w := wd)

theorem maxBf16x2 (c : Bool) (d : BitVec 7) (a : BitVec 7) (b : BitVec 7) : Statement (.maxBf16x2 c d a b) := by
  intro _ wd hEnc
  have hEnc : word 0x22000007 c [(18, d.toNat), (11, a.toNat), (4, b.toNat)] = wd := by injection hEnc
  obtain ⟨hMaj, hSel, hF0, hF1, hF2, hChain⟩ := shape_15 17 (by decide) 7 (by decide) c d a b wd hEnc.symm
  rw [decode_major_11 wd hMaj, decode11, hSel, hF0, hF1, hF2, hChain]
  exact row_zero (w := wd)

theorem rcp (c : Bool) (d : BitVec 7) (a : BitVec 7) (p : BitVec 1) : Statement (.rcp c d a p) := by
  intro _ wd hEnc
  have hEnc : word 0x24000000 c [(18, d.toNat), (11, a.toNat), (4, p.toNat)] = wd := by injection hEnc
  obtain ⟨hMaj, hSel, hZ0, hF0, hF1, hF2, hChain⟩ := shape_23 18 (by decide) 0 (by decide) c d a p wd hEnc.symm
  rw [decode_major_12 wd hMaj, decode12, hSel, hF0, hF1, hF2, hChain]
  exact row_1 (w := wd) hZ0

theorem rsq (c : Bool) (d : BitVec 7) (a : BitVec 7) (p : BitVec 1) : Statement (.rsq c d a p) := by
  intro _ wd hEnc
  have hEnc : word 0x24000001 c [(18, d.toNat), (11, a.toNat), (4, p.toNat)] = wd := by injection hEnc
  obtain ⟨hMaj, hSel, hZ0, hF0, hF1, hF2, hChain⟩ := shape_23 18 (by decide) 1 (by decide) c d a p wd hEnc.symm
  rw [decode_major_12 wd hMaj, decode12, hSel, hF0, hF1, hF2, hChain]
  exact row_1 (w := wd) hZ0

theorem sqrt (c : Bool) (d : BitVec 7) (a : BitVec 7) (p : BitVec 1) : Statement (.sqrt c d a p) := by
  intro _ wd hEnc
  have hEnc : word 0x24000002 c [(18, d.toNat), (11, a.toNat), (4, p.toNat)] = wd := by injection hEnc
  obtain ⟨hMaj, hSel, hZ0, hF0, hF1, hF2, hChain⟩ := shape_23 18 (by decide) 2 (by decide) c d a p wd hEnc.symm
  rw [decode_major_12 wd hMaj, decode12, hSel, hF0, hF1, hF2, hChain]
  exact row_1 (w := wd) hZ0

theorem exp2 (c : Bool) (d : BitVec 7) (a : BitVec 7) : Statement (.exp2 c d a) := by
  intro _ wd hEnc
  have hEnc : word 0x24000003 c [(18, d.toNat), (11, a.toNat)] = wd := by injection hEnc
  obtain ⟨hMaj, hSel, hZ0, hF0, hF1, hChain⟩ := shape_10 18 (by decide) 3 (by decide) c d a wd hEnc.symm
  have hb : ¬ fldNat wd 4 1 = 1 := by
    have := hZ0
    unfold fldNat at *
    omega
  rw [decode_major_12 wd hMaj, decode12, hSel, hF0, hF1, hChain]
  exact (if_neg hb).trans (row_1 (w := wd) hZ0)

theorem log2 (c : Bool) (d : BitVec 7) (a : BitVec 7) : Statement (.log2 c d a) := by
  intro _ wd hEnc
  have hEnc : word 0x24000004 c [(18, d.toNat), (11, a.toNat)] = wd := by injection hEnc
  obtain ⟨hMaj, hSel, hZ0, hF0, hF1, hChain⟩ := shape_10 18 (by decide) 4 (by decide) c d a wd hEnc.symm
  have hb : ¬ fldNat wd 4 1 = 1 := by
    have := hZ0
    unfold fldNat at *
    omega
  rw [decode_major_12 wd hMaj, decode12, hSel, hF0, hF1, hChain]
  exact (if_neg hb).trans (row_1 (w := wd) hZ0)

theorem sinpi (c : Bool) (d : BitVec 7) (a : BitVec 7) : Statement (.sinpi c d a) := by
  intro _ wd hEnc
  have hEnc : word 0x24000005 c [(18, d.toNat), (11, a.toNat)] = wd := by injection hEnc
  obtain ⟨hMaj, hSel, hZ0, hF0, hF1, hChain⟩ := shape_10 18 (by decide) 5 (by decide) c d a wd hEnc.symm
  have hb : ¬ fldNat wd 4 1 = 1 := by
    have := hZ0
    unfold fldNat at *
    omega
  rw [decode_major_12 wd hMaj, decode12, hSel, hF0, hF1, hChain]
  exact (if_neg hb).trans (row_1 (w := wd) hZ0)

theorem cospi (c : Bool) (d : BitVec 7) (a : BitVec 7) : Statement (.cospi c d a) := by
  intro _ wd hEnc
  have hEnc : word 0x24000006 c [(18, d.toNat), (11, a.toNat)] = wd := by injection hEnc
  obtain ⟨hMaj, hSel, hZ0, hF0, hF1, hChain⟩ := shape_10 18 (by decide) 6 (by decide) c d a wd hEnc.symm
  have hb : ¬ fldNat wd 4 1 = 1 := by
    have := hZ0
    unfold fldNat at *
    omega
  rw [decode_major_12 wd hMaj, decode12, hSel, hF0, hF1, hChain]
  exact (if_neg hb).trans (row_1 (w := wd) hZ0)

theorem absFloat (c : Bool) (d : BitVec 7) (a : BitVec 7) (p : BitVec 1) : Statement (.absFloat c d a p) := by
  intro _ wd hEnc
  have hEnc : word 0x24000007 c [(18, d.toNat), (11, a.toNat), (4, p.toNat)] = wd := by injection hEnc
  obtain ⟨hMaj, hSel, hZ0, hF0, hF1, hF2, hChain⟩ := shape_23 18 (by decide) 7 (by decide) c d a p wd hEnc.symm
  rw [decode_major_12 wd hMaj, decode12, hSel, hF0, hF1, hF2, hChain]
  exact row_1 (w := wd) hZ0

theorem negFloat (c : Bool) (d : BitVec 7) (a : BitVec 7) (p : BitVec 1) : Statement (.negFloat c d a p) := by
  intro _ wd hEnc
  have hEnc : word 0x24000008 c [(18, d.toNat), (11, a.toNat), (4, p.toNat)] = wd := by injection hEnc
  obtain ⟨hMaj, hSel, hZ0, hF0, hF1, hF2, hChain⟩ := shape_23 18 (by decide) 8 (by decide) c d a p wd hEnc.symm
  rw [decode_major_12 wd hMaj, decode12, hSel, hF0, hF1, hF2, hChain]
  exact row_1 (w := wd) hZ0

theorem rnd (c : Bool) (d : BitVec 7) (a : BitVec 7) (p : BitVec 1) : Statement (.rnd c d a p) := by
  intro _ wd hEnc
  have hEnc : word 0x24000009 c [(18, d.toNat), (11, a.toNat), (4, p.toNat)] = wd := by injection hEnc
  obtain ⟨hMaj, hSel, hZ0, hF0, hF1, hF2, hChain⟩ := shape_23 18 (by decide) 9 (by decide) c d a p wd hEnc.symm
  rw [decode_major_12 wd hMaj, decode12, hSel, hF0, hF1, hF2, hChain]
  exact row_1 (w := wd) hZ0

theorem classF (c : Bool) (d : BitVec 7) (a : BitVec 7) (p : BitVec 1) : Statement (.classF c d a p) := by
  intro _ wd hEnc
  have hEnc : word 0x2400000A c [(18, d.toNat), (11, a.toNat), (4, p.toNat)] = wd := by injection hEnc
  obtain ⟨hMaj, hSel, hZ0, hF0, hF1, hF2, hChain⟩ := shape_23 18 (by decide) 10 (by decide) c d a p wd hEnc.symm
  rw [decode_major_12 wd hMaj, decode12, hSel, hF0, hF1, hF2, hChain]
  exact row_1 (w := wd) hZ0

theorem fract (c : Bool) (d : BitVec 7) (a : BitVec 7) (p : BitVec 1) : Statement (.fract c d a p) := by
  intro _ wd hEnc
  have hEnc : word 0x2400000B c [(18, d.toNat), (11, a.toNat), (4, p.toNat)] = wd := by injection hEnc
  obtain ⟨hMaj, hSel, hZ0, hF0, hF1, hF2, hChain⟩ := shape_23 18 (by decide) 11 (by decide) c d a p wd hEnc.symm
  rw [decode_major_12 wd hMaj, decode12, hSel, hF0, hF1, hF2, hChain]
  exact row_1 (w := wd) hZ0

theorem fcmpF32 (c : Bool) (k : BitVec 4) (p : BitVec 3) (a : BitVec 7) (b : BitVec 7) : Statement (.fcmpF32 c k p a b) := by
  intro hwf wd hEnc
  have hEnc : word 0x26000000 c [(21, k.toNat), (18, p.toNat), (11, a.toNat), (4, b.toNat)] = wd := by injection hEnc
  obtain ⟨hMaj, hSel, hF0, hF1, hF2, hF3, hChain⟩ := shape_18 19 (by decide) 0 (by decide) c k p a b wd hEnc.symm
  have hk : ¬ 8 ≤ fldNat wd 21 4 := by
    have hk : k.toNat < 8 := by
      have := chk_of_wf hwf fun _ => List.mem_cons_self
      simpa using this
    rw [fld_eq] at hF0
    have := congrArg BitVec.toNat hF0
    rw [BitVec.toNat_ofNat] at this
    unfold fldNat
    omega
  rw [decode_major_13 wd hMaj, decode13, if_neg hk, hSel, hF0, hF1, hF2, hF3, hChain]
  exact row_zero (w := wd)

theorem fcmpF64 (c : Bool) (k : BitVec 4) (p : BitVec 3) (a : BitVec 7) (b : BitVec 7) : Statement (.fcmpF64 c k p a b) := by
  intro hwf wd hEnc
  have hEnc : word 0x26000001 c [(21, k.toNat), (18, p.toNat), (11, a.toNat), (4, b.toNat)] = wd := by injection hEnc
  obtain ⟨hMaj, hSel, hF0, hF1, hF2, hF3, hChain⟩ := shape_18 19 (by decide) 1 (by decide) c k p a b wd hEnc.symm
  have hk : ¬ 8 ≤ fldNat wd 21 4 := by
    have hk : k.toNat < 8 := by
      have := chk_of_wf hwf fun _ => List.mem_cons_self
      simpa using this
    rw [fld_eq] at hF0
    have := congrArg BitVec.toNat hF0
    rw [BitVec.toNat_ofNat] at this
    unfold fldNat
    omega
  rw [decode_major_13 wd hMaj, decode13, if_neg hk, hSel, hF0, hF1, hF2, hF3, hChain]
  exact row_zero (w := wd)

theorem fcmpF32S (c : Bool) (k : BitVec 4) (p : BitVec 3) (a : BitVec 7) (b : BitVec 5) : Statement (.fcmpF32S c k p a b) := by
  intro hwf wd hEnc
  have hEnc : word 0x26000002 c [(21, k.toNat), (18, p.toNat), (11, a.toNat), (4, b.toNat)] = wd := by injection hEnc
  obtain ⟨hMaj, hSel, hZ0, hF0, hF1, hF2, hF3, hChain⟩ := shape_19 19 (by decide) 2 (by decide) c k p a b wd hEnc.symm
  have hk : ¬ 8 ≤ fldNat wd 21 4 := by
    have hk : k.toNat < 8 := by
      have := chk_of_wf hwf fun _ => List.mem_cons_self
      simpa using this
    rw [fld_eq] at hF0
    have := congrArg BitVec.toNat hF0
    rw [BitVec.toNat_ofNat] at this
    unfold fldNat
    omega
  rw [decode_major_13 wd hMaj, decode13, if_neg hk, hSel, hF0, hF1, hF2, hF3, hChain]
  exact row_1 (w := wd) hZ0

theorem cvt (c : Bool) (d : BitVec 7) (a : BitVec 7) (t : BitVec 4) (r : BitVec 3) (s : BitVec 4) : Statement (.cvt c d a t r s) := by
  intro hwf wd hEnc
  have hEnc : word 0x28000000 c [(18, d.toNat), (11, a.toNat), (7, t.toNat), (4, r.toNat), (0, s.toNat)] = wd := by injection hEnc
  obtain ⟨hMaj, hF0, hF1, hF2, hF3, hF4, hChain⟩ := shape_24 20 (by decide) c d a t r s wd hEnc.symm
  have hk : ¬ 14 ≤ fldNat wd 0 4 := by
    have hk : s.toNat < 14 := by
      have := chk_of_wf hwf fun _ => List.mem_cons_self
      simpa using this
    rw [fld_eq] at hF4
    have := congrArg BitVec.toNat hF4
    rw [BitVec.toNat_ofNat] at this
    unfold fldNat
    omega
  rw [decode_major_14 wd hMaj, decode14, if_neg hk, hF0, hF1, hF2, hF3, hF4, hChain]
  exact row_zero (w := wd)

theorem movi (c : Bool) (d : BitVec 7) (i : BitVec 18) : Statement (.movi c d i) := by
  intro _ wd hEnc
  have hEnc : word 0x2A000000 c [(18, d.toNat), (0, i.toNat)] = wd := by injection hEnc
  obtain ⟨hMaj, hF0, hF1, hChain⟩ := shape_25 21 (by decide) c d i wd hEnc.symm
  rw [decode_major_15 wd hMaj, decode15, hF0, hF1, hChain]
  exact row_zero (w := wd)

theorem mov (c : Bool) (d : BitVec 7) (b : BitVec 7) : Statement (.mov c d b) := by
  intro _ wd hEnc
  have hEnc : word 0x2C000000 c [(18, d.toNat), (4, b.toNat)] = wd := by injection hEnc
  obtain ⟨hMaj, hSel, hZ0, hF0, hF1, hChain⟩ := shape_26 22 (by decide) 0 (by decide) c d b wd hEnc.symm
  rw [decode_major_16 wd hMaj, decode16, hSel, hF0, hF1, hChain]
  exact row_1 (w := wd) hZ0

theorem movb (c : Bool) (d : BitVec 7) (h : BitVec 1) (b : BitVec 5) : Statement (.movb c d h b) := by
  intro _ wd hEnc
  have hEnc : word 0x2C000001 c [(18, d.toNat), (11, h.toNat), (4, b.toNat)] = wd := by injection hEnc
  obtain ⟨hMaj, hSel, hZ0, hZ1, hF0, hF1, hF2, hChain⟩ := shape_27 22 (by decide) 1 (by decide) c d h b wd hEnc.symm
  rw [decode_major_16 wd hMaj, decode16, hSel, hF0, hF1, hF2, hChain]
  exact row_2 (w := wd) hZ0 hZ1

theorem mov64 (c : Bool) (d : BitVec 7) (b : BitVec 7) : Statement (.mov64 c d b) := by
  intro _ wd hEnc
  have hEnc : word 0x2C000002 c [(18, d.toNat), (4, b.toNat)] = wd := by injection hEnc
  obtain ⟨hMaj, hSel, hZ0, hF0, hF1, hChain⟩ := shape_26 22 (by decide) 2 (by decide) c d b wd hEnc.symm
  rw [decode_major_16 wd hMaj, decode16, hSel, hF0, hF1, hChain]
  exact row_1 (w := wd) hZ0

theorem vrfl (c : Bool) (d : BitVec 5) (a : BitVec 7) (w : BitVec 1) : Statement (.vrfl c d a w) := by
  intro _ wd hEnc
  have hEnc : word 0x2C000003 c [(18, d.toNat), (11, a.toNat), (4, w.toNat)] = wd := by injection hEnc
  obtain ⟨hMaj, hSel, hZ0, hZ1, hF0, hF1, hF2, hChain⟩ := shape_28 22 (by decide) 3 (by decide) c d a w wd hEnc.symm
  rw [decode_major_16 wd hMaj, decode16, hSel, hF0, hF1, hF2, hChain]
  exact row_2 (w := wd) hZ0 hZ1

theorem vrln (c : Bool) (d : BitVec 5) (a : BitVec 7) (w : BitVec 1) (n : BitVec 5) : Statement (.vrln c d a w n) := by
  intro _ wd hEnc
  have hEnc : word 0x2C000004 c [(18, d.toNat), (11, a.toNat), (9, w.toNat), (4, n.toNat)] = wd := by injection hEnc
  obtain ⟨hMaj, hSel, hZ0, hZ1, hF0, hF1, hF2, hF3, hChain⟩ := shape_29 22 (by decide) 4 (by decide) c d a w n wd hEnc.symm
  rw [decode_major_16 wd hMaj, decode16, hSel, hF0, hF1, hF2, hF3, hChain]
  exact row_2 (w := wd) hZ0 hZ1

theorem vwln (c : Bool) (d : BitVec 7) (a : BitVec 5) (w : BitVec 1) (n : BitVec 5) : Statement (.vwln c d a w n) := by
  intro _ wd hEnc
  have hEnc : word 0x2C000005 c [(18, d.toNat), (11, a.toNat), (9, w.toNat), (4, n.toNat)] = wd := by injection hEnc
  obtain ⟨hMaj, hSel, hZ0, hZ1, hF0, hF1, hF2, hF3, hChain⟩ := shape_30 22 (by decide) 5 (by decide) c d a w n wd hEnc.symm
  rw [decode_major_16 wd hMaj, decode16, hSel, hF0, hF1, hF2, hF3, hChain]
  exact row_2 (w := wd) hZ0 hZ1

theorem widf (c : Bool) (d : BitVec 7) (w : BitVec 1) (k : BitVec 3) : Statement (.widf c d w k) := by
  intro _ wd hEnc
  have hEnc : word 0x2C000006 c [(18, d.toNat), (7, w.toNat), (4, k.toNat)] = wd := by injection hEnc
  obtain ⟨hMaj, hSel, hZ0, hF0, hF1, hF2, hChain⟩ := shape_31 22 (by decide) 6 (by decide) c d w k wd hEnc.symm
  rw [decode_major_16 wd hMaj, decode16, hSel, hF0, hF1, hF2, hChain]
  exact row_1 (w := wd) hZ0

theorem srd (c : Bool) (d : BitVec 7) (w : BitVec 1) (n : BitVec 7) : Statement (.srd c d w n) := by
  intro _ wd hEnc
  have hEnc : word 0x2C000007 c [(18, d.toNat), (11, w.toNat), (4, n.toNat)] = wd := by injection hEnc
  obtain ⟨hMaj, hSel, hZ0, hF0, hF1, hF2, hChain⟩ := shape_32 22 (by decide) 7 (by decide) c d w n wd hEnc.symm
  rw [decode_major_16 wd hMaj, decode16, hSel, hF0, hF1, hF2, hChain]
  exact row_1 (w := wd) hZ0

theorem swr (c : Bool) (w : BitVec 1) (a : BitVec 7) (n : BitVec 7) : Statement (.swr c w a n) := by
  intro _ wd hEnc
  have hEnc : word 0x2C000008 c [(18, w.toNat), (11, a.toNat), (4, n.toNat)] = wd := by injection hEnc
  obtain ⟨hMaj, hSel, hZ0, hF0, hF1, hF2, hChain⟩ := shape_33 22 (by decide) 8 (by decide) c w a n wd hEnc.symm
  rw [decode_major_16 wd hMaj, decode16, hSel, hF0, hF1, hF2, hChain]
  exact row_1 (w := wd) hZ0

theorem ptov (c : Bool) (d : BitVec 7) : Statement (.ptov c d) := by
  intro _ wd hEnc
  have hEnc : word 0x2C000009 c [(18, d.toNat)] = wd := by injection hEnc
  obtain ⟨hMaj, hSel, hZ0, hF0, hChain⟩ := shape_34 22 (by decide) 9 (by decide) c d wd hEnc.symm
  rw [decode_major_16 wd hMaj, decode16, hSel, hF0, hChain]
  exact row_1 (w := wd) hZ0

theorem vtop (c : Bool) (a : BitVec 7) : Statement (.vtop c a) := by
  intro _ wd hEnc
  have hEnc : word 0x2C00000A c [(11, a.toNat)] = wd := by injection hEnc
  obtain ⟨hMaj, hSel, hZ0, hZ1, hF0, hChain⟩ := shape_9 22 (by decide) 10 (by decide) c a wd hEnc.symm
  rw [decode_major_16 wd hMaj, decode16, hSel, hF0, hChain]
  exact row_2 (w := wd) hZ0 hZ1

theorem qwr (c : Bool) (d : BitVec 3) (b : BitVec 5) : Statement (.qwr c d b) := by
  intro _ wd hEnc
  have hEnc : word 0x2C00000B c [(18, d.toNat), (4, b.toNat)] = wd := by injection hEnc
  obtain ⟨hMaj, hSel, hZ0, hZ1, hF0, hF1, hChain⟩ := shape_35 22 (by decide) 11 (by decide) c d b wd hEnc.symm
  rw [decode_major_16 wd hMaj, decode16, hSel, hF0, hF1, hChain]
  exact row_2 (w := wd) hZ0 hZ1

theorem qrd (c : Bool) (d : BitVec 5) (a : BitVec 3) : Statement (.qrd c d a) := by
  intro _ wd hEnc
  have hEnc : word 0x2C00000C c [(18, d.toNat), (11, a.toNat)] = wd := by injection hEnc
  obtain ⟨hMaj, hSel, hZ0, hZ1, hZ2, hF0, hF1, hChain⟩ := shape_36 22 (by decide) 12 (by decide) c d a wd hEnc.symm
  rw [decode_major_16 wd hMaj, decode16, hSel, hF0, hF1, hChain]
  exact row_3 (w := wd) hZ0 hZ1 hZ2

theorem shflIdx (c : Bool) (d : BitVec 7) (a : BitVec 7) (b : BitVec 7) : Statement (.shflIdx c d a b) := by
  intro _ wd hEnc
  have hEnc : word 0x2E000000 c [(18, d.toNat), (11, a.toNat), (4, b.toNat)] = wd := by injection hEnc
  obtain ⟨hMaj, hSel, hF0, hF1, hF2, hChain⟩ := shape_15 23 (by decide) 0 (by decide) c d a b wd hEnc.symm
  rw [decode_major_17 wd hMaj, decode17, hSel, hF0, hF1, hF2, hChain]
  exact row_zero (w := wd)

theorem shflUp (c : Bool) (d : BitVec 7) (a : BitVec 7) (n : BitVec 5) : Statement (.shflUp c d a n) := by
  intro _ wd hEnc
  have hEnc : word 0x2E000001 c [(18, d.toNat), (11, a.toNat), (4, n.toNat)] = wd := by injection hEnc
  obtain ⟨hMaj, hSel, hZ0, hF0, hF1, hF2, hChain⟩ := shape_16 23 (by decide) 1 (by decide) c d a n wd hEnc.symm
  rw [decode_major_17 wd hMaj, decode17, hSel, hF0, hF1, hF2, hChain]
  exact row_1 (w := wd) hZ0

theorem shflDown (c : Bool) (d : BitVec 7) (a : BitVec 7) (n : BitVec 5) : Statement (.shflDown c d a n) := by
  intro _ wd hEnc
  have hEnc : word 0x2E000002 c [(18, d.toNat), (11, a.toNat), (4, n.toNat)] = wd := by injection hEnc
  obtain ⟨hMaj, hSel, hZ0, hF0, hF1, hF2, hChain⟩ := shape_16 23 (by decide) 2 (by decide) c d a n wd hEnc.symm
  rw [decode_major_17 wd hMaj, decode17, hSel, hF0, hF1, hF2, hChain]
  exact row_1 (w := wd) hZ0

theorem shflXor (c : Bool) (d : BitVec 7) (a : BitVec 7) (n : BitVec 5) : Statement (.shflXor c d a n) := by
  intro _ wd hEnc
  have hEnc : word 0x2E000003 c [(18, d.toNat), (11, a.toNat), (4, n.toNat)] = wd := by injection hEnc
  obtain ⟨hMaj, hSel, hZ0, hF0, hF1, hF2, hChain⟩ := shape_16 23 (by decide) 3 (by decide) c d a n wd hEnc.symm
  rw [decode_major_17 wd hMaj, decode17, hSel, hF0, hF1, hF2, hChain]
  exact row_1 (w := wd) hZ0

theorem voteAny (c : Bool) (d : BitVec 3) (a : BitVec 3) : Statement (.voteAny c d a) := by
  intro _ wd hEnc
  have hEnc : word 0x30000000 c [(18, d.toNat), (11, a.toNat)] = wd := by injection hEnc
  obtain ⟨hMaj, hSel, hZ0, hZ1, hZ2, hF0, hF1, hChain⟩ := shape_22 24 (by decide) 0 (by decide) c d a wd hEnc.symm
  rw [decode_major_18 wd hMaj, decode18, hSel, hF0, hF1, hChain]
  exact row_3 (w := wd) hZ0 hZ1 hZ2

theorem voteAll (c : Bool) (d : BitVec 3) (a : BitVec 3) : Statement (.voteAll c d a) := by
  intro _ wd hEnc
  have hEnc : word 0x30000001 c [(18, d.toNat), (11, a.toNat)] = wd := by injection hEnc
  obtain ⟨hMaj, hSel, hZ0, hZ1, hZ2, hF0, hF1, hChain⟩ := shape_22 24 (by decide) 1 (by decide) c d a wd hEnc.symm
  rw [decode_major_18 wd hMaj, decode18, hSel, hF0, hF1, hChain]
  exact row_3 (w := wd) hZ0 hZ1 hZ2

theorem voteBallot (c : Bool) (d : BitVec 5) (a : BitVec 3) : Statement (.voteBallot c d a) := by
  intro _ wd hEnc
  have hEnc : word 0x30000002 c [(18, d.toNat), (11, a.toNat)] = wd := by injection hEnc
  obtain ⟨hMaj, hSel, hZ0, hZ1, hZ2, hF0, hF1, hChain⟩ := shape_36 24 (by decide) 2 (by decide) c d a wd hEnc.symm
  rw [decode_major_18 wd hMaj, decode18, hSel, hF0, hF1, hChain]
  exact row_3 (w := wd) hZ0 hZ1 hZ2

theorem voteRedaddS32 (c : Bool) (d : BitVec 5) (a : BitVec 7) : Statement (.voteRedaddS32 c d a) := by
  intro _ wd hEnc
  have hEnc : word 0x30000003 c [(18, d.toNat), (11, a.toNat)] = wd := by injection hEnc
  obtain ⟨hMaj, hSel, hZ0, hZ1, hF0, hF1, hChain⟩ := shape_37 24 (by decide) 3 (by decide) c d a wd hEnc.symm
  rw [decode_major_18 wd hMaj, decode18, hSel, hF0, hF1, hChain]
  exact row_2 (w := wd) hZ0 hZ1

theorem voteRedminS32 (c : Bool) (d : BitVec 5) (a : BitVec 7) : Statement (.voteRedminS32 c d a) := by
  intro _ wd hEnc
  have hEnc : word 0x30000004 c [(18, d.toNat), (11, a.toNat)] = wd := by injection hEnc
  obtain ⟨hMaj, hSel, hZ0, hZ1, hF0, hF1, hChain⟩ := shape_37 24 (by decide) 4 (by decide) c d a wd hEnc.symm
  rw [decode_major_18 wd hMaj, decode18, hSel, hF0, hF1, hChain]
  exact row_2 (w := wd) hZ0 hZ1

theorem voteRedmaxS32 (c : Bool) (d : BitVec 5) (a : BitVec 7) : Statement (.voteRedmaxS32 c d a) := by
  intro _ wd hEnc
  have hEnc : word 0x30000005 c [(18, d.toNat), (11, a.toNat)] = wd := by injection hEnc
  obtain ⟨hMaj, hSel, hZ0, hZ1, hF0, hF1, hChain⟩ := shape_37 24 (by decide) 5 (by decide) c d a wd hEnc.symm
  rw [decode_major_18 wd hMaj, decode18, hSel, hF0, hF1, hChain]
  exact row_2 (w := wd) hZ0 hZ1

theorem voteRedaddF32 (c : Bool) (d : BitVec 5) (a : BitVec 7) : Statement (.voteRedaddF32 c d a) := by
  intro _ wd hEnc
  have hEnc : word 0x30000006 c [(18, d.toNat), (11, a.toNat)] = wd := by injection hEnc
  obtain ⟨hMaj, hSel, hZ0, hZ1, hF0, hF1, hChain⟩ := shape_37 24 (by decide) 6 (by decide) c d a wd hEnc.symm
  rw [decode_major_18 wd hMaj, decode18, hSel, hF0, hF1, hChain]
  exact row_2 (w := wd) hZ0 hZ1

theorem voteScanS32 (c : Bool) (d : BitVec 7) (a : BitVec 7) : Statement (.voteScanS32 c d a) := by
  intro _ wd hEnc
  have hEnc : word 0x30000007 c [(18, d.toNat), (11, a.toNat)] = wd := by injection hEnc
  obtain ⟨hMaj, hSel, hZ0, hF0, hF1, hChain⟩ := shape_10 24 (by decide) 7 (by decide) c d a wd hEnc.symm
  rw [decode_major_18 wd hMaj, decode18, hSel, hF0, hF1, hChain]
  exact row_1 (w := wd) hZ0

theorem addSs (c : Bool) (d : BitVec 5) (a : BitVec 5) (b : BitVec 7) : Statement (.addSs c d a b) := by
  intro _ wd hEnc
  have hEnc : word 0x32000000 c [(18, d.toNat), (11, a.toNat), (4, b.toNat)] = wd := by injection hEnc
  obtain ⟨hMaj, hSel, hZ0, hZ1, hF0, hF1, hF2, hChain⟩ := shape_38 25 (by decide) 0 (by decide) c d a b wd hEnc.symm
  rw [decode_major_19 wd hMaj, decode19, hSel, hF0, hF1, hF2, hChain]
  exact row_2 (w := wd) hZ0 hZ1

theorem subSs (c : Bool) (d : BitVec 5) (a : BitVec 5) (b : BitVec 7) : Statement (.subSs c d a b) := by
  intro _ wd hEnc
  have hEnc : word 0x32000001 c [(18, d.toNat), (11, a.toNat), (4, b.toNat)] = wd := by injection hEnc
  obtain ⟨hMaj, hSel, hZ0, hZ1, hF0, hF1, hF2, hChain⟩ := shape_38 25 (by decide) 1 (by decide) c d a b wd hEnc.symm
  rw [decode_major_19 wd hMaj, decode19, hSel, hF0, hF1, hF2, hChain]
  exact row_2 (w := wd) hZ0 hZ1

theorem mulSs (c : Bool) (d : BitVec 5) (a : BitVec 5) (b : BitVec 7) : Statement (.mulSs c d a b) := by
  intro _ wd hEnc
  have hEnc : word 0x32000002 c [(18, d.toNat), (11, a.toNat), (4, b.toNat)] = wd := by injection hEnc
  obtain ⟨hMaj, hSel, hZ0, hZ1, hF0, hF1, hF2, hChain⟩ := shape_38 25 (by decide) 2 (by decide) c d a b wd hEnc.symm
  rw [decode_major_19 wd hMaj, decode19, hSel, hF0, hF1, hF2, hChain]
  exact row_2 (w := wd) hZ0 hZ1

theorem mulhiSs (c : Bool) (d : BitVec 5) (a : BitVec 5) (b : BitVec 7) : Statement (.mulhiSs c d a b) := by
  intro _ wd hEnc
  have hEnc : word 0x32000003 c [(18, d.toNat), (11, a.toNat), (4, b.toNat)] = wd := by injection hEnc
  obtain ⟨hMaj, hSel, hZ0, hZ1, hF0, hF1, hF2, hChain⟩ := shape_38 25 (by decide) 3 (by decide) c d a b wd hEnc.symm
  rw [decode_major_19 wd hMaj, decode19, hSel, hF0, hF1, hF2, hChain]
  exact row_2 (w := wd) hZ0 hZ1

theorem mulhiNSs (c : Bool) (d : BitVec 5) (a : BitVec 5) (b : BitVec 7) : Statement (.mulhiNSs c d a b) := by
  intro _ wd hEnc
  have hEnc : word 0x32000004 c [(18, d.toNat), (11, a.toNat), (4, b.toNat)] = wd := by injection hEnc
  obtain ⟨hMaj, hSel, hZ0, hZ1, hF0, hF1, hF2, hChain⟩ := shape_38 25 (by decide) 4 (by decide) c d a b wd hEnc.symm
  rw [decode_major_19 wd hMaj, decode19, hSel, hF0, hF1, hF2, hChain]
  exact row_2 (w := wd) hZ0 hZ1

theorem minSs (c : Bool) (d : BitVec 5) (a : BitVec 5) (b : BitVec 7) : Statement (.minSs c d a b) := by
  intro _ wd hEnc
  have hEnc : word 0x32000005 c [(18, d.toNat), (11, a.toNat), (4, b.toNat)] = wd := by injection hEnc
  obtain ⟨hMaj, hSel, hZ0, hZ1, hF0, hF1, hF2, hChain⟩ := shape_38 25 (by decide) 5 (by decide) c d a b wd hEnc.symm
  rw [decode_major_19 wd hMaj, decode19, hSel, hF0, hF1, hF2, hChain]
  exact row_2 (w := wd) hZ0 hZ1

theorem maxSs (c : Bool) (d : BitVec 5) (a : BitVec 5) (b : BitVec 7) : Statement (.maxSs c d a b) := by
  intro _ wd hEnc
  have hEnc : word 0x32000006 c [(18, d.toNat), (11, a.toNat), (4, b.toNat)] = wd := by injection hEnc
  obtain ⟨hMaj, hSel, hZ0, hZ1, hF0, hF1, hF2, hChain⟩ := shape_38 25 (by decide) 6 (by decide) c d a b wd hEnc.symm
  rw [decode_major_19 wd hMaj, decode19, hSel, hF0, hF1, hF2, hChain]
  exact row_2 (w := wd) hZ0 hZ1

theorem minNSs (c : Bool) (d : BitVec 5) (a : BitVec 5) (b : BitVec 7) : Statement (.minNSs c d a b) := by
  intro _ wd hEnc
  have hEnc : word 0x32000007 c [(18, d.toNat), (11, a.toNat), (4, b.toNat)] = wd := by injection hEnc
  obtain ⟨hMaj, hSel, hZ0, hZ1, hF0, hF1, hF2, hChain⟩ := shape_38 25 (by decide) 7 (by decide) c d a b wd hEnc.symm
  rw [decode_major_19 wd hMaj, decode19, hSel, hF0, hF1, hF2, hChain]
  exact row_2 (w := wd) hZ0 hZ1

theorem maxNSs (c : Bool) (d : BitVec 5) (a : BitVec 5) (b : BitVec 7) : Statement (.maxNSs c d a b) := by
  intro _ wd hEnc
  have hEnc : word 0x32000008 c [(18, d.toNat), (11, a.toNat), (4, b.toNat)] = wd := by injection hEnc
  obtain ⟨hMaj, hSel, hZ0, hZ1, hF0, hF1, hF2, hChain⟩ := shape_38 25 (by decide) 8 (by decide) c d a b wd hEnc.symm
  rw [decode_major_19 wd hMaj, decode19, hSel, hF0, hF1, hF2, hChain]
  exact row_2 (w := wd) hZ0 hZ1

theorem andSs (c : Bool) (d : BitVec 5) (a : BitVec 5) (b : BitVec 7) : Statement (.andSs c d a b) := by
  intro _ wd hEnc
  have hEnc : word 0x32000009 c [(18, d.toNat), (11, a.toNat), (4, b.toNat)] = wd := by injection hEnc
  obtain ⟨hMaj, hSel, hZ0, hZ1, hF0, hF1, hF2, hChain⟩ := shape_38 25 (by decide) 9 (by decide) c d a b wd hEnc.symm
  rw [decode_major_19 wd hMaj, decode19, hSel, hF0, hF1, hF2, hChain]
  exact row_2 (w := wd) hZ0 hZ1

theorem orSs (c : Bool) (d : BitVec 5) (a : BitVec 5) (b : BitVec 7) : Statement (.orSs c d a b) := by
  intro _ wd hEnc
  have hEnc : word 0x3200000A c [(18, d.toNat), (11, a.toNat), (4, b.toNat)] = wd := by injection hEnc
  obtain ⟨hMaj, hSel, hZ0, hZ1, hF0, hF1, hF2, hChain⟩ := shape_38 25 (by decide) 10 (by decide) c d a b wd hEnc.symm
  rw [decode_major_19 wd hMaj, decode19, hSel, hF0, hF1, hF2, hChain]
  exact row_2 (w := wd) hZ0 hZ1

theorem xorSs (c : Bool) (d : BitVec 5) (a : BitVec 5) (b : BitVec 7) : Statement (.xorSs c d a b) := by
  intro _ wd hEnc
  have hEnc : word 0x3200000B c [(18, d.toNat), (11, a.toNat), (4, b.toNat)] = wd := by injection hEnc
  obtain ⟨hMaj, hSel, hZ0, hZ1, hF0, hF1, hF2, hChain⟩ := shape_38 25 (by decide) 11 (by decide) c d a b wd hEnc.symm
  rw [decode_major_19 wd hMaj, decode19, hSel, hF0, hF1, hF2, hChain]
  exact row_2 (w := wd) hZ0 hZ1

theorem shlSs (c : Bool) (d : BitVec 5) (a : BitVec 5) (b : BitVec 7) : Statement (.shlSs c d a b) := by
  intro _ wd hEnc
  have hEnc : word 0x3200000C c [(18, d.toNat), (11, a.toNat), (4, b.toNat)] = wd := by injection hEnc
  obtain ⟨hMaj, hSel, hZ0, hZ1, hF0, hF1, hF2, hChain⟩ := shape_38 25 (by decide) 12 (by decide) c d a b wd hEnc.symm
  rw [decode_major_19 wd hMaj, decode19, hSel, hF0, hF1, hF2, hChain]
  exact row_2 (w := wd) hZ0 hZ1

theorem shrSs (c : Bool) (d : BitVec 5) (a : BitVec 5) (b : BitVec 7) : Statement (.shrSs c d a b) := by
  intro _ wd hEnc
  have hEnc : word 0x3200000D c [(18, d.toNat), (11, a.toNat), (4, b.toNat)] = wd := by injection hEnc
  obtain ⟨hMaj, hSel, hZ0, hZ1, hF0, hF1, hF2, hChain⟩ := shape_38 25 (by decide) 13 (by decide) c d a b wd hEnc.symm
  rw [decode_major_19 wd hMaj, decode19, hSel, hF0, hF1, hF2, hChain]
  exact row_2 (w := wd) hZ0 hZ1

theorem sarSs (c : Bool) (d : BitVec 5) (a : BitVec 5) (b : BitVec 7) : Statement (.sarSs c d a b) := by
  intro _ wd hEnc
  have hEnc : word 0x3200000E c [(18, d.toNat), (11, a.toNat), (4, b.toNat)] = wd := by injection hEnc
  obtain ⟨hMaj, hSel, hZ0, hZ1, hF0, hF1, hF2, hChain⟩ := shape_38 25 (by decide) 14 (by decide) c d a b wd hEnc.symm
  rw [decode_major_19 wd hMaj, decode19, hSel, hF0, hF1, hF2, hChain]
  exact row_2 (w := wd) hZ0 hZ1

theorem rolSs (c : Bool) (d : BitVec 5) (a : BitVec 5) (b : BitVec 7) : Statement (.rolSs c d a b) := by
  intro _ wd hEnc
  have hEnc : word 0x3200000F c [(18, d.toNat), (11, a.toNat), (4, b.toNat)] = wd := by injection hEnc
  obtain ⟨hMaj, hSel, hZ0, hZ1, hF0, hF1, hF2, hChain⟩ := shape_38 25 (by decide) 15 (by decide) c d a b wd hEnc.symm
  rw [decode_major_19 wd hMaj, decode19, hSel, hF0, hF1, hF2, hChain]
  exact row_2 (w := wd) hZ0 hZ1

theorem addSi (c : Bool) (d : BitVec 5) (a : BitVec 5) (i : BitVec 7) : Statement (.addSi c d a i) := by
  intro _ wd hEnc
  have hEnc : word 0x34000000 c [(18, d.toNat), (11, a.toNat), (0, i.toNat)] = wd := by injection hEnc
  obtain ⟨hMaj, hSel, hZ0, hZ1, hF0, hF1, hF2, hChain⟩ := shape_39 26 (by decide) 0 (by decide) c d a i wd hEnc.symm
  rw [decode_major_1A wd hMaj, decode1A, hSel, hF0, hF1, hF2, hChain]
  exact row_2 (w := wd) hZ0 hZ1

theorem subSi (c : Bool) (d : BitVec 5) (a : BitVec 5) (i : BitVec 7) : Statement (.subSi c d a i) := by
  intro _ wd hEnc
  have hEnc : word 0x34000080 c [(18, d.toNat), (11, a.toNat), (0, i.toNat)] = wd := by injection hEnc
  obtain ⟨hMaj, hSel, hZ0, hZ1, hF0, hF1, hF2, hChain⟩ := shape_39 26 (by decide) 1 (by decide) c d a i wd hEnc.symm
  rw [decode_major_1A wd hMaj, decode1A, hSel, hF0, hF1, hF2, hChain]
  exact row_2 (w := wd) hZ0 hZ1

theorem mulSi (c : Bool) (d : BitVec 5) (a : BitVec 5) (i : BitVec 7) : Statement (.mulSi c d a i) := by
  intro _ wd hEnc
  have hEnc : word 0x34000100 c [(18, d.toNat), (11, a.toNat), (0, i.toNat)] = wd := by injection hEnc
  obtain ⟨hMaj, hSel, hZ0, hZ1, hF0, hF1, hF2, hChain⟩ := shape_39 26 (by decide) 2 (by decide) c d a i wd hEnc.symm
  rw [decode_major_1A wd hMaj, decode1A, hSel, hF0, hF1, hF2, hChain]
  exact row_2 (w := wd) hZ0 hZ1

theorem mulhiSi (c : Bool) (d : BitVec 5) (a : BitVec 5) (i : BitVec 7) : Statement (.mulhiSi c d a i) := by
  intro _ wd hEnc
  have hEnc : word 0x34000180 c [(18, d.toNat), (11, a.toNat), (0, i.toNat)] = wd := by injection hEnc
  obtain ⟨hMaj, hSel, hZ0, hZ1, hF0, hF1, hF2, hChain⟩ := shape_39 26 (by decide) 3 (by decide) c d a i wd hEnc.symm
  rw [decode_major_1A wd hMaj, decode1A, hSel, hF0, hF1, hF2, hChain]
  exact row_2 (w := wd) hZ0 hZ1

theorem mulhiNSi (c : Bool) (d : BitVec 5) (a : BitVec 5) (i : BitVec 7) : Statement (.mulhiNSi c d a i) := by
  intro _ wd hEnc
  have hEnc : word 0x34000200 c [(18, d.toNat), (11, a.toNat), (0, i.toNat)] = wd := by injection hEnc
  obtain ⟨hMaj, hSel, hZ0, hZ1, hF0, hF1, hF2, hChain⟩ := shape_39 26 (by decide) 4 (by decide) c d a i wd hEnc.symm
  rw [decode_major_1A wd hMaj, decode1A, hSel, hF0, hF1, hF2, hChain]
  exact row_2 (w := wd) hZ0 hZ1

theorem minSi (c : Bool) (d : BitVec 5) (a : BitVec 5) (i : BitVec 7) : Statement (.minSi c d a i) := by
  intro _ wd hEnc
  have hEnc : word 0x34000280 c [(18, d.toNat), (11, a.toNat), (0, i.toNat)] = wd := by injection hEnc
  obtain ⟨hMaj, hSel, hZ0, hZ1, hF0, hF1, hF2, hChain⟩ := shape_39 26 (by decide) 5 (by decide) c d a i wd hEnc.symm
  rw [decode_major_1A wd hMaj, decode1A, hSel, hF0, hF1, hF2, hChain]
  exact row_2 (w := wd) hZ0 hZ1

theorem maxSi (c : Bool) (d : BitVec 5) (a : BitVec 5) (i : BitVec 7) : Statement (.maxSi c d a i) := by
  intro _ wd hEnc
  have hEnc : word 0x34000300 c [(18, d.toNat), (11, a.toNat), (0, i.toNat)] = wd := by injection hEnc
  obtain ⟨hMaj, hSel, hZ0, hZ1, hF0, hF1, hF2, hChain⟩ := shape_39 26 (by decide) 6 (by decide) c d a i wd hEnc.symm
  rw [decode_major_1A wd hMaj, decode1A, hSel, hF0, hF1, hF2, hChain]
  exact row_2 (w := wd) hZ0 hZ1

theorem minNSi (c : Bool) (d : BitVec 5) (a : BitVec 5) (i : BitVec 7) : Statement (.minNSi c d a i) := by
  intro _ wd hEnc
  have hEnc : word 0x34000380 c [(18, d.toNat), (11, a.toNat), (0, i.toNat)] = wd := by injection hEnc
  obtain ⟨hMaj, hSel, hZ0, hZ1, hF0, hF1, hF2, hChain⟩ := shape_39 26 (by decide) 7 (by decide) c d a i wd hEnc.symm
  rw [decode_major_1A wd hMaj, decode1A, hSel, hF0, hF1, hF2, hChain]
  exact row_2 (w := wd) hZ0 hZ1

theorem maxNSi (c : Bool) (d : BitVec 5) (a : BitVec 5) (i : BitVec 7) : Statement (.maxNSi c d a i) := by
  intro _ wd hEnc
  have hEnc : word 0x34000400 c [(18, d.toNat), (11, a.toNat), (0, i.toNat)] = wd := by injection hEnc
  obtain ⟨hMaj, hSel, hZ0, hZ1, hF0, hF1, hF2, hChain⟩ := shape_39 26 (by decide) 8 (by decide) c d a i wd hEnc.symm
  rw [decode_major_1A wd hMaj, decode1A, hSel, hF0, hF1, hF2, hChain]
  exact row_2 (w := wd) hZ0 hZ1

theorem andSi (c : Bool) (d : BitVec 5) (a : BitVec 5) (i : BitVec 7) : Statement (.andSi c d a i) := by
  intro _ wd hEnc
  have hEnc : word 0x34000480 c [(18, d.toNat), (11, a.toNat), (0, i.toNat)] = wd := by injection hEnc
  obtain ⟨hMaj, hSel, hZ0, hZ1, hF0, hF1, hF2, hChain⟩ := shape_39 26 (by decide) 9 (by decide) c d a i wd hEnc.symm
  rw [decode_major_1A wd hMaj, decode1A, hSel, hF0, hF1, hF2, hChain]
  exact row_2 (w := wd) hZ0 hZ1

theorem orSi (c : Bool) (d : BitVec 5) (a : BitVec 5) (i : BitVec 7) : Statement (.orSi c d a i) := by
  intro _ wd hEnc
  have hEnc : word 0x34000500 c [(18, d.toNat), (11, a.toNat), (0, i.toNat)] = wd := by injection hEnc
  obtain ⟨hMaj, hSel, hZ0, hZ1, hF0, hF1, hF2, hChain⟩ := shape_39 26 (by decide) 10 (by decide) c d a i wd hEnc.symm
  rw [decode_major_1A wd hMaj, decode1A, hSel, hF0, hF1, hF2, hChain]
  exact row_2 (w := wd) hZ0 hZ1

theorem xorSi (c : Bool) (d : BitVec 5) (a : BitVec 5) (i : BitVec 7) : Statement (.xorSi c d a i) := by
  intro _ wd hEnc
  have hEnc : word 0x34000580 c [(18, d.toNat), (11, a.toNat), (0, i.toNat)] = wd := by injection hEnc
  obtain ⟨hMaj, hSel, hZ0, hZ1, hF0, hF1, hF2, hChain⟩ := shape_39 26 (by decide) 11 (by decide) c d a i wd hEnc.symm
  rw [decode_major_1A wd hMaj, decode1A, hSel, hF0, hF1, hF2, hChain]
  exact row_2 (w := wd) hZ0 hZ1

theorem shlSi (c : Bool) (d : BitVec 5) (a : BitVec 5) (i : BitVec 7) : Statement (.shlSi c d a i) := by
  intro _ wd hEnc
  have hEnc : word 0x34000600 c [(18, d.toNat), (11, a.toNat), (0, i.toNat)] = wd := by injection hEnc
  obtain ⟨hMaj, hSel, hZ0, hZ1, hF0, hF1, hF2, hChain⟩ := shape_39 26 (by decide) 12 (by decide) c d a i wd hEnc.symm
  rw [decode_major_1A wd hMaj, decode1A, hSel, hF0, hF1, hF2, hChain]
  exact row_2 (w := wd) hZ0 hZ1

theorem shrSi (c : Bool) (d : BitVec 5) (a : BitVec 5) (i : BitVec 7) : Statement (.shrSi c d a i) := by
  intro _ wd hEnc
  have hEnc : word 0x34000680 c [(18, d.toNat), (11, a.toNat), (0, i.toNat)] = wd := by injection hEnc
  obtain ⟨hMaj, hSel, hZ0, hZ1, hF0, hF1, hF2, hChain⟩ := shape_39 26 (by decide) 13 (by decide) c d a i wd hEnc.symm
  rw [decode_major_1A wd hMaj, decode1A, hSel, hF0, hF1, hF2, hChain]
  exact row_2 (w := wd) hZ0 hZ1

theorem sarSi (c : Bool) (d : BitVec 5) (a : BitVec 5) (i : BitVec 7) : Statement (.sarSi c d a i) := by
  intro _ wd hEnc
  have hEnc : word 0x34000700 c [(18, d.toNat), (11, a.toNat), (0, i.toNat)] = wd := by injection hEnc
  obtain ⟨hMaj, hSel, hZ0, hZ1, hF0, hF1, hF2, hChain⟩ := shape_39 26 (by decide) 14 (by decide) c d a i wd hEnc.symm
  rw [decode_major_1A wd hMaj, decode1A, hSel, hF0, hF1, hF2, hChain]
  exact row_2 (w := wd) hZ0 hZ1

theorem rolSi (c : Bool) (d : BitVec 5) (a : BitVec 5) (i : BitVec 7) : Statement (.rolSi c d a i) := by
  intro _ wd hEnc
  have hEnc : word 0x34000780 c [(18, d.toNat), (11, a.toNat), (0, i.toNat)] = wd := by injection hEnc
  obtain ⟨hMaj, hSel, hZ0, hZ1, hF0, hF1, hF2, hChain⟩ := shape_39 26 (by decide) 15 (by decide) c d a i wd hEnc.symm
  rw [decode_major_1A wd hMaj, decode1A, hSel, hF0, hF1, hF2, hChain]
  exact row_2 (w := wd) hZ0 hZ1

theorem smovi (c : Bool) (d : BitVec 5) (i : BitVec 18) : Statement (.smovi c d i) := by
  intro _ wd hEnc
  have hEnc : word 0x36000000 c [(18, d.toNat), (0, i.toNat)] = wd := by injection hEnc
  obtain ⟨hMaj, hZ0, hF0, hF1, hChain⟩ := shape_40 27 (by decide) c d i wd hEnc.symm
  rw [decode_major_1B wd hMaj, decode1B, hF0, hF1, hChain]
  exact row_1 (w := wd) hZ0

theorem scmp (c : Bool) (k : BitVec 4) (p : BitVec 3) (a : BitVec 5) (b : BitVec 5) : Statement (.scmp c k p a b) := by
  intro hwf wd hEnc
  have hEnc : word 0x38000000 c [(21, k.toNat), (18, p.toNat), (11, a.toNat), (4, b.toNat)] = wd := by injection hEnc
  obtain ⟨hMaj, hSel, hZ0, hZ1, hF0, hF1, hF2, hF3, hChain⟩ := shape_41 28 (by decide) 0 (by decide) c k p a b wd hEnc.symm
  have hk : ¬ 10 ≤ fldNat wd 21 4 := by
    have hk : k.toNat < 10 := by
      have := chk_of_wf hwf fun _ => List.mem_cons_self
      simpa using this
    rw [fld_eq] at hF0
    have := congrArg BitVec.toNat hF0
    rw [BitVec.toNat_ofNat] at this
    unfold fldNat
    omega
  rw [decode_major_1C wd hMaj, decode1C, if_neg hk, hSel, hF0, hF1, hF2, hF3, hChain]
  exact row_2 (w := wd) hZ0 hZ1

theorem smadMad (c : Bool) (d : BitVec 5) (a : BitVec 5) (b : BitVec 5) : Statement (.smadMad c d a b) := by
  intro _ wd hEnc
  have hEnc : word 0x3A000000 c [(18, d.toNat), (11, a.toNat), (4, b.toNat)] = wd := by injection hEnc
  obtain ⟨hMaj, hSel, hZ0, hZ1, hZ2, hF0, hF1, hF2, hChain⟩ := shape_42 29 (by decide) 0 (by decide) c d a b wd hEnc.symm
  rw [decode_major_1D wd hMaj, decode1D, hSel, hF0, hF1, hF2, hChain]
  exact row_3 (w := wd) hZ0 hZ1 hZ2

theorem smadMadhS (c : Bool) (d : BitVec 5) (a : BitVec 5) (b : BitVec 5) : Statement (.smadMadhS c d a b) := by
  intro _ wd hEnc
  have hEnc : word 0x3A000001 c [(18, d.toNat), (11, a.toNat), (4, b.toNat)] = wd := by injection hEnc
  obtain ⟨hMaj, hSel, hZ0, hZ1, hZ2, hF0, hF1, hF2, hChain⟩ := shape_42 29 (by decide) 1 (by decide) c d a b wd hEnc.symm
  rw [decode_major_1D wd hMaj, decode1D, hSel, hF0, hF1, hF2, hChain]
  exact row_3 (w := wd) hZ0 hZ1 hZ2

theorem smadMadhN (c : Bool) (d : BitVec 5) (a : BitVec 5) (b : BitVec 5) : Statement (.smadMadhN c d a b) := by
  intro _ wd hEnc
  have hEnc : word 0x3A000002 c [(18, d.toNat), (11, a.toNat), (4, b.toNat)] = wd := by injection hEnc
  obtain ⟨hMaj, hSel, hZ0, hZ1, hZ2, hF0, hF1, hF2, hChain⟩ := shape_42 29 (by decide) 2 (by decide) c d a b wd hEnc.symm
  rw [decode_major_1D wd hMaj, decode1D, hSel, hF0, hF1, hF2, hChain]
  exact row_3 (w := wd) hZ0 hZ1 hZ2

theorem ld (c : Bool) (d : BitVec 7) (a : BitVec 7) (s : BitVec 4) (z : BitVec 3) (m : BitVec 2) (r : BitVec 2) : Statement (.ld c d a s z m r) := by
  intro _ wd hEnc
  have hEnc : word 0x3C000000 c [(18, d.toNat), (11, a.toNat), (7, s.toNat), (4, z.toNat), (2, m.toNat), (0, r.toNat)] = wd := by injection hEnc
  obtain ⟨hMaj, hF0, hF1, hF2, hF3, hF4, hF5, hChain⟩ := shape_43 30 (by decide) c d a s z m r wd hEnc.symm
  rw [decode_major_1E wd hMaj, decode1E, hF0, hF1, hF2, hF3, hF4, hF5, hChain]
  exact row_zero (w := wd)

theorem st (c : Bool) (d : BitVec 7) (a : BitVec 7) (s : BitVec 4) (z : BitVec 3) (m : BitVec 2) (r : BitVec 2) : Statement (.st c d a s z m r) := by
  intro _ wd hEnc
  have hEnc : word 0x3E000000 c [(18, d.toNat), (11, a.toNat), (7, s.toNat), (4, z.toNat), (2, m.toNat), (0, r.toNat)] = wd := by injection hEnc
  obtain ⟨hMaj, hF0, hF1, hF2, hF3, hF4, hF5, hChain⟩ := shape_43 31 (by decide) c d a s z m r wd hEnc.symm
  rw [decode_major_1F wd hMaj, decode1F, hF0, hF1, hF2, hF3, hF4, hF5, hChain]
  exact row_zero (w := wd)

theorem lds (c : Bool) (d : BitVec 7) (a : BitVec 7) (s : BitVec 4) (z : BitVec 3) (m : BitVec 2) : Statement (.lds c d a s z m) := by
  intro _ wd hEnc
  have hEnc : word 0x40000000 c [(18, d.toNat), (11, a.toNat), (7, s.toNat), (4, z.toNat), (2, m.toNat)] = wd := by injection hEnc
  obtain ⟨hMaj, hZ0, hF0, hF1, hF2, hF3, hF4, hChain⟩ := shape_44 32 (by decide) c d a s z m wd hEnc.symm
  rw [decode_major_20 wd hMaj, decode20, hF0, hF1, hF2, hF3, hF4, hChain]
  exact row_1 (w := wd) hZ0

theorem sts (c : Bool) (d : BitVec 7) (a : BitVec 7) (s : BitVec 4) (z : BitVec 3) (m : BitVec 2) : Statement (.sts c d a s z m) := by
  intro _ wd hEnc
  have hEnc : word 0x42000000 c [(18, d.toNat), (11, a.toNat), (7, s.toNat), (4, z.toNat), (2, m.toNat)] = wd := by injection hEnc
  obtain ⟨hMaj, hZ0, hF0, hF1, hF2, hF3, hF4, hChain⟩ := shape_44 33 (by decide) c d a s z m wd hEnc.symm
  rw [decode_major_21 wd hMaj, decode21, hF0, hF1, hF2, hF3, hF4, hChain]
  exact row_1 (w := wd) hZ0

theorem ldfe (c : Bool) (d : BitVec 7) (a : BitVec 7) (s : BitVec 4) (z : BitVec 3) (m : BitVec 2) (l : BitVec 1) : Statement (.ldfe c d a s z m l) := by
  intro _ wd hEnc
  have hEnc : word 0x44000000 c [(18, d.toNat), (11, a.toNat), (7, s.toNat), (4, z.toNat), (2, m.toNat), (0, l.toNat)] = wd := by injection hEnc
  obtain ⟨hMaj, hZ0, hF0, hF1, hF2, hF3, hF4, hF5, hChain⟩ := shape_45 34 (by decide) c d a s z m l wd hEnc.symm
  rw [decode_major_22 wd hMaj, decode22, hF0, hF1, hF2, hF3, hF4, hF5, hChain]
  exact row_1 (w := wd) hZ0

theorem sld (c : Bool) (d : BitVec 5) (a : BitVec 5) (s : BitVec 4) (z : BitVec 3) (m : BitVec 2) (r : BitVec 2) : Statement (.sld c d a s z m r) := by
  intro _ wd hEnc
  have hEnc : word 0x46000000 c [(18, d.toNat), (11, a.toNat), (7, s.toNat), (4, z.toNat), (2, m.toNat), (0, r.toNat)] = wd := by injection hEnc
  obtain ⟨hMaj, hZ0, hZ1, hF0, hF1, hF2, hF3, hF4, hF5, hChain⟩ := shape_46 35 (by decide) c d a s z m r wd hEnc.symm
  rw [decode_major_23 wd hMaj, decode23, hF0, hF1, hF2, hF3, hF4, hF5, hChain]
  exact row_2 (w := wd) hZ0 hZ1

theorem sst (c : Bool) (d : BitVec 5) (a : BitVec 5) (s : BitVec 4) (z : BitVec 3) (m : BitVec 2) (r : BitVec 2) : Statement (.sst c d a s z m r) := by
  intro _ wd hEnc
  have hEnc : word 0x48000000 c [(18, d.toNat), (11, a.toNat), (7, s.toNat), (4, z.toNat), (2, m.toNat), (0, r.toNat)] = wd := by injection hEnc
  obtain ⟨hMaj, hZ0, hZ1, hF0, hF1, hF2, hF3, hF4, hF5, hChain⟩ := shape_46 36 (by decide) c d a s z m r wd hEnc.symm
  rw [decode_major_24 wd hMaj, decode24, hF0, hF1, hF2, hF3, hF4, hF5, hChain]
  exact row_2 (w := wd) hZ0 hZ1

theorem atomAdd (c : Bool) (d : BitVec 7) (a : BitVec 7) (b : BitVec 7) : Statement (.atomAdd c d a b) := by
  intro _ wd hEnc
  have hEnc : word 0x4A000000 c [(18, d.toNat), (11, a.toNat), (4, b.toNat)] = wd := by injection hEnc
  obtain ⟨hMaj, hSel, hF0, hF1, hF2, hChain⟩ := shape_15 37 (by decide) 0 (by decide) c d a b wd hEnc.symm
  rw [decode_major_25 wd hMaj, decode25, hSel, hF0, hF1, hF2, hChain]
  exact row_zero (w := wd)

theorem atomMin (c : Bool) (d : BitVec 7) (a : BitVec 7) (b : BitVec 7) : Statement (.atomMin c d a b) := by
  intro _ wd hEnc
  have hEnc : word 0x4A000001 c [(18, d.toNat), (11, a.toNat), (4, b.toNat)] = wd := by injection hEnc
  obtain ⟨hMaj, hSel, hF0, hF1, hF2, hChain⟩ := shape_15 37 (by decide) 1 (by decide) c d a b wd hEnc.symm
  rw [decode_major_25 wd hMaj, decode25, hSel, hF0, hF1, hF2, hChain]
  exact row_zero (w := wd)

theorem atomMax (c : Bool) (d : BitVec 7) (a : BitVec 7) (b : BitVec 7) : Statement (.atomMax c d a b) := by
  intro _ wd hEnc
  have hEnc : word 0x4A000002 c [(18, d.toNat), (11, a.toNat), (4, b.toNat)] = wd := by injection hEnc
  obtain ⟨hMaj, hSel, hF0, hF1, hF2, hChain⟩ := shape_15 37 (by decide) 2 (by decide) c d a b wd hEnc.symm
  rw [decode_major_25 wd hMaj, decode25, hSel, hF0, hF1, hF2, hChain]
  exact row_zero (w := wd)

theorem atomMinN (c : Bool) (d : BitVec 7) (a : BitVec 7) (b : BitVec 7) : Statement (.atomMinN c d a b) := by
  intro _ wd hEnc
  have hEnc : word 0x4A000003 c [(18, d.toNat), (11, a.toNat), (4, b.toNat)] = wd := by injection hEnc
  obtain ⟨hMaj, hSel, hF0, hF1, hF2, hChain⟩ := shape_15 37 (by decide) 3 (by decide) c d a b wd hEnc.symm
  rw [decode_major_25 wd hMaj, decode25, hSel, hF0, hF1, hF2, hChain]
  exact row_zero (w := wd)

theorem atomMaxN (c : Bool) (d : BitVec 7) (a : BitVec 7) (b : BitVec 7) : Statement (.atomMaxN c d a b) := by
  intro _ wd hEnc
  have hEnc : word 0x4A000004 c [(18, d.toNat), (11, a.toNat), (4, b.toNat)] = wd := by injection hEnc
  obtain ⟨hMaj, hSel, hF0, hF1, hF2, hChain⟩ := shape_15 37 (by decide) 4 (by decide) c d a b wd hEnc.symm
  rw [decode_major_25 wd hMaj, decode25, hSel, hF0, hF1, hF2, hChain]
  exact row_zero (w := wd)

theorem atomAnd (c : Bool) (d : BitVec 7) (a : BitVec 7) (b : BitVec 7) : Statement (.atomAnd c d a b) := by
  intro _ wd hEnc
  have hEnc : word 0x4A000005 c [(18, d.toNat), (11, a.toNat), (4, b.toNat)] = wd := by injection hEnc
  obtain ⟨hMaj, hSel, hF0, hF1, hF2, hChain⟩ := shape_15 37 (by decide) 5 (by decide) c d a b wd hEnc.symm
  rw [decode_major_25 wd hMaj, decode25, hSel, hF0, hF1, hF2, hChain]
  exact row_zero (w := wd)

theorem atomOr (c : Bool) (d : BitVec 7) (a : BitVec 7) (b : BitVec 7) : Statement (.atomOr c d a b) := by
  intro _ wd hEnc
  have hEnc : word 0x4A000006 c [(18, d.toNat), (11, a.toNat), (4, b.toNat)] = wd := by injection hEnc
  obtain ⟨hMaj, hSel, hF0, hF1, hF2, hChain⟩ := shape_15 37 (by decide) 6 (by decide) c d a b wd hEnc.symm
  rw [decode_major_25 wd hMaj, decode25, hSel, hF0, hF1, hF2, hChain]
  exact row_zero (w := wd)

theorem atomXor (c : Bool) (d : BitVec 7) (a : BitVec 7) (b : BitVec 7) : Statement (.atomXor c d a b) := by
  intro _ wd hEnc
  have hEnc : word 0x4A000007 c [(18, d.toNat), (11, a.toNat), (4, b.toNat)] = wd := by injection hEnc
  obtain ⟨hMaj, hSel, hF0, hF1, hF2, hChain⟩ := shape_15 37 (by decide) 7 (by decide) c d a b wd hEnc.symm
  rw [decode_major_25 wd hMaj, decode25, hSel, hF0, hF1, hF2, hChain]
  exact row_zero (w := wd)

theorem atomExch (c : Bool) (d : BitVec 7) (a : BitVec 7) (b : BitVec 7) : Statement (.atomExch c d a b) := by
  intro _ wd hEnc
  have hEnc : word 0x4A000008 c [(18, d.toNat), (11, a.toNat), (4, b.toNat)] = wd := by injection hEnc
  obtain ⟨hMaj, hSel, hF0, hF1, hF2, hChain⟩ := shape_15 37 (by decide) 8 (by decide) c d a b wd hEnc.symm
  rw [decode_major_25 wd hMaj, decode25, hSel, hF0, hF1, hF2, hChain]
  exact row_zero (w := wd)

theorem atomIncw (c : Bool) (d : BitVec 7) (a : BitVec 7) (b : BitVec 7) : Statement (.atomIncw c d a b) := by
  intro _ wd hEnc
  have hEnc : word 0x4A000009 c [(18, d.toNat), (11, a.toNat), (4, b.toNat)] = wd := by injection hEnc
  obtain ⟨hMaj, hSel, hF0, hF1, hF2, hChain⟩ := shape_15 37 (by decide) 9 (by decide) c d a b wd hEnc.symm
  rw [decode_major_25 wd hMaj, decode25, hSel, hF0, hF1, hF2, hChain]
  exact row_zero (w := wd)

theorem atomDecw (c : Bool) (d : BitVec 7) (a : BitVec 7) (b : BitVec 7) : Statement (.atomDecw c d a b) := by
  intro _ wd hEnc
  have hEnc : word 0x4A00000A c [(18, d.toNat), (11, a.toNat), (4, b.toNat)] = wd := by injection hEnc
  obtain ⟨hMaj, hSel, hF0, hF1, hF2, hChain⟩ := shape_15 37 (by decide) 10 (by decide) c d a b wd hEnc.symm
  rw [decode_major_25 wd hMaj, decode25, hSel, hF0, hF1, hF2, hChain]
  exact row_zero (w := wd)

theorem atomFaddF32 (c : Bool) (d : BitVec 7) (a : BitVec 7) (b : BitVec 7) : Statement (.atomFaddF32 c d a b) := by
  intro _ wd hEnc
  have hEnc : word 0x4A00000B c [(18, d.toNat), (11, a.toNat), (4, b.toNat)] = wd := by injection hEnc
  obtain ⟨hMaj, hSel, hF0, hF1, hF2, hChain⟩ := shape_15 37 (by decide) 11 (by decide) c d a b wd hEnc.symm
  rw [decode_major_25 wd hMaj, decode25, hSel, hF0, hF1, hF2, hChain]
  exact row_zero (w := wd)

theorem atomFminF32 (c : Bool) (d : BitVec 7) (a : BitVec 7) (b : BitVec 7) : Statement (.atomFminF32 c d a b) := by
  intro _ wd hEnc
  have hEnc : word 0x4A00000C c [(18, d.toNat), (11, a.toNat), (4, b.toNat)] = wd := by injection hEnc
  obtain ⟨hMaj, hSel, hF0, hF1, hF2, hChain⟩ := shape_15 37 (by decide) 12 (by decide) c d a b wd hEnc.symm
  rw [decode_major_25 wd hMaj, decode25, hSel, hF0, hF1, hF2, hChain]
  exact row_zero (w := wd)

theorem atomFmaxF32 (c : Bool) (d : BitVec 7) (a : BitVec 7) (b : BitVec 7) : Statement (.atomFmaxF32 c d a b) := by
  intro _ wd hEnc
  have hEnc : word 0x4A00000D c [(18, d.toNat), (11, a.toNat), (4, b.toNat)] = wd := by injection hEnc
  obtain ⟨hMaj, hSel, hF0, hF1, hF2, hChain⟩ := shape_15 37 (by decide) 13 (by decide) c d a b wd hEnc.symm
  rw [decode_major_25 wd hMaj, decode25, hSel, hF0, hF1, hF2, hChain]
  exact row_zero (w := wd)

theorem atomFaddBf16x2 (c : Bool) (d : BitVec 7) (a : BitVec 7) (b : BitVec 7) : Statement (.atomFaddBf16x2 c d a b) := by
  intro _ wd hEnc
  have hEnc : word 0x4A00000E c [(18, d.toNat), (11, a.toNat), (4, b.toNat)] = wd := by injection hEnc
  obtain ⟨hMaj, hSel, hF0, hF1, hF2, hChain⟩ := shape_15 37 (by decide) 14 (by decide) c d a b wd hEnc.symm
  rw [decode_major_25 wd hMaj, decode25, hSel, hF0, hF1, hF2, hChain]
  exact row_zero (w := wd)

theorem atom64Add (c : Bool) (d : BitVec 7) (a : BitVec 7) (b : BitVec 7) : Statement (.atom64Add c d a b) := by
  intro _ wd hEnc
  have hEnc : word 0x4C000000 c [(18, d.toNat), (11, a.toNat), (4, b.toNat)] = wd := by injection hEnc
  obtain ⟨hMaj, hSel, hF0, hF1, hF2, hChain⟩ := shape_15 38 (by decide) 0 (by decide) c d a b wd hEnc.symm
  rw [decode_major_26 wd hMaj, decode26, hSel, hF0, hF1, hF2, hChain]
  exact row_zero (w := wd)

theorem atom64Min (c : Bool) (d : BitVec 7) (a : BitVec 7) (b : BitVec 7) : Statement (.atom64Min c d a b) := by
  intro _ wd hEnc
  have hEnc : word 0x4C000001 c [(18, d.toNat), (11, a.toNat), (4, b.toNat)] = wd := by injection hEnc
  obtain ⟨hMaj, hSel, hF0, hF1, hF2, hChain⟩ := shape_15 38 (by decide) 1 (by decide) c d a b wd hEnc.symm
  rw [decode_major_26 wd hMaj, decode26, hSel, hF0, hF1, hF2, hChain]
  exact row_zero (w := wd)

theorem atom64Max (c : Bool) (d : BitVec 7) (a : BitVec 7) (b : BitVec 7) : Statement (.atom64Max c d a b) := by
  intro _ wd hEnc
  have hEnc : word 0x4C000002 c [(18, d.toNat), (11, a.toNat), (4, b.toNat)] = wd := by injection hEnc
  obtain ⟨hMaj, hSel, hF0, hF1, hF2, hChain⟩ := shape_15 38 (by decide) 2 (by decide) c d a b wd hEnc.symm
  rw [decode_major_26 wd hMaj, decode26, hSel, hF0, hF1, hF2, hChain]
  exact row_zero (w := wd)

theorem atom64MinN (c : Bool) (d : BitVec 7) (a : BitVec 7) (b : BitVec 7) : Statement (.atom64MinN c d a b) := by
  intro _ wd hEnc
  have hEnc : word 0x4C000003 c [(18, d.toNat), (11, a.toNat), (4, b.toNat)] = wd := by injection hEnc
  obtain ⟨hMaj, hSel, hF0, hF1, hF2, hChain⟩ := shape_15 38 (by decide) 3 (by decide) c d a b wd hEnc.symm
  rw [decode_major_26 wd hMaj, decode26, hSel, hF0, hF1, hF2, hChain]
  exact row_zero (w := wd)

theorem atom64MaxN (c : Bool) (d : BitVec 7) (a : BitVec 7) (b : BitVec 7) : Statement (.atom64MaxN c d a b) := by
  intro _ wd hEnc
  have hEnc : word 0x4C000004 c [(18, d.toNat), (11, a.toNat), (4, b.toNat)] = wd := by injection hEnc
  obtain ⟨hMaj, hSel, hF0, hF1, hF2, hChain⟩ := shape_15 38 (by decide) 4 (by decide) c d a b wd hEnc.symm
  rw [decode_major_26 wd hMaj, decode26, hSel, hF0, hF1, hF2, hChain]
  exact row_zero (w := wd)

theorem atom64And (c : Bool) (d : BitVec 7) (a : BitVec 7) (b : BitVec 7) : Statement (.atom64And c d a b) := by
  intro _ wd hEnc
  have hEnc : word 0x4C000005 c [(18, d.toNat), (11, a.toNat), (4, b.toNat)] = wd := by injection hEnc
  obtain ⟨hMaj, hSel, hF0, hF1, hF2, hChain⟩ := shape_15 38 (by decide) 5 (by decide) c d a b wd hEnc.symm
  rw [decode_major_26 wd hMaj, decode26, hSel, hF0, hF1, hF2, hChain]
  exact row_zero (w := wd)

theorem atom64Or (c : Bool) (d : BitVec 7) (a : BitVec 7) (b : BitVec 7) : Statement (.atom64Or c d a b) := by
  intro _ wd hEnc
  have hEnc : word 0x4C000006 c [(18, d.toNat), (11, a.toNat), (4, b.toNat)] = wd := by injection hEnc
  obtain ⟨hMaj, hSel, hF0, hF1, hF2, hChain⟩ := shape_15 38 (by decide) 6 (by decide) c d a b wd hEnc.symm
  rw [decode_major_26 wd hMaj, decode26, hSel, hF0, hF1, hF2, hChain]
  exact row_zero (w := wd)

theorem atom64Xor (c : Bool) (d : BitVec 7) (a : BitVec 7) (b : BitVec 7) : Statement (.atom64Xor c d a b) := by
  intro _ wd hEnc
  have hEnc : word 0x4C000007 c [(18, d.toNat), (11, a.toNat), (4, b.toNat)] = wd := by injection hEnc
  obtain ⟨hMaj, hSel, hF0, hF1, hF2, hChain⟩ := shape_15 38 (by decide) 7 (by decide) c d a b wd hEnc.symm
  rw [decode_major_26 wd hMaj, decode26, hSel, hF0, hF1, hF2, hChain]
  exact row_zero (w := wd)

theorem atom64Exch (c : Bool) (d : BitVec 7) (a : BitVec 7) (b : BitVec 7) : Statement (.atom64Exch c d a b) := by
  intro _ wd hEnc
  have hEnc : word 0x4C000008 c [(18, d.toNat), (11, a.toNat), (4, b.toNat)] = wd := by injection hEnc
  obtain ⟨hMaj, hSel, hF0, hF1, hF2, hChain⟩ := shape_15 38 (by decide) 8 (by decide) c d a b wd hEnc.symm
  rw [decode_major_26 wd hMaj, decode26, hSel, hF0, hF1, hF2, hChain]
  exact row_zero (w := wd)

theorem atom64Incw (c : Bool) (d : BitVec 7) (a : BitVec 7) (b : BitVec 7) : Statement (.atom64Incw c d a b) := by
  intro _ wd hEnc
  have hEnc : word 0x4C000009 c [(18, d.toNat), (11, a.toNat), (4, b.toNat)] = wd := by injection hEnc
  obtain ⟨hMaj, hSel, hF0, hF1, hF2, hChain⟩ := shape_15 38 (by decide) 9 (by decide) c d a b wd hEnc.symm
  rw [decode_major_26 wd hMaj, decode26, hSel, hF0, hF1, hF2, hChain]
  exact row_zero (w := wd)

theorem atom64Decw (c : Bool) (d : BitVec 7) (a : BitVec 7) (b : BitVec 7) : Statement (.atom64Decw c d a b) := by
  intro _ wd hEnc
  have hEnc : word 0x4C00000A c [(18, d.toNat), (11, a.toNat), (4, b.toNat)] = wd := by injection hEnc
  obtain ⟨hMaj, hSel, hF0, hF1, hF2, hChain⟩ := shape_15 38 (by decide) 10 (by decide) c d a b wd hEnc.symm
  rw [decode_major_26 wd hMaj, decode26, hSel, hF0, hF1, hF2, hChain]
  exact row_zero (w := wd)

theorem atom64FaddF64 (c : Bool) (d : BitVec 7) (a : BitVec 7) (b : BitVec 7) : Statement (.atom64FaddF64 c d a b) := by
  intro _ wd hEnc
  have hEnc : word 0x4C00000B c [(18, d.toNat), (11, a.toNat), (4, b.toNat)] = wd := by injection hEnc
  obtain ⟨hMaj, hSel, hF0, hF1, hF2, hChain⟩ := shape_15 38 (by decide) 11 (by decide) c d a b wd hEnc.symm
  rw [decode_major_26 wd hMaj, decode26, hSel, hF0, hF1, hF2, hChain]
  exact row_zero (w := wd)

theorem atom64FminF64 (c : Bool) (d : BitVec 7) (a : BitVec 7) (b : BitVec 7) : Statement (.atom64FminF64 c d a b) := by
  intro _ wd hEnc
  have hEnc : word 0x4C00000C c [(18, d.toNat), (11, a.toNat), (4, b.toNat)] = wd := by injection hEnc
  obtain ⟨hMaj, hSel, hF0, hF1, hF2, hChain⟩ := shape_15 38 (by decide) 12 (by decide) c d a b wd hEnc.symm
  rw [decode_major_26 wd hMaj, decode26, hSel, hF0, hF1, hF2, hChain]
  exact row_zero (w := wd)

theorem atom64FmaxF64 (c : Bool) (d : BitVec 7) (a : BitVec 7) (b : BitVec 7) : Statement (.atom64FmaxF64 c d a b) := by
  intro _ wd hEnc
  have hEnc : word 0x4C00000D c [(18, d.toNat), (11, a.toNat), (4, b.toNat)] = wd := by injection hEnc
  obtain ⟨hMaj, hSel, hF0, hF1, hF2, hChain⟩ := shape_15 38 (by decide) 13 (by decide) c d a b wd hEnc.symm
  rw [decode_major_26 wd hMaj, decode26, hSel, hF0, hF1, hF2, hChain]
  exact row_zero (w := wd)

theorem redAdd (c : Bool) (w : BitVec 1) (a : BitVec 7) (b : BitVec 7) : Statement (.redAdd c w a b) := by
  intro _ wd hEnc
  have hEnc : word 0x4E000000 c [(18, w.toNat), (11, a.toNat), (4, b.toNat)] = wd := by injection hEnc
  obtain ⟨hMaj, hSel, hZ0, hF0, hF1, hF2, hChain⟩ := shape_33 39 (by decide) 0 (by decide) c w a b wd hEnc.symm
  rw [decode_major_27 wd hMaj, decode27, hSel, hF0, hF1, hF2, hChain]
  exact row_1 (w := wd) hZ0

theorem redMin (c : Bool) (w : BitVec 1) (a : BitVec 7) (b : BitVec 7) : Statement (.redMin c w a b) := by
  intro _ wd hEnc
  have hEnc : word 0x4E000001 c [(18, w.toNat), (11, a.toNat), (4, b.toNat)] = wd := by injection hEnc
  obtain ⟨hMaj, hSel, hZ0, hF0, hF1, hF2, hChain⟩ := shape_33 39 (by decide) 1 (by decide) c w a b wd hEnc.symm
  rw [decode_major_27 wd hMaj, decode27, hSel, hF0, hF1, hF2, hChain]
  exact row_1 (w := wd) hZ0

theorem redMax (c : Bool) (w : BitVec 1) (a : BitVec 7) (b : BitVec 7) : Statement (.redMax c w a b) := by
  intro _ wd hEnc
  have hEnc : word 0x4E000002 c [(18, w.toNat), (11, a.toNat), (4, b.toNat)] = wd := by injection hEnc
  obtain ⟨hMaj, hSel, hZ0, hF0, hF1, hF2, hChain⟩ := shape_33 39 (by decide) 2 (by decide) c w a b wd hEnc.symm
  rw [decode_major_27 wd hMaj, decode27, hSel, hF0, hF1, hF2, hChain]
  exact row_1 (w := wd) hZ0

theorem redMinN (c : Bool) (w : BitVec 1) (a : BitVec 7) (b : BitVec 7) : Statement (.redMinN c w a b) := by
  intro _ wd hEnc
  have hEnc : word 0x4E000003 c [(18, w.toNat), (11, a.toNat), (4, b.toNat)] = wd := by injection hEnc
  obtain ⟨hMaj, hSel, hZ0, hF0, hF1, hF2, hChain⟩ := shape_33 39 (by decide) 3 (by decide) c w a b wd hEnc.symm
  rw [decode_major_27 wd hMaj, decode27, hSel, hF0, hF1, hF2, hChain]
  exact row_1 (w := wd) hZ0

theorem redMaxN (c : Bool) (w : BitVec 1) (a : BitVec 7) (b : BitVec 7) : Statement (.redMaxN c w a b) := by
  intro _ wd hEnc
  have hEnc : word 0x4E000004 c [(18, w.toNat), (11, a.toNat), (4, b.toNat)] = wd := by injection hEnc
  obtain ⟨hMaj, hSel, hZ0, hF0, hF1, hF2, hChain⟩ := shape_33 39 (by decide) 4 (by decide) c w a b wd hEnc.symm
  rw [decode_major_27 wd hMaj, decode27, hSel, hF0, hF1, hF2, hChain]
  exact row_1 (w := wd) hZ0

theorem redAnd (c : Bool) (w : BitVec 1) (a : BitVec 7) (b : BitVec 7) : Statement (.redAnd c w a b) := by
  intro _ wd hEnc
  have hEnc : word 0x4E000005 c [(18, w.toNat), (11, a.toNat), (4, b.toNat)] = wd := by injection hEnc
  obtain ⟨hMaj, hSel, hZ0, hF0, hF1, hF2, hChain⟩ := shape_33 39 (by decide) 5 (by decide) c w a b wd hEnc.symm
  rw [decode_major_27 wd hMaj, decode27, hSel, hF0, hF1, hF2, hChain]
  exact row_1 (w := wd) hZ0

theorem redOr (c : Bool) (w : BitVec 1) (a : BitVec 7) (b : BitVec 7) : Statement (.redOr c w a b) := by
  intro _ wd hEnc
  have hEnc : word 0x4E000006 c [(18, w.toNat), (11, a.toNat), (4, b.toNat)] = wd := by injection hEnc
  obtain ⟨hMaj, hSel, hZ0, hF0, hF1, hF2, hChain⟩ := shape_33 39 (by decide) 6 (by decide) c w a b wd hEnc.symm
  rw [decode_major_27 wd hMaj, decode27, hSel, hF0, hF1, hF2, hChain]
  exact row_1 (w := wd) hZ0

theorem redXor (c : Bool) (w : BitVec 1) (a : BitVec 7) (b : BitVec 7) : Statement (.redXor c w a b) := by
  intro _ wd hEnc
  have hEnc : word 0x4E000007 c [(18, w.toNat), (11, a.toNat), (4, b.toNat)] = wd := by injection hEnc
  obtain ⟨hMaj, hSel, hZ0, hF0, hF1, hF2, hChain⟩ := shape_33 39 (by decide) 7 (by decide) c w a b wd hEnc.symm
  rw [decode_major_27 wd hMaj, decode27, hSel, hF0, hF1, hF2, hChain]
  exact row_1 (w := wd) hZ0

theorem redExch (c : Bool) (w : BitVec 1) (a : BitVec 7) (b : BitVec 7) : Statement (.redExch c w a b) := by
  intro _ wd hEnc
  have hEnc : word 0x4E000008 c [(18, w.toNat), (11, a.toNat), (4, b.toNat)] = wd := by injection hEnc
  obtain ⟨hMaj, hSel, hZ0, hF0, hF1, hF2, hChain⟩ := shape_33 39 (by decide) 8 (by decide) c w a b wd hEnc.symm
  rw [decode_major_27 wd hMaj, decode27, hSel, hF0, hF1, hF2, hChain]
  exact row_1 (w := wd) hZ0

theorem redIncw (c : Bool) (w : BitVec 1) (a : BitVec 7) (b : BitVec 7) : Statement (.redIncw c w a b) := by
  intro _ wd hEnc
  have hEnc : word 0x4E000009 c [(18, w.toNat), (11, a.toNat), (4, b.toNat)] = wd := by injection hEnc
  obtain ⟨hMaj, hSel, hZ0, hF0, hF1, hF2, hChain⟩ := shape_33 39 (by decide) 9 (by decide) c w a b wd hEnc.symm
  rw [decode_major_27 wd hMaj, decode27, hSel, hF0, hF1, hF2, hChain]
  exact row_1 (w := wd) hZ0

theorem redDecw (c : Bool) (w : BitVec 1) (a : BitVec 7) (b : BitVec 7) : Statement (.redDecw c w a b) := by
  intro _ wd hEnc
  have hEnc : word 0x4E00000A c [(18, w.toNat), (11, a.toNat), (4, b.toNat)] = wd := by injection hEnc
  obtain ⟨hMaj, hSel, hZ0, hF0, hF1, hF2, hChain⟩ := shape_33 39 (by decide) 10 (by decide) c w a b wd hEnc.symm
  rw [decode_major_27 wd hMaj, decode27, hSel, hF0, hF1, hF2, hChain]
  exact row_1 (w := wd) hZ0

theorem redFadd (c : Bool) (w : BitVec 1) (a : BitVec 7) (b : BitVec 7) : Statement (.redFadd c w a b) := by
  intro _ wd hEnc
  have hEnc : word 0x4E00000B c [(18, w.toNat), (11, a.toNat), (4, b.toNat)] = wd := by injection hEnc
  obtain ⟨hMaj, hSel, hZ0, hF0, hF1, hF2, hChain⟩ := shape_33 39 (by decide) 11 (by decide) c w a b wd hEnc.symm
  rw [decode_major_27 wd hMaj, decode27, hSel, hF0, hF1, hF2, hChain]
  exact row_1 (w := wd) hZ0

theorem redFmin (c : Bool) (w : BitVec 1) (a : BitVec 7) (b : BitVec 7) : Statement (.redFmin c w a b) := by
  intro _ wd hEnc
  have hEnc : word 0x4E00000C c [(18, w.toNat), (11, a.toNat), (4, b.toNat)] = wd := by injection hEnc
  obtain ⟨hMaj, hSel, hZ0, hF0, hF1, hF2, hChain⟩ := shape_33 39 (by decide) 12 (by decide) c w a b wd hEnc.symm
  rw [decode_major_27 wd hMaj, decode27, hSel, hF0, hF1, hF2, hChain]
  exact row_1 (w := wd) hZ0

theorem redFmax (c : Bool) (w : BitVec 1) (a : BitVec 7) (b : BitVec 7) : Statement (.redFmax c w a b) := by
  intro _ wd hEnc
  have hEnc : word 0x4E00000D c [(18, w.toNat), (11, a.toNat), (4, b.toNat)] = wd := by injection hEnc
  obtain ⟨hMaj, hSel, hZ0, hF0, hF1, hF2, hChain⟩ := shape_33 39 (by decide) 13 (by decide) c w a b wd hEnc.symm
  rw [decode_major_27 wd hMaj, decode27, hSel, hF0, hF1, hF2, hChain]
  exact row_1 (w := wd) hZ0

theorem redFaddBf16x2 (c : Bool) (a : BitVec 7) (b : BitVec 7) : Statement (.redFaddBf16x2 c a b) := by
  intro _ wd hEnc
  have hEnc : word 0x4E00000E c [(11, a.toNat), (4, b.toNat)] = wd := by injection hEnc
  obtain ⟨hMaj, hSel, hZ0, hF0, hF1, hChain⟩ := shape_47 39 (by decide) 14 (by decide) c a b wd hEnc.symm
  have hb : ¬ fldNat wd 18 1 = 1 := by
    have := hZ0
    unfold fldNat at *
    omega
  rw [decode_major_27 wd hMaj, decode27, hSel, hF0, hF1, hChain]
  exact (if_neg hb).trans (row_1 (w := wd) hZ0)

theorem casB32 (c : Bool) (d : BitVec 7) (a : BitVec 7) (b : BitVec 7) : Statement (.casB32 c d a b) := by
  intro _ wd hEnc
  have hEnc : word 0x50000000 c [(18, d.toNat), (11, a.toNat), (4, b.toNat)] = wd := by injection hEnc
  obtain ⟨hMaj, hSel, hF0, hF1, hF2, hChain⟩ := shape_15 40 (by decide) 0 (by decide) c d a b wd hEnc.symm
  rw [decode_major_28 wd hMaj, decode28, hSel, hF0, hF1, hF2, hChain]
  exact row_zero (w := wd)

theorem casB64 (c : Bool) (d : BitVec 7) (a : BitVec 7) (b : BitVec 7) : Statement (.casB64 c d a b) := by
  intro _ wd hEnc
  have hEnc : word 0x50000001 c [(18, d.toNat), (11, a.toNat), (4, b.toNat)] = wd := by injection hEnc
  obtain ⟨hMaj, hSel, hF0, hF1, hF2, hChain⟩ := shape_15 40 (by decide) 1 (by decide) c d a b wd hEnc.symm
  rw [decode_major_28 wd hMaj, decode28, hSel, hF0, hF1, hF2, hChain]
  exact row_zero (w := wd)

theorem casB128 (c : Bool) (d : BitVec 7) (a : BitVec 7) (b : BitVec 7) : Statement (.casB128 c d a b) := by
  intro _ wd hEnc
  have hEnc : word 0x50000002 c [(18, d.toNat), (11, a.toNat), (4, b.toNat)] = wd := by injection hEnc
  obtain ⟨hMaj, hSel, hF0, hF1, hF2, hChain⟩ := shape_15 40 (by decide) 2 (by decide) c d a b wd hEnc.symm
  rw [decode_major_28 wd hMaj, decode28, hSel, hF0, hF1, hF2, hChain]
  exact row_zero (w := wd)

theorem patom (c : Bool) (d : BitVec 7) (a : BitVec 6) (b : BitVec 7) (f : BitVec 4) : Statement (.patom c d a b f) := by
  intro _ wd hEnc
  have hEnc : word 0x52000000 c [(18, d.toNat), (12, a.toNat), (4, b.toNat), (0, f.toNat)] = wd := by injection hEnc
  obtain ⟨hMaj, hZ0, hF0, hF1, hF2, hF3, hChain⟩ := shape_48 41 (by decide) c d a b f wd hEnc.symm
  rw [decode_major_29 wd hMaj, decode29, hF0, hF1, hF2, hF3, hChain]
  exact row_1 (w := wd) hZ0

theorem fence (c : Bool) (o : BitVec 2) (s : BitVec 3) : Statement (.fence c o s) := by
  intro _ wd hEnc
  have hEnc : word 0x54000000 c [(7, o.toNat), (4, s.toNat)] = wd := by injection hEnc
  obtain ⟨hMaj, hSel, hZ0, hZ1, hF0, hF1, hChain⟩ := shape_49 42 (by decide) 0 (by decide) c o s wd hEnc.symm
  rw [decode_major_2A wd hMaj, decode2A, hSel, hF0, hF1, hChain]
  exact row_2 (w := wd) hZ0 hZ1

theorem poll (c : Bool) (a : BitVec 7) (b : BitVec 7) (x : BitVec 1) (w : BitVec 1) (k : BitVec 2) : Statement (.poll c a b x w k) := by
  intro _ wd hEnc
  have hEnc : word 0x54040000 c [(11, a.toNat), (4, b.toNat), (3, x.toNat), (2, w.toNat), (0, k.toNat)] = wd := by injection hEnc
  obtain ⟨hMaj, hSel, hF0, hF1, hF2, hF3, hF4, hChain⟩ := shape_50 42 (by decide) 1 (by decide) c a b x w k wd hEnc.symm
  rw [decode_major_2A wd hMaj, decode2A, hSel, hF0, hF1, hF2, hF3, hF4, hChain]
  exact row_zero (w := wd)

theorem farb (c : Bool) (t : BitVec 14) (s : BitVec 1) : Statement (.farb c t s) := by
  intro _ wd hEnc
  have hEnc : word 0x54080000 c [(4, t.toNat), (0, s.toNat)] = wd := by injection hEnc
  obtain ⟨hMaj, hSel, hZ0, hF0, hF1, hChain⟩ := shape_51 42 (by decide) 2 (by decide) c t s wd hEnc.symm
  rw [decode_major_2A wd hMaj, decode2A, hSel, hF0, hF1, hChain]
  exact row_1 (w := wd) hZ0

theorem fare (c : Bool) (p : BitVec 3) : Statement (.fare c p) := by
  intro _ wd hEnc
  have hEnc : word 0x540C0000 c [(4, p.toNat)] = wd := by injection hEnc
  obtain ⟨hMaj, hSel, hZ0, hZ1, hF0, hChain⟩ := shape_52 42 (by decide) 3 (by decide) c p wd hEnc.symm
  rw [decode_major_2A wd hMaj, decode2A, hSel, hF0, hChain]
  exact row_2 (w := wd) hZ0 hZ1

theorem farx (c : Bool) : Statement (.farx c) := by
  intro _ wd hEnc
  have hEnc : word 0x54100000 c [] = wd := by injection hEnc
  obtain ⟨hMaj, hSel, hZ0, hChain⟩ := shape_5 42 (by decide) 4 (by decide) c wd hEnc.symm
  rw [decode_major_2A wd hMaj, decode2A, hSel, hChain]
  exact row_1 (w := wd) hZ0

theorem fars (c : Bool) (a : BitVec 7) : Statement (.fars c a) := by
  intro _ wd hEnc
  have hEnc : word 0x54140000 c [(11, a.toNat)] = wd := by injection hEnc
  obtain ⟨hMaj, hSel, hZ0, hF0, hChain⟩ := shape_53 42 (by decide) 5 (by decide) c a wd hEnc.symm
  rw [decode_major_2A wd hMaj, decode2A, hSel, hF0, hChain]
  exact row_1 (w := wd) hZ0

theorem dflush (c : Bool) : Statement (.dflush c) := by
  intro _ wd hEnc
  have hEnc : word 0x54180000 c [] = wd := by injection hEnc
  obtain ⟨hMaj, hSel, hZ0, hChain⟩ := shape_5 42 (by decide) 6 (by decide) c wd hEnc.symm
  rw [decode_major_2A wd hMaj, decode2A, hSel, hChain]
  exact row_1 (w := wd) hZ0

theorem pgreq (c : Bool) (a : BitVec 7) (b : BitVec 5) : Statement (.pgreq c a b) := by
  intro _ wd hEnc
  have hEnc : word 0x541C0000 c [(11, a.toNat), (4, b.toNat)] = wd := by injection hEnc
  obtain ⟨hMaj, hSel, hZ0, hZ1, hF0, hF1, hChain⟩ := shape_54 42 (by decide) 7 (by decide) c a b wd hEnc.symm
  rw [decode_major_2A wd hMaj, decode2A, hSel, hF0, hF1, hChain]
  exact row_2 (w := wd) hZ0 hZ1

theorem pref (c : Bool) (a : BitVec 7) (l : BitVec 1) (p : BitVec 2) : Statement (.pref c a l p) := by
  intro _ wd hEnc
  have hEnc : word 0x54200000 c [(11, a.toNat), (2, l.toNat), (0, p.toNat)] = wd := by injection hEnc
  obtain ⟨hMaj, hSel, hZ0, hF0, hF1, hF2, hChain⟩ := shape_55 42 (by decide) 8 (by decide) c a l p wd hEnc.symm
  rw [decode_major_2A wd hMaj, decode2A, hSel, hF0, hF1, hF2, hChain]
  exact row_1 (w := wd) hZ0

theorem cinv (c : Bool) (a : BitVec 5) (b : BitVec 5) : Statement (.cinv c a b) := by
  intro _ wd hEnc
  have hEnc : word 0x54240000 c [(11, a.toNat), (4, b.toNat)] = wd := by injection hEnc
  obtain ⟨hMaj, hSel, hZ0, hZ1, hZ2, hF0, hF1, hChain⟩ := shape_56 42 (by decide) 9 (by decide) c a b wd hEnc.symm
  rw [decode_major_2A wd hMaj, decode2A, hSel, hF0, hF1, hChain]
  exact row_3 (w := wd) hZ0 hZ1 hZ2

theorem cwb (c : Bool) (a : BitVec 5) (b : BitVec 5) : Statement (.cwb c a b) := by
  intro _ wd hEnc
  have hEnc : word 0x54280000 c [(11, a.toNat), (4, b.toNat)] = wd := by injection hEnc
  obtain ⟨hMaj, hSel, hZ0, hZ1, hZ2, hF0, hF1, hChain⟩ := shape_56 42 (by decide) 10 (by decide) c a b wd hEnc.symm
  rw [decode_major_2A wd hMaj, decode2A, hSel, hF0, hF1, hChain]
  exact row_3 (w := wd) hZ0 hZ1 hZ2

theorem tagset (c : Bool) (a : BitVec 7) (b : BitVec 7) : Statement (.tagset c a b) := by
  intro _ wd hEnc
  have hEnc : word 0x542C0000 c [(11, a.toNat), (4, b.toNat)] = wd := by injection hEnc
  obtain ⟨hMaj, hSel, hZ0, hF0, hF1, hChain⟩ := shape_57 42 (by decide) 11 (by decide) c a b wd hEnc.symm
  rw [decode_major_2A wd hMaj, decode2A, hSel, hF0, hF1, hChain]
  exact row_1 (w := wd) hZ0

theorem tagget (c : Bool) (a : BitVec 7) (b : BitVec 7) : Statement (.tagget c a b) := by
  intro _ wd hEnc
  have hEnc : word 0x54300000 c [(11, a.toNat), (4, b.toNat)] = wd := by injection hEnc
  obtain ⟨hMaj, hSel, hZ0, hF0, hF1, hChain⟩ := shape_57 42 (by decide) 12 (by decide) c a b wd hEnc.symm
  rw [decode_major_2A wd hMaj, decode2A, hSel, hF0, hF1, hChain]
  exact row_1 (w := wd) hZ0

theorem mfop (c : Bool) : Statement (.mfop c) := by
  intro _ wd hEnc
  have hEnc : word 0x54340000 c [] = wd := by injection hEnc
  obtain ⟨hMaj, hSel, hZ0, hChain⟩ := shape_5 42 (by decide) 13 (by decide) c wd hEnc.symm
  rw [decode_major_2A wd hMaj, decode2A, hSel, hChain]
  exact row_1 (w := wd) hZ0

theorem feset (c : Bool) (a : BitVec 7) (b : BitVec 7) : Statement (.feset c a b) := by
  intro _ wd hEnc
  have hEnc : word 0x54380000 c [(11, a.toNat), (4, b.toNat)] = wd := by injection hEnc
  obtain ⟨hMaj, hSel, hZ0, hF0, hF1, hChain⟩ := shape_57 42 (by decide) 14 (by decide) c a b wd hEnc.symm
  rw [decode_major_2A wd hMaj, decode2A, hSel, hF0, hF1, hChain]
  exact row_1 (w := wd) hZ0

theorem feclr (c : Bool) (a : BitVec 7) (b : BitVec 7) : Statement (.feclr c a b) := by
  intro _ wd hEnc
  have hEnc : word 0x543C0000 c [(11, a.toNat), (4, b.toNat)] = wd := by injection hEnc
  obtain ⟨hMaj, hSel, hZ0, hF0, hF1, hChain⟩ := shape_57 42 (by decide) 15 (by decide) c a b wd hEnc.symm
  rw [decode_major_2A wd hMaj, decode2A, hSel, hF0, hF1, hChain]
  exact row_1 (w := wd) hZ0

theorem seqr (c : Bool) (a : BitVec 5) : Statement (.seqr c a) := by
  intro _ wd hEnc
  have hEnc : word 0x54400000 c [(11, a.toNat)] = wd := by injection hEnc
  obtain ⟨hMaj, hSel, hZ0, hZ1, hF0, hChain⟩ := shape_13 42 (by decide) 16 (by decide) c a wd hEnc.symm
  rw [decode_major_2A wd hMaj, decode2A, hSel, hF0, hChain]
  exact row_2 (w := wd) hZ0 hZ1

theorem cpy (c : Bool) (d : BitVec 5) (a : BitVec 7) (b : BitVec 7) (k : BitVec 2) (z : BitVec 2) : Statement (.cpy c d a b k z) := by
  intro hwf wd hEnc
  have hEnc : word 0x56000000 c [(18, d.toNat), (11, a.toNat), (4, b.toNat), (2, k.toNat), (0, z.toNat)] = wd := by injection hEnc
  obtain ⟨hMaj, hZ0, hF0, hF1, hF2, hF3, hF4, hChain⟩ := shape_58 43 (by decide) c d a b k z wd hEnc.symm
  have hk : ¬ fldNat wd 0 2 = 3 := by
    have hk : z ≠ 3#2 := by
      have := chk_of_wf hwf fun _ => List.mem_cons_self
      simpa using this
    have hk : z.toNat ≠ 3 := fun h => hk (BitVec.eq_of_toNat_eq h)
    rw [fld_eq] at hF4
    have := congrArg BitVec.toNat hF4
    rw [BitVec.toNat_ofNat] at this
    unfold fldNat
    omega
  rw [decode_major_2B wd hMaj, decode2B, if_neg hk, hF0, hF1, hF2, hF3, hF4, hChain]
  exact row_1 (w := wd) hZ0

theorem tile (c : Bool) (a : BitVec 5) (b : BitVec 5) : Statement (.tile c a b) := by
  intro _ wd hEnc
  have hEnc : word 0x58000000 c [(11, a.toNat), (4, b.toNat)] = wd := by injection hEnc
  obtain ⟨hMaj, hSel, hZ0, hZ1, hZ2, hF0, hF1, hChain⟩ := shape_56 44 (by decide) 0 (by decide) c a b wd hEnc.symm
  rw [decode_major_2C wd hMaj, decode2C, hSel, hF0, hF1, hChain]
  exact row_3 (w := wd) hZ0 hZ1 hZ2

theorem unpk (c : Bool) (a : BitVec 5) (b : BitVec 5) : Statement (.unpk c a b) := by
  intro _ wd hEnc
  have hEnc : word 0x58040000 c [(11, a.toNat), (4, b.toNat)] = wd := by injection hEnc
  obtain ⟨hMaj, hSel, hZ0, hZ1, hZ2, hF0, hF1, hChain⟩ := shape_56 44 (by decide) 1 (by decide) c a b wd hEnc.symm
  rw [decode_major_2C wd hMaj, decode2C, hSel, hF0, hF1, hChain]
  exact row_3 (w := wd) hZ0 hZ1 hZ2

theorem pack (c : Bool) (a : BitVec 5) (b : BitVec 5) : Statement (.pack c a b) := by
  intro _ wd hEnc
  have hEnc : word 0x58080000 c [(11, a.toNat), (4, b.toNat)] = wd := by injection hEnc
  obtain ⟨hMaj, hSel, hZ0, hZ1, hZ2, hF0, hF1, hChain⟩ := shape_56 44 (by decide) 2 (by decide) c a b wd hEnc.symm
  rw [decode_major_2C wd hMaj, decode2C, hSel, hF0, hF1, hChain]
  exact row_3 (w := wd) hZ0 hZ1 hZ2

theorem gath (c : Bool) (a : BitVec 5) (b : BitVec 5) : Statement (.gath c a b) := by
  intro _ wd hEnc
  have hEnc : word 0x580C0000 c [(11, a.toNat), (4, b.toNat)] = wd := by injection hEnc
  obtain ⟨hMaj, hSel, hZ0, hZ1, hZ2, hF0, hF1, hChain⟩ := shape_56 44 (by decide) 3 (by decide) c a b wd hEnc.symm
  rw [decode_major_2C wd hMaj, decode2C, hSel, hF0, hF1, hChain]
  exact row_3 (w := wd) hZ0 hZ1 hZ2

theorem scat (c : Bool) (a : BitVec 5) (b : BitVec 5) : Statement (.scat c a b) := by
  intro _ wd hEnc
  have hEnc : word 0x58100000 c [(11, a.toNat), (4, b.toNat)] = wd := by injection hEnc
  obtain ⟨hMaj, hSel, hZ0, hZ1, hZ2, hF0, hF1, hChain⟩ := shape_56 44 (by decide) 4 (by decide) c a b wd hEnc.symm
  rw [decode_major_2C wd hMaj, decode2C, hSel, hF0, hF1, hChain]
  exact row_3 (w := wd) hZ0 hZ1 hZ2

theorem kvcp (c : Bool) (a : BitVec 5) (b : BitVec 5) : Statement (.kvcp c a b) := by
  intro _ wd hEnc
  have hEnc : word 0x58140000 c [(11, a.toNat), (4, b.toNat)] = wd := by injection hEnc
  obtain ⟨hMaj, hSel, hZ0, hZ1, hZ2, hF0, hF1, hChain⟩ := shape_56 44 (by decide) 5 (by decide) c a b wd hEnc.symm
  rw [decode_major_2C wd hMaj, decode2C, hSel, hF0, hF1, hChain]
  exact row_3 (w := wd) hZ0 hZ1 hZ2

theorem cpw (c : Bool) (t : BitVec 4) (p : BitVec 3) : Statement (.cpw c t p) := by
  intro _ wd hEnc
  have hEnc : word 0x58180000 c [(11, t.toNat), (4, p.toNat)] = wd := by injection hEnc
  obtain ⟨hMaj, hSel, hZ0, hZ1, hZ2, hF0, hF1, hChain⟩ := shape_59 44 (by decide) 6 (by decide) c t p wd hEnc.symm
  rw [decode_major_2C wd hMaj, decode2C, hSel, hF0, hF1, hChain]
  exact row_3 (w := wd) hZ0 hZ1 hZ2

theorem cps (c : Bool) (a : BitVec 5) (t : BitVec 4) : Statement (.cps c a t) := by
  intro _ wd hEnc
  have hEnc : word 0x581C0000 c [(11, a.toNat), (4, t.toNat)] = wd := by injection hEnc
  obtain ⟨hMaj, hSel, hZ0, hZ1, hZ2, hF0, hF1, hChain⟩ := shape_12 44 (by decide) 7 (by decide) c a t wd hEnc.symm
  rw [decode_major_2C wd hMaj, decode2C, hSel, hF0, hF1, hChain]
  exact row_3 (w := wd) hZ0 hZ1 hZ2

theorem osclm (c : Bool) (n : BitVec 6) (f : BitVec 4) : Statement (.osclm c n f) := by
  intro _ wd hEnc
  have hEnc : word 0x5A000000 c [(11, n.toNat), (0, f.toNat)] = wd := by injection hEnc
  obtain ⟨hMaj, hSel, hZ0, hZ1, hF0, hF1, hChain⟩ := shape_60 45 (by decide) 0 (by decide) c n f wd hEnc.symm
  rw [decode_major_2D wd hMaj, decode2D, hSel, hF0, hF1, hChain]
  exact row_2 (w := wd) hZ0 hZ1

theorem osrel (c : Bool) (n : BitVec 6) : Statement (.osrel c n) := by
  intro _ wd hEnc
  have hEnc : word 0x5A040000 c [(11, n.toNat)] = wd := by injection hEnc
  obtain ⟨hMaj, hSel, hZ0, hZ1, hF0, hChain⟩ := shape_61 45 (by decide) 1 (by decide) c n wd hEnc.symm
  rw [decode_major_2D wd hMaj, decode2D, hSel, hF0, hChain]
  exact row_2 (w := wd) hZ0 hZ1

theorem osst (c : Bool) (a : BitVec 7) (b : BitVec 5) : Statement (.osst c a b) := by
  intro _ wd hEnc
  have hEnc : word 0x5A080000 c [(11, a.toNat), (4, b.toNat)] = wd := by injection hEnc
  obtain ⟨hMaj, hSel, hZ0, hZ1, hF0, hF1, hChain⟩ := shape_54 45 (by decide) 2 (by decide) c a b wd hEnc.symm
  rw [decode_major_2D wd hMaj, decode2D, hSel, hF0, hF1, hChain]
  exact row_2 (w := wd) hZ0 hZ1

theorem osld (c : Bool) (a : BitVec 7) (b : BitVec 5) : Statement (.osld c a b) := by
  intro _ wd hEnc
  have hEnc : word 0x5A0C0000 c [(11, a.toNat), (4, b.toNat)] = wd := by injection hEnc
  obtain ⟨hMaj, hSel, hZ0, hZ1, hF0, hF1, hChain⟩ := shape_54 45 (by decide) 3 (by decide) c a b wd hEnc.symm
  rw [decode_major_2D wd hMaj, decode2D, hSel, hF0, hF1, hChain]
  exact row_2 (w := wd) hZ0 hZ1

theorem acz (c : Bool) (n : BitVec 5) : Statement (.acz c n) := by
  intro _ wd hEnc
  have hEnc : word 0x5A100000 c [(11, n.toNat)] = wd := by injection hEnc
  obtain ⟨hMaj, hSel, hZ0, hZ1, hF0, hChain⟩ := shape_13 45 (by decide) 4 (by decide) c n wd hEnc.symm
  rw [decode_major_2D wd hMaj, decode2D, hSel, hF0, hChain]
  exact row_2 (w := wd) hZ0 hZ1

theorem acld (c : Bool) (a : BitVec 7) (b : BitVec 5) : Statement (.acld c a b) := by
  intro _ wd hEnc
  have hEnc : word 0x5A140000 c [(11, a.toNat), (4, b.toNat)] = wd := by injection hEnc
  obtain ⟨hMaj, hSel, hZ0, hZ1, hF0, hF1, hChain⟩ := shape_54 45 (by decide) 5 (by decide) c a b wd hEnc.symm
  rw [decode_major_2D wd hMaj, decode2D, hSel, hF0, hF1, hChain]
  exact row_2 (w := wd) hZ0 hZ1

theorem acst (c : Bool) (a : BitVec 7) (b : BitVec 5) : Statement (.acst c a b) := by
  intro _ wd hEnc
  have hEnc : word 0x5A180000 c [(11, a.toNat), (4, b.toNat)] = wd := by injection hEnc
  obtain ⟨hMaj, hSel, hZ0, hZ1, hF0, hF1, hChain⟩ := shape_54 45 (by decide) 6 (by decide) c a b wd hEnc.symm
  rw [decode_major_2D wd hMaj, decode2D, hSel, hF0, hF1, hChain]
  exact row_2 (w := wd) hZ0 hZ1

theorem mma (c : Bool) (a : BitVec 5) : Statement (.mma c a) := by
  intro _ wd hEnc
  have hEnc : word 0x5A1C0000 c [(11, a.toNat)] = wd := by injection hEnc
  obtain ⟨hMaj, hSel, hZ0, hZ1, hF0, hChain⟩ := shape_13 45 (by decide) 7 (by decide) c a wd hEnc.symm
  rw [decode_major_2D wd hMaj, decode2D, hSel, hF0, hChain]
  exact row_2 (w := wd) hZ0 hZ1

theorem mwait (c : Bool) (t : BitVec 4) (p : BitVec 3) : Statement (.mwait c t p) := by
  intro _ wd hEnc
  have hEnc : word 0x5A200000 c [(11, t.toNat), (4, p.toNat)] = wd := by injection hEnc
  obtain ⟨hMaj, hSel, hZ0, hZ1, hZ2, hF0, hF1, hChain⟩ := shape_59 45 (by decide) 8 (by decide) c t p wd hEnc.symm
  rw [decode_major_2D wd hMaj, decode2D, hSel, hF0, hF1, hChain]
  exact row_3 (w := wd) hZ0 hZ1 hZ2

theorem mstat (c : Bool) (a : BitVec 5) (t : BitVec 4) : Statement (.mstat c a t) := by
  intro _ wd hEnc
  have hEnc : word 0x5A240000 c [(11, a.toNat), (4, t.toNat)] = wd := by injection hEnc
  obtain ⟨hMaj, hSel, hZ0, hZ1, hZ2, hF0, hF1, hChain⟩ := shape_12 45 (by decide) 9 (by decide) c a t wd hEnc.symm
  rw [decode_major_2D wd hMaj, decode2D, hSel, hF0, hF1, hChain]
  exact row_3 (w := wd) hZ0 hZ1 hZ2

theorem seqnew (c : Bool) (a : BitVec 5) (b : BitVec 5) : Statement (.seqnew c a b) := by
  intro _ wd hEnc
  have hEnc : word 0x5C000000 c [(11, a.toNat), (4, b.toNat)] = wd := by injection hEnc
  obtain ⟨hMaj, hSel, hZ0, hZ1, hZ2, hF0, hF1, hChain⟩ := shape_56 46 (by decide) 0 (by decide) c a b wd hEnc.symm
  rw [decode_major_2E wd hMaj, decode2E, hSel, hF0, hF1, hChain]
  exact row_3 (w := wd) hZ0 hZ1 hZ2

theorem seqfree (c : Bool) (a : BitVec 5) (b : BitVec 5) : Statement (.seqfree c a b) := by
  intro _ wd hEnc
  have hEnc : word 0x5C040000 c [(11, a.toNat), (4, b.toNat)] = wd := by injection hEnc
  obtain ⟨hMaj, hSel, hZ0, hZ1, hZ2, hF0, hF1, hChain⟩ := shape_56 46 (by decide) 1 (by decide) c a b wd hEnc.symm
  rw [decode_major_2E wd hMaj, decode2E, hSel, hF0, hF1, hChain]
  exact row_3 (w := wd) hZ0 hZ1 hZ2

theorem tfork (c : Bool) (a : BitVec 5) (b : BitVec 5) : Statement (.tfork c a b) := by
  intro _ wd hEnc
  have hEnc : word 0x5C080000 c [(11, a.toNat), (4, b.toNat)] = wd := by injection hEnc
  obtain ⟨hMaj, hSel, hZ0, hZ1, hZ2, hF0, hF1, hChain⟩ := shape_56 46 (by decide) 2 (by decide) c a b wd hEnc.symm
  rw [decode_major_2E wd hMaj, decode2E, hSel, hF0, hF1, hChain]
  exact row_3 (w := wd) hZ0 hZ1 hZ2

theorem tapp (c : Bool) (a : BitVec 5) (b : BitVec 5) : Statement (.tapp c a b) := by
  intro _ wd hEnc
  have hEnc : word 0x5C0C0000 c [(11, a.toNat), (4, b.toNat)] = wd := by injection hEnc
  obtain ⟨hMaj, hSel, hZ0, hZ1, hZ2, hF0, hF1, hChain⟩ := shape_56 46 (by decide) 3 (by decide) c a b wd hEnc.symm
  rw [decode_major_2E wd hMaj, decode2E, hSel, hF0, hF1, hChain]
  exact row_3 (w := wd) hZ0 hZ1 hZ2

theorem kvwr (c : Bool) (a : BitVec 5) (b : BitVec 5) : Statement (.kvwr c a b) := by
  intro _ wd hEnc
  have hEnc : word 0x5C100000 c [(11, a.toNat), (4, b.toNat)] = wd := by injection hEnc
  obtain ⟨hMaj, hSel, hZ0, hZ1, hZ2, hF0, hF1, hChain⟩ := shape_56 46 (by decide) 4 (by decide) c a b wd hEnc.symm
  rw [decode_major_2E wd hMaj, decode2E, hSel, hF0, hF1, hChain]
  exact row_3 (w := wd) hZ0 hZ1 hZ2

theorem tprune (c : Bool) (a : BitVec 5) (b : BitVec 5) : Statement (.tprune c a b) := by
  intro _ wd hEnc
  have hEnc : word 0x5C140000 c [(11, a.toNat), (4, b.toNat)] = wd := by injection hEnc
  obtain ⟨hMaj, hSel, hZ0, hZ1, hZ2, hF0, hF1, hChain⟩ := shape_56 46 (by decide) 5 (by decide) c a b wd hEnc.symm
  rw [decode_major_2E wd hMaj, decode2E, hSel, hF0, hF1, hChain]
  exact row_3 (w := wd) hZ0 hZ1 hZ2

theorem tcommit (c : Bool) (a : BitVec 5) (b : BitVec 5) : Statement (.tcommit c a b) := by
  intro _ wd hEnc
  have hEnc : word 0x5C180000 c [(11, a.toNat), (4, b.toNat)] = wd := by injection hEnc
  obtain ⟨hMaj, hSel, hZ0, hZ1, hZ2, hF0, hF1, hChain⟩ := shape_56 46 (by decide) 6 (by decide) c a b wd hEnc.symm
  rw [decode_major_2E wd hMaj, decode2E, hSel, hF0, hF1, hChain]
  exact row_3 (w := wd) hZ0 hZ1 hZ2

theorem tqry (c : Bool) (a : BitVec 5) (b : BitVec 5) : Statement (.tqry c a b) := by
  intro _ wd hEnc
  have hEnc : word 0x5C1C0000 c [(11, a.toNat), (4, b.toNat)] = wd := by injection hEnc
  obtain ⟨hMaj, hSel, hZ0, hZ1, hZ2, hF0, hF1, hChain⟩ := shape_56 46 (by decide) 7 (by decide) c a b wd hEnc.symm
  rw [decode_major_2E wd hMaj, decode2E, hSel, hF0, hF1, hChain]
  exact row_3 (w := wd) hZ0 hZ1 hZ2

theorem twalk (c : Bool) (a : BitVec 5) (b : BitVec 5) : Statement (.twalk c a b) := by
  intro _ wd hEnc
  have hEnc : word 0x5C200000 c [(11, a.toNat), (4, b.toNat)] = wd := by injection hEnc
  obtain ⟨hMaj, hSel, hZ0, hZ1, hZ2, hF0, hF1, hChain⟩ := shape_56 46 (by decide) 8 (by decide) c a b wd hEnc.symm
  rw [decode_major_2E wd hMaj, decode2E, hSel, hF0, hF1, hChain]
  exact row_3 (w := wd) hZ0 hZ1 hZ2

theorem kvgath (c : Bool) (a : BitVec 5) (b : BitVec 5) : Statement (.kvgath c a b) := by
  intro _ wd hEnc
  have hEnc : word 0x5C240000 c [(11, a.toNat), (4, b.toNat)] = wd := by injection hEnc
  obtain ⟨hMaj, hSel, hZ0, hZ1, hZ2, hF0, hF1, hChain⟩ := shape_56 46 (by decide) 9 (by decide) c a b wd hEnc.symm
  rw [decode_major_2E wd hMaj, decode2E, hSel, hF0, hF1, hChain]
  exact row_3 (w := wd) hZ0 hZ1 hZ2

theorem tmask (c : Bool) (a : BitVec 5) (b : BitVec 5) : Statement (.tmask c a b) := by
  intro _ wd hEnc
  have hEnc : word 0x5C280000 c [(11, a.toNat), (4, b.toNat)] = wd := by injection hEnc
  obtain ⟨hMaj, hSel, hZ0, hZ1, hZ2, hF0, hF1, hChain⟩ := shape_56 46 (by decide) 10 (by decide) c a b wd hEnc.symm
  rw [decode_major_2E wd hMaj, decode2E, hSel, hF0, hF1, hChain]
  exact row_3 (w := wd) hZ0 hZ1 hZ2

theorem pfxq (c : Bool) (a : BitVec 5) (b : BitVec 5) : Statement (.pfxq c a b) := by
  intro _ wd hEnc
  have hEnc : word 0x5C2C0000 c [(11, a.toNat), (4, b.toNat)] = wd := by injection hEnc
  obtain ⟨hMaj, hSel, hZ0, hZ1, hZ2, hF0, hF1, hChain⟩ := shape_56 46 (by decide) 11 (by decide) c a b wd hEnc.symm
  rw [decode_major_2E wd hMaj, decode2E, hSel, hF0, hF1, hChain]
  exact row_3 (w := wd) hZ0 hZ1 hZ2

theorem pfxpub (c : Bool) (a : BitVec 5) (b : BitVec 5) : Statement (.pfxpub c a b) := by
  intro _ wd hEnc
  have hEnc : word 0x5C300000 c [(11, a.toNat), (4, b.toNat)] = wd := by injection hEnc
  obtain ⟨hMaj, hSel, hZ0, hZ1, hZ2, hF0, hF1, hChain⟩ := shape_56 46 (by decide) 12 (by decide) c a b wd hEnc.symm
  rw [decode_major_2E wd hMaj, decode2E, hSel, hF0, hF1, hChain]
  exact row_3 (w := wd) hZ0 hZ1 hZ2

theorem pfxatt (c : Bool) (a : BitVec 5) (b : BitVec 5) : Statement (.pfxatt c a b) := by
  intro _ wd hEnc
  have hEnc : word 0x5C340000 c [(11, a.toNat), (4, b.toNat)] = wd := by injection hEnc
  obtain ⟨hMaj, hSel, hZ0, hZ1, hZ2, hF0, hF1, hChain⟩ := shape_56 46 (by decide) 13 (by decide) c a b wd hEnc.symm
  rw [decode_major_2E wd hMaj, decode2E, hSel, hF0, hF1, hChain]
  exact row_3 (w := wd) hZ0 hZ1 hZ2

theorem kvresc (c : Bool) (a : BitVec 5) (b : BitVec 5) : Statement (.kvresc c a b) := by
  intro _ wd hEnc
  have hEnc : word 0x5C380000 c [(11, a.toNat), (4, b.toNat)] = wd := by injection hEnc
  obtain ⟨hMaj, hSel, hZ0, hZ1, hZ2, hF0, hF1, hChain⟩ := shape_56 46 (by decide) 14 (by decide) c a b wd hEnc.symm
  rw [decode_major_2E wd hMaj, decode2E, hSel, hF0, hF1, hChain]
  exact row_3 (w := wd) hZ0 hZ1 hZ2

theorem rope (c : Bool) (d : BitVec 7) (a : BitVec 7) (b : BitVec 7) : Statement (.rope c d a b) := by
  intro _ wd hEnc
  have hEnc : word 0x5E000000 c [(18, d.toNat), (11, a.toNat), (4, b.toNat)] = wd := by injection hEnc
  obtain ⟨hMaj, hSel, hF0, hF1, hF2, hChain⟩ := shape_15 47 (by decide) 0 (by decide) c d a b wd hEnc.symm
  rw [decode_major_2F wd hMaj, decode2F, hSel, hF0, hF1, hF2, hChain]
  exact row_zero (w := wd)

theorem sample (c : Bool) (a : BitVec 5) (b : BitVec 5) : Statement (.sample c a b) := by
  intro _ wd hEnc
  have hEnc : word 0x60000000 c [(11, a.toNat), (4, b.toNat)] = wd := by injection hEnc
  obtain ⟨hMaj, hSel, hZ0, hZ1, hZ2, hF0, hF1, hChain⟩ := shape_56 48 (by decide) 0 (by decide) c a b wd hEnc.symm
  rw [decode_major_30 wd hMaj, decode30, hSel, hF0, hF1, hChain]
  exact row_3 (w := wd) hZ0 hZ1 hZ2

theorem rng (c : Bool) (a : BitVec 5) (b : BitVec 5) : Statement (.rng c a b) := by
  intro _ wd hEnc
  have hEnc : word 0x60040000 c [(11, a.toNat), (4, b.toNat)] = wd := by injection hEnc
  obtain ⟨hMaj, hSel, hZ0, hZ1, hZ2, hF0, hF1, hChain⟩ := shape_56 48 (by decide) 1 (by decide) c a b wd hEnc.symm
  rw [decode_major_30 wd hMaj, decode30, hSel, hF0, hF1, hChain]
  exact row_3 (w := wd) hZ0 hZ1 hZ2

theorem rngf (c : Bool) (a : BitVec 5) (b : BitVec 5) : Statement (.rngf c a b) := by
  intro _ wd hEnc
  have hEnc : word 0x60080000 c [(11, a.toNat), (4, b.toNat)] = wd := by injection hEnc
  obtain ⟨hMaj, hSel, hZ0, hZ1, hZ2, hF0, hF1, hChain⟩ := shape_56 48 (by decide) 2 (by decide) c a b wd hEnc.symm
  rw [decode_major_30 wd hMaj, decode30, hSel, hF0, hF1, hChain]
  exact row_3 (w := wd) hZ0 hZ1 hZ2

theorem argmax (c : Bool) (a : BitVec 5) (b : BitVec 5) : Statement (.argmax c a b) := by
  intro _ wd hEnc
  have hEnc : word 0x600C0000 c [(11, a.toNat), (4, b.toNat)] = wd := by injection hEnc
  obtain ⟨hMaj, hSel, hZ0, hZ1, hZ2, hF0, hF1, hChain⟩ := shape_56 48 (by decide) 3 (by decide) c a b wd hEnc.symm
  rw [decode_major_30 wd hMaj, decode30, hSel, hF0, hF1, hChain]
  exact row_3 (w := wd) hZ0 hZ1 hZ2

theorem coll (c : Bool) (a : BitVec 5) (b : BitVec 5) : Statement (.coll c a b) := by
  intro _ wd hEnc
  have hEnc : word 0x62000000 c [(11, a.toNat), (4, b.toNat)] = wd := by injection hEnc
  obtain ⟨hMaj, hSel, hZ0, hZ1, hZ2, hF0, hF1, hChain⟩ := shape_56 49 (by decide) 0 (by decide) c a b wd hEnc.symm
  rw [decode_major_31 wd hMaj, decode31, hSel, hF0, hF1, hChain]
  exact row_3 (w := wd) hZ0 hZ1 hZ2

theorem collw (c : Bool) (t : BitVec 3) (p : BitVec 3) : Statement (.collw c t p) := by
  intro _ wd hEnc
  have hEnc : word 0x62040000 c [(11, t.toNat), (4, p.toNat)] = wd := by injection hEnc
  obtain ⟨hMaj, hSel, hZ0, hZ1, hZ2, hF0, hF1, hChain⟩ := shape_62 49 (by decide) 1 (by decide) c t p wd hEnc.symm
  rw [decode_major_31 wd hMaj, decode31, hSel, hF0, hF1, hChain]
  exact row_3 (w := wd) hZ0 hZ1 hZ2

theorem rsig (c : Bool) (a : BitVec 5) (b : BitVec 5) : Statement (.rsig c a b) := by
  intro _ wd hEnc
  have hEnc : word 0x62080000 c [(11, a.toNat), (4, b.toNat)] = wd := by injection hEnc
  obtain ⟨hMaj, hSel, hZ0, hZ1, hZ2, hF0, hF1, hChain⟩ := shape_56 49 (by decide) 2 (by decide) c a b wd hEnc.symm
  rw [decode_major_31 wd hMaj, decode31, hSel, hF0, hF1, hChain]
  exact row_3 (w := wd) hZ0 hZ1 hZ2

theorem taskdec (c : Bool) (a : BitVec 5) (b : BitVec 5) : Statement (.taskdec c a b) := by
  intro _ wd hEnc
  have hEnc : word 0x620C0000 c [(11, a.toNat), (4, b.toNat)] = wd := by injection hEnc
  obtain ⟨hMaj, hSel, hZ0, hZ1, hZ2, hF0, hF1, hChain⟩ := shape_56 49 (by decide) 3 (by decide) c a b wd hEnc.symm
  rw [decode_major_31 wd hMaj, decode31, hSel, hF0, hF1, hChain]
  exact row_3 (w := wd) hZ0 hZ1 hZ2

theorem tasknew (c : Bool) (a : BitVec 5) (b : BitVec 5) : Statement (.tasknew c a b) := by
  intro _ wd hEnc
  have hEnc : word 0x62100000 c [(11, a.toNat), (4, b.toNat)] = wd := by injection hEnc
  obtain ⟨hMaj, hSel, hZ0, hZ1, hZ2, hF0, hF1, hChain⟩ := shape_56 49 (by decide) 4 (by decide) c a b wd hEnc.symm
  rw [decode_major_31 wd hMaj, decode31, hSel, hF0, hF1, hChain]
  exact row_3 (w := wd) hZ0 hZ1 hZ2

theorem taskq (c : Bool) (a : BitVec 5) (b : BitVec 5) : Statement (.taskq c a b) := by
  intro _ wd hEnc
  have hEnc : word 0x62140000 c [(11, a.toNat), (4, b.toNat)] = wd := by injection hEnc
  obtain ⟨hMaj, hSel, hZ0, hZ1, hZ2, hF0, hF1, hChain⟩ := shape_56 49 (by decide) 5 (by decide) c a b wd hEnc.symm
  rw [decode_major_31 wd hMaj, decode31, hSel, hF0, hF1, hChain]
  exact row_3 (w := wd) hZ0 hZ1 hZ2

theorem tkrcv (c : Bool) (a : BitVec 5) (b : BitVec 5) : Statement (.tkrcv c a b) := by
  intro _ wd hEnc
  have hEnc : word 0x62180000 c [(11, a.toNat), (4, b.toNat)] = wd := by injection hEnc
  obtain ⟨hMaj, hSel, hZ0, hZ1, hZ2, hF0, hF1, hChain⟩ := shape_56 49 (by decide) 6 (by decide) c a b wd hEnc.symm
  rw [decode_major_31 wd hMaj, decode31, hSel, hF0, hF1, hChain]
  exact row_3 (w := wd) hZ0 hZ1 hZ2

theorem tkpost (c : Bool) (a : BitVec 5) (b : BitVec 5) : Statement (.tkpost c a b) := by
  intro _ wd hEnc
  have hEnc : word 0x621C0000 c [(11, a.toNat), (4, b.toNat)] = wd := by injection hEnc
  obtain ⟨hMaj, hSel, hZ0, hZ1, hZ2, hF0, hF1, hChain⟩ := shape_56 49 (by decide) 7 (by decide) c a b wd hEnc.symm
  rw [decode_major_31 wd hMaj, decode31, hSel, hF0, hF1, hChain]
  exact row_3 (w := wd) hZ0 hZ1 hZ2

theorem ctxsv (c : Bool) (a : BitVec 5) (b : BitVec 5) : Statement (.ctxsv c a b) := by
  intro _ wd hEnc
  have hEnc : word 0x64000000 c [(11, a.toNat), (4, b.toNat)] = wd := by injection hEnc
  obtain ⟨hMaj, hSel, hZ0, hZ1, hZ2, hF0, hF1, hChain⟩ := shape_56 50 (by decide) 0 (by decide) c a b wd hEnc.symm
  rw [decode_major_32 wd hMaj, decode32, hSel, hF0, hF1, hChain]
  exact row_3 (w := wd) hZ0 hZ1 hZ2

theorem ctxld (c : Bool) (a : BitVec 5) (b : BitVec 5) : Statement (.ctxld c a b) := by
  intro _ wd hEnc
  have hEnc : word 0x64040000 c [(11, a.toNat), (4, b.toNat)] = wd := by injection hEnc
  obtain ⟨hMaj, hSel, hZ0, hZ1, hZ2, hF0, hF1, hChain⟩ := shape_56 50 (by decide) 1 (by decide) c a b wd hEnc.symm
  rw [decode_major_32 wd hMaj, decode32, hSel, hF0, hF1, hChain]
  exact row_3 (w := wd) hZ0 hZ1 hZ2

theorem tlbi (c : Bool) (a : BitVec 5) (b : BitVec 5) : Statement (.tlbi c a b) := by
  intro _ wd hEnc
  have hEnc : word 0x64080000 c [(11, a.toNat), (4, b.toNat)] = wd := by injection hEnc
  obtain ⟨hMaj, hSel, hZ0, hZ1, hZ2, hF0, hF1, hChain⟩ := shape_56 50 (by decide) 2 (by decide) c a b wd hEnc.symm
  rw [decode_major_32 wd hMaj, decode32, hSel, hF0, hF1, hChain]
  exact row_3 (w := wd) hZ0 hZ1 hZ2

theorem fltcan (c : Bool) (a : BitVec 5) (b : BitVec 5) : Statement (.fltcan c a b) := by
  intro _ wd hEnc
  have hEnc : word 0x640C0000 c [(11, a.toNat), (4, b.toNat)] = wd := by injection hEnc
  obtain ⟨hMaj, hSel, hZ0, hZ1, hZ2, hF0, hF1, hChain⟩ := shape_56 50 (by decide) 3 (by decide) c a b wd hEnc.symm
  rw [decode_major_32 wd hMaj, decode32, hSel, hF0, hF1, hChain]
  exact row_3 (w := wd) hZ0 hZ1 hZ2

theorem fltrpl (c : Bool) (a : BitVec 5) (b : BitVec 5) : Statement (.fltrpl c a b) := by
  intro _ wd hEnc
  have hEnc : word 0x64100000 c [(11, a.toNat), (4, b.toNat)] = wd := by injection hEnc
  obtain ⟨hMaj, hSel, hZ0, hZ1, hZ2, hF0, hF1, hChain⟩ := shape_56 50 (by decide) 4 (by decide) c a b wd hEnc.symm
  rw [decode_major_32 wd hMaj, decode32, hSel, hF0, hF1, hChain]
  exact row_3 (w := wd) hZ0 hZ1 hZ2

theorem haltqNow (c : Bool) (a : BitVec 5) (p : BitVec 3) : Statement (.haltqNow c a p) := by
  intro _ wd hEnc
  have hEnc : word 0x64140000 c [(11, a.toNat), (4, p.toNat)] = wd := by injection hEnc
  obtain ⟨hMaj, hSel, hMode, hZ0, hZ1, hZ2, hF0, hF1, hChain⟩ := shape_63 50 (by decide) 5 (by decide) 0 (by decide) c a p wd hEnc.symm
  rw [decode_major_32 wd hMaj, decode32, hSel, hMode, hF0, hF1, hChain]
  exact row_3 (w := wd) hZ0 hZ1 hZ2

theorem haltqQuiesce (c : Bool) (a : BitVec 5) (p : BitVec 3) : Statement (.haltqQuiesce c a p) := by
  intro _ wd hEnc
  have hEnc : word 0x64140001 c [(11, a.toNat), (4, p.toNat)] = wd := by injection hEnc
  obtain ⟨hMaj, hSel, hMode, hZ0, hZ1, hZ2, hF0, hF1, hChain⟩ := shape_63 50 (by decide) 5 (by decide) 1 (by decide) c a p wd hEnc.symm
  rw [decode_major_32 wd hMaj, decode32, hSel, hMode, hF0, hF1, hChain]
  exact row_3 (w := wd) hZ0 hZ1 hZ2

theorem haltqRelease (c : Bool) (a : BitVec 5) (p : BitVec 3) : Statement (.haltqRelease c a p) := by
  intro _ wd hEnc
  have hEnc : word 0x64140002 c [(11, a.toNat), (4, p.toNat)] = wd := by injection hEnc
  obtain ⟨hMaj, hSel, hMode, hZ0, hZ1, hZ2, hF0, hF1, hChain⟩ := shape_63 50 (by decide) 5 (by decide) 2 (by decide) c a p wd hEnc.symm
  rw [decode_major_32 wd hMaj, decode32, hSel, hMode, hF0, hF1, hChain]
  exact row_3 (w := wd) hZ0 hZ1 hZ2

theorem snaparm (c : Bool) (a : BitVec 5) : Statement (.snaparm c a) := by
  intro _ wd hEnc
  have hEnc : word 0x64180000 c [(11, a.toNat)] = wd := by injection hEnc
  obtain ⟨hMaj, hSel, hZ0, hZ1, hF0, hChain⟩ := shape_13 50 (by decide) 6 (by decide) c a wd hEnc.symm
  rw [decode_major_32 wd hMaj, decode32, hSel, hF0, hChain]
  exact row_2 (w := wd) hZ0 hZ1

theorem engineWrite (core id : Nat) : Statement (.engineWrite core id) := by
  intro _ wd hEnc
  cases hEnc

theorem longLatencyLoad (core id : Nat) : Statement (.longLatencyLoad core id) := by
  intro _ wd hEnc
  cases hEnc

theorem prefixDirectoryRequest (r : PrefixMsg) : Statement (.prefixDirectoryRequest r) := by
  intro _ wd hEnc
  cases hEnc

theorem modelEnable (model : Nat) : Statement (.modelEnable model) := by
  intro _ wd hEnc
  cases hEnc

end RoundTrip

end Sys2Proof.Laws
end

