-- ==== Sys2Proof/Laws/Shapes.lean ====
section
/-! SUPPORT. A meaning that writes registers through the shared operations meets the shape that the claims state. -/

namespace Sys2Proof.Claims

open Sys2Proof.Machine

theorem WritesV.of {i : Bool → Instr} {d : BitVec 7} {R : State → Nat → Word → Prop} {ev : State → Nat → List Ev}
    (f : State → Nat → Word × List Ev) (h : ∀ c s, exec (i c) s = endUnit c (s.vsetEv d.toNat (f s)))
    (hR : ∀ s, ∀ x ∈ s.E, R s x (f s x).1) (hev : ∀ s x, (f s x).2 = ev s x) : WritesV i d R ev := by
  intro s c
  refine ⟨s.vset d.toNat fun x => (f s x).1, ?_, fun x hx => ?_, State.vset_only s _ _⟩
  · rw [h, endUnit_eq]
    unfold State.vsetEv
    simp only [hev]
  · rw [State.vset_value s _ _ hx]
    exact hR s x hx

theorem WritesV.of_vset {i : Bool → Instr} {d : BitVec 7} {R : State → Nat → Word → Prop}
    (f : State → Nat → Word) (h : ∀ c s, exec (i c) s = endUnit c (s.vset d.toNat (f s)))
    (hR : ∀ s, ∀ x ∈ s.E, R s x (f s x)) : WritesV i d R fun _ _ => [] := by
  intro s c
  refine ⟨s.vset d.toNat (f s), ?_, fun x hx => ?_, State.vset_only s _ _⟩
  · rw [h, endUnit_eq, State.countUnit_nil]
  · rw [State.vset_value s _ _ hx]
    exact hR s x hx

theorem SetsV.of {i : Bool → Instr} {d : BitVec 7} {f : State → Nat → Word} (g : State → Nat → Word)
    (h : ∀ c s, exec (i c) s = endUnit c (s.vset d.toNat (g s))) (hg : ∀ s, ∀ x ∈ s.E, g s x = f s x) :
    SetsV i d f := by
  intro s c
  refine ⟨s.vset d.toNat (g s), by rw [h, endUnit_eq], fun x hx => ?_, State.vset_only s _ _⟩
  rw [State.vset_value s _ _ hx, hg s x hx]

theorem SetsVEv.of {i : Bool → Instr} {d : BitVec 7} {f : State → Nat → Word × List Ev}
    (h : ∀ c s, exec (i c) s = endUnit c (s.vsetEv d.toNat (f s))) : SetsVEv i d f :=
  WritesV.of f h (fun _ _ _ => rfl) fun _ _ => rfl

/-- A member that counts nothing, stated in the shape that counts. -/
theorem SetsVEv.of_vset {i : Bool → Instr} {d : BitVec 7} {f : State → Nat → Word × List Ev} (g : State → Nat → Word)
    (h : ∀ c s, exec (i c) s = endUnit c (s.vset d.toNat (g s))) (hg : ∀ s x, f s x = (g s x, [])) :
    SetsVEv i d f := by
  intro s c
  refine ⟨s.vset d.toNat (g s), ?_, fun x hx => ?_, State.vset_only s _ _⟩
  · simp only [hg]
    rw [h, endUnit_eq, State.countUnit_nil]
  · show _ = (f s x).1
    rw [State.vset_value s _ _ hx, hg]

theorem SetsPair.of {i : Bool → Instr} {d : BitVec 7} {f : State → Nat → Dword}
    (h : ∀ c s, exec (i c) s = endUnit c (s.vset64 d.toNat (f s))) : SetsPair i d f := by
  intro s c
  refine ⟨s.vset64 d.toNat (f s), by rw [h, endUnit_eq], fun x hx => ?_, State.vset64_only s _ _⟩
  exact State.vset64_value s _ _ hx

theorem SetsPairEv.of {i : Bool → Instr} {d : BitVec 7} {f : State → Nat → Dword × List Ev}
    (h : ∀ c s, exec (i c) s = endUnit c (s.vset64Ev d.toNat (f s))) : SetsPairEv i d f := by
  intro s c
  refine ⟨s.vset64 d.toNat fun x => (f s x).1, ?_, fun x hx => ?_, State.vset64_only s _ _⟩
  · rw [h, endUnit_eq]
    rfl
  · exact State.vset64_value s _ _ hx

theorem SetsPairEv.of_vset64 {i : Bool → Instr} {d : BitVec 7} {f : State → Nat → Dword × List Ev}
    (g : State → Nat → Dword) (h : ∀ c s, exec (i c) s = endUnit c (s.vset64 d.toNat (g s)))
    (hg : ∀ s x, f s x = (g s x, [])) : SetsPairEv i d f := by
  intro s c
  refine ⟨s.vset64 d.toNat (g s), ?_, fun x hx => ?_, State.vset64_only s _ _⟩
  · simp only [hg]
    rw [h, endUnit_eq, State.countUnit_nil]
  · rw [State.vset64_value s _ _ hx, hg]

theorem toNat_eq_zero_iff {n : Nat} (d : BitVec n) : d.toNat = 0 ↔ d = 0 := by
  constructor
  · intro h
    exact BitVec.eq_of_toNat_eq (by simpa using h)
  · rintro rfl
    simp

theorem SetsP.of {i : Bool → Instr} {d : BitVec 3} {f : State → Nat → Bool}
    (g : State → Nat → Bool) (h : ∀ c s, exec (i c) s = endUnit c (s.pset d.toNat (g s)))
    (hg : ∀ s, ∀ x ∈ s.E, g s x = f s x) : SetsP i d f := by
  intro s c
  refine ⟨s.pset d.toNat (g s), by rw [h, endUnit_eq], fun x hx => ?_, State.pset_only s _ _ d.isLt⟩
  rw [State.pset_value s _ _ d.isLt hx, hg s x hx]
  simp only [toNat_eq_zero_iff]

theorem SetsS.of {i : Bool → Instr} {d : BitVec 5} {f : State → Dword} (g : State → Dword)
    (h : ∀ c s, exec (i c) s = endUnit c (s.sset d.toNat (g s))) (hg : ∀ s, s.E ≠ [] → g s = f s) : SetsS i d f := by
  intro s c
  refine ⟨s.sset d.toNat (g s), by rw [h, endUnit_eq], ?_, State.sset_only s _ _⟩
  rw [State.sset_value]
  simp only [toNat_eq_zero_iff]
  by_cases hE : s.E = []
  · simp [hE]
  · rw [hg s hE]

theorem SetsSEv.of {i : Bool → Instr} {d : BitVec 5} {f : State → Dword × List Ev}
    (h : ∀ c s, exec (i c) s = endUnit c (s.ssetEv d.toNat (f s))) : SetsSEv i d f := by
  intro s c
  refine ⟨s.sset d.toNat (f s).1, ?_, ?_, State.sset_only s _ _⟩
  · rw [h, endUnit_eq]
    unfold State.ssetEv
    cases hE : s.E with
    | nil =>
      have : s.sset d.toNat (f s).1 = s := by unfold State.sset State.once; simp [hE]
      rw [this]
      simp [State.countUnit, State.count, evCount, List.range_succ]
    | cons x xs => rfl
  · rw [State.sset_value]
    simp only [toNat_eq_zero_iff]

theorem SetsSEv.of_sset {i : Bool → Instr} {d : BitVec 5} {f : State → Dword × List Ev} (g : State → Dword)
    (h : ∀ c s, exec (i c) s = endUnit c (s.sset d.toNat (g s))) (hg : ∀ s, f s = (g s, [])) : SetsSEv i d f := by
  intro s c
  refine ⟨s.sset d.toNat (g s), ?_, ?_, State.sset_only s _ _⟩
  · simp only [hg]
    rw [h, endUnit_eq, State.countUnit_nil]
  · rw [State.sset_value, hg]
    simp only [toNat_eq_zero_iff]

theorem Decides.of {i : Bool → Instr} {f : State → Nat → List Effect} (body : State → Nat → State)
    (h : ∀ c s, exec (i c) s = endUnit c (s.each body))
    (hb : ∀ (s : State) es x, body (s.decided es) x = s.decided (es ++ (f s x).map fun e => (x, e))) :
    Decides i f := by
  intro s c
  exact ⟨s.each body, by rw [h, endUnit_eq], State.each_decides s body (f s) (hb s)⟩

theorem inRegion_iff (s : State) (x : Nat) : (s.here.thread x).inRegion = true ↔ InRegion s x := by
  simp [Thread.inRegion, InRegion]

open Classical in
/-- What a thread in an open region decides at a member that it may not execute (R237). -/
theorem unlessRegion_decided (s : State) (es : List (Nat × Effect)) (x : Nat) (f : State → State) :
    (s.decided es).unlessRegion x f =
      if InRegion s x then s.decided (es ++ [(x, trapOf s 0x40 0)]) else f (s.decided es) := by
  unfold State.unlessRegion
  by_cases h : InRegion s x
  · simp [h, (inRegion_iff s x).2 h, trapOf]
  · rw [if_neg (by rw [State.decided_here, inRegion_iff]; exact h), if_neg h]

theorem arrive_decided (s : State) (es : List (Nat × Effect)) (x : Nat) (w : Wait) :
    (s.decided es).arrive x w = s.decided (es ++ (arrivals s x w).map fun e => (x, e)) := by
  unfold State.arrive State.fenceWait arrivals
  simp only [State.decided_fenceDone, State.decided_cur_core, State.decided_cur_place, State.decided_nextId]
  by_cases h : s.fenceDone s.cur.core s.cur.place x s.nextId <;> simp [h]

end Sys2Proof.Claims
end

