-- ==== Sys2Proof/Tests/Slice0.lean ====
section
/-! SUPPORT. The model's own tests: instruction words written out from the encoding tables of spec/03_encoding.md
(R58 and R61) and what the decoder reads from them, ill-formed instructions that the checks refuse, single steps, and
for each statement of the certificates a state that meets its hypotheses. -/

namespace Sys2Proof.Tests

-- the tests are checked one after another: side by side they ask for more memory than a check gives them
set_option Elab.async false

open Sys2Proof Sys2Proof.Machine Sys2Proof.Claims

theorem test_reset_sound : State.reset.sound = true := by decide

/-- The decoder reads the instructions from the words, and they are well formed. -/
noncomputable def reads (t : List (Nat × Instr)) : Bool :=
  t.all fun x => decide (decodeTableWord 32 x.1 = some x.2) && x.2.wf

/-- The checks refuse the instructions. -/
noncomputable def refuses (t : List Instr) : Bool := t.all fun i => !i.wf

/-- R54, R59, R60, R63 and the limits of the members' own rules: each check of WellFormed turns a term away. -/
theorem test_ill_formed_registers :
  refuses [.addB64 false 1 2 4, .addB64 false 2 3 4, .ld false 2 4 0 6 0 0, .ld false 1 4 0 5 0 0, .rcp false 3 4 1,
    .cvt false 3 2 3 0 2, .join false 12, .waitm false 15, .casB128 false 2 4 8,
    .srd false 1 0 31, .swr false 0 1 31] = true := by decide

/-- R133, R143, R148, R153, R188, R189: condition, size, mode and type codes. -/
theorem test_ill_formed_codes :
  refuses [.icmpS32Vv false 10 1 2 3, .scmp false 15 1 2 3, .fcmpF32 false 8 1 2 3, .cvt false 1 2 14 0 2,
    .cvt false 1 2 2 0 15, .cvt false 1 2 2 5 0, .widf false 1 0 6, .barl false 6, .ld false 4 4 0 7 0 0,
    .st false 4 4 0 1 0 0, .st false 4 4 0 3 0 0, .ld false 4 4 0 4 3 0] = true := by decide

/-- R54: the payloads of prefixes. R168, R199, R272: the codes of CPY, FENCE and OSCLM. -/
theorem test_ill_formed_prefixes_and_commands :
  refuses [.cpol 1 0 0 7, .cpol 0 1 0 0, .round 5, .fence false 0 0, .fence false 1 0, .fence false 1 7, 
    .cpy false 1 2 4 0 3, .osclm false 1 7, .tkrcv false 0 1, .tkrcv false 28 1] = true := by decide

/-- R2, R17, R21, R257, R316, R341: the numbers by which events name what they happen to. -/
theorem test_ill_formed_events :
  refuses [.mmaStart 144, .storeQueueDrain 0 192, .yieldExpiry 0 0 32, .tkeRecord 4, .agingTick 262144,
    .numericWindowRestart 0 8, .faultWindowClose 2, .linkFailure [32], .collComplete 256 [], .carveoutApply 0 5,
    .forcedExchange 0 8, .counterWindowWrite 0 2 0] = true := by decide

theorem test_decode_ctl :
  reads [(0x00000000, .nop false), (0x80040000, .exit true), (0x000AB390, .trap false 0x2b39),
    (0x800C0000, .yield true), (0x00100000, .step false), (0x80140000, .brk true), (0x00180000, .tret false),
    (0x801C0000, .ydone true), (0x0022B390, .snap false 0x2b39)] = true := by decide

theorem test_decode_br :
  reads [(0x0202B39D, .bra false 0x2b39d), (0x8236B39D, .brt true 5 0x2b39d), (0x0256B39D, .brf false 5 0x2b39d),
    (0x8262B39D, .call true 0x2b39d), (0x0296B39D, .brany false 5 0x2b39d),
    (0x82B6B39D, .brall true 5 0x2b39d)] = true := by decide

theorem test_decode_brx :
  reads [(0x04026000, .bri false 0x4c), (0x8531A001, .calli true 0x4c 0x34),
    (0x04026002, .ret false 0x4c)] = true := by decide

theorem test_decode_conv :
  reads [(0x06004800, .join false 9), (0x86044800, .leave true 9), (0x06084800, .waitm false 9),
    (0x860CA890, .mrd true 0x15 9), (0x0610A890, .mwr false 0x15 9), (0x8614A800, .mact true 0x15),
    (0x06180000, .bar false), (0x861C2800, .barl true 5)] = true := by decide

theorem test_decode_ialu_vv :
  reads [(0x0931A580, .addVv false 0x4c 0x34 0x58), (0x8931A581, .subVv true 0x4c 0x34 0x58),
    (0x0931A582, .mulVv false 0x4c 0x34 0x58), (0x8931A583, .mulhiVv true 0x4c 0x34 0x58),
    (0x0931A584, .mulhiNVv false 0x4c 0x34 0x58), (0x8931A585, .minVv true 0x4c 0x34 0x58),
    (0x0931A586, .maxVv false 0x4c 0x34 0x58), (0x8931A587, .minNVv true 0x4c 0x34 0x58),
    (0x0931A588, .maxNVv false 0x4c 0x34 0x58), (0x8931A589, .andVv true 0x4c 0x34 0x58),
    (0x0931A58A, .orVv false 0x4c 0x34 0x58), (0x8931A58B, .xorVv true 0x4c 0x34 0x58),
    (0x0931A58C, .shlVv false 0x4c 0x34 0x58), (0x8931A58D, .shrVv true 0x4c 0x34 0x58),
    (0x0931A58E, .sarVv false 0x4c 0x34 0x58), (0x8931A58F, .rolVv true 0x4c 0x34 0x58)] = true := by decide

theorem test_decode_ialu_vs :
  reads [(0x0B31A150, .addVs false 0x4c 0x34 0x15), (0x8B31A151, .subVs true 0x4c 0x34 0x15),
    (0x0B31A152, .mulVs false 0x4c 0x34 0x15), (0x8B31A153, .mulhiVs true 0x4c 0x34 0x15),
    (0x0B31A154, .mulhiNVs false 0x4c 0x34 0x15), (0x8B31A155, .minVs true 0x4c 0x34 0x15),
    (0x0B31A156, .maxVs false 0x4c 0x34 0x15), (0x8B31A157, .minNVs true 0x4c 0x34 0x15),
    (0x0B31A158, .maxNVs false 0x4c 0x34 0x15), (0x8B31A159, .andVs true 0x4c 0x34 0x15),
    (0x0B31A15A, .orVs false 0x4c 0x34 0x15), (0x8B31A15B, .xorVs true 0x4c 0x34 0x15),
    (0x0B31A15C, .shlVs false 0x4c 0x34 0x15), (0x8B31A15D, .shrVs true 0x4c 0x34 0x15),
    (0x0B31A15E, .sarVs false 0x4c 0x34 0x15), (0x8B31A15F, .rolVs true 0x4c 0x34 0x15)] = true := by decide

theorem test_decode_ialu_vi :
  reads [(0x0D31A058, .addVi false 0x4c 0x34 0x58), (0x8D31A0D8, .subVi true 0x4c 0x34 0x58),
    (0x0D31A158, .mulVi false 0x4c 0x34 0x58), (0x8D31A1D8, .mulhiVi true 0x4c 0x34 0x58),
    (0x0D31A258, .mulhiNVi false 0x4c 0x34 0x58), (0x8D31A2D8, .minVi true 0x4c 0x34 0x58),
    (0x0D31A358, .maxVi false 0x4c 0x34 0x58), (0x8D31A3D8, .minNVi true 0x4c 0x34 0x58),
    (0x0D31A458, .maxNVi false 0x4c 0x34 0x58), (0x8D31A4D8, .andVi true 0x4c 0x34 0x58),
    (0x0D31A558, .orVi false 0x4c 0x34 0x58), (0x8D31A5D8, .xorVi true 0x4c 0x34 0x58),
    (0x0D31A658, .shlVi false 0x4c 0x34 0x58), (0x8D31A6D8, .shrVi true 0x4c 0x34 0x58),
    (0x0D31A758, .sarVi false 0x4c 0x34 0x58), (0x8D31A7D8, .rolVi true 0x4c 0x34 0x58)] = true := by decide

theorem test_decode_imad :
  reads [(0x0F31A580, .madS32 false 0x4c 0x34 0x58), (0x8F31A581, .madN32 true 0x4c 0x34 0x58),
    (0x0F31A582, .madwS false 0x4c 0x34 0x58), (0x8F31A583, .madwN true 0x4c 0x34 0x58),
    (0x0F31A584, .madhS false 0x4c 0x34 0x58), (0x8F31A585, .madhN true 0x4c 0x34 0x58)] = true := by decide

theorem test_decode_iun :
  reads [(0x1131A000, .negI false 0x4c 0x34), (0x9131A001, .absI true 0x4c 0x34),
    (0x1131A002, .notB false 0x4c 0x34), (0x9131A003, .popc true 0x4c 0x34), (0x1131A004, .clz false 0x4c 0x34),
    (0x9131A005, .brev true 0x4c 0x34), (0x1131A586, .bfe false 0x4c 0x34 0x58),
    (0x9131A587, .bfi true 0x4c 0x34 0x58), (0x1131A008, .sext8 false 0x4c 0x34),
    (0x9131A009, .sext16 true 0x4c 0x34), (0x1131A00A, .zext8 false 0x4c 0x34),
    (0x9131A00B, .zext16 true 0x4c 0x34)] = true := by decide

theorem test_decode_i64 :
  reads [(0x1331A580, .addB64 false 0x4c 0x34 0x58), (0x9331A581, .subB64 true 0x4c 0x34 0x58),
    (0x1331A582, .mulloB64 false 0x4c 0x34 0x58), (0x9331A583, .shlB64 true 0x4c 0x34 0x58),
    (0x1331A584, .shrB64 false 0x4c 0x34 0x58), (0x9331A585, .sarB64 true 0x4c 0x34 0x58),
    (0x1331A586, .minB64 false 0x4c 0x34 0x58), (0x9331A587, .maxB64 true 0x4c 0x34 0x58),
    (0x1331A588, .minNB64 false 0x4c 0x34 0x58), (0x9331A589, .maxNB64 true 0x4c 0x34 0x58),
    (0x1331A58A, .andB64 false 0x4c 0x34 0x58), (0x9331A58B, .orB64 true 0x4c 0x34 0x58),
    (0x1331A58C, .xorB64 false 0x4c 0x34 0x58)] = true := by decide

theorem test_decode_icmp :
  reads [(0x15366340, .icmpS32Vv false 9 5 0x4c 0x34), (0x95366151, .icmpS32Vs true 9 5 0x4c 0x15),
    (0x15366342, .icmpB64Vv false 9 5 0x4c 0x34), (0x95366153, .icmpB64Vs true 9 5 0x4c 0x15),
    (0x15366344, .icmpAndS32Vv false 9 5 0x4c 0x34), (0x95366155, .icmpAndS32Vs true 9 5 0x4c 0x15),
    (0x15366346, .icmpAndB64Vv false 9 5 0x4c 0x34),
    (0x95366157, .icmpAndB64Vs true 9 5 0x4c 0x15)] = true := by decide

theorem test_decode_sel_plog :
  reads [(0x1731A58D, .sel false 0x4c 0x34 0x58 1 5), (0x98141860, .pand true 5 3 6), (0x18141861, .por false 5 3 6),
    (0x98141862, .pxor true 5 3 6), (0x18141863, .pandn false 5 3 6), (0x98141804, .pmov true 5 3),
    (0x18141805, .pnot false 5 3)] = true := by decide

theorem test_decode_f32_vv :
  reads [(0x1B31A580, .addF32Vv false 0x4c 0x34 0x58), (0x9B31A581, .subF32Vv true 0x4c 0x34 0x58),
    (0x1B31A582, .mulF32Vv false 0x4c 0x34 0x58), (0x9B31A583, .minF32Vv true 0x4c 0x34 0x58),
    (0x1B31A584, .maxF32Vv false 0x4c 0x34 0x58), (0x9B31A585, .divF32Vv true 0x4c 0x34 0x58),
    (0x1B31A586, .scaleF32Vv false 0x4c 0x34 0x58)] = true := by decide

theorem test_decode_f32_vs :
  reads [(0x1D31A150, .addF32Vs false 0x4c 0x34 0x15), (0x9D31A151, .subF32Vs true 0x4c 0x34 0x15),
    (0x1D31A152, .mulF32Vs false 0x4c 0x34 0x15), (0x9D31A153, .minF32Vs true 0x4c 0x34 0x15),
    (0x1D31A154, .maxF32Vs false 0x4c 0x34 0x15), (0x9D31A155, .divF32Vs true 0x4c 0x34 0x15),
    (0x1D31A156, .scaleF32Vs false 0x4c 0x34 0x15)] = true := by decide

theorem test_decode_ffma :
  reads [(0x1F31A580, .ffmaF32 false 0x4c 0x34 0x58), (0x9F31A151, .ffmaF32S true 0x4c 0x34 0x15),
    (0x1F31A582, .ffmaF64 false 0x4c 0x34 0x58), (0x9F31A153, .ffmaF64S true 0x4c 0x34 0x15),
    (0x1F31A584, .ffmaF16x2 false 0x4c 0x34 0x58), (0x9F31A585, .ffmaBf16x2 true 0x4c 0x34 0x58),
    (0x1F31A586, .fnmaF32 false 0x4c 0x34 0x58), (0x9F31A587, .fnmaF64 true 0x4c 0x34 0x58)] = true := by decide

theorem test_decode_f64 :
  reads [(0x2131A580, .addF64 false 0x4c 0x34 0x58), (0xA131A581, .subF64 true 0x4c 0x34 0x58),
    (0x2131A582, .mulF64 false 0x4c 0x34 0x58), (0xA131A583, .minF64 true 0x4c 0x34 0x58),
    (0x2131A584, .maxF64 false 0x4c 0x34 0x58), (0xA131A585, .divF64 true 0x4c 0x34 0x58),
    (0x2131A586, .scaleF64 false 0x4c 0x34 0x58)] = true := by decide

theorem test_decode_fh :
  reads [(0x2331A580, .addF16x2 false 0x4c 0x34 0x58), (0xA331A581, .mulF16x2 true 0x4c 0x34 0x58),
    (0x2331A582, .minF16x2 false 0x4c 0x34 0x58), (0xA331A583, .maxF16x2 true 0x4c 0x34 0x58),
    (0x2331A584, .addBf16x2 false 0x4c 0x34 0x58), (0xA331A585, .mulBf16x2 true 0x4c 0x34 0x58),
    (0x2331A586, .minBf16x2 false 0x4c 0x34 0x58), (0xA331A587, .maxBf16x2 true 0x4c 0x34 0x58)] = true := by decide

theorem test_decode_fun :
  reads [(0x2531A010, .rcp false 0x4c 0x34 1), (0xA531A011, .rsq true 0x4c 0x34 1),
    (0x2531A012, .sqrt false 0x4c 0x34 1), (0xA531A003, .exp2 true 0x4c 0x34), (0x2531A004, .log2 false 0x4c 0x34),
    (0xA531A005, .sinpi true 0x4c 0x34), (0x2531A006, .cospi false 0x4c 0x34),
    (0xA531A017, .absFloat true 0x4c 0x34 1), (0x2531A018, .negFloat false 0x4c 0x34 1),
    (0xA531A019, .rnd true 0x4c 0x34 1), (0x2531A01A, .classF false 0x4c 0x34 1),
    (0xA531A01B, .fract true 0x4c 0x34 1)] = true := by decide

theorem test_decode_fcmp :
  reads [(0x26D66340, .fcmpF32 false 6 5 0x4c 0x34), (0xA6D66341, .fcmpF64 true 6 5 0x4c 0x34),
    (0x26D66152, .fcmpF32S false 6 5 0x4c 0x15)] = true := by decide

theorem test_decode_cvt_movi :
  reads [(0x2931A4B6, .cvt false 0x4c 0x34 9 3 6), (0xAB32B39D, .movi true 0x4c 0x2b39d)] = true := by decide

theorem test_decode_movx :
  reads [(0x2D300340, .mov false 0x4c 0x34), (0xAD300951, .movb true 0x4c 1 0x15),
    (0x2D300342, .mov64 false 0x4c 0x34), (0xAC566013, .vrfl true 0x15 0x4c 1),
    (0x2C5662A4, .vrln false 0x15 0x4c 1 0xa), (0xAD30AAA5, .vwln true 0x4c 0x15 1 0xa),
    (0x2D3000D6, .widf false 0x4c 1 5), (0xAD3008C7, .srd true 0x4c 1 0xc), (0x2C066118, .swr false 1 0x4c 0x11),
    (0xAD300009, .ptov true 0x4c), (0x2C02600A, .vtop false 0x4c), (0xAC14015B, .qwr true 5 0x15),
    (0x2C54280C, .qrd false 0x15 5)] = true := by decide

theorem test_decode_shfl :
  reads [(0x2F31A580, .shflIdx false 0x4c 0x34 0x58), (0xAF31A151, .shflUp true 0x4c 0x34 0x15),
    (0x2F31A152, .shflDown false 0x4c 0x34 0x15), (0xAF31A153, .shflXor true 0x4c 0x34 0x15)] = true := by decide

theorem test_decode_vote :
  reads [(0x30141800, .voteAny false 5 3), (0xB0141801, .voteAll true 5 3), (0x30542802, .voteBallot false 0x15 5),
    (0xB0566003, .voteRedaddS32 true 0x15 0x4c), (0x30566004, .voteRedminS32 false 0x15 0x4c),
    (0xB0566005, .voteRedmaxS32 true 0x15 0x4c), (0x30566006, .voteRedaddF32 false 0x15 0x4c),
    (0xB131A007, .voteScanS32 true 0x4c 0x34)] = true := by decide

theorem test_decode_salu_ss :
  reads [(0x325451B0, .addSs false 0x15 0xa 0x1b), (0xB25451B1, .subSs true 0x15 0xa 0x1b),
    (0x325451B2, .mulSs false 0x15 0xa 0x1b), (0xB25451B3, .mulhiSs true 0x15 0xa 0x1b),
    (0x325451B4, .mulhiNSs false 0x15 0xa 0x1b), (0xB25451B5, .minSs true 0x15 0xa 0x1b),
    (0x325451B6, .maxSs false 0x15 0xa 0x1b), (0xB25451B7, .minNSs true 0x15 0xa 0x1b),
    (0x325451B8, .maxNSs false 0x15 0xa 0x1b), (0xB25451B9, .andSs true 0x15 0xa 0x1b),
    (0x325451BA, .orSs false 0x15 0xa 0x1b), (0xB25451BB, .xorSs true 0x15 0xa 0x1b),
    (0x325451BC, .shlSs false 0x15 0xa 0x1b), (0xB25451BD, .shrSs true 0x15 0xa 0x1b),
    (0x325451BE, .sarSs false 0x15 0xa 0x1b), (0xB25451BF, .rolSs true 0x15 0xa 0x1b)] = true := by decide

theorem test_decode_salu_si :
  reads [(0x3454504C, .addSi false 0x15 0xa 0x4c), (0xB45450CC, .subSi true 0x15 0xa 0x4c),
    (0x3454514C, .mulSi false 0x15 0xa 0x4c), (0xB45451CC, .mulhiSi true 0x15 0xa 0x4c),
    (0x3454524C, .mulhiNSi false 0x15 0xa 0x4c), (0xB45452CC, .minSi true 0x15 0xa 0x4c),
    (0x3454534C, .maxSi false 0x15 0xa 0x4c), (0xB45453CC, .minNSi true 0x15 0xa 0x4c),
    (0x3454544C, .maxNSi false 0x15 0xa 0x4c), (0xB45454CC, .andSi true 0x15 0xa 0x4c),
    (0x3454554C, .orSi false 0x15 0xa 0x4c), (0xB45455CC, .xorSi true 0x15 0xa 0x4c),
    (0x3454564C, .shlSi false 0x15 0xa 0x4c), (0xB45456CC, .shrSi true 0x15 0xa 0x4c),
    (0x3454574C, .sarSi false 0x15 0xa 0x4c), (0xB45457CC, .rolSi true 0x15 0xa 0x4c)] = true := by decide

theorem test_decode_smovi_scmp_smad :
  reads [(0x3656B39D, .smovi false 0x15 0x2b39d), (0xB934A8A0, .scmp true 9 5 0x15 0xa),
    (0x3A5451B0, .smadMad false 0x15 0xa 0x1b), (0xBA5451B1, .smadMadhS true 0x15 0xa 0x1b),
    (0x3A5451B2, .smadMadhN false 0x15 0xa 0x1b)] = true := by decide

theorem test_decode_memory :
  reads [(0x3D31A4C6, .ld false 0x4c 0x34 9 4 1 2), (0xBF31A4C6, .st true 0x4c 0x34 9 4 1 2),
    (0x4131A4C4, .lds false 0x4c 0x34 9 4 1), (0xC331A4C4, .sts true 0x4c 0x34 9 4 1),
    (0x4531A4C5, .ldfe false 0x4c 0x34 9 4 1 1), (0xC65454CA, .sld true 0x15 0xa 9 4 2 2),
    (0x485454CA, .sst false 0x15 0xa 9 4 2 2)] = true := by decide

theorem test_decode_atom :
  reads [(0x4B31A580, .atomAdd false 0x4c 0x34 0x58), (0xCB31A581, .atomMin true 0x4c 0x34 0x58),
    (0x4B31A582, .atomMax false 0x4c 0x34 0x58), (0xCB31A583, .atomMinN true 0x4c 0x34 0x58),
    (0x4B31A584, .atomMaxN false 0x4c 0x34 0x58), (0xCB31A585, .atomAnd true 0x4c 0x34 0x58),
    (0x4B31A586, .atomOr false 0x4c 0x34 0x58), (0xCB31A587, .atomXor true 0x4c 0x34 0x58),
    (0x4B31A588, .atomExch false 0x4c 0x34 0x58), (0xCB31A589, .atomIncw true 0x4c 0x34 0x58),
    (0x4B31A58A, .atomDecw false 0x4c 0x34 0x58), (0xCB31A58B, .atomFaddF32 true 0x4c 0x34 0x58),
    (0x4B31A58C, .atomFminF32 false 0x4c 0x34 0x58), (0xCB31A58D, .atomFmaxF32 true 0x4c 0x34 0x58),
    (0x4B31A58E, .atomFaddBf16x2 false 0x4c 0x34 0x58)] = true := by decide

theorem test_decode_atom64 :
  reads [(0x4D31A580, .atom64Add false 0x4c 0x34 0x58), (0xCD31A581, .atom64Min true 0x4c 0x34 0x58),
    (0x4D31A582, .atom64Max false 0x4c 0x34 0x58), (0xCD31A583, .atom64MinN true 0x4c 0x34 0x58),
    (0x4D31A584, .atom64MaxN false 0x4c 0x34 0x58), (0xCD31A585, .atom64And true 0x4c 0x34 0x58),
    (0x4D31A586, .atom64Or false 0x4c 0x34 0x58), (0xCD31A587, .atom64Xor true 0x4c 0x34 0x58),
    (0x4D31A588, .atom64Exch false 0x4c 0x34 0x58), (0xCD31A589, .atom64Incw true 0x4c 0x34 0x58),
    (0x4D31A58A, .atom64Decw false 0x4c 0x34 0x58), (0xCD31A58B, .atom64FaddF64 true 0x4c 0x34 0x58),
    (0x4D31A58C, .atom64FminF64 false 0x4c 0x34 0x58),
    (0xCD31A58D, .atom64FmaxF64 true 0x4c 0x34 0x58)] = true := by decide

theorem test_decode_red :
  reads [(0x4E066340, .redAdd false 1 0x4c 0x34), (0xCE066341, .redMin true 1 0x4c 0x34),
    (0x4E066342, .redMax false 1 0x4c 0x34), (0xCE066343, .redMinN true 1 0x4c 0x34),
    (0x4E066344, .redMaxN false 1 0x4c 0x34), (0xCE066345, .redAnd true 1 0x4c 0x34),
    (0x4E066346, .redOr false 1 0x4c 0x34), (0xCE066347, .redXor true 1 0x4c 0x34),
    (0x4E066348, .redExch false 1 0x4c 0x34), (0xCE066349, .redIncw true 1 0x4c 0x34),
    (0x4E06634A, .redDecw false 1 0x4c 0x34), (0xCE06634B, .redFadd true 1 0x4c 0x34),
    (0x4E06634C, .redFmin false 1 0x4c 0x34), (0xCE06634D, .redFmax true 1 0x4c 0x34),
    (0x4E02634E, .redFaddBf16x2 false 0x4c 0x34)] = true := by decide

theorem test_decode_cas_patom :
  reads [(0x5131A580, .casB32 false 0x4c 0x34 0x58), (0xD131A581, .casB64 true 0x4c 0x34 0x58),
    (0x5131A582, .casB128 false 0x4c 0x34 0x58), (0xD332D349, .patom true 0x4c 0x2d 0x34 9)] = true := by decide

theorem test_decode_sync :
  reads [(0x540000D0, .fence false 1 5), (0xD406634D, .poll true 0x4c 0x34 1 1 1),
    (0x540AB391, .farb false 0x2b39 1), (0xD40C0050, .fare true 5), (0x54100000, .farx false),
    (0xD4166000, .fars true 0x4c), (0x54180000, .dflush false), (0xD41E6150, .pgreq true 0x4c 0x15),
    (0x54226005, .pref false 0x4c 1 1), (0xD424A8A0, .cinv true 0x15 0xa), (0x5428A8A0, .cwb false 0x15 0xa),
    (0xD42E6340, .tagset true 0x4c 0x34), (0x54326340, .tagget false 0x4c 0x34), (0xD4340000, .mfop true),
    (0x543A6340, .feset false 0x4c 0x34), (0xD43E6340, .feclr true 0x4c 0x34),
    (0x5440A800, .seqr false 0x15)] = true := by decide

theorem test_decode_copy_engine :
  reads [(0x56566344, .cpy false 0x15 0x4c 0x34 1 4), (0xD800A8A0, .tile true 0x15 0xa),
    (0x5804A8A0, .unpk false 0x15 0xa), (0xD808A8A0, .pack true 0x15 0xa), (0x580CA8A0, .gath false 0x15 0xa),
    (0xD810A8A0, .scat true 0x15 0xa), (0x5814A8A0, .kvcp false 0x15 0xa), (0xD8184850, .cpw true 9 5),
    (0x581CA890, .cps false 0x15 9)] = true := by decide

theorem test_decode_mx :
  reads [(0x5A016805, .osclm false 0x2d 5), (0xDA056800, .osrel true 0x2d), (0x5A0A6150, .osst false 0x4c 0x15),
    (0xDA0E6150, .osld true 0x4c 0x15), (0x5A10A800, .acz false 0x15), (0xDA166150, .acld true 0x4c 0x15),
    (0x5A1A6150, .acst false 0x4c 0x15), (0xDA1CA800, .mma true 0x15), (0x5A204850, .mwait false 9 5),
    (0xDA24A890, .mstat true 0x15 9)] = true := by decide

theorem test_decode_tt :
  reads [(0x5C00A8A0, .seqnew false 0x15 0xa), (0xDC04A8A0, .seqfree true 0x15 0xa),
    (0x5C08A8A0, .tfork false 0x15 0xa), (0xDC0CA8A0, .tapp true 0x15 0xa), (0x5C10A8A0, .kvwr false 0x15 0xa),
    (0xDC14A8A0, .tprune true 0x15 0xa), (0x5C18A8A0, .tcommit false 0x15 0xa), (0xDC1CA8A0, .tqry true 0x15 0xa),
    (0x5C20A8A0, .twalk false 0x15 0xa), (0xDC24A8A0, .kvgath true 0x15 0xa), (0x5C28A8A0, .tmask false 0x15 0xa),
    (0xDC2CA8A0, .pfxq true 0x15 0xa), (0x5C30A8A0, .pfxpub false 0x15 0xa), (0xDC34A8A0, .pfxatt true 0x15 0xa),
    (0x5C38A8A0, .kvresc false 0x15 0xa)] = true := by decide

theorem test_decode_rope_smpl :
  reads [(0x5F31A580, .rope false 0x4c 0x34 0x58), (0xE000A8A0, .sample true 0x15 0xa),
    (0x6004A8A0, .rng false 0x15 0xa), (0xE008A8A0, .rngf true 0x15 0xa),
    (0x600CA8A0, .argmax false 0x15 0xa)] = true := by decide

theorem test_decode_net :
  reads [(0x6200A8A0, .coll false 0x15 0xa), (0xE2042830, .collw true 5 3), (0x6208A8A0, .rsig false 0x15 0xa),
    (0xE20CA8A0, .taskdec true 0x15 0xa), (0x6210A8A0, .tasknew false 0x15 0xa), (0xE214A8A0, .taskq true 0x15 0xa),
    (0x6218A8A0, .tkrcv false 0x15 0xa), (0xE21CA8A0, .tkpost true 0x15 0xa)] = true := by decide

theorem test_decode_sys :
  reads [(0x6400A8A0, .ctxsv false 0x15 0xa), (0xE404A8A0, .ctxld true 0x15 0xa), (0x6408A8A0, .tlbi false 0x15 0xa),
    (0xE40CA8A0, .fltcan true 0x15 0xa), (0x6410A8A0, .fltrpl false 0x15 0xa), (0xE414A850, .haltqNow true 0x15 5),
    (0x6414A851, .haltqQuiesce false 0x15 5), (0xE414A852, .haltqRelease true 0x15 5),
    (0x6418A800, .snaparm false 0x15)] = true := by decide

theorem test_decode_prefixes :
  reads [(0x7E15A3C9, .ximm 0x15a3c9), (0x7E20000D, .guard 1 5), (0x7E4000B5, .cpol 1 1 2 5), (0x7E600005, .probe 5),
    (0x7E800003, .round 3), (0x7EA00000, .sat)] = true := by decide

/-! ## Small states -/

/-- A thread with some registers. -/
def lane (v : Tab Word) : Thread := { present := true, v, pos := { pc := fetchBase, word := 0 } }

/-- A launch with every register, slot and tile, and both handlers. -/
def job : Launch := { hdr := fetchHeader, asid := 1, priv := true, go := true, nextWg := 1, started := some 0 }

/-- A group at place 0 of core 0, and a chain of some of its lanes at the first word of a packet. -/
def unit (k : Core) (g : Group) (lanes : List Nat) : State :=
  { State.reset with
    cur := { active := true, lanes, pc := fetchBase, words := [0, 0, 0], rd := g }
    cores := [(0, { k with groups := [(0, g)] })]
    tasks := [(0, { phase := 3 })]
    launches := [(0, job)]
    wgs := [(0, { groups := 1, places := [0] })] }

/-- Two lanes with some registers. -/
def pair2 : Group :=
  { present := true, active := true, lanes := [(0, lane [(1, 5), (2, 7)]), (1, lane [(1, 9), (2, 3)])]
    s := [(1, 0x40), (2, 0x100)] }

/-- A chain of both of them. -/
def two : State := unit {} pair2 [0, 1]

/-- A chain of the first alone. -/
def one : State := unit {} pair2 [0]

/-- The state with the thread that `withFetchWord` places. -/
def placed (w : Nat) : State := State.reset.withFetchWord 32 w

/-- The outcome is a next state. -/
def isNext (o : Out) : Bool := match o with
  | .next _ => true
  | _ => false

theorem answers_of (o : Out) (h : isNext o = true) : ∃ t, o = .next t := by
  cases o <;> simp_all [isNext]

/-- The checks have passed. -/
def isOk (f : Found) : Bool := match f with
  | .ok _ => true
  | _ => false

theorem found_of (r : State × Found) (h : isOk r.2 = true) : ∃ u loc, r = (u, .ok loc) := by
  obtain ⟨u, f⟩ := r
  cases f <;> simp_all [isOk]

theorem passes_of (s : State) (ea : Dword) (n : Nat) (q : Ask)
    (h : isOk (s.checkAcc s.cur.core s.curLaunch.asid ea n false q).2 = true) : ∃ u, Passes s u ea n q := by
  obtain ⟨u, loc, h⟩ := found_of _ h
  exact ⟨u, loc, h⟩

/-! ## Single steps -/

/-- The state after a step that runs a word from reset. -/
noncomputable def after (w : Nat) : State :=
  match step (placed w) with
  | .next t => t
  | _ => State.reset

/-- R136: MOVI v1, -3. -/
theorem test_movi : ((after 0x2A07FFFD).group 0 0).rv 0 1 = 0xFFFFFFFD := by decide

/-- R145: SMOVI s1, -1 is extended to 64 bits; R115: s0 stays 0. -/
theorem test_smovi : ((after 0x3607FFFF).group 0 0).rs 1 = 0xFFFFFFFFFFFFFFFF ∧ ((after 0x3603FFFF).group 0 0).rs 0 = 0 := by
  decide

/-- R129: the immediate -3 of `add v5, v6, -3`. -/
theorem test_add_immediate : ((after 0x0C14307D).group 0 0).rv 0 5 = 0xFFFFFFFD := by decide

/-- R118 to R120: TRAP 0x123 enters the handler with its operand, and the thread goes on at the trap entry. -/
theorem test_trap_entry : (let t := (after 0x00081230).thread 0 0 0
    t.trapCause = 0x70 ∧ t.trapAddr = 0x123 ∧ t.trapPc = 0x10000 ∧ t.handler = .trap ∧ t.pos.word = 0 ∧
    t.trapRes = 0x4000000000010000) := by decide

/-- R61, R63: major 0x33 is reserved; the trap names the word and its address. -/
theorem test_reserved_opcode : (let t := (after 0x66000000).thread 0 0 0
    t.trapCause = 0x04 ∧ t.trapWord = 0x66000000 ∧ t.trapAddr = 0x10000) := by decide

/-- R47, R48, R125: BRA +2 goes to packet 2, at offset 24. -/
theorem test_bra : ((after 0x02000002).thread 0 0 0).pos = { pc := 0x10018, word := 0 } := by decide

/-- R11, R122: with its only thread, EXIT ends the workgroup. -/
theorem test_exit : ((after 0x00040000).wg 0).st = .ended := by decide

/-! ## The hypotheses of the statements can be met -/

theorem witness_executing : two.E = [0, 1] ∧ two.cur.active = true ∧ two.cur.lanes.Nodup ∧
    two.cur.lanes.Pairwise (· < ·) ∧ (∀ x ∈ two.E, x < 32 ∧ 0 ≤ x) ∧ two.E ≠ [] ∧
    (unit {} pair2 []).E = [] ∧ (two.here.thread 1).present = true := by decide

theorem witness_SpecialReads : two.cur.core < 144 ∧ two.part = .mz9A ∧ ({ two with part := .mz9S } : State).part = .mz9S ∧
    0 < fetchHeader.total := by decide

theorem witness_SpecialWrites : two.curLaunch.priv = true ∧
    ({ two with launches := [(0, { job with priv := false })] } : State).curLaunch.priv = false ∧
    16 ≤ (16 : BitVec 7).toNat ∧ (21 : BitVec 7).toNat ≤ 21 ∧ (15 : BitVec 7).toNat < 16 ∧
    28 ≤ (28 : BitVec 7).toNat ∧ (30 : BitVec 7).toNat ≤ 30 := by decide

/-- A core whose thresholds are all 0. -/
def eager : State := unit { numThr := 0 } pair2 [0]

theorem witness_EventCounting : (∀ e ∈ ([] ++ [(0, [(0x80 : Ev)])] : List (Nat × List Ev)), ∀ j < 8, j ≠ 7 → evCount e.2 j = 0) ∧
    0 < evCount [(0x80 : Ev)] 7 ∧ (eager.core 0).thr 7 < min 255 ((eager.core 0).cnt 7 + evCount [(0x80 : Ev)] 7) ∧
    (eager.core 0).fired.getLsbD 7 = false ∧ (eager.core 0).act 7 = false := by decide

theorem witness_RoundTrip : (Instr.addVv false 1 2 3).wf = true ∧ encode (.addVv false 1 2 3) = some 0x08041030 ∧
    decode 0x08041030 = .ok (.addVv false 1 2 3) := by decide

theorem witness_UnitOperands : two.cur.pfx.ximm = none ∧
    ({ two with cur := { two.cur with pfx := { ximm := some 0x1FFFFF } } } : State).cur.pfx.ximm = some 0x1FFFFF ∧
    (31 : BitVec 7).toNat < 32 := by decide

/-- A chain whose first word is add v5, v6, -3. -/
def inHand : State := { two with cur := { two.cur with words := [0x0C14307D, 0, 0] } }

theorem witness_StepRunsDecoded_chain : inHand.boot ≠ .off ∧ inHand.cur.active = true ∧
    decode (inHand.cur.words.getD inHand.cur.next 0) = .ok (.addVi false 5 6 0x7D) ∧ inHand.here.poison = [] := by decide

theorem witness_StepRunsDecoded_marks : (∀ x, (inHand.cur.rd.thread x).marks = []) ∧ ∀ x, (inHand.here.thread x).poison = [] :=
  ⟨fun x => by rcases x with _ | _ | x <;> rfl, fun x => by rcases x with _ | _ | x <;> rfl⟩

/-- A chain that was selected with another and has still to run. -/
def alsoDue : State := { inHand with cur := {}, due := [inHand.cur] }

theorem witness_StepRunsDecoded_due : alsoDue.boot ≠ .off ∧ alsoDue.cur.active = false ∧ alsoDue.due = [inHand.cur] ∧
    (alsoDue.group 0 0).present = true ∧ (alsoDue.group 0 0).wg = inHand.cur.rd.wg ∧
    (inHand.cur.lanes.filter fun l => (alsoDue.thread 0 0 l).live) = [0, 1] ∧
    decode (inHand.cur.words.getD inHand.cur.next 0) = .ok (.addVi false 5 6 0x7D) ∧
    (({ alsoDue with cores := [] } : State).group 0 0).present = false := by decide

/-- The state in which a thread issues, as StepRunsDecoded and DecodeTraps name it. -/
noncomputable def selects (s : State) : State := ({ ({ s with sched := [] } : State).nextClock with late := [] } : State).beginParts

/-- A state that is to issue from core 0's first place. -/
theorem witness_StepRunsDecoded_turn : (let s := placed 0x0C14307D
    s.boot ≠ .off ∧ s.cur.active = false ∧ s.due = [] ∧ s.sched = [.clock []] ∧
    ((selects s).group 0 0).active = true ∧ ((selects s).group 0 0).live = [0] ∧
    (selects s).plan 0 0 0 = .chain [0] [0x0C14307D, 0, 0] ∧ ((selects s).thread 0 0 0).pos.word = 0 ∧
    (selects s).selectAll.2.length = 1) := by decide +kernel

theorem witness_StepRunsDecoded_alone : (let s := selects (placed 0x0C14307D)
    (s.cores.all fun k => decide (k.1 = 0) && k.2.groups.all fun g => decide (g.1 = 0)) = true ∧ (s.group 0 0).present = true ∧
    (∀ n < 4, s.pipeFree 0 0 n = true)) := by decide +kernel

theorem witness_DecodeTraps : StandsAlone (selects (placed 0x66000000)) 0 0 0 [0x66000000, 0, 0] :=
  ⟨by decide, by decide, by decide, by decide, by decide, by decide, by decide⟩

/-- A word for each clause of DecodeTraps, the privileged ones in a launch without privilege and PATOM on a part
without home atomic cores. -/
theorem witness_DecodeTraps_words :
    decode 0x66000000 = .error .reservedOpcode ∧ decode 0x00000001 = .error (.illegalEncoding (.nop false)) ∧
    decode 0x12041020 = .ok (.addB64 false 1 2 2) ∧ (Instr.addB64 false 1 2 2).legal 128 false = false ∧
    decode 0x64001020 = .ok (.ctxsv false 2 2) ∧ (Instr.ctxsv false 2 2).legal 128 false = true ∧ major 0x64001020 = 0x32 ∧
    (∃ i, decode 0x64140003 = .error (.haltqMode i)) ∧ decode 0x52081040 = .ok (.patom false 2 1 4 0) := by
  refine ⟨by decide, by decide, by decide, by decide, by decide, by decide, by decide, ⟨_, rfl⟩, by decide⟩

theorem witness_DecodeTraps_launch :
    ({ (placed 0) with launches := [(0, { job with priv := false })] } : State).launchOf 0 0 = { job with priv := false } ∧
    ({ (placed 0) with part := .mz9S } : State).absent (.patom false 2 1 4 0) = true ∧
    isPrefix 0x66000000 = false ∧ chainBit 0x64140003 = false := by decide

/-- Words for the clauses of DecodeTraps about prefixes and chains: SAT before NOP, a reserved kind, a chain bit in a
prefix, GUARD twice before NOP, a member of LS twice, and two members that write v1. -/
theorem witness_DecodeTraps_prefixes :
    isPrefix 0x7EA00000 = true ∧ isPrefix 0 = false ∧ accepts 0 (prefixKind 0x7EA00000) = false ∧
    isPrefix 0x7EC00000 = true ∧ 6 ≤ prefixKind 0x7EC00000 ∧ isPrefix 0xFE200003 = true ∧ chainBit 0xFE200003 = true ∧
    isPrefix 0x7E200003 = true ∧ accepts 0 (prefixKind 0x7E200003) = true ∧ chainBit 0x7E200003 = false ∧
    prefixKind 0x7E200003 < 6 ∧ reservedPayload 0x7E200003 = false ∧ decode 0x7E200003 = .ok (.guard 0 3) ∧
    (Instr.guard 0 3).legal 128 false = true ∧ isPrefix 0x80000000 = false ∧ chainBit 0x80000000 = true := by decide

theorem witness_DecodeTraps_chains :
    decode 0xBC203944 = .ok (.ld true 8 7 2 4 1 0) ∧ decode 0x3C203944 = .ok (.ld false 8 7 2 4 1 0) ∧
    distinctPipes [pipesOf 0xBC203944, pipesOf 0x3C203944] = false ∧
    decode 0x88041030 = .ok (.addVv true 1 2 3) ∧ decode 0x0C14307D = .ok (.addVi false 5 6 0x7D) ∧
    .v 1 ∈ (Instr.addVv true 1 2 3).writes false ∧ .v 1 ∈ (Instr.addVv false 1 2 3).writes false := by decide

theorem witness_DecodeTraps_portion : (selects (placed 0xFFFFFFFF)).plan 0 0 0 =
    .fault [0] [0xFFFFFFFF, 0, 0] { rank := 0, at_ := 0, first := 0 } := by decide +kernel

/-- The chain comes last of a merged issue group, and its threads have ended. -/
theorem witness_StepRunsDecoded_gone : (let s : State := { alsoDue with cores := [], merged := [inHand.cur] }
    s.boot ≠ .off ∧ s.cur.active = false ∧ s.due = [inHand.cur] ∧ inHand.cur.more = false ∧ s.merged ≠ []) := by decide

theorem witness_EventCounting_merged : ({ two with merged := [two.cur] } : State).merged ≠ [] ∧
    ({ two with cur := { two.cur with more := true } } : State).cur.more = true ∧ two.merged = [] ∧
    two.cur.more = false := by decide

theorem witness_ResetValues : (State.reset.flash.signed = true ∧ State.reset.fusedCounter ≤ State.reset.flash.version) ∧
    ¬ (({ State.reset with fusedCounter := 1 } : State).flash.signed = true ∧
      ({ State.reset with fusedCounter := 1 } : State).fusedCounter ≤ ({ State.reset with fusedCounter := 1 } : State).flash.version) := by
  decide

/-- The module without power. -/
def off : State := { State.reset with boot := .off }

theorem witness_MeaningsAnswer : off.boot = .off ∧ (∀ ts, off.sched ≠ .event .reset :: ts) ∧ step off = .fault .poweredOff :=
  ⟨rfl, fun _ => (List.cons_ne_nil _ _).symm, rfl⟩

theorem witness_MemoryReadsBack : Memory.wf (State.reset.poke 0 [1, 0, 2]).mem = true ∧
    (State.reset.poke 0 [1, 0, 2]).mem = [(0, 1), (2, 2)] := by decide

theorem witness_StepKeepsMemoryCanonical : (placed 0x0C14307D).sound = true ∧ ∃ t, step (placed 0x0C14307D) = .next t :=
  ⟨by decide, answers_of _ (by decide)⟩

/-- A core with debug enabled, and one whose trigger is armed for SNAP. -/
def watched : State := unit { dbgCtl := 1, snapCtl := 3 } pair2 [0, 1]

theorem witness_DebugMembers : watched.E ≠ [] ∧ (watched.core watched.cur.core).dbgCtl.getLsbD 0 = true ∧
    (two.core two.cur.core).dbgCtl.getLsbD 0 = false ∧
    (∃ k ∈ watched.cores, (k.2.snapCtl.getLsbD 0 && k.2.snapCtl.getLsbD 1) = true) ∧
    (∀ k ∈ two.cores, (k.2.snapCtl.getLsbD 0 && k.2.snapCtl.getLsbD 1) = false) := by decide

theorem witness_LaneMasks : (pair2.arrived.get 0 3 = 0) ∧
    (let g : Group := { pair2 with m := [(3, 2)], arrived := [(3, 2)] }
     g.arrived.get 0 3 ≠ 0 ∧ g.rm 3 &&& ~~~ g.arrived.get 0 3 = 0) ∧
    (let g : Group := { pair2 with m := [(3, 3)], arrived := [(3, 2)] }
     g.rm 3 &&& ~~~ g.arrived.get 0 3 ≠ 0) := by decide

theorem witness_ChainEnds : two.cur.active = true ∧ two.cur.effects = [] ∧ (two.thread 0 0 0).live = true ∧
    (two.thread 0 0 0).waits = [] := by decide

/-- A launch without a trap entry, and a thread in its handler. -/
def handlers : Group := { pair2 with lanes := [(0, { lane [] with handler := .trap }), (1, lane [])] }

theorem witness_TrapEntry : (two.thread 0 0 0).handler = .none ∧ (two.launch (two.taskOf 0 0)).hdr.trap ≠ 0 ∧
    (two.thread 0 0 0).far.state ≠ 1 ∧ (two.thread 0 0 0).far.state ≠ 2 ∧
    ({ job with hdr := { bytes := fetchHeader.bytes.set 21 0 } } : Launch).hdr.trap = 0 ∧
    ((unit {} handlers [0]).thread 0 0 0).handler ≠ .none ∧
    (let p : Pending := { cause := 0x13, word := 0, addr := 0, unit := 0 }
     ((unit {} { pair2 with lanes := [(0, { lane [] with pending := [p] })] } [0]).thread 0 0 0).pending = [p] ∧
       p.cause ≠ 0x20) := by decide

theorem witness_formats : Fmt.f16.val 0x7E00 = .nan ∧ Fmt.f32.val 0x3F800000 ≠ .nan ∧ Fmt.f16 ∈ formats ∧
    Fmt.f32.val 0x80000000 = .fin true 0 (-149) ∧ type64 11 = true ∧ type64 5 = false := by decide

/-- R76: 1 lies in the binade of 2^0 of f16, and is 1024 quanta there. -/
theorem witness_Rounds : (1 : Nat) ≠ 0 ∧ (2 : ℝ) ^ (0 : ℤ) ≤ |real (.fin false 1 0)| ∧
    |real (.fin false 1 0)| < (2 : ℝ) ^ ((0 : ℤ) + 1) ∧
    takes 1 false (|real (.fin false 1 0)| / (2 : ℝ) ^ (-10 : ℤ)) 1024 := by
  have h : |real (.fin false 1 0)| = 1 := by simp [real]
  rw [h]
  refine ⟨by norm_num, by norm_num, by norm_num, ?_⟩
  norm_num [takes]

theorem witness_ArithmeticIsCorrectlyRounded : real (.fin false 1 0) + real (.fin false 1 0) ≠ 0 ∧
    real (.fin false 1 0) + real (.fin true 1 0) = 0 := by
  constructor <;> norm_num [real]

/-- R189: 5/2 is 2 to nearest even, and 3 away from 0. -/
theorem witness_FloatSpecials_integers : takes 0 false (|real (.fin false 5 (-1))|) 2 ∧
    takes 4 false (|real (.fin false 5 (-1))|) 3 := by
  have h : |real (.fin false 5 (-1))| = 5 / 2 := by norm_num [real]
  rw [h]
  constructor <;> simp only [takes]
  · right; norm_num [abs]
  · right; norm_num [abs]

/-! ### Accesses and commands -/

/-- A group with an address of the page 0x10000 in v4:v5, an offset of the scratchpad in v6, and a ring in q1. -/
def reaching : Group :=
  { pair2 with
    lanes := [(0, lane [(2, 0x20), (4, 0x10000), (6, 0x40), (7, 2), (8, 1), (9, 0x10)])]
    s := [(1, 0x10000), (2, 0x100)]
    q := [(1, 0x0000010000000040)] }

/-- The leaf of a page of normal class, readable, writable and executable, whose frame is 0x10000. -/
def leafOf (more : Dword) : Leaf := { bits := 0x11807 ||| more, addr := 0x2000 }

/-- A chain of one lane on a core with a scratchpad of 256 KiB, and a page at 0x10000 in address space 1. -/
def mappedWith (more : Dword) : State :=
  { unit { carve := 1, full := [4] } reaching [0] with xc := [(2 ^ 41 + 1, leafOf more)] }

def mapped : State := mappedWith 0

theorem one_thread (s : State) (x : Nat) (h : s.E = [x] ∧ s.flushed x = false ∧ (s.here.thread x).far.state ≠ 1 ∧
    (s.here.thread x).far.state ≠ 2) : OneThread s x :=
  ⟨h.1, h.2.1, fun r => r.elim h.2.2.1 h.2.2.2⟩

theorem witness_one_thread : OneThread mapped 0 := one_thread _ _ (by decide)

theorem witness_LoadsIssue : (∃ u, Passes mapped u 0x10000 4 {}) ∧ (∃ u, Passes mapped u 0x1FFFC 4 { policy := 3 }) ∧
    (∃ u, Passes mapped u 0x10000 1 { tag := false }) :=
  ⟨passes_of _ _ _ _ (by decide), passes_of _ _ _ _ (by decide), passes_of _ _ _ _ (by decide)⟩

/-- The address of each mode, the checks that fail first, and an access of the scratchpad's last word. -/
theorem witness_LoadsIssue_addresses : mapped.v64 0 4 + mapped.disp = 0x10000 ∧ (mapped.v 0 4).setWidth 64 = (0x10000 : Dword) ∧
    mapped.sr 1 = 0x10000 ∧ early mapped 0x10002 4 false = some 0x10 ∧
    early mapped 0x0200000000000000 4 false = some 0x11 ∧ early mapped 0x3FFFE 2 true = none ∧
    early mapped 0x40000 4 true = some 0x15 ∧ mapped.ring 1 0 6 4 = some (0x40, 0x100) ∧ mapped.order = 0 := by decide

theorem witness_LoadsIssue_spad : SpadSound mapped 0 (mapped.ea 0 6 0 4 1) (accessSize 4) ∧
    SpadSound mapped 0 (mapped.ea 0 6 1 4 3) (accessSize 4) ∧ SpadSound mapped 0 0x3FFFC 4 ∧ accessSize 4 = 4 :=
  ⟨⟨by decide, by decide, by decide⟩, ⟨by decide, by decide, by decide⟩, ⟨by decide, by decide, by decide⟩, rfl⟩

theorem witness_StoresQueue : (∃ u, Passes mapped u 0x10000 4 { write := true }) ∧
    (∃ u loc, (mappedWith 0x40).checkAcc 0 1 0x10000 32 false { write := true, tag := false } = (u, .ok loc)) ∧
    (mapped.v64 0 4).toNat % 32 = 0 ∧ (mapped.v64 0 4).toNat % 65536 + 32 * (mapped.v 0 7).toNat ≤ 65536 ∧ mapped.v 0 7 ≠ 0 ∧
    (leafOf 0x40).tagen = true ∧ (mapped.v 0 6).toNat % 16 = 0 ∧ (mapped.v 0 9).toNat % 16 = 0 ∧
    (mapped.v 0 6).toNat + (mapped.v 0 9).toNat ≤ (mapped.core 0).spadSize :=
  ⟨passes_of _ _ _ _ (by decide), found_of _ (by decide), by decide⟩

/-- A deterministic launch. -/
def steady : State :=
  { mapped with launches := [(0, { job with hdr := { bytes := fetchHeader.bytes.set 6 2 } })] }

theorem witness_AtomicsQueue : (∃ u, Passes mapped u 0x10000 8 { write := true, atomic := true }) ∧
    (∃ u, Passes steady u 0x10000 8 { write := true, atomic := true }) ∧
    SpadSound mapped 0 0x40 16 ∧ mapped.curLaunch.hdr.det = false ∧ steady.curLaunch.hdr.det = true ∧
    ({ mapped with hac := [(3, [])] } : State).routineMissing (.patom 3) 0x10000 = false ∧
    (SqOp.rmw 0 true true).unbuffered = false ∧ (steady.core 0).det.length < 4096 ∧ (0x10000 : Dword).getLsbD 56 = false ∧
    (7 : BitVec 7).toNat % 2 = 1 ∧ (4 : BitVec 7).toNat % 2 = 0 :=
  ⟨passes_of _ _ _ _ (by decide), passes_of _ _ _ _ (by decide), ⟨by decide, by decide, by decide⟩, by decide⟩

/-- A thread with an open region, of a state of FARS. -/
def speculating (st : Nat) : State :=
  { unit { far := { next := 2, regions := [(0, { order := 1, core := 0, place := 0, lane := 0 })] } }
      { pair2 with lanes := [(0, { lane [] with far := { state := st } })] } [0] with xc := mapped.xc }

theorem witness_SyncMembers : (∃ u, Passes mapped u 0x10000 4 {}) ∧
    (∃ u l, mapped.xlate 0 (spaceOf 1 0x10000) (0x10000 % 2 ^ 57) = (u, .leaf l)) ∧
    mapped.curLaunch.hdr.det = false ∧ leastFree (mapped.inst (false, 0)).regions.keys 0 64 = some 0 ∧
    leastFree ((speculating 1).inst (false, 0)).regions.keys 0 64 = some 1 ∧
    ((speculating 1).here.thread 0).far.state = 1 ∧ ((speculating 1).here.thread 0).far.irrev = false ∧
    ((speculating 4).here.thread 0).far.state = 4 ∧ (mapped.here.thread 0).far.state = 0 ∧
    mapped.sr 3 = 0 ∧ (mapped.v64 0 4).toNat / 2 ^ 57 % 8 = 0 ∧ (mapped.v64 0 4).getLsbD 56 = false ∧
    ((unit {} { pair2 with s := [(1, 9)] } [0]).sr 1).toNat % 8 ≠ 0 :=
  ⟨passes_of _ _ _ _ (by decide), ⟨mapped, leafOf 0, by decide⟩, by decide⟩

theorem witness_DeterministicRegionTraps : steady.curLaunch.hdr.det = true ∧ steady.E = [0] ∧ OneThread steady 0 :=
  ⟨by decide, by decide, one_thread _ _ (by decide)⟩

theorem witness_CopyCommands : mapped.targetFault 0 0 = none ∧ mapped.targetFault 0 0xC000000000000000 = some 0x17 ∧
    (cpyTrap mapped 0 0x10000 0x40 4 2).isNone = true ∧ (cpyTrap mapped 0 0x10001 0x40 4 2).isNone = false := by decide

theorem whole (s : State) (p : Dword) (h : p.toNat % 64 = 0 ∧ p.toNat + 64 ≤ (s.core s.cur.core).spadSize ∧
    (s.core s.cur.core).spadPoisoned p.toNat 64 = false) : Whole s p := h

/-- Blocks at offset 0x100, in s2: one of zeros and one whose bytes say what they are given. -/
def blockOf (bs : List (Nat × Byte)) : State :=
  { unit { carve := 1, spad := bs.map fun x => (0x100 + x.1, x.2)
           slots := [(0, { claim := some 0 }), (1, { claim := some 0 })] }
      { reaching with s := [(2, 0x100), (3, 0x104), (4, 0x40000)] } [0] with
    htsTsz := 8, htsRange := [(1, 0x8000000700000000)] }

theorem witness_CopyCommands_blocks : Whole (blockOf []) 0x100 ∧
    tileFault 0x40000 (blockAt (blockOf []) 0 0x100) = none ∧
    gathFault false 0x40000 (blockAt (blockOf [(20, 4)]) 0 0x100) = none ∧
    gathFault true 0x40000 (blockAt (blockOf [(20, 4)]) 0 0x100) = none ∧
    unpkFault 0x40000 64 (fun n => if n = 0 then some 0 else none) (blockAt (blockOf [(18, 1), (20, 32)]) 0 0x100) = none ∧
    packFault 0x40000 32 (blockAt (blockOf [(17, 1), (20, 1), (21, 1), (24, 64)]) 0 0x100) = none ∧
    kvcpFault 0x40000 none (blockAt (blockOf [(25, 1), (63, 128)]) 0 0x100) = none ∧
    tileFault 0x40000 (blockAt (blockOf [(20, 1)]) 0 0x100) = some 0x17 :=
  ⟨whole _ _ (by decide), by decide⟩

theorem witness_EngineCommands : (∀ sub ∈ [1, 5, 6, 7, 8, 11, 12],
      (blockOf []).ttFault sub (blockAt (blockOf []) 0 0x100) = none) ∧
    (∀ x ∈ [(0, []), (2, [(8, 1)]), (3, [(8, 1)]), (4, [(14, 1)]), (9, [(12, 1), (21, 0), (24, 1), (26, 1)]),
        (10, [(12, 1)]), (13, [(20, 1)]), (14, [(12, 1)])],
      (blockOf x.2).ttFault x.1 (blockAt (blockOf x.2) 0 0x100) = none) ∧
    (∀ sub ∈ [0, 1, 2, 3], smplFault sub 0x40000 (blockAt (blockOf [(16, 1)]) 0 0x100) = none) ∧
    (blockOf []).tasknewFault (blockAt (blockOf []) 0 0x100) = none ∧
    collFault (fun g => g == 2) (blockAt (blockOf [(2, 2), (24, 1)]) 0 0x100) = none ∧
    collFault (fun g => g == 2) (blockAt (blockOf [(2, 2), (0, 5)]) 0 0x100) = some 0x17 ∧
    ({ State.reset with groups := [(2, leBytes 2 1 ++ [0, 0, 0, 0])] } : State).myRank 2 = some 0 := by decide

/-- The checks of a block's address: not aligned, and past the end. -/
theorem witness_commands_addresses : ((blockOf []).sr 3).toNat % 64 ≠ 0 ∧ ((blockOf []).sr 4).toNat % 64 = 0 ∧
    ((blockOf []).core 0).spadSize < ((blockOf []).sr 4).toNat + 64 ∧ (∀ x ∈ (blockOf []).E, (blockOf []).flushed x = false) ∧
    (blockOf []).targetFault 2 0x2000000000000000 = some 0x17 ∧ (blockOf []).targetFault 0 0 = none := by decide

theorem witness_TagWaits : (pair2.tag 1 3).count = 0 ∧ (({ pair2 with matrixTags := [(3, { count := 1 })] } : Group).tag 1 3).count ≠ 0 := by
  decide

theorem witness_MatrixEngine : (5 : BitVec 6).toNat < two.curLaunch.hdr.slots ∧ (slotOf two (mySlot two 5)).claim = none ∧
    (slotOf (blockOf []) (mySlot (blockOf []) 1)).claim ≠ none ∧ (∀ k ∈ [0, 1, 2], (slotOf (blockOf []) k).releasing = none) ∧
    ((blockOf []).core 0).mq = [] ∧ (blockOf []).ops = [] ∧
    (31 : BitVec 5).toNat < two.curLaunch.hdr.tiles ∧ two.tileWatched 0 (myTile two 31) = false ∧
    (unit {} { pair2 with s := [(1, placeAt 2 1 63)] } [0]).sr 1 = placeAt 2 1 63 ∧
    (unit {} { pair2 with s := [(1, placeAt 0 31 63)] } [0]).sr 1 = placeAt 0 31 63 ∧
    3 ≤ ((unit {} { pair2 with s := [(1, 0x30000)] } [0]).sr 1).toNat / 2 ^ 16 := by decide

theorem witness_MatrixEngine_mma : Whole (blockOf []) 0x100 ∧
    (let bs : List (Nat × Byte) := [(2, 1), (3, 1), (4, 0), (12, 1), (20, BitVec.ofNat 8 (krow 0))]
     (blockOf bs).mmaFault 0x100 (blockAt (blockOf bs) 0 0x100) = none) ∧
    (blockOf [(0, 2)]).mmaFault 0x100 (blockAt (blockOf [(0, 2)]) 0 0x100) = some 0x17 := ⟨whole _ _ (by decide), by decide⟩

/-- ROPE of pairs below and beyond HALF = 2: %ROPE_PART has AA 1, BB 2. -/
def rotating (half : Nat) : State :=
  unit { carve := 1 } { reaching with ropePart := BitVec.ofNat 64 (half * 2 ^ 20 + 2 * 2 ^ 10 + 1) } [0]

theorem witness_RotatedPairs : (let p := (rotating 2).cur.rd.ropePart.toNat
      p % 2 ^ 10 ≤ p / 2 ^ 10 % 2 ^ 10 ∧ p / 2 ^ 10 % 2 ^ 10 ≤ p / 2 ^ 20 % 2 ^ 10) ∧
    (let p := (rotating 1).cur.rd.ropePart.toNat; p / 2 ^ 20 % 2 ^ 10 < p / 2 ^ 10 % 2 ^ 10) ∧
    (∀ x ∈ (rotating 2).E, (rotating 2).flushed x = false ∧ ((rotating 2).core 0).spadPoisoned 0 4 = false) ∧
    ((rotating 2).cur.rd.rv 0 8).toNat < 2 ∧ f32v 0x3F800000 = .fin false 0x800000 (-23) ∧ f32v 0x7FC00000 = .nan := by decide

theorem witness_Signals : ({ blockOf [] with routes := [(0, 0x10000000000000)] } : State).routed 0 = true ∧ (blockOf []).routed 5 = false ∧ (blockOf []).inRange 1 7 = true ∧
    (blockOf []).inRange 1 8 = false ∧ (0x8000000000000001 : Dword).getLsbD 63 = true ∧
    ((0x10001 : Dword).toNat % 8 ≠ 0 ∧ (0x10000 : Dword).toNat % 8 = 0 ∧ (0x10000 : Dword).getLsbD 56 = false) ∧
    (0x0200000000000000 : Dword).toNat / 2 ^ 57 % 8 ≠ 0 ∧ (∀ x ∈ (blockOf []).E, (blockOf []).flushed x = false) := by decide

/-- A model with a request, and a port with a session. -/
def chatting : State :=
  { two with
    models := [(0, { valid := true, asid := 1, queue := [⟨0, 0, 0, 0, 7, 2, 0, 0, 0, 0⟩] }), (1, { valid := true, asid := 1 })]
    ports := [(0, { sessions := [(2, { port := 0, conn := 1, session := 7, model := 0, inSlot := 0, maxtok := 4 })] })] }

theorem witness_Signals_text : (chatting.models.get {} 0).valid = true ∧ (chatting.models.get {} 0).asid = chatting.curLaunch.asid ∧
    (chatting.models.get {} 0).queue = [⟨0, 0, 0, 0, 7, 2, 0, 0, 0, 0⟩] ∧ (chatting.models.get {} 1).queue = [] ∧
    (chatting.models.get {} 255).valid = false ∧ (27 : BitVec 5).toNat + 4 < 32 ∧
    ((chatting.ports.get {} 0).sessions.find? 2).isSome = true ∧ (chatting.ports.get {} 0).sessions.find? 3 = none ∧
    (0x0000000700000002 : Dword).toNat / 2 ^ 32 = 7 := by decide

/-- A launch with 4 slots and 2 tiles. -/
def thin : Launch := { job with hdr := { bytes := (fetchHeader.bytes.set 65 4).set 66 2 } }

/-- A second workgroup on core 1, an image of a third, a batch of one fault, and core 2 halted. -/
def managed : State :=
  { two with
    launches := [(0, thin)]
    cores := [(0, { groups := [(0, pair2)] }), (1, { groups := [(24, { pair2 with wg := 1 })] }), (2, { halted := true }),
      (3, { halted := true, haltQuiesce := true })]
    wgs := [(0, { groups := 1, places := [0] }), (1, { core := 1, place := 1, groups := 1, places := [24] }),
      (2, { groups := 1, number := 2, st := .saved })]
    images := [(9, { wg := 2, fullImage := true, addr := 0x40000, groups := [(0, { pair2 with present := false, wg := 2 })] })]
    mem := (State.reset.poke 0x40000 (leBytes 8 geometryWord)).mem
    gatherers := [(0, { batches := [{ number := 3, opened := 0, closed := 1, entries := [{ asid := 1, page := 1 }], delivered := true }] })] }

theorem witness_SystemMembers : managed.E ≠ [] ∧ managed.wgOperand 0x101 = some 1 ∧ 1 ≠ managed.here.wg ∧
    managed.imageAddr 0x40000 = true ∧ managed.imageAddr 0x40001 = false ∧ managed.wgQuiet 1 = true ∧
    managed.wgOperand 0x102 = none ∧ managed.wgOperand 0 = some managed.here.wg ∧
    managed.coreOperand 0x100 = some 1 ∧ managed.coreOperand 0xA00 = none ∧ managed.viewNat 0x40000 8 = geometryWord ∧
    managed.viewNat 0x40040 8 ≠ geometryWord ∧ (managed.imageAt 0x40000).isSome = true ∧ (managed.task 0).phase = 3 ∧
    (managed.launch 0).stopped = false ∧ managed.wgDrained 2 = true ∧ managed.coreWgs 1 [] ≠ [] := by decide

theorem witness_SystemMembers_place : (managed.anySpot 1 0 0 []).isSome = true := by decide +kernel

theorem witness_SystemMembers_more : Outside managed ∧ tlbiWell 1 0x10000 = true ∧ managed.tlbiBusy 1 0x10000 = false ∧
    ({ managed with dir := [(homeKey 0 1 0x400, { st := .dBS })] } : State).tlbiBusy 1 0x10000 = true ∧
    tlbiWell 0x20000 0 = false ∧ (managed.batch 0 3).isSome = true ∧ managed.batch 0 4 = none ∧
    (managed.core 1).haltQuiesce = false ∧ (managed.core 3).haltQuiesce = true ∧
    ((managed.core 2).halted = true ∧ (managed.core 2).held = []) ∧ (managed.core 1).halted = false ∧
    (InRegion (speculating 1) 0 ∧ (speculating 1).E = [0]) :=
  ⟨by unfold Outside InRegion; decide, by decide, by decide, by decide, by decide, by decide, by decide, by decide, by decide,
    by decide, by decide, Or.inl (by decide), by decide⟩

theorem witness_MatrixEngine_outside : thin.hdr.slots ≤ (4 : BitVec 6).toNat ∧ thin.hdr.tiles ≤ (2 : BitVec 5).toNat ∧
    (slotOf two 1).claim = none := by decide

/-- A queue that is full, and a row of a slot and one of a tile that hold poison. -/
def stuffed : State :=
  { blockOf [] with cores := [(0, { (blockOf []).core 0 with
      mq := (List.range 16).map fun i => { serial := i }
      slots := [(1, { claim := some 0, poison := [63] })]
      tiles := [(0, [(4096 + 63, 1)])] })] }

theorem witness_MatrixEngine_full : (stuffed.core 0).mmaQueued = 16 ∧
    ((stuffed.core 0).groups.all fun g => g.2.lanes.all fun t => t.2.waits.isEmpty) = true ∧
    63 ∈ (slotOf stuffed 1).poison ∧ 62 ∉ (slotOf stuffed 1).poison ∧ (stuffed.core 0).tilePoisoned 0 63 = true ∧
    (stuffed.core 0).tilePoisoned 0 62 = false := by decide

/-- A thread that is asked to leave, and one that has executed DFLUSH in a deterministic launch. -/
def asked : State := unit {} { pair2 with lanes := [(0, { lane [] with preempt := true })] } [0]
def drained : State :=
  { steady with cores := [(0, { steady.core 0 with groups := [(0, { reaching with lanes := [(0, { lane [] with flushed := true })] })] })] }

theorem witness_SyncMembers_waits : Outside asked ∧ (∃ t ∈ asked.here.lanes, t.2.live = true ∧ t.2.preempt = true) ∧
    (∀ t ∈ two.here.lanes, ¬ (t.2.live = true ∧ t.2.preempt = true)) :=
  ⟨by unfold Outside InRegion; decide, by decide, by decide⟩

theorem witness_Signals_flushed : drained.E = [0] ∧ drained.flushed 0 = true := by decide

/-- A signal to a task of this module that the address space has not. -/
theorem witness_Signals_outside : (0 : Dword).toNat / 2 ^ 18 % 2 ^ 9 = two.dev.toNat ∧ two.inRange two.curLaunch.asid ((0 : Dword).toNat % 2 ^ 18) = false := by
  decide

theorem managed_waits : ∀ k ∈ managed.cores, ∀ g ∈ k.2.groups, ∀ t ∈ g.2.lanes, t.2.waits = [] := by decide

theorem witness_NothingParked : NothingParked managed :=
  ⟨by decide, by decide,
    fun k hk g hg t ht w hw => absurd (managed_waits k hk g hg t ht ▸ hw) List.not_mem_nil,
    fun k hk g hg t ht w hw => absurd (managed_waits k hk g hg t ht ▸ hw) List.not_mem_nil,
    by decide, fun _ h => (nomatch h), by decide, by decide, by decide, by decide⟩

/-! ### Events -/

/-- The check finds a place, and all is as asked. -/
def finds (r : State × Found) (f : State → Loc → Bool) : Bool := match r with
  | (u, .ok loc) => f u loc
  | _ => false

theorem finds_of (r : State × Found) (f : State → Loc → Bool) (h : finds r f = true) :
    ∃ u loc, r = (u, .ok loc) ∧ f u loc = true := by
  obtain ⟨u, f | f⟩ := r <;> simp_all [finds]

/-- What the device asks of a place. -/
def deviceOk (n : Nat) (t : State) (loc : Loc) : Bool :=
  !t.farHeld none loc.asid (lineOf loc.va) true && !loc.leaf.repl && decide (t.place loc.pa ≠ .window) &&
  decide (t.recordsAt loc.pa n = [])

theorem device_of (s : State) (die : Nat) (asid : BitVec 16) (ea : Dword) (n : Nat) (q : Ask)
    (h : ea.toNat / 2 ^ 57 % 8 = 0 ∧ finds (s.check die asid ea n q) (deviceOk n) = true) :
    ∃ t loc, DeviceMay s t die asid ea n q loc := by
  obtain ⟨t, loc, e, f⟩ := finds_of _ _ h.2
  simp only [deviceOk, Bool.and_eq_true, Bool.not_eq_true', decide_eq_true_eq] at f
  exact ⟨t, loc, h.1, e, f.1.1.1, f.1.1.2, f.1.2, f.2⟩

/-- The line at 0x10000 holds zeros and a sound trailer. -/
def lined : State :=
  { mapped with mem := (State.reset.poke 0x1003C (leBytes 4 (trailer (List.replicate 60 0)).toNat)).mem }

theorem witness_CoreEvents_fetch : mapped.needLine 0 1 0x20000 = [] ∧ mapped.needLine 0 1 (0x10000 &&& ~~~63#64) = [(0, 0)] ∧
    lined.needLine 0 1 (0x10000 &&& ~~~63#64) = [(0, 0)] ∧ (0x10000 : Dword).toNat / 2 ^ 57 % 8 = 0 ∧
    finds (mapped.check 0 1 0x10000 64 { fetch := true, tag := false }) (fun t loc => !lineSound (t.readAt loc.pa 64)) = true ∧
    finds (lined.check 0 1 0x10000 64 { fetch := true, tag := false }) (fun t loc => lineSound (t.readAt loc.pa 64)) = true := by
  decide +kernel

/-- Groups at places of partition 0: by place, whether it is active, parked, ready, and how long it has waited. An entry of
the convergence table was passed over for 64 clocks. -/
def gathered (gs : List (Nat × Bool × Bool × Bool × Nat)) : State :=
  { unit { groups := [] } pair2 [] with
    clock := 4000
    cores := [(0, { entries := [(0, [{ asid := 1, pos := {}, missed := 64 }])]
                    groups := gs.map fun g => (g.1, { present := true, active := g.2.1, parked := g.2.2.1, ready := g.2.2.2.1,
                                                      waited := g.2.2.2.2, lastIssue := 10 * g.1 }) })] }

/-- Eight active groups, the last of them parked or not, and a pending one. -/
def crowd (parked : Bool) (waited : Nat) : State :=
  gathered ((8, false, false, true, waited) :: (List.range 8).map fun i => (i, true, parked && i == 7, true, 0))

theorem issues_of (s : State) (core part : Nat) (h : core < s.coreCount ∧ part < 8 ∧ (s.core core).halted = false ∧
    s.boot = .running) : Issues s core part := h

theorem find_mem {α : Type} (t : Tab α) (k : Nat) (v : α) (h : t.find? k = some v) : (k, v) ∈ t := by
  induction t with
  | nil => simp [Tab.find?] at h
  | cons x t ih =>
    simp only [Tab.find?] at h
    split at h
    · cases h
      simp_all
    · exact List.mem_cons_of_mem _ (ih h)

theorem group_listed (s : State) (core q : Nat) (h : (s.group core q).present = true) :
    ∃ x ∈ (s.core core).groups, x.1 = q := by
  rcases e : (s.core core).groups.find? q with _ | g
  · simp [State.group, Tab.get, e] at h
  · exact ⟨_, find_mem _ _ _ e, rfl⟩

/-- What is asked of every group that a core holds. -/
theorem all_groups (s : State) (core : Nat) (f : Nat → Bool) (h : ∀ x ∈ (s.core core).groups, f x.1 = true) (q : Nat)
    (p : (s.group core q).present = true) : f q = true := by
  obtain ⟨x, m, rfl⟩ := group_listed s core q p
  exact h x m

/-- Group 8 is the one that has waited longest. -/
theorem witness_CoreEvents_ready (b : Bool) (n : Nat) (h : b = true ∧ n = 9 ∨ b = false ∧ (n = 0 ∨ n = 1984)) :
    Issues (crowd b n) 0 0 ∧ LongestReady (crowd b n) 0 0 8 ∧ activeCount (crowd b n) 0 0 = 8 := by
  have key : ∀ q, PendingReady (crowd b n) 0 0 q → q = 8 := fun q hq => by
    have := all_groups (crowd b n) 0 (fun q => decide (((crowd b n).group 0 q).active = false → q = 8))
      (by rcases h with ⟨rfl, rfl⟩ | ⟨rfl, rfl | rfl⟩ <;> decide) q hq.2.1
    exact of_decide_eq_true this hq.2.2.1
  rcases h with ⟨rfl, rfl⟩ | ⟨rfl, rfl | rfl⟩
  all_goals
    exact ⟨issues_of _ _ _ (by decide), ⟨⟨by decide, by decide, by decide, by decide⟩,
      fun q hq => .inr (key q hq ▸ ⟨rfl, le_rfl⟩)⟩, by decide⟩

theorem witness_CoreEvents_displaced :
    (∀ q, ActiveIn (crowd true 9) 0 0 q → q ≠ 7 → ((crowd true 9).group 0 q).parked = false) ∧
    ((crowd true 9).group 0 7).parked = true ∧
    (∀ q, ActiveIn (crowd false 0) 0 0 q → ((crowd false 0).group 0 q).parked = false) ∧
    ((crowd false 1984).core 0).forced.find? 0 = none ∧ activeCount (gathered [(8, false, false, true, 0)]) 0 0 = 0 ∧
    activeCount (gathered ((List.range 7).map fun i => (i, true, false, true, 0))) 0 0 = 7 ∧
    (∀ r, ActiveIn (crowd false 1984) 0 0 r → ((crowd false 1984).group 0 0).lastIssue < ((crowd false 1984).group 0 r).lastIssue ∨
      ((crowd false 1984).group 0 0).lastIssue = ((crowd false 1984).group 0 r).lastIssue ∧ 0 ≤ r) := by
  refine ⟨fun q h p => ?_, by decide, fun q h => ?_, by decide, by decide, by decide, fun q h => ?_⟩
  · have := all_groups (crowd true 9) 0 (fun q => decide (q ≠ 7 → ((crowd true 9).group 0 q).parked = false)) (by decide) q h.2.1
    exact of_decide_eq_true this p
  · have := all_groups (crowd false 0) 0 (fun q => !((crowd false 0).group 0 q).parked) (by decide) q h.2.1
    simpa using this
  · have := all_groups (crowd false 1984) 0 (fun r => decide (((crowd false 1984).group 0 0).lastIssue <
      ((crowd false 1984).group 0 r).lastIssue ∨ ((crowd false 1984).group 0 0).lastIssue = ((crowd false 1984).group 0 r).lastIssue))
      (by decide) q h.2.1
    exact (of_decide_eq_true this).imp id fun e => ⟨e, Nat.zero_le _⟩

/-- A thread that waits as asked, with what it is owed. -/
def waiting (w : List Waiting) (ps : List Pending) : State :=
  { unit { carve := 1, full := [4] } { reaching with lanes := [(0, { lane [] with waits := w, pending := ps })] } [0] with
    xc := (mappedWith 0x10).xc, clock := 5000 }

theorem witness_CoreEvents :
    ((waiting [] []).core 0).epochs.get 0 7 = 5000 / 2 ^ 20 ∧ (({ numWin := 0, epochs := [] } : Core).epochs.get 0 0 ≠ 5000 / 2 ^ (10 + 0)) ∧
    (∀ g ∈ (State.reset.core 5).groups, g.2.present = false) ∧ (State.reset.core 5).carve ≠ 4 ∧ (State.reset.core 5).l1 = [] ∧
    ((crowd true 9).core 0).entries.find? 0 = some [{ asid := 1, pos := {}, missed := 64 }] ∧
    ((waiting [] [⟨0x20, 0, 0, 0, {}, false, false⟩]).thread 0 0 0).pos.word = 0 ∧
    ((waiting [] [⟨0x20, 0, 0, 0, {}, false, false⟩]).group 0 0).present = true ∧
    ((waiting [⟨{}, .yield 4000⟩] []).thread 0 0 0).waits = [⟨{}, .yield 4000⟩] ∧
    ((waiting [⟨{}, .brk⟩] []).group 0 0).present = true ∧
    ((waiting [⟨{}, .poll { ea := 0x40, size := 4, spad := true } 4900 64⟩] []).thread 0 0 0).waits =
      [⟨{}, .poll { ea := 0x40, size := 4, spad := true } 4900 64⟩] := by decide

/-- A load takes bytes that are 0. -/
def takesZero (r : State × Got) : Bool := match r.2 with
  | .val bs => leNat bs == 0
  | _ => false

theorem takes_of (r : State × Got) (h : takesZero r = true) : ∃ u bs, r = (u, .val bs) ∧ leNat bs = 0 := by
  obtain ⟨u, g⟩ := r
  cases g <;> simp_all [takesZero]

/-- A POLL reads a word of the scratchpad that holds what it waits for, and one of memory that does not. -/
theorem witness_CoreEvents_poll (spad : Bool) :
    let a : WaitAcc := { ea := if spad then 0x40 else 0x10000, size := 4, spad, cond := if spad then 0 else 1 }
    let s := waiting [⟨{}, .poll a 4900 64⟩] []
    ∃ u bs, s.tryLoad 0 { id := s.nextId, place := 0, lane := 0, dest := .vec 5 0, ea := a.ea, size := a.size, spad := a.spad
                          asid := (s.launchOf 0 0).asid, serial := s.nextId, issued := s.clock } = (u, .val bs) ∧ leNat bs = 0 := by
  cases spad <;> exact takes_of _ (by decide +kernel)

/-- Bytes of a window of core 0. -/
def windowAt (win off : Nat) : BitVec 52 := BitVec.ofNat 52 (0xF * 2 ^ 48 + win * 2 ^ 36 + off)

/-- Core 0 is quiesced. -/
def quiet : State := unit { carve := 1, halted := true, quiesced := true } reaching [0]

/-- The address of a window of core 0 is well formed. -/
def windowWell (win off : Nat) : Bool :=
  let n := (windowAt win off).toNat
  mapped.windowCore (windowOf n) == some 0 && n / 2 ^ 36 % 2 ^ 4 == win && n % 2 ^ 36 == off && decide (2 ^ 48 * 0xF ≤ n)

theorem witness_WindowWrites_addresses : windowWell 0 0x7F0 = true ∧ windowWell 1 0xBFF8 = true ∧ windowWell 2 0x3FFF0 = true ∧
    windowWell 3 0x7FFF0 = true ∧ windowWell 4 0x8FFF0 = true ∧ windowWell 2 0x7F1 = true := by decide +kernel

theorem witness_WindowWrites : (mapped.core 0).quiesced = false ∧ (quiet.core 0).quiesced = true ∧
    0x3FFF0 + 16 ≤ quiet.windowSize 0 2 ∧ mapped.rowOwner 0 0 127 = some 0 ∧ mapped.rowOwner 0 0 128 = none ∧
    (mapped.group 0 0).present = true ∧ 0x3FFF0 + 16 ≤ (mapped.core 0).spadSize ∧ mapped.tileWatched 0 31 = false ∧
    (∀ o ∈ mapped.ops, o.core ≠ 0) ∧ 0x7FFF0 / 2 ^ 14 = 31 := by decide +kernel

/-- The line at 0x10000. -/
def theLine : LineKey := ⟨1, 0x400⟩

/-- A message of the line is on its way; its entry at the home is `e`, and core 0 holds it as `l`. -/
def telling (e : DirEntry) (l : Option L1Line) (k : MsgKind) : State :=
  { mapped with
    cores := [(0, { carve := 1, l1 := match l with
      | some l => [(l1Key 1 0x400, l)]
      | none => [] })]
    l2 := [(homeKey 0 1 0x400, { leaf := leafOf 0, pa := 0x10000 })]
    dir := [(homeKey 0 1 0x400, e)]
    msgs := [{ asid := 1, line := 0x400, die := 0, core := 0, seq := 7, kind := k }] }

theorem heads_telling (e : DirEntry) (l : Option L1Line) (k : MsgKind) : Heads (telling e l k) theLine 0 0 7 k [] := rfl

theorem entry_telling (e : DirEntry) (l : Option L1Line) (k : MsgKind) : (telling e l k).dirAt (homeKey 0 1 0x400) = e := rfl

theorem line_telling (e : DirEntry) (l : L1Line) (k : MsgKind) :
    ((telling e (some l) k).core 0).l1.find? (l1Key 1 0x400) = some l ∧
    ((telling e none k).core 0).l1.find? (l1Key 1 0x400) = none := by
  simp [telling, mapped, mappedWith, unit, State.core, Tab.get, Tab.find?]

/-- Every request may reach a home that holds the line, in any state of its entry, and one that does not hold it; and
every message an L1 in any state. -/
theorem witness_HomeRequests (e : DirEntry) (k : MsgKind) :
    (telling e none k).l2.find? (homeKey 0 1 0x400) = some { leaf := leafOf 0, pa := 0x10000 } ∧
    ({ telling e none k with l2 := [] } : State).l2.find? (homeKey 0 1 0x400) = none := by
  simp [telling, Tab.find?]

/-- Messages of another line before it. -/
def tellingLate (k : MsgKind) : State :=
  { telling {} none k with msgs := { asid := 1, line := 0x401, die := 0, core := 0, seq := 7, kind := .invAck } :: (telling {} none k).msgs }

theorem witness_HomeRequests_first (k : MsgKind) : First (tellingLate k) theLine 0 0 7 k
    [{ asid := 1, line := 0x401, die := 0, core := 0, seq := 7, kind := .invAck }] [] := by
  refine ⟨rfl, fun m h => ?_⟩
  rw [List.mem_singleton.mp h]
  exact fun e => absurd e.2.1 (by decide)

theorem witness_HomeAgents_waits (k : MsgKind) : (telling { st := .dBX, pendingFor := some 0 } none k).dirAt (homeKey 0 1 0x400) =
      { st := .dBX, pendingFor := some 0 } ∧ homeKey 0 1 0x400 = homeKey 0 theLine.asid theLine.line ∧
    Heads (telling { st := .dBX, pendingFor := some 0 } none k) theLine 0 0 7 k [] := ⟨rfl, rfl, rfl⟩

theorem witness_L1Messages (l : L1Line) : NoMessage { telling {} (some l) .invAck with msgs := [] } theLine 0 :=
  fun _ h => absurd h List.not_mem_nil

/-- INV number 9 is later than data number 7. -/
theorem witness_L1Messages_overtaken : later 9 7 ∧ ¬ later 7 7 ∧ later 1 0xFFFFFFFF := by unfold later; decide

/-- A load of core 0 waits for the line. -/
theorem witness_L1Messages_waits :
    (State.reset.modCore 0 fun k => { k with loads := [{ id := 0, ea := 0x10000, size := 4, asid := 1 }] }).takesLate 0
      (l1Key 1 0x400) (1, 1) { id := 0, ea := 0x10000, size := 4, asid := 1 } = true ∧
    State.reset.takesLate 0 (l1Key 1 0x400) (0, 0) { id := 0, ea := 0x10000, size := 4, asid := 1 } = false := by decide +kernel

theorem witness_HomeAgents (e : DirEntry) : (telling e none .invAck).homesOf 0x10000 = [homeKey 0 1 0x400] ∧
    (telling e none .invAck).place 0x10000 = .memory := ⟨rfl, rfl⟩

/-- A load that core 0 holds, with the lines of its L1, and a page with more bits. -/
def loadingAs (more : Dword) (l1 : Tab L1Line) (r : LoadReq) : State :=
  { unit { carve := 1, full := [4], l1, loads := [r] } reaching [0] with
    xc := (mappedWith more).xc, pageHome := [(2 ^ 41 + 1, 0)], clock := 5000 }

/-- A load of a word for v2, from the scratchpad or from memory. -/
def aLoad (spad : Bool) : LoadReq :=
  { id := 0, dest := .vec 4 2, ea := if spad then 0x40 else 0x10000, size := 4, spad, asid := 1 }

theorem due_of (more : Dword) (l1 : Tab L1Line) (r : LoadReq) (h : r.id = 0 ∧ r.place = 0 ∧ r.lane = 0 ∧ r.park = none ∧
    r.remote = none ∧ r.region = none ∧ r.dest.isTile = false) : LoadDue (loadingAs more l1 r) 0 0 r := by
  obtain ⟨h0, h1, h2, h3, h4, h5, h6⟩ := h
  refine ⟨by decide, ?_, h3, h4, h5, h6, fun y _ _ _ => h0 ▸ Nat.zero_le _, ?_, ?_, ?_, ?_⟩
  · simp [loadingAs, unit, State.core, Tab.get, Tab.find?, h0]
  all_goals rw [h1]
  · rfl
  · rfl
  all_goals rw [h2]; rfl

/-- The line in S. -/
def sharedLine : L1Line := { st := .s, asid := 1, line := 0x400, pa := 0x10000 }

/-- What a load asks of a place. -/
def loadOk (t : State) (loc : Loc) : Bool :=
  !t.farHeld none loc.asid (lineOf loc.va) false && decide (loc.place = .memory) && decide (t.place loc.pa = loc.place)

theorem witness_LoadArrivals_spad : LoadDue (loadingAs 0 [] (aLoad true)) 0 0 (aLoad true) ∧
    ((loadingAs 0 [] (aLoad true)).core 0).spadPoisoned 0x40 4 = false := ⟨due_of _ _ _ ⟨rfl, rfl, rfl, rfl, rfl, rfl, rfl⟩, rfl⟩

/-- Loads that the L1 serves, that ask for the line, and that go to the home. -/
theorem witness_LoadArrivals : (∀ l1 ∈ [[(l1Key 1 0x400, sharedLine)], []], ∀ more ∈ [(0 : Dword), 0x10],
    LoadDue (loadingAs more l1 (aLoad false)) 0 0 (aLoad false) ∧
    ∃ u loc, (loadingAs more l1 (aLoad false)).check 0 1 0x10000 4 {} = (u, .ok loc) ∧
      (loadOk u loc && (loc.leaf.cls == if more = 0 then 0 else 2)) = true) := by
  simp only [List.forall_mem_cons, List.not_mem_nil, false_imp_iff, implies_true, and_true]
  exact ⟨⟨⟨due_of _ _ _ ⟨rfl, rfl, rfl, rfl, rfl, rfl, rfl⟩, finds_of _ _ (by decide +kernel)⟩,
    ⟨due_of _ _ _ ⟨rfl, rfl, rfl, rfl, rfl, rfl, rfl⟩, finds_of _ _ (by decide +kernel)⟩⟩,
    ⟨due_of _ _ _ ⟨rfl, rfl, rfl, rfl, rfl, rfl, rfl⟩, finds_of _ _ (by decide +kernel)⟩,
    ⟨due_of _ _ _ ⟨rfl, rfl, rfl, rfl, rfl, rfl, rfl⟩, finds_of _ _ (by decide +kernel)⟩⟩

theorem witness_LoadArrivals_tag : LoadDue (loadingAs 0x40 [] { aLoad false with dest := .tag 2, size := 1 }) 0 0
      { aLoad false with dest := .tag 2, size := 1 } ∧
    ∃ u loc, (loadingAs 0x40 [] { aLoad false with dest := .tag 2, size := 1 }).check 0 1 0x10000 1 { tag := false } =
      (u, .ok loc) ∧ ((u.core 0).l1 == []) = true :=
  ⟨due_of _ _ _ ⟨rfl, rfl, rfl, rfl, rfl, rfl, rfl⟩, finds_of _ _ (by decide +kernel)⟩

/-- LDFE on a granule that is full, and on one that is empty. -/
def fillWaiting (ea : Dword) : State :=
  waiting [⟨{}, .ldfe { ea, size := 4, sz := 4, dest := 2, clear := true, spad := true }⟩] []

theorem witness_LoadArrivals_ldfe (ea : Dword) : ((fillWaiting ea).core 0).loads = [] ∧ ((fillWaiting ea).group 0 0).sq = [] ∧
    ((fillWaiting ea).core 0).full = [4] ∧ ((fillWaiting ea).core 0).poison = [] := ⟨rfl, rfl, rfl, rfl⟩

theorem witness_LoadArrivals_granules : granules 0x40 4 = [4] ∧ granules 0x50 4 = [5] := by decide

/-- A group of core 0 whose store queue holds one unit. -/
def queued (more : Dword) (l1 : Tab L1Line) (u : SqUnit) : State :=
  { unit { carve := 1, full := [4], l1 } { reaching with sq := [u] } [0] with
    xc := (mappedWith more).xc, pageHome := [(2 ^ 41 + 1, 0)], hac := [(3, [])] }

/-- A unit of one word, on the scratchpad or in memory. -/
def aUnit (op : SqOp) (spad : Bool) : SqUnit :=
  { serial := 1, op, size := 8, spad, asid := 1, accs := [{ ea := if spad then 0x40 else 0x10000, data := 5, dest := 2 }] }

theorem head_of (more : Dword) (l1 : Tab L1Line) (u : SqUnit) (a : SqAcc) (h : u.accs = [a] ∧ a.done = false ∧ a.park = none ∧
    a.remote = none ∧ a.region = none ∧ a.lane = 0 ∧ a.dropped = false) : HeadDue (queued more l1 u) 0 0 u a [] := by
  obtain ⟨h0, h1, h2, h3, h4, h5, h6⟩ := h
  refine ⟨rfl, rfl, h0, h1, h2, h3, h4, fun _ h => absurd h List.not_mem_nil, fun _ h => absurd h List.not_mem_nil, ?_, ?_,
    h6, fun _ h => absurd h List.not_mem_nil⟩
  all_goals rw [h5]; rfl

theorem witness_QueueDrains (more : Dword) (l1 : Tab L1Line) (op : SqOp) (spad : Bool) :
    HeadDue (queued more l1 (aUnit op spad)) 0 0 (aUnit op spad)
      { ea := if spad then 0x40 else 0x10000, data := 5, dest := 2 } [] :=
  head_of _ _ _ _ ⟨rfl, rfl, rfl, rfl, rfl, rfl, rfl⟩

/-- A store in memory, and an atomic, find their place. -/
def storeOk (t : State) (loc : Loc) : Bool :=
  !loc.leaf.repl && !t.farHeld none loc.asid (lineOf loc.va) true && decide (loc.place ≠ .window) &&
  decide (t.recordsAt loc.pa 8 = []) && decide (t.recordsAt (loc.pa / 64 * 64) 64 = [])

theorem witness_QueueDrains_check : ([(0 : Dword), 0x10].all fun more => [[], [(l1Key 1 0x400, sharedLine)]].all fun l1 =>
    [SqOp.store, .rmw 0 true true, .patom 3].all fun op =>
      finds ((queued more l1 (aUnit op false)).check 0 1 0x10000 8 (op.ask 0)) storeOk) = true := by decide +kernel

/-- A check that fails, and a page that is not there. -/
theorem witness_QueueDrains_stops :
    ((queued 0x20000000000080 [] (aUnit .store false)).check 0 1 0x10000 8 { write := true }).2 = .trap 0x14 ∧
    ((queued 0 [] (aUnit .store false)).check 0 1 0x20000 8 { write := true }).2 = .park false := by decide +kernel

theorem witness_QueueDrains_routine : (queued 0 [] (aUnit (.patom 3) false)).hac.find? 3 = some [] ∧
    hacRun [] (List.replicate 64 0) 0x10000 5 1 = none ∧
    hacRun [0x8067] (List.replicate 64 0) 0x10008 5 1 = some (List.replicate 64 0, 8) := by decide +kernel

/-- A replicated page, and its second frame. -/
def replicated (more : Dword) : State :=
  { State.reset with xc := [(2 ^ 41 + 1, leafOf more), (2 ^ 57 + 2 ^ 41 + 1, leafOf more)], pageHome := [(2 ^ 41 + 1, 0)]
                     replica := [(2 ^ 41 + 1, 0x30000)]
                     collapse := [(2 ^ 41 + 1, 1)] }

/-- A walk finds a leaf. -/
def walks (r : State × Walked) (f : State → Leaf → Bool) : Bool := match r with
  | (u, .leaf l) => f u l
  | _ => false

theorem walks_of (r : State × Walked) (f : State → Leaf → Bool) (h : walks r f = true) :
    ∃ u l, r = (u, .leaf l) ∧ f u l = true := by
  obtain ⟨u, f | f⟩ := r <;> simp_all [walks]

/-- The home waits in D_F for the line at 0x10000. -/
def filling : State :=
  { mapped with pageHome := [(2 ^ 41 + 1, 0)], dir := [(homeKey 0 1 0x400, { st := .dF, queue := [(.getx, 0)] })] }

theorem witness_TranslationEvents_miss : (mapped.leafFor 0 1 0x20000 1 false).2 = .fault false ∧
    walks (filling.leafFor 0 1 0x10000 1 false) (fun t l => homeKey (t.homeDie 0 1 0x10000 l) 1 (lineOf 0x10000) == homeKey 0 1 0x400 &&
      (t.dirAt (homeKey 0 1 0x400) == { st := .dF, queue := [(.getx, 0)] }) && (t.l2.find? (homeKey 0 1 0x400)).isSome) = true ∧
    walks (mapped.leafFor 0 1 0x10000 1 false) (fun t _ => decide ((t.dirAt (homeKey 0 1 0x400)).st ≠ .dF)) = true := by decide +kernel

theorem witness_TranslationEvents_collapse : (replicated 0x20).collapse = [(pageKey 1 (1 * 2 ^ 16), 1)] ∧
    (replicated 0x20).dir = [] ∧ walks ((replicated 0x20).xlate 1 1 (1 * 2 ^ 16)) (fun t l => l.repl && !l.big && l.home == 0 && t.dir.isEmpty && t.msgs.isEmpty) = true ∧
    walks ((replicated 0).xlate 1 1 (1 * 2 ^ 16)) (fun _ l => !l.repl && !l.big) = true ∧
    ((replicated 0x20).gatherer 0).entries.length < 1023 ∧
    ((replicated 0x20).gatherer 0).lists 1 1 = false := by decide +kernel

/-- A window of die 0 that has been open since a time. -/
def collecting (slots : Tab Nat) : State :=
  { State.reset with
    timeFs := 9000 * 10 ^ 6
    gatherers := [(0, { opened := some 1000, next := 1, slots, entries := [{ asid := 2, page := 1 }, { asid := 1, page := 4 }] })] }

theorem witness_TranslationEvents_close : ((collecting []).gatherer 0).opened = some 1000 ∧ (collecting []).timeNs = 9000 ∧
    1000 + max 1 (((collecting []).gatherer 0).win.toNat % 2 ^ 6) * 1000 = 9000 ∧
    [({ asid := 1, page := 4 } : FaultEntry), { asid := 2, page := 1 }].Perm ((collecting []).gatherer 0).entries ∧
    ([({ asid := 1, page := 4 } : FaultEntry), { asid := 2, page := 1 }].Pairwise fun x y =>
      x.asid.toNat * 2 ^ 42 + x.page < y.asid.toNat * 2 ^ 42 + y.page) ∧
    (1 % max 1 (((collecting []).gatherer 0).win.toNat / 2 ^ 8 % 2 ^ 8)) = 0 ∧
    ((collecting []).gatherer 0).slots.find? 0 = none ∧ (((collecting [(0, 0)]).gatherer 0).slots.find? 0).isSome = true ∧
    (∀ b ∈ ((collecting []).gatherer 0).batches, b.delivered = true ∧ b.number ≠ 1) := by decide

/-- A store that is parked, of a thread that has ended. -/
def orphaned (ended : Bool) : State :=
  let u : SqUnit := { serial := 1, size := 8, asid := 1, accs := [{ ea := 0x10000, park := some 3 }] }
  unit {} { reaching with lanes := [(0, { lane [] with ended })], sq := [u] } [0]

theorem witness_TranslationEvents_destroy : ((orphaned true).group 0 0).present = true ∧
    (((orphaned true).group 0 0).thread 0).live = false ∧
    (∀ k ∈ mapped.cores, ∀ g ∈ k.2.groups, ∀ u ∈ g.2.sq, u.asid = 1 → ∀ a ∈ u.accs, a.park = none) := by decide

/-- A record of a deterministic launch whose page is not there, of a thread that has ended. -/
def detached : State :=
  unit { det := [{ wave := 0, block := 0, thread := 0, seq := 0, ea := 0x10000, asid := 1, member := 0, wide := false, operand := 5
                   place := 0, lane := 0, word := 0, unit := 0, park := some 3 }] }
    { reaching with lanes := [(0, { lane [] with ended := true })] } [0]

theorem witness_TranslationEvents_record : ∃ k g r, detached.cores = [(0, k)] ∧ k.groups = [(0, g)] ∧ g.sq = [] ∧
    g.present = true ∧ k.det = [r] ∧ r.asid = 1 ∧ r.park = some 3 ∧ r.place = 0 ∧ (g.thread r.lane).live = false :=
  ⟨_, _, _, rfl, rfl, rfl, rfl, rfl, rfl, rfl, rfl, rfl⟩

/-- A page at 0x10000 of address space 1, with more bits, and routes to modules 5 and 9. -/
def shared (more : Dword) : State :=
  { State.reset with xc := [(2 ^ 41 + 1, leafOf more)], pageHome := [(2 ^ 41 + 1, 0)], routes := [(5, 0x10000000000000), (9, 0x10000000000000)]
                     poolEnd := 0x9000000000000 }

theorem witness_RemoteAccesses : (shared 0).remoteIn = [] ∧
    finds ((shared 0).check 0 1 0x10000 8 {}) (fun t loc => loadOk t loc && !loc.leaf.fwd) = true ∧
    finds ((shared 0x8000000000100).check 0 1 0x10000 8 {}) (fun t loc => loc.leaf.fwd && decide (loc.place ≠ .window) &&
      !t.farHeld none loc.asid (lineOf loc.va) false) = true ∧
    finds ((shared 0).check 0 1 0x10000 8 { write := true }) (deviceOk 8) = true := by decide +kernel

/-- A page of module 5, one that is not there, one that is for KVWR alone, and one with tags. -/
theorem witness_RemoteAccesses_stops :
    ((shared 0x50100).check 0 1 0x10000 8 {}).2 = .remote 5 ∧ ((shared 0).check 0 1 0x20000 8 {}).2 = .park false ∧
    ((shared 0x80).check 0 1 0x10000 8 { write := true }).2 = .trap 0x14 ∧
    ((shared 0x40).check 0 1 0x3000000000010000 8 {}).2 = .trap 0x12 := by decide +kernel

/-- A request of module 9 that is parked here since 1 µs, and one to module 5, for a task. -/
def asking : State :=
  { shared 0 with
    timeFs := 2001000 * 10 ^ 6
    remoteIn := [(3, { msg := ⟨9, 1, 0x20000, 0, .read 8, false, 2⟩, park := 7, notice := 1000 })]
    remotes := [(4, { target := 5, deadline := 2001000, op := .read 8 })]
    heard := [(9, 2, false)]
    tasks := [(2, { phase := 5, remote := some 4 })] }

theorem witness_RemoteAccesses_waiting : asking.timeNs = 2001000 ∧ (asking.remoteIn.find? 3).isSome = true ∧
    (asking.remotes.find? 4).isSome = true ∧ asking.remotes.find? 5 = none ∧
    (9, 2, false) ∈ asking.heard ∧ (9, 3, false) ∉ asking.heard ∧ (9, 2, true) ∉ asking.heard := by decide

theorem witness_RemoteAccesses_unheld : Unheld asking 4 :=
  ⟨fun _ h => absurd h List.not_mem_nil, fun _ h => absurd h List.not_mem_nil, fun _ h => absurd h List.not_mem_nil,
    fun _ h => absurd h List.not_mem_nil, fun _ h => absurd h List.not_mem_nil⟩

/-- An operation of core 0, with its scratchpad and a page. -/
def working (o : EngOp) : State :=
  { unit { carve := 1 } reaching [0] with xc := mapped.xc, pageHome := [(2 ^ 41 + 1, 0)], ops := [o] }

theorem here_of (o : EngOp) (h : o.core = 0 ∧ o.wg = 0 ∧ o.park = none ∧ o.remote = none) : OpHere (working o) 0 o.id o := by
  obtain ⟨h1, h2, h3, h4⟩ := h
  refine ⟨rfl, rfl, fun _ h => absurd h List.not_mem_nil, ?_, ?_, h1, ?_, h3, h4⟩
  · simp [working, State.op]
  · intro x hx _
    simpa [working] using hx
  · rw [h2]
    exact nofun

theorem stores_of (o : EngOp) (h : o.core = 0 ∧ o.place = 0) : AccessesDone (working o) o := by
  unfold AccessesDone
  rw [h.1, h.2]
  exact ⟨rfl, fun _ h => absurd h List.not_mem_nil, fun _ h => absurd h List.not_mem_nil⟩

/-- A CPY of 4 bytes, of a kind and as far as it is. -/
def aCopy (k : Nat) (started : Bool) : EngOp :=
  { id := 7, kind := .cpy 4 k, asid := 1, blk := List.replicate 64 0, started, buf := if started then [1, 2, 3, 4] else []
    elems := [(0, if k = 0 ∨ k = 2 then 0x10000 else 0x40, if k = 0 ∨ k = 1 then 0x10000 else 0x40)] }

theorem witness_EngineEvents_copy (k : Nat) (b : Bool) : OpHere (working (aCopy k b)) 0 7 (aCopy k b) ∧
    AccessesDone (working (aCopy k b)) (aCopy k b) ∧ (aCopy k b).done = false ∧ Copies (aCopy k b).kind :=
  ⟨here_of _ ⟨rfl, rfl, rfl, rfl⟩, stores_of _ ⟨rfl, rfl⟩, rfl, trivial⟩

/-- The lane of a stale command. -/
def staleBlk : List Byte := List.replicate 56 0 ++ leBytes 8 0x8000000100000000

theorem witness_EngineEvents_stale : (working (aCopy 0 true)).genStale ((aCopy 0 true).word64 56) = false ∧
    (working { aCopy 0 true with blk := staleBlk }).genStale ({ aCopy 0 true with blk := staleBlk }.word64 56) = true := by
  decide +kernel

theorem witness_EngineEvents_places :
    (∃ t loc, DeviceMay (working (aCopy 0 true)) t (dieOf 0) 1 0x10000 4 { write := true, policy := 0 } loc) ∧
    ∃ t loc, DeviceMay (working (aCopy 0 true)) t (dieOf 0) 1 0x10000 8 deviceWord loc :=
  ⟨device_of _ _ _ _ _ _ (by decide +kernel), device_of _ _ _ _ _ _ (by decide +kernel)⟩

/-- A copy that is done, with its completion target. -/
def copied (target : Dword) (err : Nat) : EngOp := { aCopy 0 true with done := true, target, err }

theorem witness_EngineEvents_complete (target : Dword) (err : Nat) :
    OpHere (working (copied target err)) 0 7 (copied target err) ∧ (copied target err).done = true ∧
    (copied target err).acked = false := ⟨here_of _ ⟨rfl, rfl, rfl, rfl⟩, rfl, rfl⟩

theorem witness_EngineEvents_targets : ([(0 : Dword), 0x4000000000010000, 0x8000000000000007].map fun t =>
      (copied t 0).target.toNat / 2 ^ 62) = [0, 1, 2] ∧
    (copied 0x4000000000010000 0).target &&& 0x1FFFFFFFFFFFFFF#64 = 0x10000 := by decide

/-- An MMA of 4x4 blocks or in full mode, with slot 0 as both lists. -/
def aJob (mode : Byte) (started : Bool) : MmaJob := { blk := mode :: 0 :: 1 :: List.replicate 61 0, started }

/-- It is the first of core 0's queue. -/
def multiplying (j : MmaJob) : State := unit { mq := [j] } pair2 [0]

theorem witness_EngineEvents_mma (mode : Byte) (b : Bool) : ((multiplying (aJob mode b)).core 0).mq = [aJob mode b] ∧
    (aJob mode b).started = b ∧ (aJob mode b).spoiled = false ∧ blkNat (aJob 0 b).blk 0 1 = 0 ∧ blkNat (aJob 1 b).blk 0 1 ≠ 0 ∧
    15 / 16 < blkNat (aJob 1 b).blk 2 1 := ⟨rfl, rfl, rfl, rfl, by revert b; decide, by revert b; decide⟩

theorem witness_EngineEvents_generation :
    (multiplying (aJob 0 false)).genStale (BitVec.ofNat 64 (blkNat (aJob 0 false).blk 56 8)) = false ∧
    (multiplying { aJob 0 false with blk := staleBlk }).genStale (BitVec.ofNat 64 (blkNat staleBlk 56 8)) = true := by decide +kernel

/-- Two products in the queue, of which the first has started; its interval of K/k clocks goes on at clock 0. -/
def multiplyingMore (spoiled : List Nat) (clock : Nat) : State :=
  { unit { mq := [{ aJob 1 true with serial := 1, blk := [1, 0, 1] ++ List.replicate 17 0 ++ [64, 0, 0, 0] ++ List.replicate 40 0 },
                  { aJob 1 false with serial := 2 }]
           slots := [(0, { claim := some 0, poison := spoiled })] } pair2 [0] with clock }

theorem witness_EngineEvents_mma_start : (∃ j l, ((multiplyingMore [] 0).core 0).mq = [j] ++ l :: [] ∧ j.started = true ∧ l.started = false ∧
      l.entered = true ∧ 0 < j.startedAt + blkNat j.blk 20 4 / kstep (blkNat j.blk 1 1)) ∧
    (∀ x ∈ ((multiplyingMore [] 5000).core 0).mq, ¬ (5000 < x.startedAt + blkNat x.blk 20 4 / kstep (blkNat x.blk 1 1))) ∧
    (((multiplyingMore [] 5000).core 0).mq.map MmaJob.serial).Nodup :=
  ⟨⟨_, _, rfl, rfl, rfl, rfl, by decide⟩, by decide, by decide⟩

/-- A product whose operand holds poison, and one whose does not. -/
theorem witness_EngineEvents_mma_poison : (multiplyingMore [3] 5000).mmaPoisoned 0 (aJob 1 true) = true ∧
    (multiplyingMore [] 5000).mmaPoisoned 0 (aJob 1 true) = false := by decide

/-- A SMPL that has ended. -/
def sampled : EngOp := { id := 7, kind := .smpl 1 3, done := true, out := [9, 0, 0, 0] }

theorem witness_EngineEvents_smpl : (working sampled).op 7 = some sampled ∧ ((working sampled).wg 0).st = .running ∧
    ∀ x ∈ (working sampled).ops, ¬ x.id < 7 := by decide

/-- A TT command: of sequence 0 and node 0. -/
def aTt (sub : Nat) : EngOp := { id := 7, kind := .tt sub, blk := List.replicate 64 0 }

/-- A pool of pages of 4 rows of one layer and head of 16 elements. -/
def aPool : List Byte := [0, 2, 1, 1] ++ leBytes 2 16 ++ [0, 0] ++ leBytes 4 8 ++ leBytes 4 65536 ++ List.replicate 48 0

/-- Sequence 0 of pool 0, with a root. -/
def treed (o : EngOp) : State := { working o with pools := [(0, aPool)], seqs := [(0, { nodes := [(0, {})] })] }

theorem witness_ServiceEvents_arrival : OpHere (treed (aTt 7)) 0 7 (aTt 7) ∧ AccessesDone (treed (aTt 7)) (aTt 7) ∧
    (∀ x ∈ (treed (aTt 7)).ops, ¬ x.id < 7) ∧ (treed (aTt 7)).seqs.find? 0 = some { nodes := [(0, {})] } ∧
    ((treed (aTt 7)).pool 0).isSome = true ∧ (working (aTt 7)).seqs.find? 0 = none ∧ blkNat (aTt 7).blk 0 4 = 0 :=
  ⟨⟨rfl, rfl, fun _ h => absurd h List.not_mem_nil, by decide, by decide, rfl, nofun, rfl, rfl⟩,
    ⟨rfl, fun _ h => absurd h List.not_mem_nil, fun _ h => absurd h List.not_mem_nil⟩, by decide, by decide, by decide, by decide, by decide⟩

theorem witness_ServiceEvents_arrival_none (sub : Nat) : OpHere (working (aTt sub)) 0 7 (aTt sub) ∧
    AccessesDone (working (aTt sub)) (aTt sub) ∧ ∀ x ∈ (working (aTt sub)).ops, x.id = 7 :=
  ⟨here_of _ ⟨rfl, rfl, rfl, rfl⟩, stores_of _ ⟨rfl, rfl⟩, by simp [working, aTt]⟩

/-- A TT command that has ended: its record, if any, and whether it traps. -/
def ttEnded (err : Nat) (record : Word) (trape : Byte) : EngOp :=
  { aTt 7 with done := true, err, out := List.replicate 14 0
               blk := List.replicate 6 0 ++ [trape] ++ List.replicate 41 0 ++ leBytes 4 record.toNat ++ List.replicate 12 0 }

theorem witness_ServiceEvents_complete (err : Nat) (r : Word) (b : Byte) :
    OpHere (working (ttEnded err r b)) 0 7 (ttEnded err r b) ∧ (ttEnded err r b).skip ≠ [1] ∧ (ttEnded err r b).done = true :=
  ⟨here_of _ ⟨rfl, rfl, rfl, rfl⟩, by simp [ttEnded, aTt], rfl⟩

theorem witness_ServiceEvents_records : blkNat (ttEnded 7 0xFFFFFFFF 1).blk 48 4 = 0xFFFFFFFF ∧
    blkNat (ttEnded 7 0x3FFF0 0).blk 48 4 + (2 + 14) ≤ ((working (ttEnded 7 0x3FFF0 0)).core 0).spadSize ∧
    blkNat (ttEnded 7 0 1).blk 6 1 % 2 = 1 ∧ blkNat (ttEnded 7 0 0).blk 6 1 % 2 = 0 ∧ (ttEnded 7 0 0).target.toNat / 2 ^ 62 = 0 := by
  decide +kernel

/-- A PGREQ whose pages have all come. -/
def paged (acked : Bool) : EngOp := { id := 7, kind := .pgreq, asid := 1, target := 0x10000, acked }

theorem witness_EngineEvents_pgreq : (working (paged true)).op 7 = some (paged true) ∧
    (working (paged false)).op 7 = some (paged false) ∧ (paged false).elems = [] ∧ (paged false).blk = [] := by decide

theorem witness_EngineEvents_pgreq_place : ∃ t loc, DeviceMay (working (paged false)) t (dieOf 0) 1 0x10000 8 deviceWord loc :=
  device_of _ _ _ _ _ _ (by decide +kernel)

/-- An all-reduce of one word in place, on group 2 of this module and module 9: summed, written or done. -/
def reducing (reason : Nat) (done : Bool) : EngOp :=
  { id := 7, kind := .coll, asid := 1, started := true, reason, done, buf := leBytes 4 0x40000000
    blk := [0, 0, 2, 0, 0, 0, 0, 0] ++ leBytes 8 0x10000 ++ leBytes 8 0x10000 ++ leBytes 8 1 ++ List.replicate 32 0 }

/-- The group, and a store that has not performed or none. -/
def collective (o : EngOp) (busy : Bool) : State :=
  { working { o with serial := if busy then 5 else 0 } with
    groups := [(2, leBytes 2 2 ++ [0, 0] ++ leBytes 2 0 ++ leBytes 2 9)]
    cores := [(0, { carve := 1, groups := [(0, { reaching with sq := if busy then [aUnit .store true] else [] })] })] }

theorem witness_EngineEvents_coll : (collective (reducing 0 false) true).ops = [{ reducing 0 false with serial := 5 }] ∧
    blkNat (reducing 0 false).blk 2 2 = 2 ∧ (collective (reducing 0 false) true).myRank 2 = some 0 ∧
    (collective (reducing 0 false) true).nrank 2 = 2 ∧ blkNat (reducing 0 false).blk 0 1 ≤ 1 ∧
    (reducing 0 false).word64 8 = (reducing 0 false).word64 16 ∧ blkNat (reducing 0 false).blk 24 8 = 1 ∧
    ((collective (reducing 0 false) true).group 0 0).pendingBefore [0] 5 = true := by decide +kernel

theorem witness_EngineEvents_coll_result : (reducing 1 false).buf.length = 4 ∧ ((reducing 1 false).word64 16).toNat % 4 = 0 ∧
    (reducing 1 true).done = true ∧ (reducing 1 false).target.toNat / 2 ^ 62 = 0 := by decide +kernel

theorem witness_EngineEvents_coll_place :
    ∃ t loc, DeviceMay (collective (reducing 1 false) false) t (dieOf 0) 1 0x10000 4 { write := true } loc :=
  device_of _ _ _ _ _ _ (by decide +kernel)

/-- Prefix entries of this module: one is live, one is unpublished. -/
def publishing : State := { State.reset with pfxDir := [{ hash := 1, holder := 0, pool := 0, page := 3 }, { hash := 2, holder := 0, pool := 0, page := 4, gone := true }] }

theorem witness_ServiceEvents_page : (publishing.page 0 3).refs = 0 ∧ 3 ∉ publishing.takenPages 0 := by decide +kernel

theorem witness_ServiceEvents_prefix : (∃ e ∈ publishing.pfxDir, e.hash = 1 ∧ e.gone = false) ∧
    (∀ e ∈ publishing.pfxDir, e.hash = 2 → e.gone = true) ∧ 9 ≠ publishing.dev.toNat ∧
    (publishing.page 0 3).refs = 0 := by decide

/-! ### Commands at Badger -/

/-- A TT command with some fields of its block, of node 0 of sequence 0 and without a record. -/
def ttWith (sub : Nat) (fs : List (Nat × List Byte)) : EngOp :=
  { id := 7, kind := .tt sub, asid := 1
    blk := fs.foldl (fun b f => b.take f.1 ++ f.2 ++ b.drop (f.1 + f.2.length))
      (List.replicate 48 0 ++ leBytes 4 0xFFFFFFFF ++ List.replicate 12 0) }

/-- A pool of 8 pages of 4 rows of one layer and head of 16 elements: BF16, E4M3, N7 or N4; page 0 is at 0x10000. -/
def kvPool (fmt : Byte) : List Byte :=
  [fmt, 2, 1, 1] ++ leBytes 2 16 ++ [0, 0] ++ leBytes 4 8 ++ leBytes 4 65536 ++ leBytes 8 0x10000 ++ leBytes 2 1 ++ List.replicate 38 0

/-- The pages' leaves, with KVM = 1. -/
def kvMapped : Tab Leaf :=
  (List.range 8).map fun i => (2 ^ 41 + 1 + i, { bits := BitVec.ofNat 64 (0x1887 + 0x10000 * (i + 1)), addr := 0x2000 })

/-- The command is alone, with sequences and pages of that pool. -/
def kv (fmt : Byte) (o : EngOp) (seqs : Tab Seq) (pages : Tab Page) : State :=
  { working o with pools := [(0, kvPool fmt)], seqs, pages, xc := kvMapped, pageHome := kvMapped.map fun x => (x.1, 0) }

/-- The pool of those pages. -/
def kvp (fmt : Nat) : Pool :=
  { idx := 0, fmt, P := 4, L := 1, H := 1, DH := 16, npages := 8, pageb := 65536, base := 0x10000, asid := 1, ns := 0 }

theorem pool_of : ∀ fmt ∈ [0, 1, 2, 3], (kv (BitVec.ofNat 8 fmt) {} [] []).pool 0 = some (kvp fmt) := by decide +kernel

theorem reaches_of (fmt : Byte) (o : EngOp) (seqs : Tab Seq) (pages : Tab Page) (sub : Nat)
    (h : o.core = 0 ∧ o.wg = 0 ∧ o.place = 0 ∧ o.park = none ∧ o.remote = none ∧ o.kind = .tt sub ∧ o.arrived = false ∧
      o.done = false ∧ o.started = false ∧ o.reason = 0) : Reaches (kv fmt o seqs pages) 0 o.id o sub := by
  obtain ⟨h1, h2, h3, h4, h5, h6, h7⟩ := h
  have a := here_of o ⟨h1, h2, h4, h5⟩
  refine ⟨⟨rfl, rfl, fun _ h => absurd h List.not_mem_nil, a.found, a.one, h1, a.wg, h4, h5⟩, h6, ?_, h7, ?_⟩
  · exact stores_of o ⟨h1, h3⟩
  · intro x hx hl
    have : x = o := by simpa [kv, working] using hx
    simp [this] at hl

/-- Alone, it names what it names. -/
theorem witness_ServiceEvents_reaches (sub : Nat) (fmt : Byte) (fs : List (Nat × List Byte)) (seqs : Tab Seq) (pages : Tab Page) :
    Reaches (kv fmt (ttWith sub fs) seqs pages) 0 7 (ttWith sub fs) sub ∧
    Alone (kv fmt (ttWith sub fs) seqs pages) 7 sub (ttWith sub fs) :=
  ⟨reaches_of _ _ _ _ _ ⟨rfl, rfl, rfl, rfl, rfl, rfl, rfl, rfl, rfl, rfl⟩,
    fun _ x hx hne => absurd (by simp [kv, working] at hx; simp [hx, ttWith]) hne⟩

/-- A node: parent, depth, state, first position, count, children and pages. -/
def aNode (parent depth state first count nchild : Nat) (pages : List Nat) : Node :=
  { parent, depth, state, first, count, gen := 1, nchild, pages }

/-- A root of six tokens with two children, of which one has a child. -/
def aTree : Seq :=
  { nodes := [(0, aNode 0xFFFF 0 2 0 6 2 [0, 1]), (1, aNode 0 1 2 6 1 1 [2]), (2, aNode 0 1 1 6 2 0 [1]), (3, aNode 1 2 1 7 1 0 [2])] }
def aTreePages : Tab Page := [(0, { refs := 1 }), (1, { refs := 2 }), (2, { refs := 2, owner := some (0, 1) })]

/-- A live root of six tokens, its second page held twice, or once; one of a ring of eight positions beside a sink of four. -/
def aRoot : Seq := { nodes := [(0, aNode 0xFFFF 0 1 0 6 0 [3, 4])] }
def aRootPages (n : Nat) : Tab Page := [(3, { refs := 1, owner := some (0, 0) }), (4, { refs := n, owner := some (0, 0) })]
def aWindow : Seq :=
  { windowed := true, sink := 4, window := 8, ring := [0, 1, 2]
    nodes := [(0, aNode 0xFFFF 0 1 0 5 1 []), (1, aNode 0 1 1 5 2 0 [5])] }

theorem treelike_of (q : Seq) (h : (q.nodes.map (·.1)).Nodup ∧ ∀ x ∈ q.nodes, x.2.parent ∉ q.subtree x.1) : Treelike q :=
  ⟨h.1, fun n x e => h.2 (n, x) (find_mem _ _ _ e)⟩

theorem witness_ServiceEvents_trees : Treelike aTree ∧ Treelike aWindow ∧ (kv 0 (ttWith 5 []) [(0, aTree)] aTreePages).seqs.find? 0 = some aTree ∧
    (kv 0 (ttWith 5 []) [(0, aTree)] aTreePages).genStale (ttWith 5 []).gen = false ∧ stands aTree 1 ∧
    (kv 0 (ttWith 5 [(56, leBytes 8 0x8000000900000000)]) [(0, aTree)] []).genStale (ttWith 5 [(56, leBytes 8 0x8000000900000000)]).gen = true :=
  ⟨treelike_of _ (by decide +kernel), treelike_of _ (by decide +kernel), by decide +kernel, by decide +kernel,
    ⟨_, rfl, by decide, by decide⟩, by decide +kernel⟩

/-- A page that a step leaves, and that it answers. -/
def oks {α : Type} (r : State × Except Stop α) : Bool := match r.2 with
  | .ok _ => true
  | .error _ => false

theorem writes_of (r : State × Except Stop Unit) (h : oks r = true) : ∃ v, r = (v, .ok ()) := by
  obtain ⟨v, x⟩ := r
  cases x <;> simp_all [oks]

theorem reads_of {α : Type} (r : State × Except Stop α) (h : oks r = true) : ∃ v bs, r = (v, .ok bs) := by
  obtain ⟨v, x⟩ := r
  cases x <;> simp_all [oks]

/-- SEQNEW of a ring of two pages, where page 0 is held and the others are free; and of a tree. -/
def aRing : EngOp := ttWith 0 [(9, [1]), (16, [8])]
def ringState : State := kv 0 aRing [] [(0, { refs := 1 })]

theorem witness_ServiceEvents_seqnew :
    (blkNat aRing.blk 12 4 % 4 = 0 ∧ blkNat aRing.blk 16 4 % 4 = 0 ∧ 4 ≤ blkNat aRing.blk 16 4 ∧ blkNat aRing.blk 16 4 ≤ 1048576 ∧
      (blkNat aRing.blk 12 4 + blkNat aRing.blk 16 4) / 4 = 2 ∧ ringState.seqs.find? 0 = none ∧ ringState.reservations = [] ∧
      ringState.slotGen.get 0 (slotKey 0 0) < 0xFFFF ∧ blkNat (ttWith 0 [(12, [1]), (9, [1])]).blk 12 4 % 4 ≠ 0) ∧
    (∃ v, AllAllocated 0 (kvp 0) (0, 0) [1, 2] (arrived ringState aRing 0) v) ∧
    (∃ v, AllAllocated 0 (kvp 0) (0, 0) [] (arrived ringState (ttWith 0 []) 0) v) := by
  refine ⟨by decide +kernel, ⟨_, _, ⟨?_, rfl⟩, _, ⟨?_, rfl⟩, rfl⟩, _, rfl⟩ <;> unfold LowestFree <;> decide +kernel

/-- TFORK of a root whose last page is partly filled, and at position 5 of it: the page may have as many references, or not. -/
theorem witness_ServiceEvents_tfork (n : Nat) :
    tailPage aRoot 4 0 (aNode 0xFFFF 0 1 0 6 0 [3, 4]) = some 4 ∧
    ((kv 0 (ttWith 2 []) [(0, aRoot)] (aRootPages n)).page 0 4).refs = n ∧ stands aRoot 0 ∧
    blkNat (ttWith 2 [(8, [2]), (6, [2]), (12, [5])]).blk 8 1 = 2 ∧ (ttWith 2 [(8, [2]), (6, [2]), (12, [5])]).flag1 = true ∧
    blkNat (ttWith 2 [(8, [2]), (6, [2]), (12, [5])]).blk 12 4 = 5 ∧ (ttWith 2 []).flag1 = false :=
  ⟨by decide +kernel, rfl, ⟨_, rfl, by decide, by decide⟩, by decide +kernel, by decide +kernel,
    by decide +kernel, by decide +kernel⟩

theorem witness_ServiceEvents_tfork_slots :
    (freeSlots (kv 0 (ttWith 2 []) [(0, aRoot)] (aRootPages 1)) 0 aRoot).take 3 = [1, 2, 3] ∧
    3 ≤ (freeSlots (kv 0 (ttWith 2 []) [(0, aRoot)] (aRootPages 1)) 0 aRoot).length := by decide +kernel

/-- An append of one position to the last page, one that takes a further page, and one that finds the last page shared. -/
def appending (k n : Nat) (more : Tab Page) : State := kv 0 (ttWith 3 [(8, leBytes 4 k)]) [(0, aRoot)] (aRootPages n ++ more)
def appendingNow (k n : Nat) (more : Tab Page) : State := arrived (appending k n more) (ttWith 3 [(8, leBytes 4 k)]) 3

theorem not_shared (s : State) (p : Pool) (g : Nat) (h : (s.page p.idx g).refs ≤ 1) : ¬ CountsShared s p g := by
  rintro ⟨a, b⟩
  by_cases c : ∃ id n q y, (s.page p.idx g).owner = some (id, n) ∧ s.seqs.find? id = some q ∧ stands q n ∧
      q.nodes.find? n = some y ∧ g ∈ y.pages ∧ 0 < y.nchild
  · exact absurd (a c) (by omega)
  · exact absurd (b c) (by omega)

theorem is_shared (s : State) (p : Pool) (g : Nat) (h : 2 < (s.page p.idx g).refs) : CountsShared s p g :=
  ⟨fun _ => h, fun _ => by omega⟩

theorem witness_ServiceEvents_tapp : (∃ v, PagesReady 0 (kvp 0) 0 0 1 1 (appendingNow 1 1 []) v false) ∧
    (∃ v, PagesReady 0 (kvp 0) 0 0 1 2 (appendingNow 3 1 []) v false) ∧
    PageLacks (appendingNow 1 3 ((List.range 3).map (fun g => (g, { refs := 1 })) ++ (List.range 3).map fun g => (g + 5, { refs := 1 })))
      (kvp 0) 0 0 1 := by
  refine ⟨⟨_, _, false, false, ⟨_, _, rfl, rfl, .inl ⟨4, _, by decide +kernel, .inl ⟨not_shared _ _ _ (by decide +kernel), rfl, rfl, rfl⟩⟩⟩,
      ⟨rfl, rfl⟩, rfl⟩,
    ⟨_, _, false, false, ⟨_, _, rfl, rfl, .inl ⟨4, _, by decide +kernel, .inl ⟨not_shared _ _ _ (by decide +kernel), rfl, rfl, rfl⟩⟩⟩,
      ⟨_, false, false, ⟨_, _, rfl, rfl, .inr ⟨0, _, by decide +kernel, ⟨?_, rfl⟩, rfl, rfl⟩⟩, ⟨rfl, rfl⟩, rfl⟩, rfl⟩,
    ?_, _, _, rfl, rfl, ?_⟩
  · unfold LowestFree; decide +kernel
  · unfold NoneFree; decide +kernel
  · intro g e
    have : g = 4 := by
      have h : (some 4 : Option Nat) = some g := e
      exact (Option.some.inj h).symm
    exact this ▸ is_shared _ _ _ (by decide +kernel)

/-- KVWR of one row of position 5 from the scratchpad, in BF16 and in N7. -/
def aRow : EngOp := ttWith 4 [(8, leBytes 4 5), (14, [1]), (6, [2]), (16, leBytes 8 0x40)]
def rowing (fmt : Byte) (scale : Option Nat) : State :=
  (kv fmt aRow [(0, aRoot)] [(3, { refs := 1 }), (4, { refs := 1, scale })]).modCore 0 fun k =>
    k.spadLand 0x40 ((List.range 16).flatMap fun i => leBytes 4 (0x3F800000 + i * 0x100000))

/-- A row that is written where it fits, in a pool of each kind. -/
theorem row_of (p : Pool) (g off : Nat) (xs : List Fl) (s : State) (hp : p.fmt ≤ 1)
    (h : oks (s.pageWrite 0 p g off (xs.flatMap fun x => leBytes ((if p.fmt = 0 then Fmt.bf16 else Fmt.e4m3).w / 8)
      (if x = .nan then (0, Ev.invalid) else (if p.fmt = 0 then Fmt.bf16 else Fmt.e4m3).cvt 0 true x true : FR).1)) = true) :
    ∃ v es, RowWritten 0 p g off xs s v 0 es := by
  obtain ⟨v, h⟩ := writes_of _ h
  exact ⟨v, _, by unfold RowWritten; rw [if_pos hp]; exact ⟨h, rfl, rfl⟩⟩

theorem witness_ServiceEvents_kvwr : (∃ t src, (arrived (rowing 0 none) aRow 4).engFrom (atBadger (rowing 0 none) aRow 4) aRow.flag1
      (aRow.word64 16) 64 0 = (t, .ok src)) ∧
    (∀ xs ∈ [[Fl.fin false 1 0], [Fl.nan]], ∃ v es, RowWritten 0 (kvp 0) 4 32 xs (arrived (rowing 0 none) aRow 4) v 0 es) ∧
    aRoot.pageOf 4 0 (aNode 0xFFFF 0 1 0 6 0 [3, 4]) 5 = some 4 ∧ ((rowing 0 none).page 0 4).refs = 1 ∧ aRoot.current 0 5 = true ∧
    blkNat aRow.blk 16 8 + 64 ≤ ((rowing 0 none).core 0).spadSize :=
  ⟨reads_of _ (by decide +kernel), fun xs h => row_of _ _ _ _ _ (by decide) (by revert xs; decide +kernel), by decide +kernel,
    by decide +kernel, by decide +kernel, by decide +kernel⟩

def okBytes (r : State × Except Stop (List Byte)) : List Byte := match r.2 with
  | .ok bs => bs
  | .error _ => []

theorem reads_eq (r : State × Except Stop (List Byte)) (h : oks r = true) : r = (r.1, .ok (okBytes r)) := by
  obtain ⟨v, x⟩ := r
  cases x <;> simp_all [oks, okBytes]

theorem writes_eq (r : State × Except Stop Unit) (h : oks r = true) : r = (r.1, .ok ()) := by
  obtain ⟨v, x⟩ := r
  cases x <;> simp_all [oks]

/-- The row of 1 in N7, at a scale. -/
def oneAt (S : Nat) : SdbEnc := encodeRow 3 (some S) (kvValues 7 S [.fin false 1 0])

/-- In N7 the row of 1 takes a page without a scale at 128. -/
theorem witness_ServiceEvents_kvwr_first : ∃ v es, RowWritten 0 (kvp 2) 4 64 [.fin false 1 0] (arrived (rowing 2 none) aRow 4) v 0 es := by
  let t := (arrived (rowing 2 none) aRow 4).setPage 0 4 { refs := 1, scale := some 128 }
  obtain ⟨v, h⟩ := writes_of (t.pageWrite 0 (kvp 2) 4 64 (oneAt 128).bytes) (by decide +kernel)
  refine ⟨v, [] ++ kvEvents [.fin false 1 0] ++ (oneAt 128).evs, ?_⟩
  unfold RowWritten
  rw [if_neg (by decide)]
  exact ⟨nofun, .inr (by decide +kernel), t, [], ⟨rfl, rfl⟩, h, rfl⟩

/-- A page of scale 100 rises by 27 for it. -/
theorem witness_ServiceEvents_kvwr_rise : ∃ v es, RowWritten 0 (kvp 2) 4 64 [.fin false 1 0] (arrived (rowing 2 (some 100)) aRow 4) v 27 es := by
  let s := arrived (rowing 2 (some 100)) aRow 4
  let r := s.pageRead 0 (kvp 2) 4 0 512
  let blocks := (List.range 8).map fun i => ((okBytes r).drop (64 * i)).take 64
  let full (b : List Byte) : Bool := decide (blkNat b 0 1 ≠ 0)
  let w := r.1.pageWrite 0 (kvp 2) 4 0 (blocks.flatMap fun b => if full b then (rescaleBlock b 27).1 else b)
  let t := w.1.setPage 0 4 { w.1.page 0 4 with scale := (w.1.page 0 4).scale.map (· + 27) }
  obtain ⟨v, h⟩ := writes_of (t.pageWrite 0 (kvp 2) 4 64 (oneAt 127).bytes) (by decide +kernel)
  refine ⟨v, (0x80 :: (blocks.filter full).flatMap fun b => List.replicate (rescaleBlock b 27).2 0x40) ++
    kvEvents [.fin false 1 0] ++ (oneAt 127).evs, ?_⟩
  unfold RowWritten
  rw [if_neg (by decide)]
  refine ⟨by decide +kernel, .inr (by decide +kernel), t, _, ?_, h, rfl⟩
  unfold Rescaled
  rw [if_neg (by decide)]
  exact ⟨_, _, _, reads_eq r (by decide +kernel), writes_eq w (by decide +kernel), rfl, rfl⟩

/-- The two tokens of node 1 of a windowed sequence go to its ring: the second lies at the ring's second row. -/
def committing : State := kv 0 (ttWith 6 [(4, [1])]) [(0, aWindow)] [(0, { refs := 1 }), (1, { refs := 1 }), (2, { refs := 1 }), (5, { refs := 1 })]

/-- The rows of one token: K, then V. -/
def copyRow (s : State) (src srcOff dst dstOff : Nat) : State :=
  let r := s.pageRead 0 (kvp 0) src srcOff 32
  (r.1.pageWrite 0 (kvp 0) dst dstOff (okBytes r)).1

theorem copied_of (s : State) (src srcOff dst dstOff : Nat) (h : oks (s.pageRead 0 (kvp 0) src srcOff 32) = true ∧
    oks ((s.pageRead 0 (kvp 0) src srcOff 32).1.pageWrite 0 (kvp 0) dst dstOff (okBytes (s.pageRead 0 (kvp 0) src srcOff 32))) = true) :
    ∃ t bs, s.pageRead 0 (kvp 0) src srcOff 32 = (t, .ok bs) ∧
      t.pageWrite 0 (kvp 0) dst dstOff bs = (copyRow s src srcOff dst dstOff, .ok ()) :=
  ⟨_, _, reads_eq _ h.1, writes_eq _ h.2⟩

theorem witness_ServiceEvents_tcommit : (aWindow.chain 1 256).filter (· ≠ 0) = [1] ∧ stands aWindow 1 ∧
    ∃ t, TokensMoved 0 (kvp 0) 0 [(1, 5)] (arrived committing (ttWith 6 [(4, [1])]) 6) t := by
  let u := rootTakes (arrived committing (ttWith 6 [(4, [1])]) 6) 0 aWindow (aNode 0xFFFF 0 1 0 5 1 [])
  obtain ⟨t, bs, h1, h2⟩ := copied_of u 5 (1 * 32) 1 (1 * 32) (by decide +kernel)
  obtain ⟨t', bs', h3, h4⟩ := copied_of (copyRow u 5 (1 * 32) 1 (1 * 32)) 5 (5 * 32) 1 (5 * 32) (by decide +kernel)
  refine ⟨by decide +kernel, ⟨_, rfl, by decide, by decide⟩, copyRow (copyRow u 5 (1 * 32) 1 (1 * 32)) 5 (5 * 32) 1 (5 * 32), aWindow,
    aNode 0 1 1 5 2 0 [5], aNode 0xFFFF 0 1 0 5 1 [], 5, 1, _, by decide +kernel, by decide +kernel, by decide +kernel,
    by decide +kernel, by decide +kernel, ?_, rfl⟩
  rw [show (kvp 0).lanes = [(0, 0, 0), (0, 0, 1)] by decide, show (5 : Nat) % (kvp 0).P = 1 by decide,
    show aWindow.slotOf (kvp 0).P 0 ((aNode 0xFFFF 0 1 0 5 1 []).first + (aNode 0xFFFF 0 1 0 5 1 []).count) = 1 by decide]
  exact ⟨t, bs, _, h1, h2, t', bs', _, h3, h4, rfl⟩

/-- A list of two queries: position 7 of node 3 and position 6 of node 2; and one of a position past its node's end. -/
def aQuery (pos : Nat) : List Byte := leBytes 4 3 ++ leBytes 4 7 ++ leBytes 4 2 ++ leBytes 4 pos
def listed (o : EngOp) (bs : List Byte) : State := (kv 0 o [(0, aTree)] aTreePages).modCore 0 fun k => k.spadLand 0x40 bs
def aMask (out : Byte) : EngOp := ttWith 10 [(8, leBytes 4 0x40), (12, [2]), (16, leBytes 4 1), (20, [out])]

theorem witness_ServiceEvents_lists : (listed (aMask 0) (aQuery 6)).seqs.find? 0 = some aTree ∧
    listAt (listed (aMask 0) (aQuery 6)) (aMask 0) 0x40 16 = some (aQuery 6) ∧ queries (aQuery 6) 2 = [(3, 7), (2, 6)] ∧
    (∀ e ∈ queries (aQuery 6) 2, QueryWell aTree e) ∧ (∃ e ∈ queries (aQuery 9) 2, ¬ QueryWell aTree e) ∧
    aTree.keys (queries (aQuery 6) 2) = [(0, 0), (0, 1), (0, 2), (0, 3), (0, 4), (0, 5), (1, 6), (2, 6), (2, 7), (3, 7)] ∧
    (listed (aMask 1) (aQuery 6)).tileWatched 0 0 = false ∧ (∀ x ∈ (listed (aMask 1) (aQuery 6)).ops, x.kind ≠ .pack) ∧
    (∀ x ∈ aTree.nodes, x.1 < 1024) := by
  refine ⟨by decide +kernel, by decide +kernel, by decide +kernel, ?_, ⟨(2, 9), by decide +kernel, ?_⟩, by decide +kernel, by decide +kernel,
    by decide +kernel, by decide +kernel⟩
  · have h : queries (aQuery 6) 2 = [(3, 7), (2, 6)] := by decide +kernel
    rw [h]
    intro e he
    simp only [List.mem_cons, List.not_mem_nil, or_false] at he
    rcases he with rfl | rfl
    · exact ⟨_, rfl, ⟨_, rfl, by decide, by decide⟩, by decide, by decide⟩
    · exact ⟨_, rfl, ⟨_, rfl, by decide, by decide⟩, by decide, by decide⟩
  · rintro ⟨x, h, -, -, h2⟩
    have : x = aNode 0 1 1 6 2 0 [1] := (Option.some.inj (show some (aNode 0 1 1 6 2 0 [1]) = some x from h)).symm
    subst this
    revert h2
    decide

/-- A poisoned list. -/
theorem witness_ServiceEvents_poison :
    listAt { kv 0 (aMask 0) [(0, aTree)] aTreePages with cores := [(0, { carve := 1, poison := [1] })] } (aMask 0) 0x40 16 = none := by
  decide +kernel

/-- A KVGATH of the first key's K row. -/
def aGather : EngOp := ttWith 9 [(8, leBytes 4 0x40), (12, [1]), (24, leBytes 2 16), (26, leBytes 2 1)]

theorem witness_ServiceEvents_kvgath : (∃ v rs, KeysRead 0 (kvp 0) 0 0 0 0 [(0, 0, 0)] (arrived (listed aGather (aQuery 6)) aGather 9) v rs ∧
      rs ≠ []) ∧
    aTree.gathered 4 0 1 [(0, 0)] = [(0, 0, 0)] ∧ aGather.flag1 = false ∧ blkNat aGather.blk 22 2 + blkNat aGather.blk 24 2 ≤ 16 ∧
    (∀ bs : List Byte, bs.length = 32 → (kvp 0).row bs ≠ none) := by
  obtain ⟨t, bs, h⟩ := reads_of ((arrived (listed aGather (aQuery 6)) aGather 9).pageRead 0 (kvp 0) 0 0 32) (by decide +kernel)
  refine ⟨⟨t, [some (bs, (t.page 0 0).scale)], ?_, nofun⟩, by decide +kernel, by decide +kernel, by decide +kernel, fun _ _ => nofun⟩
  unfold KeysRead
  rw [if_pos (by decide +kernel)]
  exact ⟨t, bs, [], h, ⟨rfl, rfl⟩, rfl⟩

/-- Its transfers: two that leave rows to write, and the last. -/
def transferring (cursor : Nat) : EngOp :=
  { aGather with arrived := true, started := true, reason := 1, pool := some 0, cursor, buf := List.replicate (146 * 64) 0 }

theorem witness_ServiceEvents_transfers (n : Nat) : OpHere (working (transferring n)) 0 7 (transferring n) ∧
    (transferring n).kind = .tt 9 ∧ (transferring n).arrived = true ∧ (transferring n).done = false ∧ (transferring n).reason = 1 ∧
    (transferring n).buf.length = 146 * 64 :=
  ⟨here_of _ ⟨rfl, rfl, rfl, rfl⟩, rfl, rfl, rfl, rfl, List.length_replicate⟩

/-- PFXPUB of the root's first block, PFXQ of it, and what the directory holds of it. -/
def aBlock (sub : Nat) (flags : Byte) : EngOp := ttWith sub [(4, [3]), (6, [flags]), (8, leBytes 8 77), (16, leBytes 4 0x40), (20, leBytes 4 0)]
def publishingAs (sub : Nat) (flags : Byte) (leases : Option (List (Nat × Nat))) : State :=
  { listed (aBlock sub flags) (aQuery 6) with pfxDir := match leases with
      | some l => [{ hash := pfxHash 77 [3, 7, 2, 6], holder := 0, pool := 0, page := 0, leases := l }]
      | none => [] }

theorem witness_ServiceEvents_prefix_block : (∀ sub ∈ [11, 12], ∀ f ∈ [(0 : Byte), 2], ∀ l ∈ [none, some [], some [(1, 2)]],
      let s := publishingAs sub f l
      s.pfxHome (pfxHash 77 [3, 7, 2, 6]) = s.dev.toNat ∧ (s.pfxFind (pfxHash 77 [3, 7, 2, 6])).isSome = l.isSome ∧
      (s.pfxHeld (pfxHash 77 [3, 7, 2, 6])).isSome = l.isSome ∧
      listAt s (aBlock sub f) 0x40 16 = some (aQuery 6) ∧ 0x40 + 16 ≤ (s.core 0).spadSize) ∧
    (aTree.holder 3 3).map Prod.fst = some 0 ∧ aTree.pageOf 4 0 (aNode 0xFFFF 0 2 0 6 2 [0, 1]) 3 = some 0 ∧
    (∀ i < 4, aTree.holder 3 (0 + i) ≠ none) ∧ aTree.holder 3 8 = none := by decide +kernel

/-- PFXATT of one query on a block that is held here. -/
def anAttend : EngOp := ttWith 13 [(8, leBytes 8 5), (16, leBytes 4 0x40), (20, [1]), (24, leBytes 4 0x3F800000), (28, leBytes 4 0x200)]
def attending : State := { kv 0 anAttend [] [] with pfxDir := [{ hash := 5, holder := 0, pool := 0, page := 0 }] }

theorem witness_ServiceEvents_attend : Reaches attending 0 7 anAttend 13 ∧ attending.pfxHome 5 = attending.dev.toNat ∧
    (attending.pfxFind 5).isSome = true ∧ (attending.pfxFind 6) = none ∧ (attending.pfxHeld 5).isSome = true ∧
    (∃ t kb, (arrived attending anAttend 13).pageRead 0 (kvp 0) 0 0 128 = (t, .ok kb)) ∧
    (∀ c < 8, evCount (attRow 0x3F800000 (List.replicate 16 (.fin false 0 0)) (List.replicate 4 (List.replicate 16 (.fin false 0 0)))
      (List.replicate 4 (List.replicate 16 (.fin false 0 0)))).2 c = 0) ∧
    0x200 + 1 * (8 + 4 * 16) ≤ (attending.core 0).spadSize :=
  ⟨⟨⟨rfl, rfl, fun _ h => absurd h List.not_mem_nil, rfl, by decide +kernel, rfl, nofun, rfl, rfl⟩, rfl,
      stores_of anAttend ⟨rfl, rfl⟩, ⟨rfl, rfl, rfl, rfl⟩, by decide +kernel⟩, by decide +kernel, by decide +kernel, by decide +kernel,
    by decide +kernel, reads_of _ (by decide +kernel), by decide +kernel, by decide +kernel⟩

/-- A TPRUNE that has ended, while nothing else is left to run, and while a copy of a pruned generation is. -/
def pruneEnded : EngOp := { ttWith 5 [] with done := true, arrived := true, out := List.replicate 14 0 }
def pruning (ops : List EngOp) : State := { kv 0 pruneEnded [(0, aTree)] aTreePages with ops := pruneEnded :: ops }

theorem witness_ServiceEvents_prune : EndsPrune (pruning []) pruneEnded 5 aTree ∧ Quieted (pruning []) pruneEnded ∧
    ¬ Quieted (pruning [{ aCopy 0 true with id := 8, blk := List.replicate 56 0 ++ leBytes 8 0x8000000900000000 }]) pruneEnded := by
  refine ⟨⟨rfl, rfl, .inr (.inl rfl)⟩, ⟨by decide +kernel, by decide +kernel⟩, fun h => ?_⟩
  have := h.1 _ (List.mem_cons_of_mem _ List.mem_cons_self) (by decide)
  revert this
  decide +kernel

/-- A region of core 0, alone in its instance. -/
def aRegion (irrev : Bool) : Region := { order := 1, core := 0, place := 0, lane := 0, irrev }

/-- Its thread, with a state of FARS, what it waits for and its clock; a version that it has written. -/
def inRegionAs (st : Nat) (w : List Waiting) (clock : Nat) (irrev : Bool) : State :=
  { unit { far := { next := 2, regions := [(0, aRegion irrev)]
                    versions := if irrev then [] else [{ slot := 0, asid := 1, line := 0x400, pa := 0x10000, bytes := [(3, 9)] }] } }
      { pair2 with lanes := [(0, { lane [] with far := { state := st }, waits := w })] } [0] with xc := mapped.xc, clock }

theorem witness_RegionEvents (st : Nat) (w : List Waiting) (n : Nat) (b : Bool) (h : st = 1 ∨ st = 2) :
    HasRegion (inRegionAs st w n b) 0 0 0 (false, 0) 0 (aRegion b) ∧ OldestOf (inRegionAs st w n b) (false, 0) (aRegion b) ∧
    ((inRegionAs st w n b).thread 0 0 0).waits = w :=
  ⟨⟨rfl, h, rfl, rfl, rfl⟩, fun x hx => by
    have : x = (0, aRegion b) := List.mem_singleton.mp hx
    exact this ▸ le_rfl, rfl⟩

theorem witness_RegionEvents_commit : (inRegionAs 2 [⟨{}, .fare 3⟩] 100 false).fenceDone 0 0 0 1 = true ∧
    ((inRegionAs 2 [⟨{}, .fare 3⟩] 100 false).thread 0 0 0).far.state = 2 ∧
    (((inRegionAs 2 [] 100 false).inst (false, 0)).versions.filter fun w => decide (w.slot = 0)) =
      [{ slot := 0, asid := 1, line := 0x400, pa := 0x10000, bytes := [(3, 9)] }] ∧
    (inRegionAs 1 [] Config.farMaxClocks false).clock - ((inRegionAs 1 [] Config.farMaxClocks false).thread 0 0 0).farSince =
      Config.farMaxClocks := by decide

/-- A region that wrote nothing and waits to go on irrevocably. -/
def willBe : State :=
  unit { far := { next := 2, regions := [(0, aRegion false)] } }
    { pair2 with lanes := [(0, { lane [] with far := { state := 1 }, waits := [⟨{}, .irrevocable⟩] })] } [0]

theorem witness_RegionEvents_irrevocable : HasRegion willBe 0 0 0 (false, 0) 0 (aRegion false) ∧ (aRegion false).irrev = false ∧
    (willBe.inst (false, 0)).versions = [] ∧ (∃ w ∈ (willBe.thread 0 0 0).waits, w.kind = .irrevocable) ∧
    (willBe.core 0).loads = [] :=
  ⟨⟨rfl, .inl rfl, rfl, rfl, rfl⟩, rfl, rfl, by decide, rfl⟩

theorem witness_RegionEvents_counts : ((inRegionAs 1 [] 9 false).core 0).halted = false ∧
    ((inRegionAs 1 [] 9 false).thread 0 0 0).waits = [] ∧ (∃ w ∈ ((inRegionAs 1 [⟨{}, .brk⟩] 9 false).thread 0 0 0).waits, w.kind = .brk) := by
  decide

/-- The read of an atomic of an aborted region is still to be made. -/
def reading : State :=
  queued 0 [] { aUnit (.rmw 0 true true) false with accs := [{ ea := 0x10000, dest := 2, dropped := true }] }

theorem witness_RegionEvents_reads : ∃ u ∈ (reading.group 0 0).sq, u.op.returns = true ∧
    ∃ a ∈ u.accs, a.lane = 0 ∧ a.dropped = true ∧ a.done = false := by decide

theorem witness_RegionEvents_resume : ((waiting [⟨{}, .landing⟩] []).group 0 0).present = true ∧
    (∃ w ∈ ((waiting [⟨{}, .landing⟩] []).thread 0 0 0).waits, w.kind = .landing) ∧
    ((waiting [⟨{}, .landing⟩] []).core 0).loads = [] ∧
    (∃ r ∈ ((loadingAs 0 [] (aLoad true)).core 0).loads, r.place = 0 ∧ r.lane = 0) := by decide

/-- A deterministic launch of one logical block a core, of `total` workgroups. -/
def segmented (total : Byte) : Launch :=
  { job with hdr := { bytes := (((fetchHeader.bytes.set 6 2).set 69 1).set 72 5).set 40 total }, flushes := 0 }

/-- Its first wave, in a state of it, with what its threads wait for and the records of its core. -/
def flushing (total : Byte) (x : Wg) (w : List Waiting) (det : List DetRec) (flushes : Nat) : State :=
  { unit { det } { pair2 with lanes := [(0, { lane [] with waits := w })] } [0] with
    xc := mapped.xc, pageHome := [(2 ^ 41 + 1, 0)], wgs := [(0, x)]
    launches := [(0, { segmented total with flushes })], timeFs := 5001 * 10 ^ 6 }

/-- The wave runs, and its thread has arrived at flush 0. -/
def atFlush (det : List DetRec) : State := flushing 1 { groups := 1, places := [0] } [⟨{}, .dflush 0⟩] det 0

theorem at_flush (det : List DetRec) : AtFlush (atFlush det) 0 :=
  ⟨show (segmented 1).hdr.det = true by decide, rfl, fun x hx => by
    have : x = (0, { groups := 1, places := [0] }) := List.mem_singleton.mp hx
    exact this ▸ ⟨rfl, rfl⟩, ⟨(0, { groups := 1, places := [0] }), List.mem_singleton.mpr rfl, nofun⟩⟩

/-- A record: word 0x10000 gains 5. -/
def aRecord : DetRec :=
  { wave := 0, block := 0, thread := 0, seq := 0, ea := 0x10000, asid := 1, member := 0, wide := false, operand := 5
    place := 0, lane := 0, word := 0, unit := 0 }

theorem witness_SegmentEvents_flush : (atFlush []).detRecords 0 = [] ∧ (atFlush [aRecord]).detRecords 0 = [(0, aRecord)] ∧
    finds ((atFlush [aRecord]).check 0 1 0x10000 4 { write := true, atomic := true }) (deviceOk 4) = true := by decide +kernel

/-- The wave has ended its segment, and has another workgroup or none. -/
def segmentOver (total : Byte) : State := flushing total { groups := 1, places := [0], st := .ended } [] [] 1

theorem witness_SegmentEvents : (segmentOver 1).waveWg 0 0 = some (0, { groups := 1, places := [0], st := .ended }) ∧
    (segmentOver 1).waveStored 0 = true ∧ ((segmentOver 1).launch 0).hdr.det = true ∧
    ((segmentOver 1).launch 0).hdr.total ≤ 0 + ((segmentOver 1).launch 0).hdr.waveCount ∧
    0 + ((segmentOver 73).launch 0).hdr.waveCount < ((segmentOver 73).launch 0).hdr.total ∧
    ((segmentOver 73).launch 0).saveAt ≠ some 0 ∧ ((segmentOver 73).launch 0).stopped = false ∧
    (atFlush []).waveWg 0 0 = some (0, { groups := 1, places := [0] }) ∧
    0 + ((atFlush []).launch 0).hdr.segBound * 1000 < (atFlush []).timeNs ∧ (atFlush []).timeNs = 5001 := by decide

/-- Task 0 of a table of 8, in address space 1 with a page at 0x10000, and bytes of memory. -/
def tasked (x : HtsTask) (bs : List (Nat × List Byte)) : State :=
  bs.foldl (fun s b => s.poke b.1 b.2)
    { State.reset with
      htsTsz := 8, timeFs := 600000 * 10 ^ 6, xc := mapped.xc, pageHome := [(2 ^ 41 + 1, 0)], tasks := [(0, x)]
      htsRange := [(1, 0x8000000700000000)] }

/-- The fields of a record: counter, STATE, POLICY, header, ASID and completion word. -/
def aTask (count : Nat) (st pol : Byte) (hdr cword : Nat) : List (Nat × List Byte) :=
  [(0, leBytes 4 count), (6, [st, pol]), (8, leBytes 8 hdr), (24, [1, 0]), (40, leBytes 8 cword)]

theorem counts_of (s : State) (t : Nat) (h : t < s.tsz ∧ s.taskState t = 1 ∧ (s.task t).phase = 0) : Counts s t := h

theorem witness_TaskEvents_counts : Counts (tasked {} (aTask 2 1 0 0 0)) 0 ∧ Counts (tasked {} (aTask 1 1 5 0 0)) 0 ∧
    ¬ Counts (tasked {} (aTask 2 2 0 0 0)) 0 ∧ (tasked {} (aTask 2 1 0 0 0)).taskNat 0 0 4 - 1 ≠ 0 ∧
    (tasked {} (aTask 1 1 5 0 0)).taskNat 0 0 4 - 1 = 0 := by unfold Counts; decide +kernel

theorem witness_TaskEvents_decrement : ([⟨3, 1, false, 0⟩] ++ ⟨0, 1, true, 8⟩ :: [⟨0, 1, true, 8⟩] : List Decrement) =
      [⟨3, 1, false, 0⟩, ⟨0, 1, true, 8⟩, ⟨0, 1, true, 8⟩] ∧
    (∀ x ∈ ([⟨3, 1, false, 0⟩] : List Decrement), x.from_ ≠ 8) ∧ (∃ x ∈ ([⟨3, 1, false, 8⟩] : List Decrement), x.from_ = 8) ∧ (0x100000001 : BitVec 64).toNat < 2 ^ 33 ∧
    2 ^ 33 ≤ (0x200000000 : BitVec 64).toNat := by decide

theorem witness_TaskEvents_aging : (tasked { phase := 2 } (aTask 0 2 0 0 0)).taskState 0 = 2 ∧
    min 6 (((tasked { phase := 2 } (aTask 0 2 0 0 0)).timeNs - 0) / 500000) = 1 := by decide +kernel

/-- A launch header of one workgroup. -/
def aHeader : List Byte := [0x48, 0x39, 0x5A, 0x4D, 1] ++ fetchHeader.bytes.drop 5

/-- Bytes that are read for a task. -/
def readsFor (r : State × Except Stop (List Byte)) (f : State → List Byte → Bool) : Bool := match r with
  | (u, .ok b) => f u b
  | _ => false

/-- Task 0, whose header is to be read. -/
def checking (hdr : Nat) (b : List Byte) : State := tasked { phase := 1 } (aTask 0 2 0 hdr 0 ++ [(0x10000, b)])

theorem witness_TaskEvents_header : readsFor ((checking 0x10000 aHeader).taskRead 0 0x10000 128) (fun u b =>
      b == aHeader && (headerFault b 0x10000 u.dies).isNone) = true ∧
    readsFor ((checking 0x10000 []).taskRead 0 0x10000 128) (fun _ b => decide (blkNat b 0 4 ≠ 0x4D5A3948)) = true ∧
    readsFor ((checking 0x10000 (aHeader.set 4 2)).taskRead 0 0x10000 128) (fun _ b => decide (blkNat b 4 2 ≠ 1)) = true ∧
    headerFault (aHeader.set 8 1) 0x10000 2 = some 6 ∧ headerFault aHeader 0x10FC0 2 = some 5 := by decide +kernel

/-- Task 0 at an end of a phase, without a launch. -/
def ending (phase cword doneAt : Nat) : State :=
  tasked { phase, doneAt, status := 2, detail := 1 } (aTask 0 5 0 0x10000 cword ++ [(0x10000, aHeader)])

/-- Its launch has no workgroup left. -/
def launchOver : State := { ending 3 0 0 with launches := [(0, { job with stopped := true })] }

theorem witness_TaskEvents_launch : (launchOver.task 0).phase = 3 ∧ launchOver.wgs = [] ∧ (launchOver.launch 0).stopped = true ∧
    launchOver.launchDrained 0 = true := by decide +kernel

theorem witness_TaskEvents_completion :
    readsFor ((ending 4 0 0).taskRead 0 0x10000 128) (fun _ b => b == aHeader) = true ∧ (ending 5 0 0).taskNat 0 40 8 = 0 ∧
    (ending 5 0x10080 0).taskNat 0 40 8 = 0x10080 ∧ 0 < (ending 6 0 0).tsz ∧
    readsFor ((ending 7 0 0x10100).taskRead 0 0x10100 8) (fun u b => leNat b == 0 &&
      readsFor (u.taskRead 0 0x10108 0) (fun _ b => b == [])) = true := by decide +kernel

theorem witness_TaskEvents_word : ∃ u loc, DeviceMay (ending 5 0x10080 0) u 0 1 0x10080 8 deviceWord loc :=
  device_of _ _ _ _ _ _ (by decide +kernel)

/-- A header with other bytes. -/
def headerWith (bs : List (Nat × Byte)) : Header := { bytes := bs.foldl (fun b x => b.set x.1 x.2) fetchHeader.bytes }

/-- Task 0 waits for a place, or runs, with a launch. -/
def placing (phase : Nat) (bs : List (Nat × Byte)) : State :=
  { State.reset with htsTsz := 8, tasks := [(0, { phase })], launches := [(0, { hdr := headerWith bs, asid := 1 })] }

/-- What MayStart asks, as a test. -/
def mayStart (s : State) (task core : Nat) : Bool :=
  decide (s.boot = .running) && decide (core < s.coreCount) &&
  (decide ((s.task task).phase = 2 ∧ s.heads task = true) || decide ((s.task task).phase = 3)) &&
  !(s.launch task).stopped && decide ((s.launch task).nextWg < (beginsOn s task core).startable) &&
  (beginsOn s task core).mayRunOn (s.launch task).nextWg (core / 72) &&
  (s.savedImages task).all (fun y => s.badGeometry y.2) && s.reserveAllows core task &&
  (!(s.launch task).hdr.det || s.waveMay task core (s.launch task).nextWg)

theorem may_start (s : State) (task core : Nat) (h : mayStart s task core = true) : MayStart s task core := by
  simp only [mayStart, Bool.and_eq_true, Bool.or_eq_true, decide_eq_true_eq, Bool.not_eq_true', List.all_eq_true] at h
  obtain ⟨⟨⟨⟨⟨⟨⟨⟨h1, h2⟩, h3⟩, h4⟩, h5⟩, h6⟩, h7⟩, h8⟩, h9⟩ := h
  exact ⟨h1, h2, h3, h4, h5, h6, h7, h8, fun e => h9.resolve_left (by simp [e])⟩

/-- A cooperative launch of one workgroup and of two, one that is not cooperative, one that runs, and one without a
place on core 80. -/
theorem witness_PlacementEvents_starts : MayStart (placing 2 []) 0 80 ∧ MayStart (placing 2 [(40, 2)]) 0 80 ∧
    MayStart (placing 2 [(6, 0)]) 0 80 ∧ MayStart (placing 3 []) 0 5 ∧ MayStart (placing 2 [(64, 1)]) 0 80 :=
  ⟨may_start _ _ _ (by decide +kernel), may_start _ _ _ (by decide +kernel), may_start _ _ _ (by decide +kernel),
    may_start _ _ _ (by decide +kernel), may_start _ _ _ (by decide +kernel)⟩

theorem witness_PlacementEvents_spots : ((placing 2 []).findSpot 80 0 0 []).isSome = true ∧
    ((placing 2 [(40, 2)]).findSpot 80 0 0 []).isSome = true ∧ ((placing 2 [(6, 0)]).findSpot 80 0 0 []).isSome = true ∧
    (placing 2 [(64, 1)]).findSpot 80 0 0 [] = none := by decide +kernel

/-- Every core of an MZ9-S holds a workgroup of task 1; task 0, of PRIO 5, wants another carve-out. -/
def crowded : State :=
  { placing 2 [(64, 1)] with
    part := .mz9S, htsCtxsz := 64
    cores := (List.range 72).map fun c => (c, { groups := [(0, { pair2 with wg := c })] })
    wgs := (List.range 72).map fun c => (c, { task := 1, core := c, groups := 1, places := [0] })
    tasks := [(0, { phase := 2 }), (1, { phase := 3 })]
    launches := [(0, { hdr := headerWith [(64, 1)] }), (1, { hdr := headerWith [(6, 0)], go := true, started := some 7 })]
    mem := (State.reset.poke 4 [5]).mem }

/-- What NoPlace asks, as a test. -/
def noPlace (s : State) (task : Nat) : Bool :=
  decide ((s.task task).phase = 2) && (List.range s.coreCount).all fun c =>
    !((s.anySpot c task 0 []).isSome && s.reserveAllows c task) && !s.roomComing task c

theorem no_place (s : State) (task : Nat) (h : noPlace s task = true) : NoPlace s task := by
  simp only [noPlace, Bool.and_eq_true, decide_eq_true_eq, List.all_eq_true, List.mem_range, Bool.not_eq_true'] at h
  exact ⟨.inl h.1, fun c hc _ => ⟨fun e => by simpa [e.1, e.2] using (h.2 c hc).1, (h.2 c hc).2⟩⟩

theorem witness_PlacementEvents_preempt : NoPlace crowded 0 := no_place _ _ (by decide +kernel)

theorem witness_PlacementEvents_victim : crowded.mayUse 0 3 = true ∧ crowded.ctxSize ≠ 0 ∧ crowded.chosen 0 3 = some [3] ∧
    (crowded.launch (crowded.wg 3).task).hdr.coop = false ∧ (crowded.launch (crowded.wg 3).task).hdr.det = false ∧
    (crowded.wg 3).preempt = none ∧ crowded.ctxRoom [3] = true := by decide +kernel

theorem witness_PlacementEvents_cost (c : Nat) (vs : List Nat) (hc : c < crowded.coreCount)
    (h : crowded.chosen 0 c = some vs) : crowded.cost [3] ≤ crowded.cost vs := by
  have key : (List.range 72).all (fun c => match crowded.chosen 0 c with
    | some vs => decide (crowded.cost [3] ≤ crowded.cost vs)
    | none => true) = true := by decide +kernel
  have := List.all_eq_true.mp key c (List.mem_range.mpr hc)
  rw [h] at this
  exact of_decide_eq_true this

/-- A thread that is to leave, with or without a handler for it. -/
def leavingAs (handler : Byte) : State :=
  { unit {} { pair2 with lanes := [(0, { lane [] with preempt := true })] } [] with
    htsCtxsz := 64
    launches := [(0, { job with hdr := headerWith [(6, 0), (25, handler)] })]
    cur := {}
    timeFs := 50000 * 10 ^ 6
    wgs := [(0, { groups := 1, places := [0], preempt := some 10000 })] }

theorem witness_PlacementEvents_leave : (leavingAs 0).preemptible 0 0 0 = true ∧ (leavingAs 0x20).preemptible 0 0 0 = true ∧
    ((leavingAs 0).launchOf 0 0).hdr.preempt = 0 ∧ ((leavingAs 0x20).launchOf 0 0).hdr.preempt ≠ 0 ∧
    ((leavingAs 0).thread 0 0 0).waits = [] ∧ 10000 + 40000 ≤ (leavingAs 0x20).timeNs ∧ (leavingAs 0x20).wgQuiet 0 = true ∧
    ((leavingAs 0x20).ctxFree (unitsOf ((leavingAs 0x20).launch 0).hdr.fullBytes)).isSome = true ∧
    ({ leavingAs 0 with htsCtxsz := 0 } : State).ctxFree (unitsOf ((leavingAs 0).launch 0).hdr.fullBytes) = none := by
  decide +kernel

/-- A workgroup of task 0 that has been saved on core 3. -/
def saved : State :=
  { placing 3 [(6, 0)] with
    wgs := [(4, { groups := 1, st := .saved, core := 3 })]
    images := [(9, { wg := 4, core := 3, groups := [(0, { pair2 with wg := 4 })] })] }

theorem witness_PlacementEvents_restore : (saved.savedImages 0).length = 1 ∧ (saved.savedImages 0).map Prod.fst = [9] ∧
    (saved.launch 0).mayRunOn (saved.wg 4).number (5 / 72) = true ∧ saved.wgDrained 4 = true ∧
    (saved.modLaunch 0 fun l => { l with refused := [] }).reserveAllows 5 0 = true ∧
    ((saved.modLaunch 0 fun l => { l with refused := [] }).anySpot 5 0 (saved.wg 4).base []).isSome = true ∧
    (saved.images.map fun x => saved.badGeometry x.2) = [false] := by decide +kernel

/-- The last saved workgroup of a cooperative launch, all of whose workgroups have started or not. -/
def savedTogether (started : Nat) : State :=
  { saved with launches := [(0, { hdr := headerWith [(40, 2)], asid := 1, nextWg := started })] }

theorem witness_PlacementEvents_together : ((savedTogether 2).launch 0).hdr.coop = true ∧ ((savedTogether 2).launch 0).hdr.det = false ∧
    (savedTogether 2).boot = .running ∧ ((savedTogether 2).task 0).phase = 3 ∧ ((savedTogether 2).launch 0).stopped = false ∧
    5 < (savedTogether 2).coreCount ∧ ((savedTogether 2).savedImages 0).map Prod.fst = [9] ∧
    (savedTogether 2).images.map (fun x => (savedTogether 2).badGeometry x.2) = [false] ∧
    ((savedTogether 2).launch 0).refused = [] ∧ ((savedTogether 2).launch 0).mayRunOn ((savedTogether 2).wg 4).number (5 / 72) = true ∧
    (savedTogether 2).wgDrained 4 = true ∧
    ((savedTogether 2).modLaunch 0 fun l => { l with refused := [] }).reserveAllows 5 0 = true ∧
    (((savedTogether 2).modLaunch 0 fun l => { l with refused := [] }).anySpot 5 0 ((savedTogether 2).wg 4).base []).isSome = true ∧
    (∀ y ∈ (savedTogether 2).wgs, y.2.task = 0 → y.2.preempt = none ∧ ∀ x ∈ (savedTogether 2).images, x.2.wg = y.1 → x.2.manual = false) ∧
    ((savedTogether 2).launch 0).startable ≤ ((savedTogether 2).launch 0).nextWg ∧
    ((savedTogether 1).launch 0).nextWg < ((savedTogether 1).launch 0).startable := by decide +kernel

/-- A launch that has run for 3 µs, with a WATCHDOG of 2 µs. -/
def overdue : State :=
  { two with timeFs := 3000 * 10 ^ 6, launches := [(0, { job with hdr := headerWith [(28, 2)] })] }

theorem witness_PlacementEvents_watchdog : (overdue.task 0).phase = 3 ∧ (overdue.launch 0).hdr.watchdog * 1000 < overdue.runTime (overdue.launch 0) ∧
    (overdue.launch 0).hdr.watchdog ≠ 0 ∧ (overdue.launch 0).watchdog = false := by decide +kernel

/-- An elastic launch of two workgroups whose threads wait at a STEP, on a die set. -/
def stepping (dieset : BitVec 2) : State :=
  { unit {} { pair2 with lanes := [(0, { lane [] with waits := [⟨{}, .step⟩] })] } [] with
    launches := [(0, { job with hdr := headerWith [(6, 0), (40, 2), (68, 9)], dieset })]
    cur := {} }

theorem witness_PlacementEvents_dieset : (∀ d ∈ [(1 : BitVec 2), 3], ((stepping d).launch 0).elastic = true ∧ (stepping d).stepHeld 0 = true) ∧
    ((stepping 1).addDie 0).isSome = true ∧ ((stepping 3).dropDie 0).isSome = true ∧
    (({ stepping 1 with cores := [], part := .mz9S, launches := [(0, { job with hdr := headerWith [(6, 0), (40, 2), (68, 9), (64, 1)] })] } : State).addDie 0).isSome = false := by
  decide +kernel

/-- A route entry: paths of one hop over links 1, 2 and 3, and which is selected. -/
def aRoute (sel : Nat) : Dword :=
  BitVec.ofNat 64 (2 ^ 52 + sel * 2 ^ 53 + 2 * (0x8400 + 2 ^ 17 * 0x8800 + 2 ^ 34 * 0x8C00))

/-- Module 0 with a route to module 9, some links down, and a packet. -/
def routing (sel : Nat) (down : List (List Nat)) (p : Packet) : State :=
  { State.reset with routes := [(9, aRoute sel)], linksDown := down, packets := [p] }

/-- A packet of this module for a module, and one of another module on its way. -/
def ours (dst : Nat) : Packet := { src := 0, dst, hops := 0, vc := 1, path := 0, payload := [1] }
def passing (hops : Nat) : Packet := { src := 3, dst := 9, hops, vc := 1, path := 0x18440, payload := [1] }

theorem witness_FabricEvents_packets : hopLink (pathOf (aRoute 0) (selOf (aRoute 0))) 0 = 1 ∧ hopCount (pathOf (aRoute 0) 0) = 1 ∧
    (aRoute 0).getLsbD 0 = false ∧ (aRoute 0).getLsbD 52 = true ∧ (passing 1).hops ≤ 2 ∧
    (passing 1).hops < hopCount (passing 1).path ∧ [hopLink (passing 1).path 1] ∉ (routing 0 [] (passing 1)).linksDown ∧
    hopLink (passing 1).path 1 = 2 ∧ hopCount (passing 3).path ≤ 3 ∧ ((routing 0 [] (ours 9)).routes.get 0 7).getLsbD 52 = false := by
  decide

/-- The failure of link 1 leaves path 1, path 2 or none; that of link 7 concerns no route. -/
theorem witness_FabricEvents_links : (routing 0 [] (ours 9)).routes = [(9, aRoute 0)] ∧
    hopLink (pathOf (aRoute 0) ((selOf (aRoute 0) + 1) % 3)) 0 = 2 ∧ hopLink (pathOf (aRoute 0) ((selOf (aRoute 0) + 2) % 3)) 0 = 3 ∧
    hopCount (pathOf (aRoute 0) 1) ≠ 0 ∧ hopLink (pathOf (aRoute 2) (selOf (aRoute 2))) 0 = 3 ∧
    (∀ r ∈ (routing 0 [] (ours 9)).routes, hopLink (pathOf r.2 (selOf r.2)) 0 ≠ 7) ∧
    ([2] ∈ (routing 0 [[2]] (ours 9)).linksDown ∧ [3] ∈ (routing 0 [[2], [3]] (ours 9)).linksDown) ∧
    [1] <+: (List.range (hopCount (pathOf (aRoute 0) 0))).map (hopLink (pathOf (aRoute 0) 0)) ∧
    ¬ [7] <+: (List.range (hopCount (pathOf (aRoute 0) 0))).map (hopLink (pathOf (aRoute 0) 0)) ∧
    ¬ [2, 5] <+: (List.range (hopCount (pathOf (aRoute 0) 1))).map (hopLink (pathOf (aRoute 0) 1)) := by decide

/-- A packet of this module comes first of its class, and after another of its core. -/
theorem witness_FabricEvents_order : (routing 0 [] (ours 9)).packets = [] ++ ours 9 :: [] ∧
    (∀ before rest, ({ routing 0 [] (ours 9) with packets := [{ ours 9 with vc := 3 }, ours 9] } : State).packets =
      before ++ ours 9 :: rest → ∃ q ∈ before, q.src = (ours 9).src ∧ q.core = (ours 9).core ∧ q.dst = (ours 9).dst ∧
        q.vc % 2 = (ours 9).vc % 2) := by
  refine ⟨rfl, fun before rest h => ?_⟩
  cases before with
  | nil => exact absurd (List.cons.inj h).1 (by decide)
  | cons q _ => exact ⟨q, List.mem_cons_self, (List.cons.inj h).1 ▸ by decide⟩

/-- A request to module 9 that is not acknowledged, and a packet whose request has ended. -/
def resending (known : Bool) : State :=
  { routing 0 [] (ours 9) with
    remotes := if known then [(4, { target := 9, op := .read 8 })] else [], sent := [(4, { ours 9 with vc := 0 })] }

theorem witness_FabricEvents_resend : (∃ q, (resending true).sent = [(4, q)] ∧ q.dst = 9) ∧
    ((resending true).remotes.find? 4).isSome = true ∧ (resending false).remotes.find? 4 = none ∧
    (∀ o ∈ (resending false).ops, o.id ≠ 4) := ⟨⟨_, rfl, rfl⟩, rfl, rfl, fun _ h => absurd h List.not_mem_nil⟩

theorem witness_FabricEvents_modules : (∀ r ∈ (routing 0 [] (ours 9)).remotes, r.2.target ≠ 4) ∧
    ((routing 0 [] (ours 9)).routes.get 0 9).getLsbD 52 = true ∧ ((routing 0 [] (ours 9)).routes.get 0 8).getLsbD 52 = false ∧
    4 ≠ (routing 0 [] (ours 9)).dev.toNat := by decide

/-- A remote signal of address space 1: to a word, and to a task. -/
def aSignal (kind : Nat) (target : Dword) : RsigMsg := { kind, asid := 1, target, operand := 0x4000000000000003 }

theorem witness_FabricEvents_signals : (tasked {} []).inRange 1 7 = true ∧ (tasked {} []).inRange 1 8 = false ∧
    (0, 0, false) ∉ (tasked {} []).heard ∧ (0, 0, false) ∈ ({ tasked {} [] with heard := [(0, 0, false)] } : State).heard ∧
    (aSignal 3 7).kind ≠ 0 ∧ (aSignal 1 7).target.toNat % 2 ^ 18 = 7 ∧ (aSignal 0 0x10000).target.getLsbD 56 = false := by decide +kernel

/-- The state with the signal's operation begun. -/
def signalled : State :=
  { tasked {} [] with heard := [(0, 0, false)], packets := [{ src := 0, dst := 0, hops := 0, vc := 1, path := 0, payload := leBytes 8 0 }]
                      ops := [{ id := 1, kind := .pgreq, asid := 1, target := 0x10000, task := 2 ^ 32, blk := leBytes 8 0x4000000000000003 }]
                      nextId := 2 }

theorem witness_FabricEvents_word : ∃ t loc, DeviceMay signalled t 0 1 0x10000 8 deviceWord loc :=
  device_of _ _ _ _ _ _ (by decide +kernel)

/-- Core 2 is halted to quiesce, until a time. -/
def stopping (ops : List EngOp) (t : Nat) : State :=
  { State.reset with timeFs := 700 * 10 ^ 6, cores := [(2, { halted := true, haltQuiesce := true, haltBy := t })], ops }

theorem witness_HostEvents : State.reset.boot = .running ∧ State.reset.hostMay 0x10000 16 true = true ∧
    (speculating 1).hostMay 0x10000 16 true = true ∧ (0x10000 : BitVec 52).toNat % 16 = 0 ∧
    (inRegionAs 1 [] 0 false).boot = .running ∧
    ({ inRegionAs 1 [] 0 false with l2 := [(homeKey 0 1 0x400, { pa := 0x10000 })] } : State).hostMay 0x10000 16 true = false ∧
    ((stopping [] 0).core 2).quiesced = false ∧ (stopping [] 0).inflight 2 = 0 ∧
    (stopping [{ aCopy 1 false with core := 2, started := true, elems := [(0, 0x40, 0)] }] 0).inflight 2 ≠ 0 ∧
    (stopping [] 0).timeNs = 700 ∧ 143 < State.reset.coreCount ∧ State.reset.coreCount ≤ 144 ∧ 1 < State.reset.dies := by
  decide +kernel

/-- Bytes of memory at addresses. -/
def bytesAt (bs : List (Nat × List Byte)) : List Host.Cell := (bs.foldl (fun s b => s.poke b.1 b.2) State.reset).mem

/-- A vocabulary of the bytes, in which `A` alone has a string. -/
def aVocabulary : List (Nat × List Byte) :=
  [(0x10000, leBytes 4 0x4D5A5642 ++ List.replicate 12 0 ++ leBytes 8 0x400 ++ leBytes 8 0x600 ++ leBytes 8 0x800 ++
      leBytes 8 0x1000 ++ leBytes 8 0x900 ++ leBytes 8 0 ++ [0x41]), (0x11000 + 8 * 65, [0x40, 0, 0, 0, 0, 1, 0, 0])]

/-- A message: its model, text and MAXTOK, as a record of the ring at 0x800000 from connection 5. -/
def aRecordOf (magic : Nat) (maxtok : Nat) : List (Nat × List Byte) :=
  [(0x800000, leBytes 4 33 ++ leBytes 4 5 ++ List.replicate 8 0 ++ leBytes 4 magic ++ [1, 1, 0, 0] ++ leBytes 4 7 ++ leBytes 4 1 ++
      leBytes 4 0 ++ leBytes 2 maxtok ++ leBytes 2 0 ++ leBytes 8 0 ++ [0x41])]

/-- Task 3 is a template with a header, in a table at 0x900000. -/
def aTemplate : List (Nat × List Byte) := [(0x900180, [0, 0, 0, 0, 0, 0, 8, 0] ++ leBytes 8 0x10100 ++ List.replicate 8 0 ++ [1]), (0x10100, aHeader)]

/-- Port 0 with a connection, and model 0 with a pool, a vocabulary and an input area. -/
def texting (bs : List (Nat × List Byte)) (p : Port) : State :=
  { tasked {} [] with
    mem := bytesAt (aVocabulary ++ aTemplate ++ bs), htsTbase := 0x900000, pools := [(0, aPool)]
    ports := [(0, { p with ring := 0x800001, conns := [5] })]
    models := [(0, { valid := true, enabled := true, vocab := 0x10000, template := 3, inBase := 0x14000, inSlots := 1, inCap := 16, asid := 1 })] }

/-- A record is in the ring. -/
def posted (magic maxtok : Nat) (failed : Bool) : State := texting (aRecordOf magic maxtok) { wptr := 64, failed }

theorem witness_TextEvents_ring : State.reset.hasPort 4 = false ∧ (posted 0 0 false).hasPort 0 = true ∧
    ((posted 0 0 false).port 0).ring.getLsbD 0 = true ∧ (5 : Word) ∈ ((posted 0 0 false).port 0).conns ∧
    (6 : Word) ∉ ((posted 0 0 false).port 0).conns ∧ (((posted 0 0 false).port 0).wptr - ((posted 0 0 false).port 0).rptr).toNat = 64 ∧
    0x400000 < (((texting [] { wptr := 0x3FFFC0 }).port 0).wptr - 0).toNat + 16 + 49 ∧ (posted 0 0 false).capUnits.getLsbD 0 = true := by
  decide

/-- The text path's work is done, without or with a code. -/
def isDone {α : Type} (r : Except TkStop (State × α)) (f : α → Bool) : Bool := match r with
  | .ok (_, a) => f a
  | _ => false
def isCode {α : Type} (r : Except TkStop (State × α)) (k : Nat) : Bool := match r with
  | .error (.code c) => c == k
  | _ => false

theorem witness_TextEvents_records : ((posted 0 4 false).tkeHead ((posted 0 4 false).port 0)).code = 1 ∧
    ((posted 0x4D5A5452 4 true).tkeHead ((posted 0x4D5A5452 4 true).port 0)).code = 0 ∧
    isCode (tkeRequest 0 ((posted 0x4D5A5452 0 false).tkeHead ((posted 0x4D5A5452 0 false).port 0)) false (posted 0x4D5A5452 0 false)) 6 = true ∧
    isDone (tkeRequest 0 ((posted 0x4D5A5452 4 false).tkeHead ((posted 0x4D5A5452 4 false).port 0)) false (posted 0x4D5A5452 4 false))
      (fun _ => true) = true := by decide +kernel

/-- Session 7 of port 0, with posts and pending bytes. -/
def aSession (posts : List (Nat × Bool)) (n : Nat) (ended : Bool) : Session :=
  { port := 0, conn := 5, session := 7, model := 0, inSlot := 0, maxtok := 4, posts, ended, pendingBytes := List.replicate n 0x42
    stamps := List.replicate n 10, order := (List.range posts.length).map (· + 3) }

/-- The port with the session. -/
def answering (posts : List (Nat × Bool)) (n : Nat) (ended : Bool) : State :=
  { texting [] { sessions := [(2, aSession posts n ended)] } with timeFs := 50000 * 10 ^ 6 }

/-- Two sessions with a post each: the second was made first; a read for it has failed. -/
def contended : State :=
  texting [] { sessions := [(2, { aSession [(65, false)] 3 false with order := [9] }),
    (3, { aSession [(65, false)] 3 false with order := [4], failed := true })] }

theorem witness_TextEvents_order : ∃ y, (3, y) ∈ (contended.port 0).sessions ∧ y.posts = [(65, false)] ∧ y.park = none ∧
    y.ended = false ∧ y.failed = true ∧ (∀ z ∈ (contended.port 0).sessions, z ≠ (3, y) →
      z.2.posts = [] ∨ z.2.park ≠ none ∨ y.order.headD 0 < z.2.order.headD 0) := by
  refine ⟨{ aSession [(65, false)] 3 false with order := [4], failed := true }, ?_⟩
  decide

theorem witness_TextEvents_posts :
    isDone (tkPosted 0 ((answering [(65, false)] 3 false).models.get {} 0) 65 (answering [(65, false)] 3 false)) (· == some [0x41]) = true ∧
    isDone (tkPosted 0 ((answering [(300, false)] 3 false).models.get {} 0) 300 (answering [(300, false)] 3 false)) (· == none) = true ∧
    ({ aSession [] 3 false with pendingBytes := List.replicate 4 0x42 } : Session).sendable.1.length < 1024 ∧
    1 < (aSession [] 3 false).maxtok := by decide +kernel

theorem witness_TextEvents_chunk : 1024 ≤ ({ aSession [] 0 false with pendingBytes := List.replicate 1024 0x42 } : Session).sendable.1.length ∧
    (aSession [] 3 false).sendable.1 ≠ [] ∧ (aSession [] 3 false).stamps.headD 0 + 20000 ≤ (answering [] 3 false).timeNs ∧
    ((answering [] 3 false).port 0).sessions.find? 2 = some (aSession [] 3 false) := by decide +kernel

theorem witness_TextEvents_model : isDone (tkCheck 0 1 0x10000 (texting [] {})) (· == false) = true ∧
    ((texting [] {}).models.get {} 0).valid = true ∧ ((texting [] {}).models.get {} 0).park = none ∧
    isCode (tkCheck 0 1 0x10000 { texting [] {} with poison := [0x400] }) 9 = true := by decide +kernel

/-- A journal with entries in its buffer and in flash, and corrections that have come in. -/
def journaled (buffer flash : List (List Byte)) (full : Bool) : State :=
  { State.reset with journal := { buffer, flash, incoming := [{ clock := 1, time := 900, unit := 3, loc := 4, synd := 5 }], fullBit := full, next := 2 } }

/-- An entry of another place, and one of the same. -/
def anEntry (loc : Nat) : List Byte := leBytes 8 0 ++ leBytes 8 0 ++ leBytes 4 3 ++ leBytes 8 loc ++ leBytes 8 5 ++ leBytes 4 1 ++ List.replicate 24 0

theorem witness_ManagementEvents : (journaled [anEntry 4] [] false).journal.incoming.length = 1 ∧
    blkNat (anEntry 4) 20 8 = 4 ∧ blkNat (anEntry 4) 28 8 = 5 ∧ 900 ≤ blkNat (anEntry 4) 0 8 + 1000000000 ∧
    blkNat (anEntry 9) 20 8 ≠ 4 ∧ 2 % 4096 ≠ 0 ∧ (journaled [anEntry 9] [] false).journal.buffer = [] ++ [anEntry 9] ∧
    (journaled [] [anEntry 9] false).journal.flash = [] ++ [anEntry 9] ∧ (working (aCopy 0 false)).op 7 = some (aCopy 0 false) ∧
    (∀ k < 15, 1000 ≠ 2250 - 75 * k) ∧ 1200 = 2250 - 75 * 14 := by decide +kernel

/-! ### Further cases of the statements -/

/-- A thread with an open region. -/
theorem witness_SyncMembers_region (x : Nat) (h : x ∈ (speculating 1).E) : InRegion (speculating 1) x ∧
    (speculating 1).E = [0] ∧ (speculating 1).curLaunch.hdr.det = false ∧ (speculating 1).flushed x = false := by
  have : x ∈ [0] := h
  rw [List.mem_singleton.mp this]
  exact ⟨Or.inl (by decide), by decide⟩

theorem witness_SyncMembers_spad : (∀ x ∈ mapped.E, SpadSound mapped x ((mapped.v x 6).setWidth 64) 4 ∧ ¬ InRegion mapped x) := by
  intro x h
  have : x ∈ [0] := h
  rw [List.mem_singleton.mp this]
  exact ⟨⟨by decide, by decide, by decide⟩, by unfold InRegion; decide⟩

/-- A line that the home holds, and core 0 in S, at rest. -/
def resting : State :=
  { mapped with
    cores := [(0, { mapped.core 0 with l1 := [(l1Key 1 0x400, { sharedLine with data := 5 })] })]
    l2 := [(homeKey 0 1 0x400, { leaf := leafOf 0, pa := 0x10000 })]
    dir := [(homeKey 0 1 0x400, { st := .s, sharers := [0] })] }

theorem witness_SyncMembers_lines : LinesRest resting where
  msgs := rfl
  dir key := by
    unfold State.dirAt resting Tab.get
    simp only [Tab.find?]
    split <;> rfl
  l1 k hk x hx := by
    rw [List.mem_singleton.mp hk] at hx
    rw [List.mem_singleton.mp hx]
    exact ⟨by decide, 0, { leaf := leafOf 0, pa := 0x10000 }, by decide, by decide⟩
  l2 := by decide
  keys := by decide
  mem := by decide

theorem witness_SyncMembers_covered : resting.E ≠ [] ∧ (∀ x ∈ resting.E, resting.flushed x = false) ∧ resting.sr 2 ≠ 0 ∧
    (resting.sr 1).toNat % 2 ^ 57 < (0x400 : BitVec 51).toNat * 64 + 64 ∧
    (0x400 : BitVec 51).toNat * 64 < (resting.sr 1).toNat % 2 ^ 57 + (resting.sr 2).toNat := by decide

/-- PREF of a line of memory, of a page that is not there, and of one of class 2. -/
theorem witness_SyncMembers_pref :
    finds (mapped.check 0 1 0x10000 1 {}) (fun u loc => decide (loc.leaf.cls < 2) && decide (u.place loc.pa = .memory) &&
      (((u.core 0).l1.find? (l1Key 1 0x400)).isNone) && decide ((u.core 0).l1.length < (u.core 0).l1Lines)) = true ∧
    isOk (mapped.check 0 1 0x20000 1 {}).2 = false ∧
    finds ((mappedWith 0x10).check 0 1 0x10000 1 {}) (fun _ loc => decide (2 ≤ loc.leaf.cls)) = true := by decide +kernel

/-- What a wait has to do with what is parked. -/
def waitOk (x : Option ParkedThing) (core place lane : Nat) (w : Waiting) : Bool := match w.kind with
  | .fetch n => decide (x = some (.fetch core place lane n))
  | .poll a _ _ => a.park.isNone
  | _ => true

/-- The thing is all that is parked, in a state that holds nothing but cores, operations and tasks. -/
def parkedOnly (s : State) (x : Option ParkedThing) : Bool :=
  (s.cores.all fun k => (k.2.loads.all fun r => r.park.isNone || decide (x = some (.load k.1 r))) &&
    (k.2.det.all fun r => r.park.isNone) && k.2.groups.all fun g =>
      (g.2.sq.all fun u => u.accs.all fun a => a.park.isNone || decide (x = some (.queued k.1 g.1 u a))) &&
      g.2.lanes.all fun t => t.2.waits.all (waitOk x k.1 g.1 t.1)) &&
  (s.ops.all fun o => (o.park.isNone || decide (x = some (.op o))) && decide (o.kind ≠ .pgreq)) &&
  s.images.isEmpty && s.remoteIn.isEmpty && (s.tasks.all fun t => t.2.park.isNone) && s.models.isEmpty && s.ports.isEmpty

theorem only_parked (s : State) (x : Option ParkedThing) (h : parkedOnly s x = true) (ho : ∀ y, x = some y → y.Once s) :
    OnlyParked s x := by
  simp only [parkedOnly, Bool.and_eq_true, List.all_eq_true, List.isEmpty_iff, Bool.or_eq_true, Option.isNone_iff_eq_none,
    decide_eq_true_eq] at h
  obtain ⟨⟨⟨⟨⟨⟨hk, hop⟩, hi⟩, hr⟩, ht⟩, hm⟩, hp⟩ := h
  exact {
    loads := fun k h r hr n => ((hk k h).1.1 r hr).resolve_left n
    queues := fun k h g hg u hu a ha n => (((hk k h).2 g hg).1 u hu a ha).resolve_left n
    fetches := fun k h g hg t ht w hw n e => by simpa [waitOk, e] using ((hk k h).2 g hg).2 t ht w hw
    polls := fun k h g hg t ht w hw a d b e => by simpa [waitOk, e] using ((hk k h).2 g hg).2 t ht w hw
    ops := fun o h => ⟨fun n => (hop o h).1.resolve_left n, (hop o h).2⟩
    once := ho
    images := by simp [hi]
    remote := hr
    dets := fun k h r hr => (hk k h).1.2 r hr
    units := ⟨ht, by simp [hm], by simp [hp]⟩ }

/-- A state in which one thing is parked on page 1 of address space 1, and the batch that tells of it. -/
def parking (k : Core) (g : Group) (ops : List EngOp) (cancelled : Bool) : State :=
  { unit k g [0] with
    ops
    gatherers := [(0, { batches := [{ number := 3, opened := 0, closed := 1, delivered := true
                                      entries := [{ asid := 1, page := 1, cancelled }] }] })] }

def parkedAt : Nat := parkKey 0 1 (1 * 2 ^ 16)

def parkedLoad : LoadReq := { aLoad false with park := some parkedAt }
def parkedAcc : SqAcc := { ea := 0x10000, data := 5, dest := 2, park := some parkedAt }
def parkedUnit : SqUnit := { aUnit .store false with accs := [parkedAcc] }
def parkedFetch : Group := { pair2 with lanes := [(0, { lane [] with waits := [⟨{}, .fetch parkedAt⟩] })] }

def parkedOp (kind : EngKind) : EngOp := { aTt 7 with kind, park := some parkedAt }

theorem witness_SystemMembers_parked :
    OnlyParked (parking { loads := [parkedLoad] } pair2 [] false) (some (.load 0 parkedLoad)) ∧
    OnlyParked (parking { loads := [parkedLoad] } pair2 [] true) (some (.load 0 parkedLoad)) ∧
    OnlyParked (parking {} { pair2 with sq := [parkedUnit] } [] true) (some (.queued 0 0 parkedUnit parkedAcc)) ∧
    OnlyParked (parking {} parkedFetch [] true) (some (.fetch 0 0 0 parkedAt)) := by
  refine ⟨only_parked _ _ (by decide) ?_, only_parked _ _ (by decide) ?_, only_parked _ _ (by decide) ?_,
    only_parked _ _ (by decide) ?_⟩ <;> intro y hy <;> rw [← Option.some.inj hy]
  · exact ⟨by decide, by decide⟩
  · exact ⟨by decide, by decide⟩
  · exact ⟨by decide, by decide, by decide, by decide, by decide⟩
  · exact ⟨by decide, by decide, by decide, ⟨{}, .fetch parkedAt⟩, by decide⟩

/-- Operations of the three kinds that end in different ways. -/
theorem witness_SystemMembers_parked_op : ∀ k ∈ [EngKind.tt 7, .smpl 0 5, .tasknew 5, .scat],
    OnlyParked (parking {} pair2 [parkedOp k] true) (some (.op (parkedOp k))) := by
  intro k hk
  refine only_parked _ _ ?_ fun y hy => ?_
  · revert k; decide
  · rw [← Option.some.inj hy]
    clear hy
    unfold ParkedThing.Once
    revert k; decide

theorem witness_SystemMembers_replay : parkedLoad.park = some (parkKey 0 1 (1 * 2 ^ 16)) ∧
    ((parking {} pair2 [] true).batch 0 3).isSome = true ∧ ((parking {} pair2 [] true).gatherer 0).later = [] ∧
    ((parking {} pair2 [] true).thread 0 0 0).live = true ∧
    ((parking {} { pair2 with lanes := [] } [] true).thread 0 0 0).live = false ∧ 0 < (parking {} pair2 [] true).dies := by decide

/-- Windows 1 and 5: a write of two bytes, and registers of the control window. -/
theorem witness_WindowWrites_control : windowWell 1 0x42 = true ∧ windowWell 5 0 = true ∧ windowWell 5 0x10C = true ∧
    windowWell 5 0xFFF8 = true ∧ windowWell 5 0xFFF0 = true ∧ (0xFFF8 : Nat) + 8 ≤ 0x10000 ∧ (0xFFF0 : Nat) + 16 ≤ 0x10000 ∧
    0x10C / 8 * 8 = 0x108 ∧ 0xFFF8 / 8 * 8 ∉ [0, 8, 0x10, 0x108, 0x110] := by decide +kernel

/-- The word that a write of the upper half of DBG_CTL leaves: the bits written, and the others as they were. -/
theorem witness_WindowWrites_merged : ∀ i < 64, (0x0000000300000000 : Dword).getLsbD i =
    if 0x10C % 8 ≤ i / 8 ∧ i / 8 < 0x10C % 8 + 4 then (3 : BitVec 128).getLsbD (i - 8 * (0x10C % 8))
    else (0 : Dword).getLsbD i := by decide

/-- Floating updates and a compare: their head is due, on the scratchpad and in memory, and they find their place. -/
theorem witness_QueueDrains_float :
    ([SqOp.rmw 11 false true, .rmw 14 false false, .cas].all fun op =>
      finds ((queued 0 [] (aUnit op false)).check 0 1 0x10000 4 { op.ask 0 with again := true }) storeOk) = true ∧
    ((queued 0 [] (aUnit .cas true)).core 0).spadPoisoned 0x40 8 = false := by decide +kernel

/-- The page of a store leads to a core that is quiesced, or to none. -/
theorem witness_QueueDrains_quiet : (mapped.quietAt 0x10000) = false ∧ quiet.quietAt (windowAt 2 0x40).toNat = true := by
  decide +kernel

/-- Word 0x10000 of a launch that is to leave at the flush of its first segment. -/
theorem witness_SegmentEvents_save : (let s : State := { segmentOver 73 with
      launches := [(0, { segmented 73 with flushes := 1, saveAt := some 0 })] }
    s.waveWg 0 0 = some (0, { groups := 1, places := [0], st := .ended }) ∧ (s.launch 0).saveAt = some 0 ∧
    s.waveStored 0 = true ∧ 0 + (s.launch 0).hdr.waveCount < (s.launch 0).hdr.total ∧ (s.launch 0).hdr.det = true ∧
    (s.launch 0).go = true ∧ (s.launch 0).stopped = false) := by decide

/-- A thread that waits at a mask and is to leave, with or without a handler for it. -/
def leavingWait (handler : Byte) : State :=
  { leavingAs handler with cores := [(0, { groups := [(0, { pair2 with
      arrived := [(3, 1)]
      lanes := [(0, { lane [] with preempt := true, waits := [⟨{ pc := fetchBase, word := 1 }, .waitm 3⟩] })] })] })] }

theorem witness_PlacementEvents_waits : (leavingWait 0).preemptible 0 0 0 = true ∧ (leavingWait 0x20).preemptible 0 0 0 = true ∧
    ((leavingWait 0).thread 0 0 0).waits = [⟨{ pc := fetchBase, word := 1 }, .waitm 3⟩] ∧
    ((leavingWait 0).launchOf 0 0).hdr.preempt = 0 ∧ ((leavingWait 0x20).launchOf 0 0).hdr.preempt ≠ 0 := by decide +kernel

/-- A workgroup that is saved by force, on a core with a carve-out. -/
def leavingCarved : State := { leavingAs 0 with cores := [(0, { (leavingAs 0).core 0 with carve := 2 })] }

theorem witness_PlacementEvents_carved : (leavingCarved.wg 0).preempt = some 10000 ∧ (leavingCarved.wg 0).st = .running ∧
    leavingCarved.cur.active = false ∧ (leavingCarved.launch 0).hdr.preempt = 0 ∧ (leavingCarved.core 0).carve ≠ 0 ∧
    leavingCarved.wgQuiet 0 = true ∧ (leavingCarved.launch 0).hdr.det = false := by decide +kernel

theorem witness_PlacementEvents_due : ∀ y ∈ (savedTogether 2).wgs, (savedTogether 2).waveDue y.1 = false := by decide +kernel

/-- The number of the entry that a checkpoint follows, and of the last that fits. -/
theorem witness_ManagementEvents_checkpoint : (4096 : Nat) % 4096 = 0 ∧ (4096 : Nat) ≠ 0 ∧ 245759 + 1 = 245760 ∧
    ({ (journaled [anEntry 9] [] false) with journal := { (journaled [anEntry 9] [] false).journal with next := 4096 } }
      : State).journal.next = 4096 := by decide

end Sys2Proof.Tests
end

section
/-! The words that stand for no operation, and the all-ones word (R41, R54, R61). -/

namespace Sys2Proof.Claims

open Sys2Proof.Machine Sys2Proof.Laws

/-- The two words of NOP, without and with the chain bit, decode to it. -/
theorem decode_word_nop (c : Bool) : decode (word 0 c []) = .ok (.nop c) :=
  RoundTrip.nop c rfl _ rfl

theorem pipesOf_eq_nil {w : Word} (hMajor : major w = 0) (hSub : fldNat w 18 7 = 0) : pipesOf w = [] := by
  simp only [pipesOf, hMajor, hSub, if_true]

theorem pipesOf_word_nop (c : Bool) : pipesOf (word 0 c []) = [] := by
  cases c with
  | false => exact pipesOf_eq_nil (by decide) (by decide)
  | true => exact pipesOf_eq_nil (by decide) (by decide)

/-- The kinds from 6 on are reserved, whatever the chain bit (R54). -/
theorem decode_reserved_prefix {w : Word} (hPrefix : isPrefix w = true) (hKind : 6 ≤ prefixKind w) :
    decode w = .error .illegalPrefix := by
  rw [decode_major_3F w (of_decide_eq_true hPrefix), decode3F]
  by_cases hChain : chainBit w = true
  · exact if_pos hChain
  · rw [if_neg hChain]
    unfold prefixKind at hKind
    split
    case h_7 => rfl
    all_goals omega

theorem exec_nop (c : Bool) (s : State) : exec (.nop c) s = .next (afterUnit c s) := endUnit_eq c s

/-- Settles O12: both NOP words decode to NOP and take no pipe, the all-ones word is of the reserved kind 15, and what NOP
leaves to the end of its unit is the state itself. -/
theorem nopWords : Obligations.NopWords := by
  have hOnes : isPrefix 0xFFFFFFFF = true := by decide
  exact ⟨decode_word_nop false, decode_word_nop true, decode_reserved_prefix hOnes (by decide), hOnes,
    pipesOf_word_nop false, pipesOf_word_nop true, fun s c => exec_nop c s⟩

end Sys2Proof.Claims
end

section
/-! The region members in a deterministic launch (R240). -/

namespace Sys2Proof.Claims

open Sys2Proof.Machine

/-- Whatever the lanes before it have decided, a lane of a deterministic launch decides the trap and the member's own
meaning is not reached (R240). -/
theorem unlessDet_decided {s : State} (hDet : s.curLaunch.hdr.det = true) (es : List (Nat × Effect)) (x : Nat)
    (f : State → State) : (s.decided es).unlessDet x f = s.decided (es ++ [(x, trapOf s 0x31 0)]) := by
  have hStill : (s.decided es).curLaunch.hdr.det = true := by rw [State.decided_curLaunch, hDet]
  calc (s.decided es).unlessDet x f
    _ = (s.decided es).raise x Cause.detViolation 0 := if_pos hStill
    _ = s.decided (es ++ [(x, trapOf s 0x31 0)]) := by simp [trapOf]

theorem each_unlessDet {s : State} (hDet : s.curLaunch.hdr.det = true) (f : Nat → State → State) :
    s.each (fun u x => u.unlessDet x (f x)) = allTrap s 0x31 0 := by
  rw [State.each_decides s _ (fun _ => [trapOf s 0x31 0]) fun es x => unlessDet_decided hDet es x (f x)]
  exact congrArg s.decided List.map_eq_flatMap.symm

/-- A unit whose lanes are all kept from their meaning in a deterministic launch ends with their traps alone. -/
theorem endUnit_each_unlessDet {s : State} (hDet : s.curLaunch.hdr.det = true) (c : Bool) (f : Nat → State → State) :
    endUnit c (s.each fun u x => u.unlessDet x (f x)) = .next (afterUnit c (allTrap s 0x31 0)) := by
  rw [each_unlessDet hDet, endUnit_eq]

/-- Settles O35: each of the four members is, lane by lane, a meaning that a deterministic launch may not execute. -/
theorem deterministicRegionTraps : Obligations.DeterministicRegionTraps := by
  intro s c hDet
  exact ⟨fun _ _ => endUnit_each_unlessDet hDet c _, fun _ => endUnit_each_unlessDet hDet c _,
    endUnit_each_unlessDet hDet c _, fun _ => endUnit_each_unlessDet hDet c _⟩

end Sys2Proof.Claims
end
